-- ==== Sys2Proof/Word.lean ====
section
/-! DEFINITION. The word types and the plain containers of the model: bytes, node numbers and finite maps kept as
key-sorted lists. Nothing here interprets a field; that is done in `Machine/Ops.lean`. -/

namespace Sys2Proof

/-- One byte. -/
abbrev Byte := BitVec 8

/-- A node number, 13 bits (01 R12). -/
abbrev Node := BitVec 13

/-- A finite map from numbers, as a list of pairs in rising key order. An absent key reads as a default that the reader names. -/
abbrev Map (α : Type) := List (Nat × α)

end Sys2Proof
end

