-- ==== Sys2Proof/Syntax.lean ====
section
/-! DEFINITION. The commands of the block: one constructor of `Instr` for each row of spec/opcode_table.json, and the
operand types they carry. Operands keep the widths the spec gives them; where an operand is a number whose range a
rule checks (a mailbox argument), it is a plain number, so that the out-of-range value exists and is refused by the rule. -/

namespace Sys2Proof

/-- A fabric packet as a receiver sees it: the header fields of 04 R83, the framed length in granules, the side granule
and the data as bytes. `wire` is the sealed body of a confidential packet, its encrypted part followed by the 16 B tag, as it travels (04 R108); where it is
none the body is in the clear, and `auth` says whether the tag verified under the key in KEY_SLOT (04 R112). `rsv` holds the header's reserved bits, in
place, which a sender sends as 0 and a receiver ignores (04 R84). -/
structure Packet where
  dst : Node
  src : Node
  vc : BitVec 3
  opcode : BitVec 8
  tenant : BitVec 10
  release : Bool
  acquire : Bool
  volat : Bool
  scope : BitVec 2
  conf : Bool
  sideBit : Bool
  mcast : Bool
  keySlot : BitVec 2
  seq : BitVec 16
  tag : BitVec 16
  offset : BitVec 40
  status : BitVec 8
  mlen : BitVec 12
  oparg : BitVec 32
  ctr : BitVec 48
  granules : Nat
  side : List Byte
  data : List Byte
  auth : Bool
  wire : Option (List Byte) := none
  rsv : Nat := 0
  deriving DecidableEq, Repr

/-- A 256 B flit (03 R55): FLIT_HDR, the 15 granules of PAYLOAD, LCTL and CRC. -/
structure Flit where
  hdr : BitVec 16
  pay : List (BitVec 128)
  lctl : BitVec 48
  crc : BitVec 64
  deriving DecidableEq, Repr

/-- The head of a mailbox command as the command buffer carries it (13 R380): the mailbox it arrives on, SEQUENCE,
NOTIFY and the command-specific flags [15:8]. -/
structure MHdr where
  mbx : Nat
  seq : BitVec 32
  notify : Bool
  flags : BitVec 8
  deriving DecidableEq, Repr

/-- One context of one cluster (09 R249): 16 clusters of 4 contexts. -/
structure CtxId where
  cluster : Nat
  ctx : Nat
  deriving DecidableEq, Repr

/-- Format SR of 09 R261. `rsv` says that some reserved bit of the word is 1. -/
structure SR where
  d : BitVec 5
  a : BitVec 5
  b : BitVec 5
  rsv : Bool
  deriving DecidableEq, Repr

/-- Format SI of 09 R261: no reserved bit. -/
structure SI where
  d : BitVec 5
  a : BitVec 5
  imm : BitVec 46
  deriving DecidableEq, Repr

/-- Format VR of 09 R261. -/
structure VR where
  vd : BitVec 4
  va : BitVec 4
  vb : BitVec 4
  vc : BitVec 4
  fmt : BitVec 4
  rnd : Bool
  ovf : Bool
  rsv : Bool
  deriving DecidableEq, Repr

/-- Format ST of 09 R261. -/
structure ST where
  addr : BitVec 5
  ext : BitVec 5
  len : BitVec 5
  tag : BitVec 5
  rsv : Bool
  deriving DecidableEq, Repr

/-- Format MX of 09 R261. -/
structure MX where
  ta : BitVec 5
  tb : BitVec 5
  tc : BitVec 5
  dtype : BitVec 4
  acc : Bool
  tbT : Bool
  rsv : Bool
  deriving DecidableEq, Repr

/-- The outcome of the SECDED and device-correction check on the words a command reads (15 R425); `mirror` says that these are good, but that a word of the mirror
that the access walks at the home is uncorrectable. -/
inductive Ecc where
  | clean
  | corrected
  | uncorrectable
  | mirror
  deriving DecidableEq, Repr

/-- An instruction as a context of a cluster issues it (09 R249, R263): whether its word meets a parity error of the instruction memory, or one that is corrected
(`fixed`, 15 R425), and how the check of
the scratch words that it reads ends; LD and VLD carry that of their own words. -/
structure Issue where
  cluster : Nat
  ctx : Nat
  parity : Bool := false
  ecc : Ecc := .clean
  fixed : Bool := false
  deriving DecidableEq, Repr

/-- The context that issues. -/
def Issue.id (x : Issue) : CtxId := { cluster := x.cluster, ctx := x.ctx }

/-- A ring partial, and how the check of the accumulator state that it meets ends (08 R244, 07 R208). -/
structure RingIn where
  pkt : Packet
  ecc : Ecc
  deriving DecidableEq, Repr

/-- An image of a length, and how the check of the HBM words that hold it here ends (09 R253). -/
structure ImageRef where
  len : Nat
  ecc : Ecc
  deriving DecidableEq, Repr

/-- A 64 B descriptor (11 R340) but for its OPCODE byte, which the command names; `rsv` says that a reserved byte or bit is not 0, `badOp` (NOP only) that the
OPCODE byte is none of R341's. -/
structure Desc where
  fence : Bool
  rel : Bool
  vol : Bool
  cqIrq : Bool
  scope : BitVec 2
  len : BitVec 32
  src : BitVec 64
  dst : BitVec 64
  user : BitVec 64
  arg : BitVec 32
  pattern : BitVec 64
  rsv : Bool
  badOp : Bool := false
  deriving DecidableEq, Repr

/-- One member record of GROUP_INSTALL (13 R477). -/
structure MemberRec where
  member : Nat
  resultLen : Nat
  resultBase : Nat
  deriving DecidableEq, Repr

/-- One part of a group entry (13 R477). -/
structure GroupPart where
  group : Nat
  gen : Nat
  last : Bool
  tenant : Nat
  n : Nat
  first : Nat
  recs : List MemberRec
  deriving DecidableEq, Repr

/-- The arguments of OP_START (13 R477): `timeout` in ns, 0 for off; `args` the 64 B argument block of 09 R275. -/
structure OpStartArgs where
  opid : BitVec 32
  group : Nat
  digest : BitVec 32
  progId : Nat
  imageDigest : BitVec 256
  timeout : Nat
  args : List Byte
  deriving DecidableEq, Repr

/-- The program fields of 08 R214 with the encodings of the parameter block (09 R259). -/
structure ProgParams where
  kind : Nat
  phase : Nat
  group : Nat
  p : Nat
  pvoff : Nat
  chunkLog2 : Nat
  w : Nat
  len : Nat
  root : Nat
  fin : Nat
  fout : Nat
  op : Nat
  ordered : Bool
  sr : Bool
  sat : Bool
  rotIn : Bool
  rotOut : Bool
  orderRule : Nat
  optimizer : Nat
  k : Nat
  start : Nat
  weighted : Bool
  seed : BitVec 64
  planes : List Nat
  ring : List Nat
  ntotal : Nat
  gscale : BitVec 32
  stateFva : Nat
  tagFva : Nat
  stageFva : Nat
  stallMs : Nat
  auxFva : Nat
  rankTiles : Nat
  deriving DecidableEq, Repr

/-- The arguments of MEMBER_ARM (10 R301): the whole entry, the member's position, the program's fields and the OPID. -/
structure MemberArmArgs where
  group : Nat
  gen : Nat
  tenant : Nat
  members : List MemberRec
  digest : BitVec 32
  position : Nat
  prog : ProgParams
  opid : BitVec 32
  timeout : Nat
  deriving DecidableEq, Repr

/-- A window descriptor (10 R310). -/
structure WinDesc where
  en : Bool
  size : Nat
  target : Nat
  tbase : Nat
  tenant : Nat
  uncached : Bool
  syncBase : Nat
  syncLen : Nat
  syncScope : Nat
  failVec : Nat
  deriving DecidableEq, Repr

/-- One update of XLAT_UPDATE (11 R324, 13 R477): a tenant, an address and the 8 B entry of R320. -/
structure XUpd where
  tenant : Nat
  addr : Nat
  entry : BitVec 64
  deriving DecidableEq, Repr

/-- The fields of QP_CREATE (11 R338). -/
structure QpArgs where
  qpn : Nat
  tenant : Nat
  sqFva : Nat
  sqLog : Nat
  cqFva : Nat
  cqLog : Nat
  lineMode : Bool
  dbFva : Nat
  mover : Nat
  vec : Nat
  deriving DecidableEq, Repr

/-- A packet-buffer error met in a core cycle (15 R425): its region and byte address for the record, and the virtual output
queue (ingress line, output, channel) whose head packet it hits; `corrected` says that it is corrected, which changes nothing but the count. -/
structure SramHit where
  region : Nat
  addr : Nat
  line : Nat
  out : Nat
  vc : Nat
  corrected : Bool := false
  deriving DecidableEq, Repr

/-- The temperature readings of 16 R453, in degrees Celsius. -/
structure Temps where
  junction : Int
  hbm : List Int
  inlet : Int
  deriving DecidableEq, Repr

/-- What this end's receiver finds while a training frame arrives (02 R41, R42): EFOM as measured now, whether it would have its direction precoded, and
the next trial of its search: a tap request (the codes of 02 R44), or where that is hold the setting to move by one step, and which way. -/
structure RxView where
  efom : Nat
  precode : Bool
  pre : Nat
  post : Nat
  setting : Nat
  up : Bool
  deriving DecidableEq, Repr

/-- One lane's result of the 10 ms of qualification (02 R45 step 7): its logical number, 16 for the port's standby spare; bit errors before FEC among
the bits received, EFOM, and whether some codeword was uncorrectable. -/
structure QualRes where
  lane : Nat
  errors : Nat
  bits : Nat
  efom : Nat
  lost : Bool
  deriving DecidableEq, Repr

/-- A codeword as a lane's receiver slices it (02 R31, R33): the lane, the level index before it, and its 2,720 level indices. -/
structure RxWord where
  lane : Nat
  before : BitVec 2
  levels : List (BitVec 2)
  deriving DecidableEq, Repr

/-- What LANE_TEST_READ asks for: whether to clear the counts; and the levels that the lane's receiver has sliced until it (02 R49). -/
structure TestRead where
  clear : Bool
  line : List (BitVec 2)
  deriving DecidableEq, Repr

/-- Where a lane's receiver finds a block, in bits of its line, and the block's header bit (02 R32, R35). -/
structure BlockHead where
  pos : Nat
  bit : Bool
  deriving DecidableEq, Repr

/-- Bit errors before FEC among the bits of a measurement (02 R43). -/
structure BitErrors where
  errors : Nat
  bits : Nat
  deriving DecidableEq, Repr

/-- A flit that is lost on a port: the codeword it overlaps, where that and not the flit's own CRC has failed (02 R37, 03 R64). -/
structure LostFlit where
  port : Nat
  word : Option RxWord
  deriving DecidableEq, Repr

/-- The commands of the block, one constructor for each row of spec/opcode_table.json, in the table's order. -/
inductive Instr where
  -- mailbox commands (13 R388)
  | deviceInfo (h : MHdr)
  | timeExchange (h : MHdr)
  | cmdResultRead (h : MHdr) (sequence : BitVec 32)
  | agentTenantsSet (h : MHdr) (mailbox : Nat) (bitmap : BitVec 1024)
  | fmHeartbeat (h : MHdr)
  | portEnable (h : MHdr) (port width : Nat) (bridge : Bool)
  | portDisable (h : MHdr) (port : Nat)
  | portStatusRead (h : MHdr) (port : Nat)
  | laneTestStart (h : MHdr) (lane pattern : Nat) (afterPrecoder : Bool)
  | laneTestRead (h : MHdr) (lane : Nat) (read : TestRead)
  | laneLoopbackSet (h : MHdr) (lane mode : Nat) (trained : Bool)
  | sprayMaskSet (h : MHdr) (endpoint : Nat) (bits : BitVec 32)
  | nodeAssign (h : MHdr) (pair domain plane : Nat)
  | reqTimeoutSet (h : MHdr) (timeout : Nat)
  | hbmExportSet (h : MHdr) (on : Bool)
  | hotLineRead (h : MHdr)
  | arbModeSet (h : MHdr) (inst mode : Nat)
  | arbCountersRead (h : MHdr) (inst : Nat) (clear : Bool)
  | redProfileSet (h : MHdr) (output colour minTh maxTh maxP w : Nat)
  | groupInstall (h : MHdr) (part : GroupPart)
  | groupRemove (h : MHdr) (group : Nat)
  | groupMemberRemove (h : MHdr) (group position gen : Nat)
  | opStart (h : MHdr) (a : OpStartArgs)
  | opStatusRead (h : MHdr) (group : Nat)
  | redSummaryRead (h : MHdr)
  | memberArm (h : MHdr) (a : MemberArmArgs)
  | partitionSet (h : MHdr) (partition mask tenant : Nat)
  | programLoad (h : MHdr) (partition slot addr : Nat) (len : ImageRef)
  | programUnload (h : MHdr) (progId : Nat)
  | ballastSet (h : MHdr) (floor down up : Nat)
  | ballastRead (h : MHdr)
  | windowSet (h : MHdr) (w : Nat) (d : WinDesc)
  | windowDisable (h : MHdr) (w : Nat)
  | windowRead (h : MHdr) (w : Nat)
  | xlatRegionSet (h : MHdr) (base size : Nat)
  | xlatInfoRead (h : MHdr)
  | xlatUpdate (h : MHdr) (kind : Nat) (ups : List XUpd)
  | xlatInvalidate (h : MHdr) (kind tenant addr len : Nat)
  | faultRingSet (h : MHdr) (base vec timeout : Nat)
  | faultResolve (h : MHdr) (id : BitVec 32) (deny : Bool)
  | qpCreate (h : MHdr) (a : QpArgs)
  | qpReset (h : MHdr) (qpn : Nat)
  | qpDestroy (h : MHdr) (qpn : Nat)
  | ringRouteSet (h : MHdr) (mask : BitVec 8) (routes : List Nat)
  | markerSet (h : MHdr) (port : Nat) (off : Bool) (cir cbs ebs : Nat)
  | policerSet (h : MHdr) (port queue pr pb : Nat)
  | gateListSet (h : MHdr) (port : Nat) (entries : List (BitVec 32)) (base : Nat)
  | shaperSet (h : MHdr) (port queue rq burst tokens : Nat)
  | queueSampleSet (h : MHdr) (period : Nat)
  | queueSamplesRead (h : MHdr) (port queue : Nat) (clear : Bool)
  | tenantCreate (h : MHdr) (tenant : Nat) (conf : Bool)
  | tenantRevoke (h : MHdr) (tenant fence : Nat)
  | keyAgree (h : MHdr) (tenant peer slot : Nat) (ekDigest : BitVec 256)
  | ideSessionOpen (h : MHdr) (hostEk ct : List Byte)
  | attestService (h : MHdr) (nonce : BitVec 256) (tenant offset : Nat)
  | attestFoundation (h : MHdr) (nonce : BitVec 256) (offset : Nat)
  | regionDigest (h : MHdr) (tenant fva len : Nat)
  | certChainRead (h : MHdr) (offset : Nat)
  | errLogRead (h : MHdr) (count : Nat) (clear unitMode : Bool) (unit : Nat)
  | unitReset (h : MHdr) (kind index : Nat)
  | hbmPageRetire (h : MHdr) (addr : Nat) (bad : List Nat)
  | fwStage (h : MHdr) (offset : Nat) (fragment : List Byte) (last : Bool)
  | fwActivate (h : MHdr)
  | pwrCapSet (h : MHdr) (cap slew : Nat)
  | pwrRead (h : MHdr)
  | thermalRead (h : MHdr)
  -- the CXL memory-device mailbox (13 R377)
  | getEventRecords (severity : Nat)
  | clearEventRecords (severity : Nat) (handles : List Nat)
  | getEventInterruptPolicy
  | setEventInterruptPolicy (settings : List Nat)
  | getSupportedLogs
  | getLog (offset len : Nat)
  | identifyMemoryDevice
  | getHealthInfo
  -- the CXL host link (13 R370 to R374)
  | hdmDecoderCommit (dec base size ways : Nat) (lock : Bool)
  | memRd (dpa : Nat)
  | memRdData (dpa : Nat)
  | memWr (dpa : Nat) (data : List Byte)
  | memWrPtl (dpa : Nat) (data : List Byte) (be : BitVec 64)
  | memSpecRd (dpa : Nat)
  | memInv (dpa : Nat)
  | memInvNt (dpa : Nat)
  | cxlHotReset
  | perstAssert
  | ideFail (stream : Nat)
  | ideKmMessage (stream : Nat) (session : Nat) (start : Bool)
  -- register accesses (17)
  | go (mailbox : Nat)
  | mbxEvtHead (mailbox : Nat) (v : BitVec 32)
  | dbFaultHead (v : BitVec 32)
  | dbSqTail (qpn : Nat) (v : BitVec 32)
  | dbCqHead (qpn : Nat) (v : BitVec 32)
  | timeNowLowRead (requester : Nat)
  | registerWrite (bar offset width : Nat) (value : BitVec 64)
  -- lanes and training (02)
  | signalDetect (port lane : Nat)
  | trainingFrame (port lane : Nat) (frame : BitVec 5440) (rx : RxView)
  | trainingBoundExpiry (port : Nat)
  | qualificationEnd (port : Nat) (res : List QualRes)
  | alignmentMarker (lane : Nat) (block : BlockHead) (payload : BitVec 256)
  | markerLockLoss (lane : Nat)
  | backgroundAdaptation (lane : Nat) (heights widths : List Nat) (ber : BitErrors) (setting : Nat) (up : Bool)
  | spareSubstitution (port : Nat)
  | los (port lane : Nat)
  | flushComplete (port : Nat)
  -- flits (03)
  | dataFlit (port : Nat) (f : Flit)
  | crcFailedFlit (flit : LostFlit)
  | idleControlFlit (port : Nat) (f : Flit)
  | init (port : Nat) (f : Flit)
  | initAck (port : Nat) (f : Flit)
  | loopPing (port : Nat) (f : Flit)
  | loopEcho (port : Nat) (f : Flit)
  | widthChange (port : Nat) (f : Flit)
  | narrowComplete (port : Nat) (res : List QualRes)
  | down (port : Nat) (f : Flit)
  | portUp (port : Nat)
  | linkRetryTimer (port : Nat)
  | retryBufferTimer (port : Nat)
  | xoffWatchdog (port channel : Nat)
  -- the switch core (06)
  | packetAdmission (port vc : Nat)
  | coreCycle (hit : Option SramHit)
  | egressDecision (port : Nat)
  | residueService (line port : Nat)
  | deliveryNotice (group chunk pidx : Nat)
  -- packets at the home and at the requester (04, 05)
  | rdLine (port : Nat) (p : Packet) (ecc : Ecc)
  | wrLine (port : Nat) (p : Packet)
  | wrMasked (port : Nat) (p : Packet) (ecc : Ecc)
  | atomic (port : Nat) (p : Packet) (ecc : Ecc)
  | rdData (port : Nat) (p : Packet)
  | atomicData (port : Nat) (p : Packet)
  | cmpl (port : Nat) (p : Packet)
  | releaseLand (src : Nat) (seq : BitVec 16) (ecc : Ecc)
  | holeWriteOff (src : Nat)
  | windowStateDrop (src : Nat)
  | requestTimeout (tag : BitVec 16)
  | hotLineWindow
  -- collectives (08)
  | redPut (port : Nat) (p : Packet) (ecc : Ecc)
  | redResInjection (group chunk : Nat) (ecc : Ecc)
  | redCredit (port : Nat) (p : Packet)
  | redRes (port : Nat) (p : Packet)
  | opDone (port : Nat) (p : Packet)
  | opAbort (port : Nat) (p : Packet)
  | ringPart (port : Nat) (p : RingIn)
  | ringRes (port : Nat) (p : Packet)
  | chunkStall (group chunk : Nat)
  | operationTimeout (group : Nat)
  | memberOperationTimeout (group : Nat)
  | abortSettleEnd (group : Nat) (member : Bool)
  -- messages, masks and keys (12, 04, 14)
  | msgSend (port : Nat) (p : Packet) (ecc : Ecc)
  | msgAck (port : Nat) (p : Packet)
  | trunkMessageArrival (port : Nat) (p : Packet)
  | msgRto (peer : Nat) (seq : BitVec 16)
  | msgLifetime (peer : Nat) (seq : BitVec 16)
  | maskSet (port : Nat) (p : Packet)
  | maskAck (port : Nat) (p : Packet)
  | maskTimeout (endpoint : Nat)
  | keyMsg (port : Nat) (p : Packet)
  | keyNotArmed (tenant peer slot : Nat)
  | keyTimeout (tenant peer slot : Nat)
  -- translation faults and work queues (11)
  | translationFault (cluster : Bool) (index : Nat) (context : Nat) (tenant fva access : Nat)
  | faultTimeout (cluster : Bool) (index : Nat) (context : Nat) (tenant fva : Nat)
  | xlatInvalidateComplete (kind tenant addr len : Nat)
  | nop (qpn : Nat) (d : Desc)
  | copy (qpn : Nat) (d : Desc)
  | fill (qpn : Nat) (d : Desc)
  | atomicDescriptor (qpn : Nat) (d : Desc)
  | compute (qpn : Nat) (d : Desc)
  | completionRecord (qpn : Nat) (index : BitVec 32)
  | qpStopComplete (qpn : Nat)
  -- cluster instructions (09 R263)
  | add (x : Issue) (f : SR)
  | sub (x : Issue) (f : SR)
  | mul (x : Issue) (f : SR)
  | and (x : Issue) (f : SR)
  | or (x : Issue) (f : SR)
  | xor (x : Issue) (f : SR)
  | shl (x : Issue) (f : SR)
  | shr (x : Issue) (f : SR)
  | sra (x : Issue) (f : SR)
  | addi (x : Issue) (f : SI)
  | ld (x : Issue) (f : SI) (ecc : Ecc)
  | st (x : Issue) (f : SI)
  | beq (x : Issue) (f : SI)
  | bne (x : Issue) (f : SI)
  | blt (x : Issue) (f : SI)
  | loop (x : Issue) (f : SI)
  | halt (x : Issue) (f : SI)
  | fault (x : Issue) (f : SI)
  | vld (x : Issue) (f : SI) (ecc : Ecc)
  | vst (x : Issue) (f : SI)
  | vadd (x : Issue) (f : VR)
  | vsub (x : Issue) (f : VR)
  | vmul (x : Issue) (f : VR)
  | vmax (x : Issue) (f : VR)
  | vmin (x : Issue) (f : VR)
  | vfma (x : Issue) (f : VR)
  | vdiv (x : Issue) (f : VR)
  | vsqrt (x : Issue) (f : VR)
  | vsgn (x : Issue) (f : VR)
  | vsel (x : Issue) (f : VR)
  | vcvt (x : Issue) (f : VR)
  | vblk (x : Issue) (f : VR)
  | xclr (x : Issue) (f : SI)
  | xadd (x : Issue) (f : VR)
  | xrnd (x : Issue) (f : VR)
  | xhad (x : Issue) (f : SI)
  | mmul (x : Issue) (f : MX)
  | mscl (x : Issue) (f : MX)
  | hrot (x : Issue) (f : MX)
  | hld (x : Issue) (f : ST) (ecc : Ecc)
  | hst (x : Issue) (f : ST)
  | waitt (x : Issue) (f : ST)
  | waitc (x : Issue) (f : SR)
  | emit (x : Issue) (f : ST)
  | idle (x : Issue) (f : SI)
  | fence (x : Issue) (f : SR)
  | streamComplete (x : CtxId) (tag : Nat)
  | clusterReload (cluster : Nat)
  -- ends of transitions and timed events
  | unitResetEnd (kind index : Nat) (ok : Bool)
  | exportTransitionEnd
  | windowDisableComplete (w : Nat)
  | regionDigestComplete (tenant : Nat)
  | ideSessionComplete
  | fwVerifyEnd (sigOk : Bool) (svn floor : Nat)
  | handoverEnd (failedStep : Nat)
  | drainFenceEnd (tenant : Nat)
  | revocationComplete (tenant : Nat)
  | gateEntryChange (port : Nat)
  | gateListTakeover (port : Nat)
  | queueSampleWindow (port queue : Nat)
  | controlInterval (pin : Nat)
  | heartbeatMiss
  | fwWatchdog (pc : BitVec 32)
  | inputApplied (mv : Nat)
  | inputLoss (mv : Nat)
  | powerGood
  | ready (idMatch : Bool)
  | eoffAssert
  | eoffRelease
  | brakeAssert
  | brakeRelease
  | modResetAssert
  | modResetRelease
  | prsntEarlyDeassert
  | prsntEarlyReassert
  | thermalThrottle (t : Temps)
  | thermalLimitTick (t : Temps)
  | thermalTrip (t : Temps)
  | tripRestart
  | causewayOpen
  | perstRelease
  | cxlLinkUp
  | powerGoodWithdrawn
  | coarseningSnapshot
  | idleMarkEnd (x : CtxId)
  | timeNowHighRead (requester : Nat)
  deriving DecidableEq, Repr

end Sys2Proof
end

