-- ==== Sys2Proof/Decode.lean ====
section
/-! DEFINITION. The table of the block's commands gives no row any bits: the part is commanded through registers, pins, flits and packets,
not through instruction words. So no word spells a command. (What an 8 B cluster instruction word or a command buffer spells is read
where the spec reads it: 09 R261 in `Machine/InstrWords.lean`, 13 R380 in `Machine/MailboxGo.lean`.) -/

namespace Sys2Proof

/-- The command that a word of `nbits` bits spells by spec/opcode_table.json: none, since no row of the table has bits. -/
def decodeTableWord (_nbits _w : Nat) : Option Instr := none

end Sys2Proof
end

