-- ==== Sys2Proof/Config.lean ====
section
/-! DEFINITION. What the spec leaves open or an implementation fixes, as constants with no body: no proof can see a value of
them. Values drawn from a counter (`freeNat`, `freeByte`) are applied to `State.free`, which the drawing step advances
(log entry 5). ML-KEM-768, the signature and the certificates are functions of the standards 14 R389 names (log entry 7). -/

namespace Sys2Proof

/-- The n-th open number (log entry 5). -/
opaque Config.freeNat : Nat → Nat

/-- The n-th open byte (log entry 5). -/
opaque Config.freeByte : Nat → Byte

/-- The ML-KEM-768 encapsulation key (1,184 B) of the key pair named by a number (14 R389). -/
opaque Config.kemPublic : Nat → List Byte

/-- ML-KEM-768 encapsulation to a public key with the n-th randomness: ciphertext (1,088 B) and shared secret (14 R399). -/
opaque Config.encapsulate : List Byte → Nat → List Byte × List Byte

/-- ML-KEM-768 decapsulation of a ciphertext under the key pair named by a number (14 R399). -/
opaque Config.decapsulate : Nat → List Byte → List Byte

/-- The n-th random slot key, 32 B (14 R389). -/
opaque Config.slotKey : Nat → List Byte

/-- TENANT, SLOT and XID of the derivation of an IDE session key, and the byte before H in its confirm tag: 14 R402 derives as in R399 and gives neither
(log entry 16). -/
opaque Config.ideSalt : List Byte
opaque Config.ideLabel : Byte

/-- The 17,088 B SLH-DSA-SHA2-128f signature of a report body under the alias key named by a number (14 R406). -/
opaque Config.signature : Nat → List Byte → List Byte

/-- The DER encodings of Medupor's intermediate certificate, of the device identity certificate, and of an alias certificate that records some fields
(14 R394). -/
opaque Config.certIntermediate : List Byte
opaque Config.certIdentity : List Byte
opaque Config.certAlias : List Byte → List Byte

/-- The registers of BAR0 0x00_0000 to 0x01_FFFF lie as the CXL 2.0 specification has them, which the source does not give (13 R375, R377, 17 R464; log entry 16): what
a 32-bit read at an offset returns over the word last written there; where the memory-device mailbox has its command, its doorbell and its payload, and
the doorbell-interrupt enable, a bit of the control register; and what the payload bytes of a command say, its argument k. -/
opaque Config.cxlRead : Nat → Nat → Nat
opaque Config.deviceCommandAt : Nat
opaque Config.deviceDoorbellAt : Nat
opaque Config.devicePayloadAt : Nat
opaque Config.deviceIrqAt : Nat
opaque Config.deviceArg : List Byte → Nat → Nat

/-- The firmware version of the image with a digest (13 R388). -/
opaque Config.fwVersion : List Byte → Nat

/-- The identity public key, 32 B, and the public key of the alias key named by a number (14 R407). -/
opaque Config.identityPk : List Byte
opaque Config.aliasPk : Nat → List Byte

/-- The first 16 B of the SHA-256 of the boot ROM (14 R407). -/
opaque Config.romDigest : List Byte

/-- The part number and firmware version strings DEVICE_INFO returns (13 R388): by what is asked. -/
opaque Config.ident : Nat → List Byte

/-- Payload bytes of the commands whose content the CXL 2.0 specification gives (13 R377): opcode and byte. -/
opaque Config.cxlPayload : Nat → Nat → Byte

/-- The HBM channel, 0 to 63 after reduction, of an HBM byte address: the spec gives no interleave (log entry 9). -/
opaque Config.channelOf : Nat → Nat

/-- The set of the remote-line cache, 0 to 4,095 after reduction, that a fabric line falls into: the spec gives no index (log entry 9). -/
opaque Config.cacheSet : Nat → Nat

/-- Where, in lines from the start of the firmware's HBM, the first early contribution that is written to HBM lies: 07 R204 gives no place (log entry 58). -/
opaque Config.spillBase : Nat

/-- Which of the bytes [31:17] of a completion record, counted from [17], holds the FCAUSE of a class 1 job (09 R282, 11 R343; log entry 49). -/
opaque Config.fcausePlace : Nat

/-- The columns of the low-rank result of a program, which its compiled text fixes (09 R269; log entry 10). -/
opaque Config.rankCols : ProgParams → Nat

/-- The first payload index that an EMIT packet descriptor names: the spec gives the descriptor no layout (09 R263; log entry 10). -/
opaque Config.emitPidx : Nat → Nat

/-- The side byte of a payload that an EMIT packet descriptor gives: descriptor, payload, byte (log entry 10). -/
opaque Config.emitSide : Nat → Nat → Nat → Byte

/-- The byte by which a FAILED result names a cause that the spec gives no number: 0 an exchange's KEY_TIMEOUT; of a region digest 1 bytes that
cannot be read, 2 a fault timeout, 3 a denied fault; 4 and 5 step 2 or 3 of FW_ACTIVATE; 6 an image that cannot be read, 7 a loopback that cannot be entered, 8 a
lane taken for another loopback, 9 a port that did not come up or a channel that did not retrain, 10 a removal that no longer applies, 11 a queue pair that a
revocation has freed (13 R387, 14 R400, R409; log entry 13). -/
opaque Config.causeByte : Nat → Byte

/-- Bytes [11], [12] and [23:20] (here 0, 1 and 2 to 5) of a fault record whose first waiter is a region digest: 11 R329 codes movers and clusters
alone (log entry 61). -/
opaque Config.digestEngine : Nat → Byte

/-- Bit k, 0 to 255, of the payload of an idle block before scrambling: 02 R48 names the blocks and gives them no content (log entry 34). -/
opaque Config.idleBit : Nat → Bool

/-- The next bit of the short stress pattern random quaternary, SSPRQ, after the bits before it, the latest first: 02 R49 leaves the pattern to IEEE 802.3
(log entry 33). -/
opaque Config.ssprqNext : List Bool → Bool

end Sys2Proof
end

