-- ==== Sys2Proof/Machine/State.lean ====
section
/-! DEFINITION. The state of the block, every piece of it plain data, and `State.reset`. Each field's docstring gives
its width, the file and rule of spec/ that names it, and where its reset value comes from: "reset n" where the spec
gives the value, "reset [1]" where the value is the choice of assumption-log entry 1. Every default written at a field IS
its reset value: `State.reset` is the structure of the defaults. -/

namespace Sys2Proof.Machine

open Sys2Proof

/-- Why the machine stops. -/
inductive Fault where
  /-- Raised by a meaning whose command names a unit (port, lane, line, cluster, context, mover, window, stream, mailbox) that
  the part does not have (15 R417). Safe: no such event exists, and the machine stops where the hardware has none. -/
  | noSuchUnit
  deriving DecidableEq, Repr

/-- Why a command has no outcome in this model. -/
inductive Refusal where
  /-- Answered only by an arm of `exec` whose command has no meaning yet. Safe. -/
  | notModelled (mnemonic : String)
  deriving DecidableEq, Repr

/-! ### Serial lanes (02) -/

/-- The test generator and checker of a lane (02 R49). -/
structure LaneTest where
  /-- 1 bit. 02 R49. Generator and checker running; reset [1]. -/
  on : Bool := false
  /-- choice. 02 R49. Pattern code 0 to 6; reset [1]. -/
  pattern : Nat := 0
  /-- 1 bit. 02 R49. Sent after the precoder; reset [1]. -/
  afterPrecoder : Bool := false
  /-- 48 bits, saturating. 02 R49. Bit errors; reset [1]. -/
  errors : Nat := 0
  /-- 48 bits, saturating. 02 R49. Compared bits; reset [1]. -/
  compared : Nat := 0
  /-- 32 bits. 02 R49. The bits the generator sent last, the latest first; all 1 when the test starts (DESIGN CHOICE, log entry 33). -/
  gen : List Bool := []
  /-- at most 32 bits. 02 R49. The checker's pattern register, the latest bit first: the bits received until it is synchronized, its own pattern from then
  on; reset [1]. -/
  seen : List Bool := []
  /-- count. 02 R49. Bits in a row that the checker has foreseen while it synchronizes itself; reset [1]. -/
  run : Nat := 0
  /-- 1 bit. 02 R49. The checker is synchronized to the pattern; reset [1]. -/
  synced : Bool := false
  /-- level index. 02 R31. The level received last, the state of the receiver's precoder decoding; reset [1]. -/
  rxPre : BitVec 2 := 0
  deriving DecidableEq, Repr

/-- What a lane has put on its line, or in a near-end loopback on its own receiver input (02). -/
inductive LineItem where
  /-- A training frame of 5,440 bits, and whether its levels are precoded (R44, R45 step 4). -/
  | frame (bits : BitVec 5440) (precoded : Bool)
  /-- A block that a far-end loopback sends again as it was received: its header bit and its payload (R35, R50). -/
  | block (bit : Bool) (payload : BitVec 256)
  /-- One codeword of data mode: 2,720 level indices, the first sent first (R30 to R33). -/
  | codeword (levels : List (BitVec 2))
  /-- Levels of a test pattern (R49). -/
  | pattern (levels : List (BitVec 2))
  /-- The output falls to electrical idle (R50). -/
  | idle
  deriving DecidableEq, Repr

/-- The transmit coding of one lane in data mode (02 R31 to R34). -/
structure LaneTx where
  /-- fewer than 256 bits. 02 R32. Payload bits of the data block in progress, the first first; reset [1]. -/
  pay : List Bool := []
  /-- fewer than 5,140 bits. 02 R33. Bits of the blocks of the codeword in progress; reset [1]. -/
  cw : List Bool := []
  /-- 13 bits. 02 R27. Codewords since the one that began with the latest marker, mod 8,192; reset [1]. -/
  words : Nat := 0
  /-- 2 bits. 02 R31. Precoder state p[n-1]; reset 0 (when data mode starts). -/
  pre : BitVec 2 := 0
  /-- 31 bits. 02 R32. Transmit scrambler state; reset 1 (never 0), loaded with a free value when data mode starts. -/
  scr : BitVec 31 := 1
  /-- 16 bits. 02 R34. COUNT of the next marker; reset [1]. -/
  count : BitVec 16 := 0
  deriving DecidableEq, Repr

/-- One physical lane (02), named by its LANE index 140 x tile + physical lane (15 R417). -/
structure Lane where
  /-- choice. 02 R35, R54. Signal detected on the lane; reset [1]. -/
  signal : Bool := false
  /-- 0-16. 02 R38. Pre-cursor magnitude a in 1/64; reset [1]. -/
  tapA : Nat := 0
  /-- 0-24. 02 R38. Post-cursor magnitude b in 1/64; reset [1]. -/
  tapB : Nat := 0
  /-- 4 bits. 02 R44. The LANE number this end sends on the lane; reset [1]. -/
  sendAs : Nat := 0
  /-- 1 bit. 02 R36, R45. Left out of the port for the attempt in progress, not locked or skewed; reset [1]. -/
  leftOut : Bool := false
  /-- 15 bits. 02 R44. FCOUNT of the next training frame; reset [1]. -/
  fcountOut : BitVec 15 := 0
  /-- 13 bits. 02 R44. The PRBS13 register that fills the training frames and runs on from frame to frame, the latest bit in bit 0; reset 1, a register that
  runs is never 0 (DESIGN CHOICE, log entry 33). -/
  fill : BitVec 13 := 1
  /-- 1 bit. 02 R46. RESTART is due in the next training frame; reset [1]. -/
  restartDue : Bool := false
  /-- 1 bit. 02 R44. This lane has heard a valid frame in the current step; reset [1]. -/
  heard : Bool := false
  /-- 8 bits. 02 R44. PHYS as the partner announced it; reset none. -/
  farPhys : Option Nat := none
  /-- 13 bits. 02 R44, R47. NODE as the partner announced it on this lane in the attempt in progress; reset none. -/
  farNode : Option Node := none
  /-- 1 bit. 02 R44. STANDBY as the partner announced it; reset [1]. -/
  farStandby : Bool := false
  /-- 1 bit. 02 R44, R50. FAR_LOOP seen: the partner echoes this lane; reset [1]. -/
  farLoop : Bool := false
  /-- 2 x 4 bits. 02 R40, R42. This receiver's own tap request as it stands in the frames sent (PRE_REQ, POST_REQ); reset hold. -/
  wish : Nat × Nat := (0, 0)
  /-- EFOM. 02 R40, R42. The figure of merit before the request that waits for its answer, if one waits; reset none. -/
  wishOld : Option Nat := none
  /-- request. 02 R42. The request that undoes the last one, which lowered EFOM; reset none. -/
  undo : Option (Nat × Nat) := none
  /-- 1 bit. 02 R31, R44. PRECODE_REQ sent: this receiver wants its direction precoded; reset [1]. -/
  precodeRx : Bool := false
  /-- local time. 02 R36. When the latest training frame arrived; reset [1]. -/
  frameAt : Nat := 0
  /-- bit position. 02 R35. Position in the period at which markers are found; reset [1]. -/
  markPos : Nat := 0
  /-- local time. 02 R35, R36. When the latest valid marker arrived; reset [1]. -/
  markerAt : Nat := 0
  /-- local time. 02 R42. When a receiver setting changed last in data mode; reset none. -/
  adaptAt : Option Nat := none
  /-- structure. 02 R31 to R34. Transmit coding of data mode; reset [1]. -/
  tx : LaneTx := {}
  /-- items. 02. What the lane has put on its line, oldest first; reset empty. -/
  line : List LineItem := []
  /-- items. 02 R50. What a near-end loopback has returned to the lane's own receiver, oldest first; reset empty. -/
  looped : List LineItem := []
  /-- 2 x 4 bits. 02 R40. The tap request received and not yet answered (PRE_REQ, POST_REQ); reset none. -/
  reqDue : Option (Nat × Nat) := none
  /-- 2 x 4 bits. 02 R40. The tap request answered last, while it stands unchanged; reset [1]. -/
  reqSeen : Option (Nat × Nat) := none
  /-- 2 bits. 02 R44. PRE_ANS to be sent; reset [1]. -/
  ansA : Nat := 0
  /-- 2 bits. 02 R44. POST_ANS to be sent; reset [1]. -/
  ansB : Nat := 0
  /-- 1 bit. 02 R31. This transmitter precodes, as the partner's receiver asked; reset [1]. -/
  precodeTx : Bool := false
  /-- count. 02 R45 step 1. Consecutive frames with TCOMMA; reset [1]. -/
  frames : Nat := 0
  /-- 15 bits. 02 R44. FCOUNT of the latest frame; reset [1]. -/
  fcount : Nat := 0
  /-- 4 bits. 02 R34, R36, R44. Logical LANE number of the lane's receive direction within its port; reset [1]. -/
  logical : Nat := 0
  /-- count. 02 R41, R45 step 3. Best EFOM seen in adaptation; reset [1]. -/
  bestEfom : Nat := 0
  /-- count. 02 R45 step 3. Consecutive requests in which EFOM has not risen; reset [1]. -/
  noRise : Nat := 0
  /-- 1 bit. 02 R44. RX_READY seen from the partner for the current step; reset [1]. -/
  partnerReady : Bool := false
  /-- 1 bit. 02 R35. Marker lock; reset [1]. -/
  locked : Bool := false
  /-- count. 02 R35. Consecutive periods with a valid marker; reset [1]. -/
  goodMarkers : Nat := 0
  /-- positions with counts and local times. 02 R35. The places at which a lane without lock has found valid markers, each with the consecutive periods and the moment of
  the latest; reset [1]. -/
  places : Map (Nat × Nat) := []
  /-- count. 02 R35. Consecutive periods without a valid marker; reset [1]. -/
  badMarkers : Nat := 0
  /-- 31 bits. 02 R32. Receive scrambler state for the next data block: loaded from SEED, and advanced over the payload bits received; reset [1]. -/
  scrambler : BitVec 31 := 0
  /-- 16 bits. 02 R34. COUNT of the latest valid marker; reset [1]. -/
  markerCount : BitVec 16 := 0
  /-- 16 bits. 02 R41. EFOM reported last; reset [1]. -/
  efom : Nat := 0
  /-- count. 02 R43. Consecutive measurements with EFOM below 16; reset [1]. -/
  lowEfom : Nat := 0
  /-- settings. 02 R42. The receiver settings by number (CTLE, FFE taps, DFE tap), in steps; reset [1]. -/
  settings : Map Int := []
  /-- choice. 02 R42. The step taken at the last measurement (setting, up) and the EFOM before it; reset [1]. -/
  lastStep : Option (Nat × Bool × Nat) := none
  /-- 1 bit. 02 R43, R48. The lane has failed and is out of service; reset [1]. -/
  failed : Bool := false
  /-- 1 bit. 02 R48. A spare in standby; reset [1]. -/
  standby : Bool := false
  /-- port. 02 R47. The port this lane serves in the current training, if any; reset [1]. -/
  port : Option Nat := none
  /-- structure. 02 R49. Test pattern generator and checker; reset [1]. -/
  test : LaneTest := {}
  /-- choice. 02 R50. Loopback: 0 none, 1 near-end serial, 2 near-end parallel, 3 far-end; reset [1]. -/
  loopback : Nat := 0
  /-- 0-5. 02 R50. The step of 02 R45 that a lane of a disabled port trains in before it enters a far-end loopback, 0 for none; reset 0. -/
  loopStep : Nat := 0
  /-- command head. 02 R50. The LANE_LOOPBACK_SET that waits for that training; reset none. -/
  loopHdr : Option MHdr := none
  /-- local time. 02 R45, R50. When that training began; reset [1]. -/
  loopAt : Nat := 0
  deriving DecidableEq, Repr

/-! ### Ports and the link layer (03) -/

/-- The link layer of one port (03). -/
structure Link where
  /-- 10 bits. 03 R65. E, the next expected FSEQ; reset 0 (R75). -/
  expected : BitVec 10 := 0
  /-- 1 bit. 03 R65. RETRY_WAIT (false: NORMAL); reset [1]. -/
  retryWait : Bool := false
  /-- count. 03 R65. Retry count; reset [1]. -/
  retryCount : Nat := 0
  /-- local time. 03 R65. Start of the link retry timer; reset [1]. -/
  retryAt : Nat := 0
  /-- 1 bit. 03 R65. NAK to be set in the next outgoing flit; reset [1]. -/
  nakDue : Bool := false
  /-- 10 bits. 03 R57. FSEQ of the next new data flit; reset 0 (R75). -/
  nextSeq : BitVec 10 := 0
  /-- at most 128 flits. 03 R66. The retry buffer, oldest first; reset [1]. -/
  retryBuf : List Flit := []
  /-- packets. 03 R69. The packets whose flits the retry buffer holds, each with the FSEQ of its last flit; reset [1]. -/
  sentPkts : List (BitVec 10 × Packet) := []
  /-- count. 03 R67. Flits of the retry buffer still to be resent, counted from its end; reset [1]. -/
  resend : Nat := 0
  /-- count. 03 R67. Consecutive expiries on the oldest flit; reset [1]. -/
  txExpiries : Nat := 0
  /-- local time. 03 R67. When the oldest unacknowledged flit began to wait; reset [1]. -/
  txAt : Nat := 0
  /-- 6 bits. 03 R57. XOFF received from the partner, in the order REQ, RSP, RUP, RDN, MSG, MGT; reset 0 (R75). -/
  xoffIn : BitVec 6 := 0
  /-- local times. 03 R73. Since when each channel's XOFF has been set, by channel; reset [1]. -/
  xoffSince : Map Nat := []
  /-- 6 bits. 03 R71. XOFF this receiver raises; reset 0 (R75). -/
  xoffOut : BitVec 6 := 0
  /-- ns. 03 R70. T_meas, the measured loop time; reset [1]. -/
  tMeas : Nat := 0
  /-- at most 16. 03 R75 step 2. Loop times measured so far; reset [1]. -/
  loops : List Nat := []
  /-- granules. 03 R60. Granules of the started packet that no flit carries yet; reset [1]. -/
  txOpen : List (BitVec 128) := []
  /-- packet. 03 R60. The started packet whose last granule has not been sent; reset none. -/
  txPkt : Option Packet := none
  /-- 16 bits. 03 R75. COUNT of this end's marker after which its data flits begin; reset [1]. -/
  startOwn : BitVec 16 := 0
  /-- granules. 03 R71. Reservation of each channel, by channel; reset [1]. -/
  reserved : Map Nat := []
  /-- 1 bit. 03 R75. INIT received; reset [1]. -/
  initSeen : Bool := false
  /-- 16 bits. 03 R75. COUNT of the marker after which data flits begin; reset [1]. -/
  startCount : BitVec 16 := 0
  /-- 1 bit. 03 R75. INIT_ACK received; reset [1]. -/
  initAcked : Bool := false
  /-- granules. 03 R60. Granules of the packet in progress; reset [1]. -/
  openPkt : List (BitVec 128) := []
  deriving DecidableEq, Repr

/-- The phases of a port (02 R45, 03 R78, 13 R477). `training n` is step n of R45; step 8 is link initialization. -/
inductive PortPhase where
  | disabled
  | waiting
  | training (step : Nat)
  | up
  | narrowing
  | failed
  deriving DecidableEq, Repr

/-- Counters of a port that PORT_STATUS_READ returns, and the other per-port counts the spec names. -/
structure PortCount where
  /-- 64 bits. 01 R16. SOURCE_MISMATCH discards; reset [1]. -/
  srcMismatch : Nat := 0
  /-- 64 bits. 03 R63. Channel-violation discards; reset [1]. -/
  vcViolation : Nat := 0
  /-- 64 bits. 04 R90. MALFORMED_PACKET discards; reset [1]. -/
  malformed : Nat := 0
  /-- 64 bits. 04 R90 check 5. Non-request packets discarded because the egress port is down; reset [1]. -/
  destDown : Nat := 0
  /-- 6 x 64 bits. 06 R162. Flush counts by channel; reset [1]. -/
  flush : Map Nat := []
  /-- 64 bits. 04 R113. Stale counter; reset [1]. -/
  stale : Nat := 0
  /-- 64 bits. 04 R113. Discards for a failed tag or a missing CONF; reset [1]. -/
  authFail : Nat := 0
  /-- 64 bits. 08 R223. COLL_STALE; reset [1]. -/
  collStale : Nat := 0
  /-- 64 bits. 10 R308. MISROUTED; reset [1]. -/
  misrouted : Nat := 0
  /-- 64 bits. 12 R356. RING_UNREACHABLE; reset [1]. -/
  ringUnreachable : Nat := 0
  /-- 8 x 64 bits. 03 R81. Link-down counts by cause; reset [1]. -/
  downs : Map Nat := []
  deriving DecidableEq, Repr

/-- A single-rate three-colour marker (12 R360). -/
structure Marker where
  /-- MB/s. 12 R360. CIR; reset absent. -/
  cir : Nat := 0
  /-- bytes. 12 R360. CBS; reset absent. -/
  cbs : Nat := 0
  /-- bytes. 12 R360. EBS; reset absent. -/
  ebs : Nat := 0
  /-- 1/1000 byte. 12 R360. Committed bucket; full when set. -/
  tc : Nat := 0
  /-- 1/1000 byte. 12 R360. Excess bucket; full when set. -/
  te : Nat := 0
  /-- local time. 12 R360. Moment of the last refill; set with the marker. -/
  at_ : Nat := 0
  deriving DecidableEq, Repr

/-- One port, named by its PORT index (15 R417): 0-511, ring-east 512, ring-west 528. -/
structure Port where
  /-- 1 bit. 01 R22. Enabled; reset disabled (01 R17, 15 R429). -/
  enabled : Bool := false
  /-- width code. 13 R477. Width given in PORT_ENABLE; reset [1]. -/
  width : Nat := 0
  /-- 1 bit. 06 R145. BRIDGE attribute; reset [1]. -/
  bridge : Bool := false
  /-- phase. 02 R45. Phase; reset disabled. -/
  phase : PortPhase := .disabled
  /-- count. 02 R46. Failed attempts; reset [1]. -/
  attempts : Nat := 0
  /-- local time. 02 R45. t0 of the current training; reset [1]. -/
  t0 : Nat := 0
  /-- local time. 02 R45. When the step in progress began; reset [1]. -/
  stepAt : Nat := 0
  /-- local time. 02 R27, R45. When the lanes entered data mode (step 6); reset [1]. -/
  dataAt : Nat := 0
  /-- codewords. 02 R27, R45. Codewords of idle blocks that each lane has sent since then, while no flits travel; reset [1]. -/
  words : Nat := 0
  /-- 13 bits. 01 R15, R17. Part identity in use on this port, taken when it was enabled; reset [1]. -/
  self : Option Node := none
  /-- 13 bits. 02 R44. Partner's node number as announced; reset [1]. -/
  partner : Option Node := none
  /-- width code. 03 R480. Width in force; reset [1]. -/
  widthNow : Nat := 0
  /-- 16 bits. 03 R77. Logical lanes held good; reset [1]. -/
  goodMask : BitVec 16 := 0
  /-- 16 bits. 03 R78. Partner's mask received in WIDTH_CHANGE; reset [1]. -/
  partnerMask : Option (BitVec 16) := none
  /-- 1 bit. 02 R48. A spare lane in use; reset [1]. -/
  spareUsed : Bool := false
  /-- logical lane. 02 R48. A failed lane waiting for a spare at the next marker boundary; reset [1]. -/
  pendingSpare : Option Nat := none
  /-- cause code. 03 R80. Last down cause; reset none. -/
  lastDown : Option Nat := none
  /-- 0, or step 5 to 7. 03 R78. Where a narrowing port stands: 0 the masks are being exchanged, else the step of 02 R45 being run again; reset [1]. -/
  narrowStep : Nat := 0
  /-- local time. 03 R78. When narrowing began; reset [1]. -/
  narrowAt : Nat := 0
  /-- flits. 03. The flits this end has sent, oldest first; reset empty. -/
  sent : List Flit := []
  /-- 1 bit, sticky. 03 R79. LINK_NARROWED; reset [1]. -/
  narrowed : Bool := false
  /-- 1 bit. 06 R161. The output is marked down in the core; reset up is reported later, so true. -/
  coreDown : Bool := true
  /-- 1 bit. 06 R163. A flush is in progress; reset [1]. -/
  flushing : Bool := false
  /-- counters. 13 R477; reset [1]. -/
  cnt : PortCount := {}
  /-- link layer. 03; reset R75. -/
  link : Link := {}
  /-- packets. 03 R69. Whole packets received and not yet admitted, oldest first; reset [1]. -/
  rx : List Packet := []
  /-- packets. 03 R69. Packets handed back from the retry buffer, to be flushed; reset [1]. -/
  back : List Packet := []
  /-- packets. 06 R152. Egress queue: packets the resequencer has released, oldest first; reset [1]. -/
  tx : List Packet := []
  /-- 1/16 granule. 06 R165. MGT allowance; 12 granules when the port comes up. -/
  mgtAllow : Int := 192
  /-- granules by channel. 06 R165. Deficits of the round robin; reset [1]. -/
  deficit : Map Nat := []
  /-- channel. 06 R165. Channel served last; reset [1]. -/
  rr : Nat := 0
  /-- node. 06 R139. REQ source served last; reset [1]. -/
  rrSrc : Nat := 0
  /-- marker. 12 R360. Ingress colour marker; reset none. -/
  marker : Option Marker := none
  deriving DecidableEq, Repr

/-! ### Trunk egress (12) -/

/-- A policer (12 R361). -/
structure Policer where
  /-- MB/s. 12 R361. PR; reset absent. -/
  pr : Nat := 0
  /-- bytes. 12 R361. PB; reset absent. -/
  pb : Nat := 0
  /-- 1/1000 byte. 12 R361. Tokens T; starts at PB. -/
  tokens : Nat := 0
  /-- local time. 12 R361. Last update; set with the policer. -/
  at_ : Nat := 0
  deriving DecidableEq, Repr

/-- A credit shaper (12 R365). -/
structure Shaper where
  /-- MB/s. 12 R365. Rq; reset absent. -/
  rq : Nat := 0
  /-- bytes. 12 R365. BURST; reset absent. -/
  burst : Nat := 0
  /-- 1/1,024,000 byte, signed. 12 R365. Credit, 1,000 times the c of R365; set by TOKENS. -/
  credit : Int := 0
  /-- 1/16 ns. 12 R365. Last update of c; set with the shaper. -/
  at_ : Nat := 0
  deriving DecidableEq, Repr

/-- One stored sample window (12 R367). -/
structure SampleWin where
  /-- 64 bits, ns. Start of the window. -/
  start : Nat := 0
  /-- bytes. Largest queue depth in the window. -/
  maxDepth : Nat := 0
  /-- bytes. Mean queue depth over the window. -/
  meanDepth : Nat := 0
  /-- ns. Largest delay of a packet that left in the window. -/
  maxDelay : Nat := 0
  /-- packets. Packets sent in the window. -/
  sent : Nat := 0
  /-- packets. Dropped by the policer in the window. -/
  police : Nat := 0
  /-- packets. Dropped because the queue was full in the window. -/
  full : Nat := 0
  /-- packets. Dropped by the gate list in the window. -/
  gate : Nat := 0
  deriving DecidableEq, Repr

/-- One trunk egress queue (12 R357). -/
structure TrunkQueue where
  /-- packets with their enqueue times. 12 R357. The queue, oldest first; reset empty. -/
  pkts : List (Packet × Nat) := []
  /-- policer. 12 R361; reset none. -/
  policer : Option Policer := none
  /-- shaper. 12 R365; reset none. -/
  shaper : Option Shaper := none
  /-- shaper to take effect when the packet in progress ends. 12 R366 (none: no change; some none: removal); reset none. -/
  shaperNext : Option (Option Shaper) := none
  /-- 1/16 ns. 12 R366. When the packet of this queue being sent ends; reset 0. -/
  sendingUntil : Nat := 0
  /-- counters. 12 R359. Drops POLICE, FULL, GATE; reset [1]. -/
  police : Nat := 0
  /-- count. 12 R359. Packets dropped because the queue was full; reset 0. -/
  full : Nat := 0
  /-- count. 12 R364. Packets dropped because no gate admits them; reset 0. -/
  gateDrops : Nat := 0
  /-- at most 256. 12 R367. Sample store, oldest first; reset empty. -/
  samples : List SampleWin := []
  /-- 32 bits. 12 R367. SAMPLES_LOST; reset [1]. -/
  samplesLost : Nat := 0
  /-- accumulator. 12 R367. The window in progress; reset [1]. -/
  win : SampleWin := {}
  /-- byte x ns. 12 R367. Integral of the depth over the window in progress; reset [1]. -/
  area : Nat := 0
  /-- local time. 12 R367. Last change of the depth; reset [1]. -/
  depthAt : Nat := 0
  deriving DecidableEq, Repr

/-- A gate list in force or pending (12 R362, R363): entries and the start of its first cycle. -/
structure GateList where
  /-- list of 32-bit entries. Entries of the list: gate mask and interval; default one entry 0xFF, 1,000,000 ns. -/
  entries : List (BitVec 32) := [0x0F4240FF#32]
  /-- 64 bits, ns. Start of the first cycle; default 0. -/
  base : Nat := 0
  deriving DecidableEq, Repr

/-- The egress side of one trunk port (12). -/
structure Trunk where
  /-- 8 queues. 12 R357; reset empty. -/
  queues : Map TrunkQueue := []
  /-- list. 12 R362. Gate list in force; default one entry 0xFF, 1,000,000 ns. -/
  gates : GateList := {}
  /-- list. 12 R363. Pending gate list; reset none. -/
  pending : Option GateList := none
  /-- index. 12 R362. Entry in force; reset 0. -/
  entry : Nat := 0
  /-- local time. 12 R362. Start of the entry in force; reset 0. -/
  entryAt : Nat := 0
  deriving DecidableEq, Repr

/-! ### The switch core (06) -/

/-- A packet admitted to the core, with the egress line it is bound for (06 R141) and whether it is class G (06 R145). -/
structure QPkt where
  /-- packet. The packet. -/
  pkt : Packet
  /-- 0-63. Egress line it is bound for. -/
  eline : Nat
  /-- 1 bit. Class G. -/
  g : Bool
  deriving DecidableEq, Repr

/-- One virtual output queue: an ingress line, an output and a channel (06 R143).
`sent` counts granules of the head packet that have already left in cells. -/
structure Voq where
  /-- 0-63. Ingress line. -/
  line : Nat
  /-- 0-575. Output. -/
  out : Nat
  /-- 0-5. Channel. -/
  vc : Nat
  /-- packets. The queue, oldest first. -/
  pkts : List QPkt := []
  /-- granules. Granules of the head packet that have left in cells. -/
  sent : Nat := 0
  deriving DecidableEq, Repr

/-- A cell (06 R147): up to 8 granules of one virtual output queue, with its flow, its 16-bit sequence number (R152), the cycle in which it left
stage 1, the slot it holds (0 the standing allowance, n + 1 loan n, R148), the packets that end in it, whether a packet goes on past it, and,
for a multicast cell, the egress lines still to be copied to. -/
structure Cell where
  /-- 0-63. Ingress line of its flow. -/
  line : Nat
  /-- 0-575. Output of its flow. -/
  out : Nat
  /-- 0-5. Channel of its flow. -/
  vc : Nat
  /-- 0-63. Egress line. -/
  eline : Nat
  /-- 16 bits. 06 R152. Sequence number within the flow. -/
  seq : BitVec 16 := 0
  /-- cycle. 06 R151. Cycle in which it left stage 1. -/
  cycle : Nat := 0
  /-- 0-511. Slot of the line's store. -/
  slot : Nat := 0
  /-- packets. Packets whose last granule the cell carries. -/
  ends : List Packet := []
  /-- 1 bit. The cell is part of a packet whose last granule is in a later cell. -/
  tail : Bool := false
  /-- list of ports. 06 R155. Residue of a multicast cell; none for unicast. -/
  mcast : Option (List Nat) := none
  deriving DecidableEq, Repr

/-- A loan of 32 slots (06 R148): loans 0 to 5 are reserved for channels 0 to 5, loans 6 to 15 serve any channel. -/
structure Loan where
  /-- 0-63. Egress line that lends. -/
  eline : Nat
  /-- 0-15. Number of the loan. -/
  index : Nat
  /-- 0-63. Ingress line that holds it. -/
  iline : Nat
  /-- 0-5. Channel it serves. -/
  vc : Nat
  /-- 1 bit. A cell has been placed in it. -/
  used : Bool := false
  deriving DecidableEq, Repr

/-- A multicast packet in an egress line's store (06 R157): its residue of ports and the pointer. -/
structure McEntry where
  /-- packet. The packet. -/
  pkt : Packet
  /-- list of ports. Ports still to be served. -/
  residue : List Nat
  /-- port. Where the search resumes. -/
  pointer : Nat := 0
  deriving DecidableEq, Repr

/-- A multicast packet in delivery (06 R158): the ports whose copy or acknowledgement is still due. -/
structure Delivery where
  /-- 12 bits. GROUP of the packet. -/
  group : Nat
  /-- 32 bits. CHUNK of the packet. -/
  chunk : Nat
  /-- number. Payload index of the packet. -/
  pidx : Nat
  /-- 8 bits. Opcode of the packet. -/
  opcode : Nat
  /-- list of ports. Ports whose copy or acknowledgement is due. -/
  ports : List Nat
  deriving DecidableEq, Repr

/-- Arbiter counters of one requester (06 R168). -/
structure ArbCount where
  /-- 48 bits, saturating. 06 R168. Grants; reset [1]. -/
  grants : Nat := 0
  /-- 48 bits, saturating. 06 R168. Wait cycles; reset [1]. -/
  waits : Nat := 0
  /-- 32 bits, saturating. 06 R168. Longest single wait; reset [1]. -/
  longest : Nat := 0
  /-- 32 bits, saturating. 06 R168. Withdrawals; reset [1]. -/
  withdrawals : Nat := 0
  /-- cycles. 06 R168. The wait in progress; reset [1]. -/
  current : Nat := 0
  deriving DecidableEq, Repr

/-- One arbiter instance (06 R164), named as 13 R476 names it. -/
structure Arbiter where
  /-- 1 bit. 06 R166. LAST_BEAT mode; default SAME_CYCLE. -/
  lastBeat : Bool := false
  /-- per requester. 06 R168. Counters; reset [1]. -/
  reqs : Map ArbCount := []
  /-- 48 bits, saturating. 06 R168. Dead cycles; reset [1]. -/
  dead : Nat := 0
  /-- requester. 06 R164. Round-robin position; reset [1]. -/
  rr : Nat := 0
  /-- requester. 06 R167. Winner decided in the last beat of the current transfer; reset [1]. -/
  chosen : Option Nat := none
  /-- requesters. 06 R168. Those granted in the core cycle that runs; reset none. -/
  served : List Nat := []
  deriving DecidableEq, Repr

/-- A colour-drop profile (06 R159): KiB, KiB, and MAX_P in units of 2^-16. -/
structure RedProfile where
  /-- KiB. MIN_TH. -/
  minTh : Nat
  /-- KiB. MAX_TH. -/
  maxTh : Nat
  /-- 2^-16. MAX_P. -/
  maxP : Nat
  deriving DecidableEq, Repr

/-- The switch core (06). -/
structure Core where
  /-- count. 06 R150. Cycle t; reset [1]. -/
  cycle : Nat := 0
  /-- queues. 06 R142. Virtual output queues; reset empty. -/
  voqs : List Voq := []
  /-- cells by queue. 06 R142. The 64 intermediate queues, oldest first; reset empty. -/
  iqs : Map (List Cell) := []
  /-- cells by egress line. 06 R152. Cells in the resequencers; reset empty. -/
  reseq : Map (List Cell) := []
  /-- 16 bits by flow. 06 R152. Sequence number of the next cell of a flow at ingress; reset [1]. -/
  flowTx : Map (BitVec 16) := []
  /-- 16 bits by flow. 06 R152. Sequence number expected next at egress; reset [1]. -/
  flowRx : Map (BitVec 16) := []
  /-- loans. 06 R148. Loans made; reset none. -/
  loans : List Loan := []
  /-- cells by flow. 06 R148. Cells a resequencer has released whose slots are held until the output takes their bytes, oldest first; reset none. -/
  held : Map (List Cell) := []
  /-- bytes by egress line. 06 R156. Multicast store reserved; reset 0. -/
  mcReserved : Map Nat := []
  /-- entries by egress line. 06 R157. Multicast stores; reset empty. -/
  mcStore : Map (List McEntry) := []
  /-- deliveries. 06 R158. Multicast packets whose notice is due; reset none. -/
  deliveries : List Delivery := []
  /-- turns by intermediate queue and egress line. 06 R156. True when the connection's next service is a unicast cell; reset [1]. -/
  mcTurn : Map Bool := []
  /-- rotation counters. 06 R141. By attachment at ingress and by line and output at egress; reset [1]. -/
  rotIn : Map Nat := []
  /-- counters by line and output. 06 R141. Rotation counters at egress; reset [1]. -/
  rotOut : Map Nat := []
  /-- arbiters. 06 R164; default SAME_CYCLE. -/
  arbs : Map Arbiter := []
  /-- 2^-16 KiB by line and output. 06 R159. Averages A; reset [1]. -/
  redAvg : Map Nat := []
  /-- profiles by output and colour. 06 R160; an absent entry is the default of R160. -/
  redProf : Map RedProfile := []
  /-- 0-15 by output. 06 R159. W; an absent entry is 9. -/
  redW : Map Nat := []
  /-- counters by line, output and colour. 06 R159. Drops; reset [1]. -/
  redDrops : Map Nat := []
  /-- packets. 06 R142 local queues. Packets from the part's agents into the core, each with the port its agent has chosen, if it has; reset empty. -/
  localTx : List (Packet × Option Nat) := []
  /-- packets. 06 R142 local queues. Packets that the agents hold themselves while the local queues have no room for them, oldest first; reset empty. -/
  localOut : List (Packet × Option Nat) := []
  /-- packets. 06 R142 local queues. Packets delivered to the part's agents, oldest first; reset empty. -/
  localRx : List Packet := []
  /-- packets. 06 R152. Egress queue of the local output: packets the resequencer has released and the local queues have no room for yet; reset empty. -/
  localWait : List Packet := []
  deriving DecidableEq, Repr

/-! ### The home (05) -/

/-- A RELEASE request held in the sluice (05 R122), with the port it came in on. -/
structure Held where
  /-- packet. The RELEASE request. -/
  pkt : Packet
  /-- PORT index. The port it came in on. -/
  port : Nat
  deriving DecidableEq, Repr

/-- A failed write without RELEASE (05 R125): its SEQ, tenant and status; `none` for a discard. -/
structure Failure where
  /-- 16 bits. SEQ of the failed write. -/
  seq : BitVec 16
  /-- 10 bits. Its tenant. -/
  tenant : Nat
  /-- status, or none for a discard. The status it was answered with. -/
  status : Option Nat
  deriving DecidableEq, Repr

/-- The window a home keeps for one source (05 R123). -/
structure SrcWin where
  /-- 16 bits. 05 R123. L, the lowest unaccounted SEQ; set by the first SEQ that arrives (R128). -/
  low : BitVec 16 := 0
  /-- SEQs with their accounting times. 05 R121, R124. Accounted SEQs above L; reset none. -/
  above : List (BitVec 16 × Nat) := []
  /-- held requests. 05 R122. Held RELEASE requests; reset none. -/
  held : List Held := []
  /-- failures. 05 R125. Failures that no RELEASE has answered for; reset none. -/
  failures : List Failure := []
  /-- RELEASE SEQs and tenants. 05 R125. RELEASE requests that have ended, while a failure below them may still be to come or to be judged; reset none. -/
  early : List (BitVec 16 × Nat) := []
  /-- local time. 05 R128. Last accounting; reset [1]. -/
  last : Nat := 0
  /-- counter. 05 R123. Duplicates; reset [1]. -/
  dups : Nat := 0
  /-- counter. 05 R124. Sluice expiries; reset [1]. -/
  expiries : Nat := 0
  deriving DecidableEq, Repr

/-- The HBM and the home of its exported memory (05, 10, 15). -/
structure Home where
  /-- 1 bit. 10 R306. Export on; reset off (R299, R305). -/
  exported : Bool := false
  /-- ns. 05 R124. Request timeout and sluice hold limit; default 100 us. -/
  reqTimeout : Nat := 100000
  /-- windows by source. 05 R123; reset none. -/
  wins : Map SrcWin := []
  /-- bytes. 01 R19. HBM contents; unlisted bytes read as log entry 2 says; reset undefined (15 R435). -/
  hbm : List Host.Cell := []
  /-- key identifiers by line. 14 R403. The memory key each line was last written under; reset none. -/
  owner : Map Nat := []
  /-- number. 05 R140. The hot-line window the counts below belong to, by its microsecond; reset 0. -/
  hotWindow : Nat := 0
  /-- counts by line. 05 R140. Operations serialized in that window, by HBM line number: tenant, offset, count; reset none. -/
  hotNow : Map (Nat × Nat × Nat) := []
  /-- 32 bits, saturating. 05 R140. Hot-line windows; reset [1]. -/
  hotCount : Nat := 0
  /-- 40 bits. 05 R140. Offset of the line in the latest hot window; reset [1]. -/
  hotOffset : Nat := 0
  /-- 10 bits. 05 R140. Tenant of that line; reset [1]. -/
  hotTenant : Nat := 0
  /-- lines. 15 R437. Lost-line marks; reset none. -/
  lost : List Nat := []
  /-- times by frame. 15 R438. Corrected errors of the last 10 s by frame; reset none. -/
  corrected : Map (List Nat) := []
  /-- channels. 15 R430. HBM channels that failed; reset none. -/
  failedChannels : List Nat := []
  /-- frames. 15 R436, R438. Spare frames that hold a retired frame's data; reset none. -/
  spares : List Nat := []
  /-- frame by frame. 15 R436. The frame that has taken the place of a retired one; reset none. -/
  moved : Map Nat := []
  deriving DecidableEq, Repr

/-! ### The requester side of the end-point block (04, 10, 11) -/

/-- What a request is for: a host access through a window (10 R312), `live` while the host still waits for it (13 R373); a read, a write, an ATOMIC or the completion record of a
descriptor (11 R341, R343), with the place in the descriptor's work that it serves. -/
inductive Purpose where
  | window (w : Nat) (dpa : Nat) (write live : Bool)
  | jobRead (qpn : Nat) (index : BitVec 32) (piece : Nat) (line : Nat)
  | jobWrite (qpn : Nat) (index : BitVec 32) (piece : Nat) (len : Nat)
  | jobAtomic (qpn : Nat) (index : BitVec 32)
  | record (qpn : Nat) (index : BitVec 32)
  /-- a line of the image that the PROGRAM_LOAD of a mailbox reads (09 R253) -/
  | image (mailbox line : Nat)
  /-- a line of the region that a tenant's oldest REGION_DIGEST reads (14 R409) -/
  | digest (tenant line : Nat)
  deriving DecidableEq, Repr

/-- One outstanding request (04 R97, 10 R294 to R296): the packet as sent last, the attempts made (0: its tenant has no send slot and
nothing was sent), the planes tried, newest first, when it was sent last, and whether a re-send waits for the condition of 05 R126. -/
structure Request where
  /-- packet. The packet as sent last. -/
  pkt : Packet
  /-- choice. Who waits for the response. -/
  purpose : Purpose
  /-- 0-4. Attempts made; 0 while nothing was sent. -/
  attempts : Nat := 0
  /-- list of planes. Planes of the attempts so far. -/
  planes : List Nat := []
  /-- local time. When the last granule of the latest attempt was sent, or the timer began without a send. -/
  sentAt : Nat := 0
  /-- 1 bit. The timer of the latest attempt runs (10 R294). -/
  timing : Bool := false
  /-- plane. The plane that carried the latest attempt of a bridge; none where nothing was sent. -/
  via : Option Nat := none
  /-- 8 bits. Status with which the latest attempt that is to be sent again ended. -/
  last : Nat := 0
  /-- granules. Room reserved for the largest response (10 R293). -/
  room : Nat := 0
  /-- 1 bit. The response may not fill the remote-line cache, for this node has written the line, or an ACQUIRE has emptied the cache, since (05 R133). -/
  noFill : Bool := false
  /-- 1 bit. A resend is due. -/
  due : Bool := false
  deriving DecidableEq, Repr

/-- The requester (04 R94 to R98, 10 R289 to R297). -/
structure Requester where
  /-- SEQs with destinations. 05 R126. Writes that were sent again and ended without a completion, which a RELEASE above them may not be sent again past; reset none. -/
  unanswered : List (Nat × BitVec 16) := []
  /-- requests by TAG. 04 R97; reset none. -/
  out : Map Request := []
  /-- 16 bits. 04 R97. Next TAG tried; reset [1]. -/
  nextTag : BitVec 16 := 0
  /-- 16 bits by destination. 04 R94. Next SEQ; starts at 0. -/
  seqs : Map (BitVec 16) := []
  /-- local time by destination. 05 R128. Last send; reset none. -/
  lastSend : Map Nat := []
  /-- destinations. 05 R128. A single request is out and its response is awaited; reset none. -/
  single : List Nat := []
  /-- packets. 05 R128. Requests waiting for their turn, with their purpose; reset none. -/
  waiting : List (Packet × Purpose) := []
  /-- 64 bits. 01 R21. Spray mask of this end-point (BRIDGE); reset [1]. -/
  mask : BitVec 64 := 0
  /-- planes. 10 R292, R297. Planes whose mask bit a port that went down, or a report, has cleared: only a MASK_SET of that plane sets it; reset none. -/
  cleared : List Nat := []
  /-- count by plane. 10 R297. Consecutive requests that ended in TIMEOUT; reset [1]. -/
  timeouts : Map Nat := []
  /-- planes. 10 R297. PLANE_SUSPECT reports; reset none. -/
  suspects : List Nat := []
  /-- counter. 04 R98. Stale completions; reset [1]. -/
  stale : Nat := 0
  /-- 48 bits by tenant and slot. 04 R109. Next CTR; reset [1]. -/
  ctrs : Map Nat := []
  /-- key check values with counters, by tenant and slot. 04 R109. Keys that have left a slot after they were sent under, each with its next CTR; reset none. -/
  spent : Map (List (List Byte × Nat)) := []
  /-- 16 bits. 05 R131, 10 R313. Windows held behind an ACQUIRE; reset none. -/
  acquiring : List Nat := []
  deriving DecidableEq, Repr

/-! ### Collectives (07, 08) -/

/-- A peat accumulator with its flags (07 R182). -/
structure Acc where
  /-- 320 bits, signed. The exact sum in its fixed point. -/
  a : Int := 0
  /-- 1 bit. NAN seen. -/
  nan : Bool := false
  /-- 1 bit. +Inf seen. -/
  pinf : Bool := false
  /-- 1 bit. -Inf seen. -/
  ninf : Bool := false
  /-- 1 bit. Every contribution so far is -0. -/
  allNegZ : Bool := true
  /-- 1 bit. RANGE. -/
  range : Bool := false
  /-- finite contributions so far (07 R200) -/
  count : Nat := 0
  /-- MAX, MIN: the extreme is -0 (07 R200) -/
  zneg : Bool := false
  deriving DecidableEq, Repr

/-- An installed group entry (08 R210). -/
structure GroupEntry where
  /-- 8 bits. GEN of the entry. -/
  gen : Nat
  /-- 10 bits. Tenant of the group. -/
  tenant : Nat
  /-- 2-1,024 records. Members in order of position. -/
  members : List MemberRec
  /-- 32 bits. Group digest. -/
  digest : BitVec 32
  deriving DecidableEq, Repr

/-- A staged group entry (13 R477). -/
structure Staged where
  /-- 8 bits. GEN of the staged entry. -/
  gen : Nat
  /-- 10 bits. Its tenant. -/
  tenant : Nat
  /-- 2-1,024. Number of members. -/
  n : Nat
  /-- records. Member records staged so far. -/
  recs : List MemberRec
  deriving DecidableEq, Repr

/-- The abort record of 08 R232: ORIGIN, REASON, CHUNK. -/
structure AbortRec where
  /-- 13 bits. ORIGIN. -/
  origin : Nat
  /-- 8 bits. REASON. -/
  reason : Nat
  /-- 32 bits. CHUNK. -/
  chunk : Nat
  deriving DecidableEq, Repr

/-- States of an operation on a plane (08 R229). -/
inductive OpPhase where
  | running
  | done
  | aborting
  | closed
  deriving DecidableEq, Repr

/-- A contribution that waits for those of the members ahead of it (07 R204). -/
structure Early where
  /-- number. Position of its member. -/
  pos : Nat
  /-- number. Its payload. -/
  pidx : Nat
  /-- 16 B. Its side granule. -/
  side : List Byte
  /-- number. The place of its 128 B: in the reorder area, or among those in HBM. -/
  slot : Nat
  /-- 1 bit. It is in HBM. -/
  inHbm : Bool
  deriving DecidableEq, Repr

/-- A chunk open on a plane (08 R217). `got` lists what each member position has contributed: (position, payload). -/
structure Chunk where
  /-- number. Index of the chunk. -/
  idx : Nat
  /-- list. What each member position has contributed: (position, payload). -/
  got : List (Nat × Nat) := []
  /-- accumulators by element of the chunk (EXACT, MAX, MIN), as they stand in its slots -/
  accs : Map Acc := []
  /-- by element and position, contributions kept for ORDERED, and those that wait for their weights: raw bits + 2^32 x scale; by element and 0, the running
  value of a bitwise operation -/
  terms : Map (Map Nat) := []
  /-- contributions that pass unchanged, by payload: data and side (08 R216) -/
  copies : Map (List Byte × List Byte) := []
  /-- contributions that came before their turn, in the reorder area or in HBM (07 R204) -/
  early : List Early := []
  /-- local time of the last contribution or ring packet (08 R231) -/
  last : Nat := 0
  /-- the results have been formed (08 R224) -/
  formed : Bool := false
  /-- result payloads formed and not yet injected, in increasing order: payload, data, side (08 R224, 06 R156) -/
  ready : List (Nat × List Byte × List Byte) := []
  /-- payloads that the program has emitted (09 R263 EMIT) -/
  emitted : List Nat := []
  /-- payloads whose delivery notice is due (08 R225) -/
  notices : List Nat := []
  /-- ring: the own reduce-scatter payloads have been injected (08 R244) -/
  ringStarted : Bool := false
  deriving DecidableEq, Repr

/-- A removal that waits for the abort settle interval (08 R213). -/
structure PendingRemoval where
  /-- 0-1,023. Position of the member to remove. -/
  position : Nat
  /-- 8 bits. GEN the group has afterwards. -/
  gen : Nat
  /-- command head. The command that waits. -/
  hdr : MHdr
  deriving DecidableEq, Repr

/-- An HBM access of the collective engine itself, for fused state, tags, staged gradients, weights or Q, that meets a page not present (09 R266). -/
structure EngineStall where
  /-- chunk. The chunk whose forming waits. -/
  chunk : Nat
  /-- 48 bits. Address. -/
  fva : Nat
  /-- choice. Access: 0 read, 1 write. -/
  access : Nat
  /-- 1 bit. Its fault has been entered. -/
  faulting : Bool := false
  deriving DecidableEq, Repr

/-- An operation on a plane (08 R220, R229). -/
structure Op where
  /-- 32 bits. OPID. -/
  opid : BitVec 32
  /-- 8 bits. Program of the operation. -/
  progId : Nat
  /-- fields. 08 R214. Program fields of the operation. -/
  prog : ProgParams
  /-- 10 bits. Tenant. -/
  tenant : Nat
  /-- 8 bits. GEN at OP_START. -/
  gen : Nat
  /-- choice. 08 R229. State of the operation. -/
  phase : OpPhase
  /-- ns. 08 R231. Operation timeout. -/
  timeout : Nat
  /-- local time. 08 R231. When it started. -/
  startAt : Nat
  /-- 128 B. 08 R220. Arguments of OP_START. -/
  args : List Byte := []
  /-- list. 08 R217. Open chunks. -/
  chunks : List Chunk := []
  /-- number of owned chunks opened so far (08 R217) -/
  opened : Nat := 0
  /-- number of owned chunks closed so far (08 R229) -/
  closedCount : Nat := 0
  /-- abort record. 08 R232. The lowest record so far. -/
  record : Option AbortRec := none
  /-- record last multicast (08 R236) -/
  sent : Option AbortRec := none
  /-- start of the abort settle interval, or of the wait after OP_DONE (08 R231) -/
  settleAt : Nat := 0
  /-- 0-255. 09 R266. FCAUSE of a program fault. -/
  fcause : Nat := 0
  /-- 32 bits. 09 R266. Code a program gave with its fault. -/
  fcode : Nat := 0
  /-- bytes. 09 R266. Program counter of the faulting context. -/
  fpc : Nat := 0
  /-- member removals that wait for the settle interval (08 R213) -/
  removals : List PendingRemoval := []
  /-- ring receive slots, by 65,536 x chunk + payload: partials that wait for the own sum (08 R246) -/
  partials : Map (List (BitVec 32)) := []
  /-- ring: gathered result payloads, by 65,536 x chunk + payload: data and side (08 R245) -/
  gathered : Map (List Byte × List Byte) := []
  /-- 3 x 32 bits, saturating. 07 R209. NaN, Inf and saturated results. -/
  nans : Nat := 0
  /-- 32 bits, saturating. 07 R209. Infinite results. -/
  infs : Nat := 0
  /-- 32 bits, saturating. 07 R209. Saturated results. -/
  sats : Nat := 0
  /-- elements. 07 R209. Elements of the operation that have been counted, each at most once; none at OP_START. -/
  classed : List Nat := []
  /-- list. 09 R266. HBM accesses of the engine that wait on a translation fault. -/
  stalls : List EngineStall := []
  deriving DecidableEq, Repr

/-- One kept summary (07 R209). -/
structure Summary where
  /-- 32 bits. OPID. -/
  opid : BitVec 32
  /-- 10 bits. Tenant. -/
  tenant : Nat
  /-- 32 bits, saturating. NaN results. -/
  nans : Nat
  /-- 32 bits, saturating. Infinite results. -/
  infs : Nat
  /-- 32 bits, saturating. Saturated results. -/
  sats : Nat
  deriving DecidableEq, Repr

/-- States of a member (08 R230). -/
inductive MemberPhase where
  | armed
  | running
  | aborting
  | reported
  deriving DecidableEq, Repr

/-- An operation at the bridge's collective agent (08 R230, 10 R301, R302). -/
structure MemberOp where
  /-- 32 bits. OPID. -/
  opid : BitVec 32
  /-- 8 bits. GEN at MEMBER_ARM. -/
  gen : Nat
  /-- 10 bits. Tenant. -/
  tenant : Nat
  /-- records. The members given at MEMBER_ARM. -/
  members : List MemberRec
  /-- 0-1,023. This end-point's position. -/
  position : Nat
  /-- fields. 08 R214. Program fields. -/
  prog : ProgParams
  /-- choice. 08 R230. State of the member. -/
  phase : MemberPhase := .armed
  /-- ns. 08 R231. Operation timeout. -/
  timeout : Nat := 0
  /-- local time. 08 R231. When it was armed. -/
  armedAt : Nat := 0
  /-- credited chunks (08 R221) -/
  credits : List Nat := []
  /-- credited payloads that the member has not yet sent: (chunk, payload) (08 R222) -/
  toSend : List (Nat × Nat) := []
  /-- result payloads received: (chunk, payload) -/
  got : List (Nat × Nat) := []
  /-- a result has come that the member's memory could not take (08 R227) -/
  unplaced : Bool := false
  /-- planes whose OP_DONE has arrived (08 R227) -/
  dones : List Nat := []
  /-- planes whose port went down after all expected results arrived, with the time (08 R227) -/
  lostPlanes : List (Nat × Nat) := []
  /-- abort record. 08 R232. The lowest record so far. -/
  record : Option AbortRec := none
  /-- local time. 08 R231. Start of the settle interval. -/
  settleAt : Nat := 0
  /-- status reported: completion status and abort record (08 R227, R238) -/
  report : Option (Nat × Option AbortRec) := none
  /-- count. 08 R230. Packets discarded as stale. -/
  stale : Nat := 0
  deriving DecidableEq, Repr

/-- The collective engine and the bridge's collective agent (08). -/
structure Coll where
  /-- 4,096 entries. 08 R210. Group table; reset none (15 R440). -/
  groups : Map GroupEntry := []
  /-- staged entries. 13 R477; reset none. -/
  staged : Map Staged := []
  /-- one per group. 08 R220. Operations; reset none. -/
  ops : Map Op := []
  /-- at most 64. 07 R209. Summaries, oldest first; reset none. -/
  summaries : List Summary := []
  /-- one per group. 10 R301. Operations of the bridge's agent; reset none. -/
  members : Map MemberOp := []
  deriving DecidableEq, Repr

/-! ### Clusters and programs (09) -/

/-- A loaded image in a slot of a partition (09 R253, R258). -/
structure Image where
  /-- 8 bits. 09 R253. Load count of the slot when loaded. -/
  loadCount : Nat
  /-- 256 bits. 09 R253. SHA-256 of the image. -/
  digest : BitVec 256
  /-- 0-1. 09 R258. Class. -/
  cls : Nat
  /-- 1-16. 09 R258. Fewest clusters. -/
  minClusters : Nat
  /-- 64-bit words. 09 R258. Text. -/
  text : List (BitVec 64)
  /-- bytes. 09 R258. ENTRY. -/
  entry : Nat
  /-- bytes. 09 R258. Scratch declared for state. -/
  scrState : Nat
  /-- bytes. 09 R258. Scratch declared for reorder. -/
  scrReorder : Nat
  /-- bytes. 09 R258. Scratch declared for ring. -/
  scrRing : Nat
  /-- bytes. 09 R258. Scratch declared for work. -/
  scrWork : Nat
  /-- bytes. 09 R258. Constants. -/
  consts : List Byte
  /-- 16 bytes. 09 R258. COMPILER. -/
  compiler : List Byte
  /-- fields. 08 R214. Program fields of the image. -/
  prog : ProgParams
  /-- count. 09 R256. Partition epoch at which it was loaded. -/
  epoch : Nat
  deriving DecidableEq, Repr

/-- A partition (09 R250). -/
structure Partition where
  /-- 16 bits. Clusters of the partition. -/
  mask : Nat
  /-- 10 bits. Tenant that owns it. -/
  tenant : Nat
  deriving DecidableEq, Repr

/-- One present mirror entry (11 R320): the page address and the 8 B entry. -/
structure XEntry where
  /-- 10 bits. Tenant. -/
  tenant : Nat
  /-- 64 bits. Address of the page. -/
  addr : Nat
  /-- 64 bits. The entry. -/
  entry : BitVec 64
  deriving DecidableEq, Repr

/-- An HBM stream of a context (09 R272). -/
structure Stream where
  /-- 6 bits. Tag of the stream. -/
  tag : Nat
  /-- 1 bit. An HST (else an HLD). -/
  hst : Bool
  /-- bytes. Scratch offset. -/
  scratch : Nat
  /-- 64 bits. Virtual address. -/
  fva : Nat
  /-- bytes. Length. -/
  len : Nat
  /-- the access waits on a translation fault (11 R328) -/
  faulting : Bool := false
  /-- an HLD met an uncorrectable word (15 R425) -/
  damaged : Bool := false
  /-- 11 R336. Entries that an invalidation has removed since the stream was issued; it completes under them. -/
  pinned : List XEntry := []
  deriving DecidableEq, Repr

/-- What a context waits for (09 R263). -/
inductive CtxWait where
  | none
  | stream (tag : Nat)
  | chunk (d : Nat)
  | fence
  | store (group chunk : Nat)
  deriving DecidableEq, Repr

/-- What a context runs (09 R252, R282): an operation of a group, or a class 1 job of a queue. -/
inductive CtxJob where
  | op (group : Nat)
  | job (qpn : Nat) (index : BitVec 32)
  deriving DecidableEq, Repr

/-- One context of a cluster (09 R249, R260). -/
structure Ctx where
  /-- job. 09 R252. What it runs; reset none. -/
  job : Option CtxJob := none
  /-- slot key. 09 R253. The image it runs (PROG_ID partition and slot); reset [1]. -/
  image : Nat := 0
  /-- bytes. 09 R258. Program counter within the text; ENTRY at start. -/
  pc : Nat := 0
  /-- 31 x 64 bits. 09 R260. S1 to S31 (S0 reads 0); reset [1]. -/
  sregs : Map (BitVec 64) := []
  /-- 16 x 96 x 32 bits. 09 R260. V0 to V15; reset [1]. -/
  vregs : Map (List (BitVec 32)) := []
  /-- loops. 09 R263 LOOP. First and end byte offset and remaining repeats, innermost first; reset none. -/
  loops : List (Nat × Nat × Nat) := []
  /-- wait. 09 R263. What it waits for; reset none. -/
  wait : CtxWait := .none
  /-- local times. 09 R284. Stated ends of the IDLE marks it is in; reset none. -/
  marks : List Nat := []
  /-- streams. 09 R272. Streams in progress; reset none. -/
  streams : List Stream := []
  /-- 4 KiB pages of scratch. 09 R258, R271. Where the part placed the declared regions, in order: state, reorder, ring, work; set at start. -/
  pages : List Nat := []
  /-- flag. 09 R263 HALT. The context's part of the operation has ended; reset 0. -/
  halted : Bool := false
  /-- count. 09 R263 WAITC. Owned chunks taken so far; reset 0. -/
  taken : Nat := 0
  deriving DecidableEq, Repr

/-- One cluster (09 R249). -/
structure Cluster where
  /-- 8 MiB. 09 R249. Scratch bytes; unlisted bytes are 0 (R251). -/
  scratch : List Host.Cell := []
  /-- 4 contexts. 09 R249; reset idle. -/
  ctxs : Map Ctx := []
  /-- 1 bit. 15 R412. In unit reset; reset [1]. -/
  resetting : Bool := false
  /-- 1 bit. 09 R256. Images not yet reloaded; reset [1]. -/
  reloading : Bool := false
  deriving DecidableEq, Repr

/-- A PROGRAM_LOAD whose image is being read (09 R253). -/
structure Loading where
  /-- command that completes when the image has been read -/
  hdr : MHdr
  /-- 0-15. Partition. -/
  partition : Nat
  /-- 0-15. Slot. -/
  slot : Nat
  /-- 64 bits. Address of the image. -/
  addr : Nat
  /-- bytes. Length of the image. -/
  len : Nat
  /-- bytes read so far, by number of the line -/
  lines : Map (List Byte) := []
  /-- lines of the other nodes still to come -/
  left : Nat := 0
  /-- a line could not be read -/
  bad : Bool := false
  deriving DecidableEq, Repr

/-- The reedbeds (09). -/
structure Reedbed where
  /-- 16 clusters; reset idle. -/
  clusters : Map Cluster := []
  /-- 16 partitions. 09 R250; reset none. -/
  parts : Map Partition := []
  /-- images by 16 x slot + partition. 09 R253; reset none. -/
  images : Map Image := []
  /-- 8 bits by slot. 09 R253. Load counts; 0 at cold and warm reset. -/
  loads : Map Nat := []
  /-- loads by mailbox. 09 R253. Images being read; reset none. -/
  loading : Map Loading := []
  deriving DecidableEq, Repr

/-! ### Translation and queue pairs (11) -/

/-- Who waits on a fault (11 R328, R329): a mover's descriptors of one queue, a cluster's stream, or a region digest (14 R409), which stands as
mover 32 with its tenant for the queue. -/
structure Waiter where
  /-- 1 bit. A cluster's stream waits (else a queue's descriptor). -/
  cluster : Bool
  /-- number. Mover or cluster. -/
  index : Nat
  /-- number. Queue, or context. -/
  context : Nat
  /-- choice. Access. -/
  access : Nat
  /-- local time. When it began to wait. -/
  at_ : Nat
  /-- 32 bits. Of a mover, the submission index of the descriptor that waits. -/
  desc : Nat := 0
  deriving DecidableEq, Repr

/-- A pending fault (11 R332). `id` is the FAULT_ID of its record once written. -/
structure PendFault where
  /-- 10 bits. Tenant. -/
  tenant : Nat
  /-- 64 bits. Address of the page. -/
  page : Nat
  /-- list. Who waits. -/
  waiters : List Waiter
  /-- waiter. The access that the record names. -/
  first : Waiter
  /-- 32 bits. 11 R330. FAULT_ID, once its record is written. -/
  id : Option (BitVec 32) := none
  /-- 1 bit. No room in the ring when it arose. -/
  delayed : Bool := false
  deriving DecidableEq, Repr

/-- The fault ring (11 R330, 17 R468). -/
structure FaultRing where
  /-- 64 bits. 11 R330. Host physical base; set by FAULT_RING_SET. -/
  base : Nat
  /-- vector. 11 R330. MSI-X vector; set by FAULT_RING_SET. -/
  vec : Nat
  /-- ns. 11 R330. Fault timeout; default 1 s. -/
  timeout : Nat
  /-- 32 bits. 17 R468. DB_FAULT_HEAD; 0 at FAULT_RING_SET. -/
  head : BitVec 32 := 0
  /-- 32 bits. 17 R468. DB_FAULT_NEXT; 0 at FAULT_RING_SET. -/
  next : BitVec 32 := 0
  /-- 1 bit. 13 R373. The host link was reset after FAULT_RING_SET, which the host driver must repeat; 0 at FAULT_RING_SET. -/
  dead : Bool := false
  deriving DecidableEq, Repr

/-- Translation (11). -/
structure Xlat where
  /-- range. 11 R323. Mirror region (base, size); reset empty. -/
  region : Option (Nat × Nat) := none
  /-- entries. 11 R320. Present source entries; reset none. -/
  src : List XEntry := []
  /-- entries. 11 R320. Present target entries; reset none. -/
  tgt : List XEntry := []
  /-- 256 per mover, 128 per cluster, 4,096 at the home. 11 R327. Cached pages by engine (movers 0-31, clusters 32-47, home 48), newest first; reset empty. -/
  caches : Map (List XEntry) := []
  /-- faults. 11 R332. Pending faults, oldest first; reset none. -/
  faults : List PendFault := []
  /-- ring. 11 R330; reset none. -/
  ring : Option FaultRing := none
  /-- ranges with entries. 11 R336. Source invalidations in progress: tenant, address, length, and the entries that each has removed; reset none. -/
  invals : List (Nat × Nat × Nat × List XEntry) := []
  deriving DecidableEq, Repr

/-- A started descriptor (11 R342, R343). -/
structure Job where
  /-- submission index mod 2^32 -/
  index : BitVec 32
  /-- 0 NOP, 1 COPY, 2 FILL, 3 ATOMIC, 4 COMPUTE -/
  op : Nat
  /-- 64 B. 11 R340. The descriptor. -/
  desc : Desc
  /-- offset of the next piece of the work to be issued -/
  issued : Nat := 0
  /-- source lines read, by piece and by line address -/
  bufs : Map (Map (List Byte)) := []
  /-- every byte of the destination below it has landed -/
  done : Nat := 0
  /-- pieces landed beyond `done`: (offset, length) -/
  landed : List (Nat × Nat) := []
  /-- offset past which nothing is issued, with the status and ECAUSE it then ends with (QP stop, revocation) -/
  limit : Option (Nat × Nat × Nat) := none
  /-- requests and contexts outstanding -/
  pending : Nat := 0
  /-- status of the first failing request -/
  failed : Option Nat := none
  /-- 0-255. 11 R346. ECAUSE of the first failure. -/
  ecause : Nat := 0
  /-- waiting on a translation fault: virtual address and access -/
  fault : Option (Nat × Nat) := none
  /-- 1 bit. The compare of an ATOMIC CAS matched. -/
  casHit : Bool := false
  /-- ATOMIC: 1 issued, 2 answered, 3 the old line is being written; COMPUTE: 1 launched -/
  stage : Nat := 0
  /-- work finished; its record is due -/
  complete : Bool := false
  /-- the record has been issued -/
  recording : Bool := false
  /-- 0-255. 09 R282. FCAUSE of a class 1 job that a program fault has ended, 0 for none. -/
  fcause : Nat := 0
  /-- its tenant entered REVOKING before it completed (11 R346) -/
  revoked : Bool := false
  deriving DecidableEq, Repr

/-- A queue pair (11 R338). -/
structure Qp where
  /-- 10 bits. Tenant. -/
  tenant : Nat
  /-- 64 bits. Submission queue address. -/
  sqFva : Nat
  /-- log2. Submission queue size. -/
  sqLog : Nat
  /-- 64 bits. Completion queue address. -/
  cqFva : Nat
  /-- log2. Completion queue size. -/
  cqLog : Nat
  /-- 1 bit. Line mode of the doorbell. -/
  lineMode : Bool
  /-- 64 bits. DB_FVA of line mode. -/
  dbFva : Nat
  /-- 0-31. Mover. -/
  mover : Nat
  /-- vector. MSI-X vector. -/
  vec : Nat
  /-- 1 bit. 11 R345. ERROR; ACTIVE at QP_CREATE. -/
  error : Bool := false
  /-- 1 bit. 11 R345. Being stopped by QP_RESET or QP_DESTROY; 0 at QP_CREATE. -/
  stopping : Bool := false
  /-- 32 bits. 17 R473. Submission tail; 0 at QP_CREATE and QP_RESET. -/
  sqTail : BitVec 32 := 0
  /-- 32 bits. 11 R342. Descriptors started or discarded; 0 at QP_CREATE and QP_RESET. -/
  sqHead : BitVec 32 := 0
  /-- 32 bits. 11 R343. Completion records written; 0 at QP_CREATE and QP_RESET. -/
  cqTail : BitVec 32 := 0
  /-- 32 bits. 17 R473. Completion head; 0 at QP_CREATE and QP_RESET. -/
  cqHead : BitVec 32 := 0
  /-- started descriptors, oldest first -/
  jobs : List Job := []
  /-- 11 R338. The mover's read of the submission ring waits on a translation fault: the virtual address. -/
  sqFault : Option Nat := none
  deriving DecidableEq, Repr

/-- The work queues and the movers (11). -/
structure Queues where
  /-- 65,536 queue pairs. 11 R338; reset none. -/
  qps : Map Qp := []
  /-- 32 bits. 15 R412. Movers in unit reset; reset 0. -/
  resetting : BitVec 32 := 0
  deriving DecidableEq, Repr

/-! ### The bridge (10) and the CXL port (13) -/

/-- One window of the bridge (10 R310, R318). -/
structure Window where
  /-- descriptor. 10 R310; reset disabled, fields [1]. -/
  desc : WinDesc := { en := false, size := 0, target := 0, tbase := 0, tenant := 0, uncached := false, syncBase := 0, syncLen := 0, syncScope := 0, failVec := 0 }
  /-- 1 bit. 10 R311. WINDOW_DISABLE in transition; reset [1]. -/
  disabling : Bool := false
  /-- 32 bits, saturating, sticky. 17 R469. HOST_WIN_FAIL_RD; reset 0 S. -/
  failRd : BitVec 32 := 0
  /-- 32 bits, saturating, sticky. 17 R469. HOST_WIN_FAIL_WR; reset 0 S. -/
  failWr : BitVec 32 := 0
  /-- 44 bits, sticky. 17 R469. HOST_WIN_LOG_ADDR; reset 0 S. -/
  logAddr : Nat := 0
  /-- 10 bits, sticky. 17 R469. HOST_WIN_LOG_INFO; reset 0 S. -/
  logInfo : BitVec 32 := 0
  deriving DecidableEq, Repr

/-- One line of the remote-line cache (10 R317). -/
structure CacheLine where
  /-- 10 bits. Tenant of the fill. -/
  tenant : Nat
  /-- 13 bits. Home. -/
  node : Nat
  /-- bytes. Offset of the line. -/
  offset : Nat
  /-- 128 B. Data. -/
  data : List Byte
  /-- windows through which the line was filled (10 R311) -/
  wins : List Nat
  deriving DecidableEq, Repr

/-- A completion given to the host (10 R312): 0 data, 1 Cmp. -/
structure HostResp where
  /-- bytes. Device physical address. -/
  dpa : Nat
  /-- 1 bit. Completion of a write. -/
  write : Bool
  /-- 64 B. Data of a read. -/
  data : List Byte
  /-- 1 bit. 13 R370. MetaValue is supported; it never is. -/
  metaValue : Bool := false
  deriving DecidableEq, Repr

/-- A host access waiting behind an ACQUIRE of its window (10 R313). -/
structure HostReq where
  /-- bytes. Device physical address. -/
  dpa : Nat
  /-- 1 bit. A write. -/
  write : Bool
  /-- 64 B. Data of a write. -/
  data : List Byte
  /-- 64 bits. Byte enables of a write. -/
  be : BitVec 64
  deriving DecidableEq, Repr

/-- An HDM decoder (13 R371). -/
structure Hdm where
  /-- bytes. Base of the decoder; reset 0 (R371). -/
  base : Nat := 0
  /-- bytes. Size of the decoder; reset 0 (R371). -/
  size : Nat := 0
  /-- 1 bit. Committed; reset 0 (R371). -/
  committed : Bool := false
  /-- 1 bit. Lock On Commit; reset 0 (R371). -/
  lock : Bool := false
  /-- Error Not Committed -/
  err : Bool := false
  deriving DecidableEq, Repr

/-- A CXL event record (13 R377), translated from the error log. -/
structure CxlEvent where
  /-- 16 bits. Handle. -/
  handle : Nat
  /-- choice. Severity. -/
  severity : Nat
  /-- number. Error unit it comes from. -/
  unit : Nat
  /-- number. Error code it comes from. -/
  code : Nat
  deriving DecidableEq, Repr

/-- State of one IDE stream (13 R374). -/
inductive IdeStream where
  | unkeyed
  | secure
  | insecure
  deriving DecidableEq, Repr

/-- The host side (10, 13, 17). -/
structure HostSide where
  /-- 1 bit. 13 R372, R373. CXL link trained; reset [1]. -/
  linkUp : Bool := false
  /-- 0 x16, 1 x8, 2 x4. 13 R369. Width that the CXL link has trained to; reset [1]. -/
  linkWidth : Nat := 0
  /-- 0 the lowest PCIe rate to 4 for 32 GT/s. 13 R369. Rate that the CXL link has trained to; reset [1]. -/
  linkRate : Nat := 4
  /-- 1 bit. 13 R372. PERST# asserted; reset [1]. -/
  perst : Bool := true
  /-- 4 decoders. 13 R369; reset uncommitted (R371). -/
  hdm : Map Hdm := []
  /-- vectors. 13 R373, 17 R464. MSI-X vectors the host has enabled (unmasked in the MSI-X table); reset none. -/
  msixEn : List Nat := []
  /-- bytes. 17 R464. The MSI-X table as written (32 KiB); unlisted bytes are 0; reset [1]. -/
  msixTable : List Host.Cell := []
  /-- vectors. 13 R376. MSI-X messages sent, oldest first; reset none. -/
  msixSent : List Nat := []
  /-- vectors. 17 R464. MSI-X pending bits: raised while disabled; reset none. -/
  msixPend : List Nat := []
  /-- 9 bits. 17 R465. HOST_IRQ_CAUSE; reset 0. -/
  irqCause : BitVec 32 := 0
  /-- 32 bits by requester. 17 R467. TIME_NOW shadows; reset none. -/
  shadows : Map (BitVec 32) := []
  /-- values by requester. 17 R467. Value returned by the latest register read; reset none. -/
  readOut : Map (BitVec 64) := []
  /-- 16 windows. 10 R310; reset disabled. -/
  windows : Map Window := []
  /-- 16 bits, sticky. 17 R469. HOST_WIN_IRQ_PEND; reset 0 S. -/
  irqPend : BitVec 32 := 0
  /-- 65,536 lines. 10 R317. Remote-line cache, most recently used first; reset empty. -/
  cache : List CacheLine := []
  /-- completions. 10 R312. Host completions given, oldest first; reset none. -/
  resps : List HostResp := []
  /-- accesses. 10 R313, R316. Host accesses that wait behind an ACQUIRE, a read or for a place, in the order of delivery; reset none. -/
  waiting : List HostReq := []
  /-- records. 13 R377. CXL event records, oldest first; reset none. -/
  events : List CxlEvent := []
  /-- handles. 13 R377. Next record handle; reset [1]. -/
  nextHandle : Nat := 0
  /-- settings. 13 R377. Event interrupt policy; reset [1]. -/
  evtPolicy : List Nat := []
  /-- bytes. 13 R377. Output payload of the latest memory-device mailbox command; reset [1]. -/
  cxlOut : List Nat := []
  /-- 1 bit. 13 R377. Return code of the latest memory-device mailbox command: Unsupported (else Success); reset [1]. -/
  cxlUnsupported : Bool := false
  /-- bytes. 17 R464. BAR0 0x00_0000 to 0x01_FFFF as last written: CXL component registers (HDM, IDE, RAS), device registers and the memory-device mailbox; reset [1]. -/
  cxlRegs : List Host.Cell := []
  /-- session. 14 R402. IDE secure session in force; reset none. -/
  ideSession : Option Nat := none
  /-- 64 B. 14 R389, R402. The keys that HKDF derives for the session in force; reset none. -/
  ideSecret : Option (List Byte) := none
  /-- exchange. 14 R402. Session exchange in progress: header, host key and ciphertext; reset none. -/
  ideOpening : Option (MHdr × List Byte × List Byte) := none
  /-- streams. 13 R374. IDE streams; reset unkeyed. -/
  ide : Map IdeStream := []
  /-- keys. 14 R389. The AES-256 key of each IDE stream that has been keyed, by the number of the key (log entry 5); reset none. -/
  ideKeys : Map Nat := []
  /-- counter, sticky. 13 R374. IDE failure count; reset 0 S. -/
  ideFails : Nat := 0
  /-- bytes. 11 R330. Host memory that the part has written over CXL.io (fault records); reset none. -/
  hostMem : List Host.Cell := []
  deriving DecidableEq, Repr

/-! ### Mailboxes (13) -/

/-- The function of a transition (13 R385). -/
inductive FnKey where
  | port (p : Nat)
  | export_
  | window (w : Nat)
  | xlat (kind tenant addr len : Nat)
  | qp (n : Nat)
  | tenant (t : Nat)
  | unit (kind index : Nat)
  | firmware
  deriving DecidableEq, Repr

/-- A transition in progress (13 R385): its function, the command that started it, and the one queued behind it. -/
structure Transition where
  /-- choice. The function in transition. -/
  key : FnKey
  /-- command head. The command that started it. -/
  hdr : MHdr
  /-- 16 bits. Its opcode. -/
  opcode : Nat
  /-- command. The command queued behind it. -/
  queued : Option Instr := none
  /-- local time at which it started -/
  at_ : Nat := 0
  /-- 15 R432. Its end during a live handover, which the new image completes: STATUS and result. -/
  ended : Option (Nat × List Byte) := none
  deriving DecidableEq, Repr

/-- The end of a long command during a live handover (13 R386, 15 R432). -/
structure FrozenEvent where
  /-- command head. The command. -/
  hdr : MHdr
  /-- 16 bits. Its opcode. -/
  opcode : Nat
  /-- 16 bits. STATUS. -/
  status : Nat
  /-- bytes. Result. -/
  result : List Byte
  deriving DecidableEq, Repr

/-- An event record (13 R383). -/
structure EvtRec where
  /-- 16 bits. Opcode of the command. -/
  opcode : Nat
  /-- status. Status. -/
  status : Nat
  /-- 32 bits. SEQ. -/
  seq : BitVec 32
  /-- bytes. Result. -/
  data : List Byte
  /-- 1 bit. Phase. -/
  phase : Bool := false
  deriving DecidableEq, Repr

/-- The kept result of a long command (13 R383). -/
structure LongResult where
  /-- 32 bits. SEQ. -/
  seq : BitVec 32
  /-- 16 bits. Opcode. -/
  opcode : Nat
  /-- status. Status. -/
  status : Nat
  /-- bytes. Result. -/
  result : List Byte
  deriving DecidableEq, Repr

/-- One mailbox (13 R378, 17 R471). -/
structure Mailbox where
  /-- 4 KiB. 13 R380. Command buffer; unlisted bytes are 0; reset [1]. -/
  buf : List Host.Cell := []
  /-- 1 bit. 17 R471. GO; reset 0. -/
  go : Bool := false
  /-- 1 bit. 17 R471. BUSY; reset 0. -/
  busy : Bool := false
  /-- 16 bits, saturating. 17 R471. OVERRUN; reset 0. -/
  overrun : Nat := 0
  /-- 32 bits. 17 R471. MBX_EVT_HEAD; reset 0. -/
  head : BitVec 32 := 0
  /-- 32 bits. 17 R471. MBX_EVT_TAIL; reset 0. -/
  tail : BitVec 32 := 0
  /-- 64 records by TAIL mod 64. 13 R383. Event ring; reset empty. -/
  ring : Map EvtRec := []
  /-- records. 13 R383. Records waiting for space, oldest first, with their NOTIFY; reset none. -/
  waiting : List (EvtRec × Bool) := []
  /-- at most 64. 13 R383. Results of the latest long commands, oldest first; reset none. -/
  results : List LongResult := []
  /-- 1,024 bits. 13 R379. Tenants assigned to the mailbox (4 to 7); reset [1]. -/
  tenants : BitVec 1024 := 0
  /-- report. 14 R406. Report last built on this mailbox: nonce and bytes; reset none. -/
  report : Option (BitVec 256 × List Byte) := none
  /-- 1 bit. 14 R411. A command taken during a handover; reset none. -/
  stalled : Option Instr := none
  /-- local time. 14 R411. When that command arrived; reset 0. -/
  stalledAt : Nat := 0
  deriving DecidableEq, Repr

/-- The eight mailboxes and the transitions (13). -/
structure Mailboxes where
  /-- 8 mailboxes. 13 R378; reset R471. -/
  boxes : Map Mailbox := []
  /-- transitions. 13 R385; reset none. -/
  trans : List Transition := []
  /-- count. 13 R378. In-band interrupts raised on I3C; reset [1]. -/
  ibis : Nat := 0
  /-- list. 15 R432. Ends of long commands that wait for the new image, oldest first; reset none. -/
  frozen : List FrozenEvent := []
  deriving DecidableEq, Repr

/-! ### Security (14) -/

/-- Stages of a revocation (14 R413). -/
inductive RevStage where
  | fencing
  | erasing
  deriving DecidableEq, Repr

/-- A revocation in progress (14 R413). -/
structure Revocation where
  /-- local time. Start. -/
  t0 : Nat
  /-- number. Fence in force. -/
  fence : Nat
  /-- choice. Step reached. -/
  stage : RevStage := .fencing
  /-- list. Frames still to be scrubbed. -/
  frames : List (Nat × Nat) := []
  deriving DecidableEq, Repr

/-- A region digest record (14 R408). -/
structure RegionRec where
  /-- 64 bits. Address. -/
  fva : Nat
  /-- bytes. Length. -/
  len : Nat
  /-- 64 bits. Configuration epoch. -/
  epoch : Nat
  /-- 64 bits. Time. -/
  time : Nat
  /-- 256 bits. Digest. -/
  digest : BitVec 256
  deriving DecidableEq, Repr

/-- A tenant (14 R395). -/
structure Tenant where
  /-- 1 bit. 14 R395. Confidential mode; fixed at TENANT_CREATE. -/
  conf : Bool
  /-- identifier. 14 R395. Memory key; fresh at TENANT_CREATE. -/
  memKey : Nat
  /-- 4 slots. 14 R396. Slot keys: 32 bytes in a KEYED slot, absent in an EMPTY one; EMPTY at TENANT_CREATE. -/
  slots : Map (List Byte) := []
  /-- slot. 14 R396. Send slot; none at TENANT_CREATE. -/
  sendSlot : Option Nat := none
  /-- slots. 14 R401. Slots whose CTR has passed 2^47 and been reported; none at TENANT_CREATE. -/
  worn : List Nat := []
  /-- revocation. 14 R413; none at TENANT_CREATE. -/
  rev : Option Revocation := none
  /-- at most 32. 14 R409. Region digest records; none at TENANT_CREATE. -/
  regions : List RegionRec := []
  deriving DecidableEq, Repr

/-- A key agreement in progress (14 R399). -/
structure KeyEx where
  /-- 10 bits. Tenant. -/
  tenant : Nat
  /-- 13 bits. Peer node. -/
  peer : Nat
  /-- 0-3. Slot to be keyed. -/
  slot : Nat
  /-- the command, once one has armed this end -/
  hdr : Option MHdr
  /-- 256 bits. Digest of EK the tenant gave. -/
  ekDigest : BitVec 256
  /-- 1 bit. The slot becomes the send slot. -/
  send : Bool
  /-- local time. Start. -/
  startAt : Nat
  /-- 16 bits. 14 R399. XID, once known. -/
  xid : Option (BitVec 16) := none
  /-- fragments received: EK by FRAG, CT by FRAG -/
  eks : Map (List Byte) := []
  /-- list. 14 R399. CT fragments received, by FRAG. -/
  cts : Map (List Byte) := []
  /-- EK fragments have been sent: the 9 B of slot state and KCV that the last of them carried -/
  ekSent : Option (List Byte) := none
  /-- CT fragments have been sent: the number of the randomness encapsulated with -/
  rnd : Option Nat := none
  /-- a DELIVER that has come before every CT fragment -/
  deliver : Option (List Byte) := none
  /-- DELIVER has been sent -/
  delivered : Bool := false
  deriving DecidableEq, Repr

/-- A region digest in progress (14 R409). -/
structure DigestJob where
  /-- 10 bits. Tenant. -/
  tenant : Nat
  /-- 64 bits. Address. -/
  fva : Nat
  /-- bytes. Length. -/
  len : Nat
  /-- command head. The command that waits. -/
  hdr : MHdr
  /-- lines read from other nodes, by their place in the region -/
  far : Map (List Byte) := []
  /-- reads of other nodes that are out -/
  left : Nat := 0
  /-- a read of another node has failed -/
  bad : Bool := false
  deriving DecidableEq, Repr

/-- The Evrix security core (14). -/
structure Evrix where
  /-- 1,024 tenants. 14 R395; none after reset (R390). -/
  tenants : Map Tenant := []
  /-- tenant IDs. 14 R414. IDs revoked and not created again, with their confidential mode; none after reset. -/
  revoked : List (Nat × Bool) := []
  /-- exchanges. 14 R399; reset none. -/
  exs : List KeyEx := []
  /-- digests. 14 R409; reset none. -/
  digests : List DigestJob := []
  /-- identifier. 14 R389. Node KEM key; fresh at each boot. -/
  nodeKem : Nat := 0
  /-- identifier. 14 R389. Firmware memory key; fresh at each boot. -/
  fwKey : Nat := 0
  /-- identifier. 14 R389. Alias key; fresh at each boot and handover. -/
  alias_ : Nat := 0
  /-- 32 bits. 14 R407. ALIAS_SEQ: alias keys generated since the last cold or warm reset. -/
  aliasSeq : Nat := 0
  /-- 1 bit. 14 R404, R410. Debug port enabled; reset [1]. -/
  debugOn : Bool := false
  /-- 1 bit. 14 R404. Debug port held disabled until a cold reset; reset [1]. -/
  debugLatched : Bool := false
  /-- 64 bits. 14 R405. Configuration epoch; 1 at READY. -/
  epoch : Nat := 1
  deriving DecidableEq, Repr

/-! ### Service, firmware and flash (14, 15) -/

/-- A firmware slot (14 R392): its image's bytes, SVN and ROLLBACK_FLOOR and whether the signature verifies. -/
structure FwSlot where
  /-- bytes. Image; as shipped empty. -/
  bytes : List Host.Cell := []
  /-- bytes. Length of the image; as shipped 0. -/
  len : Nat := 0
  /-- 0-64. SVN; as shipped 0. -/
  svn : Nat := 0
  /-- 0-64. ROLLBACK_FLOOR; as shipped 0. -/
  floor : Nat := 0
  /-- 1 bit. The image's signature verifies; as shipped slot A true, slot B false. -/
  sigOk : Bool := false
  deriving DecidableEq, Repr

/-- One configuration copy (15 R429, R440). -/
structure CfgCopy where
  /-- 1 bit. The copy's check holds; as shipped 0. -/
  valid : Bool := false
  /-- number. Sequence number of the copy; as shipped 0. -/
  seq : Nat := 0
  /-- node assignment. NODE_ASSIGN values kept; as shipped none. -/
  node : Option (Nat × Nat × Nat) := none
  /-- 1 bit. Slot to boot; as shipped A. -/
  slotB : Bool := false
  /-- frames. Retired frames; as shipped none. -/
  retired : List Nat := []
  deriving DecidableEq, Repr

/-- The configuration flash and the fuses (14 R391, R392, 15 R429). -/
structure Flash where
  /-- two copies. 14 R392; contents as shipped [1]. -/
  copyA : CfgCopy := {}
  /-- copy. 15 R429. The second configuration copy; contents as shipped [1]. -/
  copyB : CfgCopy := {}
  /-- slots A and B. 14 R392; contents as shipped [1]. -/
  slotA : FwSlot := { sigOk := true }
  /-- slot. 14 R392. Slot B; contents as shipped [1]. -/
  slotB : FwSlot := {}
  /-- 0-64. 14 R392. FUSED_SVN, a thermometer of 64 fuses; as shipped [1]. -/
  fusedSvn : Nat := 0
  /-- 2 bits. 14 R410. Fuses: debug-disable blown, production lifecycle; as shipped [1]. -/
  debugBlown : Bool := false
  /-- 1 bit. 14 R410. Production lifecycle fuse; as shipped [1]. -/
  production : Bool := false
  deriving DecidableEq, Repr

/-- An error record (15 R419). -/
structure ErrRec where
  /-- 10 bits. Error unit. -/
  unit : Nat
  /-- number. Code. -/
  code : Nat
  /-- choice. Severity. -/
  sev : Nat
  /-- 16 bits, saturating. Occurrences joined. -/
  count : Nat
  /-- 64 bits, ns. First occurrence. -/
  first : Nat
  /-- 64 bits, ns. Last occurrence. -/
  last : Nat
  /-- bytes. Detail. -/
  detail : List Byte
  deriving DecidableEq, Repr

/-- The items of one error unit (15 R418). -/
structure UnitRec where
  /-- record, sticky. 15 R418. FIRST; reset none. -/
  first : Option ErrRec := none
  /-- 32 bits, saturating, sticky. 15 R418. COUNT; reset 0. -/
  count : Nat := 0
  /-- 32 bits, saturating, sticky. 15 R418. LOST; reset 0. -/
  lost : Nat := 0
  /-- 32 bits, saturating, sticky. 15 R418. CORRECTED; reset 0. -/
  corrected : Nat := 0
  deriving DecidableEq, Repr

/-- A record of the error log (15 R419, R420). -/
structure LogRec where
  /-- 32 bits. Record number. -/
  id : Nat
  /-- record. The record. -/
  entry : ErrRec
  /-- 1 bit. It has been returned to a reader. -/
  returned : Bool := false
  deriving DecidableEq, Repr

/-- Error units, the error log and ERR_SUMMARY (15). -/
structure Errors where
  /-- units. 15 R418; reset clear. -/
  units : Map UnitRec := []
  /-- at most 4,096. 15 R419. The log, oldest first; reset empty. -/
  log : List LogRec := []
  /-- 32 bits. 15 R419. ID of the next record; 0 at cold reset. -/
  nextId : Nat := 0
  /-- 14 bits, W1C, sticky. 15 R422. ERR_SUMMARY; reset 0 S. -/
  summary : BitVec 32 := 0
  deriving DecidableEq, Repr

/-- Module states (16 R443). -/
inductive ModState where
  | off
  | sequencing
  | boot
  | ready
  | recovery
  | reset
  | tripped
  deriving DecidableEq, Repr

/-- What a MOD_RESET, watchdog or recovery activation left running (16 R443, 15 R429). -/
structure Service where
  /-- 1 bit. 04 R94. The assigned number has taken effect: an end-point port has been enabled since READY or since NODE_ASSIGN; reset no. -/
  numbered : Bool := false
  /-- state. 16 R443. Module state; BOOT right after reset (the reset is complete, bring-up runs). -/
  mod : ModState := .boot
  /-- 64 bits. 17 R465. Local time in ns; 0 at the power-good of a cold reset, advancing since. -/
  now : Nat := 0
  /-- 1 bit. 00 R2. PERSONALITY as sampled (true BRIDGE); reset [1]. -/
  bridge : Bool := false
  /-- 1 bit. 16 R457. PERSONALITY strap (true tied to return); open reads as SWITCH. -/
  strap : Bool := false
  /-- 4 bits. 17 R465. STEPPING; the part's own [1]. -/
  stepping : Nat := 0
  /-- 38 bits. 11 R323. Base of the firmware-owned HBM range of this firmware version and personality; the part's own [9]. -/
  fwBase : Nat := 0x3FE9F00000
  /-- 13 bits. 17 R465. Node number held (R17, R15); reset invalid. -/
  node : Option Node := none
  /-- 1 bit. 01 R24, 02 R51. Causeway closed; closed at reset. -/
  causewayClosed : Bool := true
  /-- 1 bit. 02 R52. A trunk enable has started opening the causeway; reset [1]. -/
  causewayOpening : Bool := false
  /-- 8 bits. 12 R355. Ring membership set by RING_ROUTE_SET; none until the first. -/
  ring : Option (BitVec 8) := none
  /-- 0 EAST, 1 WEST, 2 DEFAULT by pair. 12 R355. Ring routes; default. -/
  routes : Map Nat := []
  /-- trunks by PORT index. 12 R357; reset default. -/
  trunks : Map Trunk := []
  /-- ns. 12 R367. Sampling period; default 100 us. -/
  samplePeriod : Nat := 100000
  /-- local time. 15 R427. Last heartbeat, once one has arrived; reset none. -/
  heartbeat : Option Nat := none
  /-- local time. 15 R427. Start of the heartbeat interval in progress; reset [1]. -/
  beatBase : Nat := 0
  /-- count. 15 R427. Consecutive misses; reset 0. -/
  misses : Nat := 0
  /-- 1 bit. 13 R386, 17 R465. HANDOVER; reset 0. -/
  handover : Bool := false
  /-- image. 14 R411. Running image's slot (true B); as booted [1]. -/
  runB : Bool := false
  /-- 1 bit. 14 R411. PENDING; reset 0. -/
  pending : Bool := false
  /-- 1 bit. 14 R407, R411. ACTIVATE_FAILED; reset 0. -/
  activateFailed : Bool := false
  /-- 1 bit. 14 R407. HELD of the report being built: the request was held across a handover; reset 0. -/
  held : Bool := false
  /-- header. 14 R392. FW_STAGE whose verification runs; reset none. -/
  staging : Option MHdr := none
  /-- local time. 15 R434. When PRSNT_EARLY_N was deasserted; reset none. -/
  removedAt : Option Nat := none
  /-- endpoint requests. 04 R87. SPRAY_MASK_SET waiting for MASK_ACK: end-point, bits, header, send time; reset none. -/
  masks : List (Nat × BitVec 32 × MHdr × Nat) := []
  /-- units. 15 R412. HBM channels in unit reset; reset none. -/
  hbmResetting : List Nat := []
  /-- message streams of this node as a sender (12 R351, R352): peer, SEQ, packet, first and last attempt, last ACK was BUSY; reset none. -/
  sends : List (Nat × BitVec 16 × Packet × Nat × Nat × Bool) := []
  /-- message completions at the sender (12 R351): peer, SEQ, status; reset none. -/
  sendDone : List (Nat × BitVec 16 × Nat) := []
  /-- message streams of this node as a receiver (12 R352): H and the statuses by SEQ; reset none. -/
  streams : Map (BitVec 16 × Map Nat) := []
  /-- counter. 12 R352. Stale messages; reset 0. -/
  staleMsgs : Nat := 0
  /-- end-point numbers. 08 R301. Refusals to arm reported; reset none. -/
  armRefusals : Nat := 0
  deriving DecidableEq, Repr

/-! ### Power (16) -/

/-- Power, caps, brake, ballast and temperatures (16, 09 R283 to R286). Powers are in milliwatts unless said otherwise. -/
structure Power where
  /-- mV. 16 R441. Input voltage; reset [1]. -/
  inputMv : Nat := 72000
  /-- 1 bit. 16 R442. The input has risen through 60 V and stays in range; true while powered. -/
  inputOk : Bool := true
  /-- 1 bit. 16 R442. Rails on; true after the power-good of reset. -/
  railsOn : Bool := true
  /-- 1 bit. 16 R442. Power-good; true after reset. -/
  powerGood : Bool := true
  /-- 1 bit. 16 R457. EOFF_N asserted; released. -/
  eoff : Bool := false
  /-- 1 bit. 16 R457. PWR_BRAKE_N asserted; released. -/
  brakePin : Bool := false
  /-- 1 bit. 16 R457. MOD_RESET_N asserted; released. -/
  modReset : Bool := false
  /-- W by mailbox. 16 R447. Caps of mailboxes 1 and 2; none after reset. -/
  caps : Map Nat := []
  /-- mW. 16 R448. Cap target in force; 800 W without a cap. -/
  target : Nat := 800000
  /-- 1 bit. 16 R448. A followed decrease is falling to the cap; reset 0. -/
  following : Bool := false
  /-- 1 bit. 16 R448, R451. The limit climbs from B after a cap step or a brake; reset 0. -/
  climbing : Bool := false
  /-- 1 bit. 16 R448. The climb is a cap step's; reset 0. -/
  stepClimb : Bool := false
  /-- mW. 16 R445. Input power of the latest interval; reset [1]. -/
  pin : Nat := 0
  /-- samples. 16 R446, 09 R285, 14 R404. Input power of the latest control intervals, newest first; reset none. -/
  history : List Nat := []
  /-- mW x intervals and count. 14 R404. Sum over the 100 ms window in progress; reset 0. -/
  sumNow : Nat := 0
  /-- count. 14 R404. Control intervals summed in the 100 ms window in progress; reset 0. -/
  cntNow : Nat := 0
  /-- mW. 14 R404. Mean of the latest complete 100 ms window; reset [1]. -/
  mean100 : Nat := 0
  /-- 1/16 steps. 16 R445. Limiter actions taken: ballast stopped (0-1), cluster issue (0-16), HBM (0-12), admission (0-8); reset 0. -/
  actBallast : Nat := 0
  /-- 0-16. 16 R445. Cluster issue steps of the limiter in force; reset 0. -/
  actIssue : Nat := 0
  /-- 0-12. 16 R445. HBM steps of the limiter in force; reset 0. -/
  actHbm : Nat := 0
  /-- 0-8. 16 R445. Admission steps of the limiter in force; reset 0. -/
  actAdmit : Nat := 0
  /-- 1 bit. 16 R443. THROTTLED; reset 0. -/
  throttled : Bool := false
  /-- mW. 16 R454. Thermal limit while THROTTLED; reset [1]. -/
  thermalLimit : Nat := 0
  /-- local time. 16 R454. Last adjustment of the thermal limit; reset [1]. -/
  thermalAt : Nat := 0
  /-- degrees C. 16 R453. Latest readings; reset [1]. -/
  temps : Temps := { junction := 0, hbm := [0, 0, 0, 0], inlet := 0 }
  /-- degrees C sums and count. 14 R404. Temperatures summed over the 100 ms window in progress; reset 0. -/
  tempSum : Temps := { junction := 0, hbm := [0, 0, 0, 0], inlet := 0 }
  /-- count. 14 R404. Readings summed in the 100 ms window in progress; reset 0. -/
  tempCnt : Nat := 0
  /-- degrees C. 14 R404. Mean of the latest complete 100 ms window; reset [1]. -/
  tempMean : Temps := { junction := 0, hbm := [0, 0, 0, 0], inlet := 0 }
  /-- 1 bit. 16 R455. Trip latched; reset 0. -/
  tripped : Bool := false
  /-- degrees C. 16 R455. Temperature that caused the trip; reset [1]. -/
  tripTemp : Int := 0
  /-- 1 bit. 16 R455. A trip is to be recorded after READY; reset 0. -/
  tripReport : Bool := false
  /-- local time. 16 R455. The READY that followed a trip; reset none. -/
  tripReady : Option Nat := none
  /-- 1 bit. 16 R455. A second trip within 60 s holds the module TRIPPED; reset 0. -/
  tripHeld : Bool := false
  /-- W. 09 R283. Ballast FLOOR; reset [1] (0, off). -/
  floor : Nat := 0
  /-- W/ms. 09 R283. DOWN; reset [1]. -/
  downRate : Nat := 0
  /-- W/ms. 09 R283. UP; reset [1]. -/
  upRate : Nat := 0
  /-- values set and waiting for the next control interval. 09 R283; reset none. -/
  ballastNext : Option (Nat × Nat × Nat) := none
  /-- mW. 09 R285. T of the previous interval; reset [1]. -/
  tPrev : Nat := 0
  /-- mW. 09 R285. Ballast B; reset 0. -/
  ballast : Nat := 0
  /-- mW. 09 R285. Ballast that one eligible cluster had to give in the latest interval, B_avail over their number; reset [1]. -/
  perCluster : Nat := 0
  /-- mW. 09 R285. P_ref, once an idle phase has begun; reset none. -/
  pRef : Option Nat := none
  /-- 1 bit. 09 R285. Ballast stopped by a brake or cap step until the cap is met; reset 0. -/
  ballastOff : Bool := false
  /-- counter. 09 R286. BALLAST_SHORT; reset [1]. -/
  short : Nat := 0
  /-- counter. 09 R286. RAMP_MISS; reset [1]. -/
  rampMiss : Nat := 0
  /-- 10^-8 J. 09 R286. Ballast energy; reset [1]. -/
  energy : Nat := 0
  deriving DecidableEq, Repr

/-- The snapshots that coarsened counts are read from while a confidential tenant exists (14 R404). -/
structure Snap where
  /-- counters. Port counters at the snapshot; reset empty. -/
  ports : Map PortCount := []
  /-- counters. Arbiter counters at the snapshot; reset empty. -/
  arbs : Map Arbiter := []
  /-- count. Hot-line counts at the snapshot; reset 0. -/
  hot : Nat := 0
  /-- count. Ballast shortfalls at the snapshot; reset 0. -/
  short : Nat := 0
  /-- count. Ramp misses at the snapshot; reset 0. -/
  rampMiss : Nat := 0
  /-- 10 nJ. Energy at the snapshot; reset 0. -/
  energy : Nat := 0
  /-- summaries. Summaries at the snapshot; reset empty. -/
  summaries : List Summary := []
  /-- counters. Lane test counts at the snapshot; reset empty. -/
  lanes : Map (Nat × Nat) := []
  /-- counts. Closed chunks of each operation at the snapshot; reset empty. -/
  closed : Map Nat := []
  /-- local time. 14 R404. When it was taken; reset 0. -/
  at_ : Nat := 0
  deriving DecidableEq, Repr

/-- The whole state of the block. -/
structure State where
  /-- structure. Service; reset as its fields. -/
  svc : Service := {}
  /-- structure. Errors; reset as its fields. -/
  err : Errors := {}
  /-- structure. Mailboxes; reset as its fields. -/
  mbx : Mailboxes := {}
  /-- lanes by LANE index. 02, 15 R417. An absent lane is a default lane; reset none listed. -/
  lanes : Map Lane := []
  /-- ports by PORT index. 03, 15 R417. An absent port is a default port; reset none listed. -/
  ports : Map Port := []
  /-- structure. Switch core; reset as its fields. -/
  core : Core := {}
  /-- structure. HBM and home; reset as its fields. -/
  home : Home := {}
  /-- structure. Requester; reset as its fields. -/
  req : Requester := {}
  /-- structure. Collective engine; reset as its fields. -/
  coll : Coll := {}
  /-- structure. Reedbeds; reset as its fields. -/
  reed : Reedbed := {}
  /-- structure. Translation; reset as its fields. -/
  xlat : Xlat := {}
  /-- structure. Queue pairs and movers; reset as its fields. -/
  queues : Queues := {}
  /-- structure. Host side; reset as its fields. -/
  host : HostSide := {}
  /-- structure. Evrix; reset as its fields. -/
  sec : Evrix := {}
  /-- structure. Flash and fuses; contents as shipped. -/
  flash : Flash := {}
  /-- structure. Power; reset as its fields. -/
  pwr : Power := {}
  /-- structure. Coarsening snapshots; reset as its fields. -/
  snap : Snap := {}
  /-- count. The model's own: how many free values have been drawn (log entry 5); DESIGN CHOICE 0. -/
  free : Nat := 0
  /-- commands. The queue of commands that wait, first in, first out; empty after reset. -/
  pending : List Instr := []
  deriving DecidableEq, Repr

/-- The machine right after reset: the power-good of a cold reset has come, the module is in BOOT (16 R443), every field at the
default written at it. The READY command ends bring-up (log entry 8). -/
def State.reset : State := {}

end Sys2Proof.Machine
end

