-- ==== Sys2Proof/Machine/Ops.lean ====
section
/-! DEFINITION. The named operations over maps, byte memories and the parts of the state, and the operations every family
shares: recording an error (15 R418 to R422), raising an interrupt (13 R376), tenants, fabric addresses, and the
queue of packets of the part's own agents. -/

namespace Sys2Proof

/-- The value at a key, if any. -/
def Map.find {α : Type} : Map α → Nat → Option α
  | [], _ => none
  | (k, v) :: r, q => if q = k then some v else Map.find r q

/-- The value at a key, or a default. -/
def Map.look {α : Type} (m : Map α) (q : Nat) (d : α) : α :=
  match Map.find m q with
  | some v => v
  | none => d

/-- Write one key, keeping the keys in rising order. -/
def Map.put {α : Type} : Map α → Nat → α → Map α
  | [], q, v => [(q, v)]
  | (k, w) :: r, q, v =>
    if q < k then (q, v) :: (k, w) :: r
    else if q = k then (q, v) :: r
    else (k, w) :: Map.put r q v

/-- Remove one key. -/
def Map.del {α : Type} : Map α → Nat → Map α
  | [], _ => []
  | (k, w) :: r, q => if q = k then Map.del r q else (k, w) :: Map.del r q

/-- Apply a function to the value at a key, starting from a default. -/
def Map.upd {α : Type} (m : Map α) (q : Nat) (d : α) (f : α → α) : Map α := Map.put m q (f (Map.look m q d))

/-- Apply a function to the value at a key that is present; an absent key stays absent. -/
def Map.adj {α : Type} (m : Map α) (q : Nat) (f : α → α) : Map α :=
  match Map.find m q with
  | some v => Map.put m q (f v)
  | none => m

/-- Apply a function to every value. -/
def Map.each {α : Type} (m : Map α) (f : Nat → α → α) : Map α := m.map (fun kv => (kv.1, f kv.1 kv.2))

namespace Machine

/-! ### Byte memories: canonical lists of cells, an unlisted byte reads 0 (log entry 2) -/

/-- The byte at an address. -/
def memGet : List Host.Cell → Nat → Byte
  | [], _ => 0
  | (k, b) :: r, a => if a = k then b else memGet r a

/-- Write one byte, keeping the list sorted and free of zero entries. -/
def memSet : List Host.Cell → Nat → Byte → List Host.Cell
  | [], a, b => if b = 0 then [] else [(a, b)]
  | (k, c) :: r, a, b =>
    if a < k then (if b = 0 then (k, c) :: r else (a, b) :: (k, c) :: r)
    else if a = k then (if b = 0 then r else (a, b) :: r)
    else (k, c) :: memSet r a b

/-- `n` bytes from an address upward. -/
def memGetN (m : List Host.Cell) (a : Nat) : Nat → List Byte
  | 0 => []
  | n + 1 => memGet m a :: memGetN m (a + 1) n

/-- Write bytes from an address upward. -/
def memSetN (m : List Host.Cell) (a : Nat) : List Byte → List Host.Cell
  | [] => m
  | b :: r => memSetN (memSet m a b) (a + 1) r

/-- Write the bytes whose mask bit is set, bit `i` of the mask selecting byte `i` (04 R91). -/
def memSetMasked (m : List Host.Cell) (a : Nat) (mask : Nat) : List Byte → List Host.Cell
  | [] => m
  | b :: r => memSetMasked (if mask % 2 = 1 then memSet m a b else m) (a + 1) (mask / 2) r

/-- Remove every listed byte of a range: it then reads 0. -/
def memZero (m : List Host.Cell) (lo hi : Nat) : List Host.Cell := m.filter (fun c => c.1 < lo || hi ≤ c.1)

/-- The canonical form: addresses strictly rising and no zero byte listed. -/
def memWf : List Host.Cell → Bool
  | [] => true
  | (_, b) :: [] => b != 0
  | (k, b) :: (k', b') :: r => b != 0 && decide (k < k') && memWf ((k', b') :: r)

/-! ### Bytes and numbers, little-endian (00, "Numbers, units and names") -/

/-- The low `n` bytes of a number, least significant first. -/
def leBytes (v : Nat) : Nat → List Byte
  | 0 => []
  | n + 1 => BitVec.ofNat 8 v :: leBytes (v / 256) n

/-- The number a little-endian byte list spells. -/
def leNat : List Byte → Nat
  | [] => 0
  | b :: r => b.toNat + 256 * leNat r

/-- Bytes [off + n - 1 : off] of a list, zero where the list ends. -/
def bytesAt (l : List Byte) (off n : Nat) : List Byte :=
  let t := (l.drop off).take n
  t ++ List.replicate (n - t.length) 0

/-- The little-endian number at bytes [off + n - 1 : off]. -/
def leAt (l : List Byte) (off n : Nat) : Nat := leNat (bytesAt l off n)

/-- Pad with zero bytes, or cut, to a length. -/
def padTo (n : Nat) (l : List Byte) : List Byte := l.take n ++ List.replicate (n - l.length) 0

/-- Bit `i` of a number. -/
def bitOf (v i : Nat) : Bool := v / 2 ^ i % 2 == 1

/-- Saturating addition below 2^w. -/
def satAdd (w a b : Nat) : Nat := min (a + b) (2 ^ w - 1)

/-- Ceiling division. -/
def ceilDiv (a b : Nat) : Nat := (a + b - 1) / b

/-- 1 for true. -/
def b2n (b : Bool) : Nat := if b then 1 else 0

/-! ### Node numbers (01 R12) -/

/-- Pair index, bits [12:10]. -/
def nodePair (n : Node) : Nat := n.toNat / 1024
/-- Kind, bit [9]: true for infrastructure. -/
def nodeInfra (n : Node) : Bool := n.toNat / 512 % 2 == 1
/-- Index, bits [8:0]. -/
def nodeIndex (n : Node) : Nat := n.toNat % 512
/-- The node number of a pair, kind and index. -/
def mkNode (pair : Nat) (infra : Bool) (index : Nat) : Node := BitVec.ofNat 13 (pair * 1024 + b2n infra * 512 + index)

/-! ### Updates of the parts of the state -/

def State.onSvc (s : State) (f : Service → Service) : State := { s with svc := f s.svc }
def State.onErr (s : State) (f : Errors → Errors) : State := { s with err := f s.err }
def State.onMbx (s : State) (f : Mailboxes → Mailboxes) : State := { s with mbx := f s.mbx }
def State.onCore (s : State) (f : Core → Core) : State := { s with core := f s.core }
def State.onHome (s : State) (f : Home → Home) : State := { s with home := f s.home }
def State.onReq (s : State) (f : Requester → Requester) : State := { s with req := f s.req }
def State.onColl (s : State) (f : Coll → Coll) : State := { s with coll := f s.coll }
def State.onReed (s : State) (f : Reedbed → Reedbed) : State := { s with reed := f s.reed }
def State.onXlat (s : State) (f : Xlat → Xlat) : State := { s with xlat := f s.xlat }
def State.onQueues (s : State) (f : Queues → Queues) : State := { s with queues := f s.queues }
def State.onHost (s : State) (f : HostSide → HostSide) : State := { s with host := f s.host }
def State.onSec (s : State) (f : Evrix → Evrix) : State := { s with sec := f s.sec }
def State.onFlash (s : State) (f : Flash → Flash) : State := { s with flash := f s.flash }
def State.onPwr (s : State) (f : Power → Power) : State := { s with pwr := f s.pwr }

/-- A port (15 R417). -/
def State.port (s : State) (p : Nat) : Port := s.ports.look p {}
def State.onPort (s : State) (p : Nat) (f : Port → Port) : State := { s with ports := s.ports.upd p {} f }
def State.onLink (s : State) (p : Nat) (f : Link → Link) : State := s.onPort p (fun q => { q with link := f q.link })
def State.onCnt (s : State) (p : Nat) (f : PortCount → PortCount) : State := s.onPort p (fun q => { q with cnt := f q.cnt })
/-- A lane (15 R417). -/
def State.lane (s : State) (l : Nat) : Lane := s.lanes.look l {}
def State.onLane (s : State) (l : Nat) (f : Lane → Lane) : State := { s with lanes := s.lanes.upd l {} f }
/-- A mailbox (13 R378). -/
def State.box (s : State) (m : Nat) : Mailbox := s.mbx.boxes.look m {}
def State.onBox (s : State) (m : Nat) (f : Mailbox → Mailbox) : State := s.onMbx (fun b => { b with boxes := b.boxes.upd m {} f })
/-- A cluster (09 R249). -/
def State.cluster (s : State) (c : Nat) : Cluster := s.reed.clusters.look c {}
def State.onCluster (s : State) (c : Nat) (f : Cluster → Cluster) : State :=
  s.onReed (fun r => { r with clusters := r.clusters.upd c {} f })
/-- A context of a cluster (09 R249). -/
def State.ctx (s : State) (x : CtxId) : Ctx := (s.cluster x.cluster).ctxs.look x.ctx {}
def State.onCtx (s : State) (x : CtxId) (f : Ctx → Ctx) : State :=
  s.onCluster x.cluster (fun c => { c with ctxs := c.ctxs.upd x.ctx {} f })
/-- A window of the bridge (10 R310). -/
def State.window (s : State) (w : Nat) : Window := s.host.windows.look w {}
def State.onWindow (s : State) (w : Nat) (f : Window → Window) : State :=
  s.onHost (fun h => { h with windows := h.windows.upd w {} f })
/-- A trunk port (12). -/
def State.trunk (s : State) (p : Nat) : Trunk := s.svc.trunks.look p {}
def State.onTrunk (s : State) (p : Nat) (f : Trunk → Trunk) : State :=
  s.onSvc (fun v => { v with trunks := v.trunks.upd p {} f })
def State.onTq (s : State) (p q : Nat) (f : TrunkQueue → TrunkQueue) : State :=
  s.onTrunk p (fun t => { t with queues := t.queues.upd q {} f })
/-- The window of a source at the home (05 R123). -/
def State.win (s : State) (src : Nat) : SrcWin := s.home.wins.look src {}
def State.onWin (s : State) (src : Nat) (f : SrcWin → SrcWin) : State :=
  s.onHome (fun h => { h with wins := h.wins.upd src {} f })
/-- A queue pair, where it exists (11 R338). -/
def State.qp (s : State) (n : Nat) : Option Qp := s.queues.qps.find n
def State.onQp (s : State) (n : Nat) (f : Qp → Qp) : State := s.onQueues (fun q => { q with qps := q.qps.adj n f })
/-- An operation, where the group has run one (08 R220). -/
def State.op (s : State) (g : Nat) : Option Op := s.coll.ops.find g
def State.onOp (s : State) (g : Nat) (f : Op → Op) : State := s.onColl (fun c => { c with ops := c.ops.adj g f })
/-- An operation of the bridge's collective agent. -/
def State.member (s : State) (g : Nat) : Option MemberOp := s.coll.members.find g
def State.onMember (s : State) (g : Nat) (f : MemberOp → MemberOp) : State :=
  s.onColl (fun c => { c with members := c.members.adj g f })
/-- A tenant, where it exists on the part (14 R395). -/
def State.tenant (s : State) (t : Nat) : Option Tenant := s.sec.tenants.find t
def State.onTenant (s : State) (t : Nat) (f : Tenant → Tenant) : State :=
  s.onSec (fun e => { e with tenants := e.tenants.adj t f })

/-! ### Free values (log entry 5) -/

/-- Draw an open number. -/
def State.drawNat (s : State) : Nat × State := (Config.freeNat s.free, { s with free := s.free + 1 })
/-- Draw `n` open bytes. -/
def State.drawBytes (s : State) (n : Nat) : List Byte × State :=
  ((List.range n).map (fun i => Config.freeByte (s.free + i)), { s with free := s.free + n })

/-! ### What the part has, by number (15 R417) -/

def isPort (p : Nat) : Bool := decide (p < 512) || p == 512 || p == 528
def isTrunk (p : Nat) : Bool := p == 512 || p == 528
def isLane (l : Nat) : Bool := decide (l < 560)
def isCtx (x : CtxId) : Bool := decide (x.cluster < 16) && decide (x.ctx < 4)

/-- The width code (02 R34) as a number of lanes. -/
def lanesOf (code : Nat) : Nat := if code == 0 then 1 else if code == 1 then 2 else if code == 2 then 4 else 16
/-- The part serves work: it has reached READY (13 R372). -/
def isReady (s : State) : Bool := s.svc.mod == .ready
/-- The part is READY and its firmware runs: during a live handover the commands in progress are frozen (15 R432). -/
def firmwareRuns (s : State) : Bool := isReady s && !s.svc.handover
/-- The die's logic runs: power-good and not held in reset (16 R443). -/
def isLive (s : State) : Bool := s.svc.mod == .ready || s.svc.mod == .recovery || s.svc.mod == .boot
/-- Apply a change while the part is READY; otherwise nothing happens, for the interface refuses work (13 R372). -/
def whenReady (s : State) (f : State → State) : State := if isReady s then f s else s
/-- This part's node number, 0 while none is held (17 R465). -/
def selfNode (s : State) : Node := match s.svc.node with | some n => n | none => 0
/-- This part's infrastructure index (01 R10). -/
def selfIndex (s : State) : Nat := nodeIndex (selfNode s)
/-- Does some tenant of the part have confidential mode (14 R404)? -/
def anyConf (s : State) : Bool := s.sec.tenants.any (fun t => t.2.conf)
def isConf (s : State) (t : Nat) : Bool := match s.tenant t with | some x => x.conf | none => false
/-- Is the tenant REVOKING on the part (14 R413)? -/
def isRevoking (s : State) (t : Nat) : Bool := match s.tenant t with | some x => x.rev.isSome | none => false

/-! ### Interrupts (13 R376, 17 R465) -/

/-- IDE streams by number: 0 CXL.io, 1 CXL.mem; an Insecure stream's requests are discarded (13 R374). -/
def ideBlocks (s : State) (stream : Nat) : Bool := s.host.ide.find stream == some .insecure

/-- The host's register accesses reach the part: the CXL link is trained, and its CXL.io stream is not Insecure (13 R373, R374). -/
def ioReaches (s : State) : Bool := s.host.linkUp && !ideBlocks s 0

/-- Raise an MSI-X vector: a fixed vector sets its HOST_IRQ_CAUSE bit whether or not it is masked; a masked vector stays pending, and so does one that the
host link cannot carry (13 R373, R374). Vectors 9 to 15 are never raised, by whatever name software has given them (R376; DEDUCED, log entry 86). -/
def raiseVec (v : Nat) (s : State) : State :=
  if 9 ≤ v && v ≤ 15 then s
  else
    let sends := ioReaches s
    s.onHost (fun h =>
      let h := if v < 9 then { h with irqCause := h.irqCause ||| BitVec.ofNat 32 (2 ^ v) } else h
      if h.msixEn.contains v && sends then { h with msixSent := h.msixSent ++ [v] }
      else if h.msixPend.contains v then h else { h with msixPend := h.msixPend ++ [v] })

/-! ### Errors (15 R417 to R423) -/

/-- Unit kinds (15 R417). -/
def kPart : Nat := 0
def kPort : Nat := 1
def kLane : Nat := 2
def kCore : Nat := 3
def kHome : Nat := 4
def kCluster : Nat := 5
def kMover : Nat := 6
def kHbm : Nat := 7
def kHost : Nat := 8
def kWindow : Nat := 9
def kEvrix : Nat := 10
def kPower : Nat := 11

/-- Does a UNIT value name a unit of the part (15 R417)? -/
def unitExists (kind index : Nat) : Bool :=
  if kind == kPart || kind == kCore || kind == kHome || kind == kEvrix || kind == kPower then index == 0
  else if kind == kPort then isPort index
  else if kind == kLane then isLane index
  else if kind == kCluster || kind == kWindow then decide (index < 16)
  else if kind == kMover then decide (index < 32)
  else if kind == kHbm then decide (index < 64)
  else if kind == kHost then decide (index < 2) || (decide (8 ≤ index) && decide (index < 16))
  else false

/-- UNIT of a kind and index. -/
def unitOf (kind index : Nat) : Nat := kind * 4096 + index

/-- The ERR_SUMMARY bit of a unit kind (15 R422). -/
def summaryBit (kind : Nat) : Nat :=
  if kind == 1 || kind == 2 then 0
  else if kind == 3 || kind == 4 then 1
  else if kind == 5 then 2
  else if kind == 6 then 3
  else if kind == 7 then 4
  else if kind == 8 || kind == 9 then 5
  else if kind == 11 then 7
  else 6

/-- Set a bit of ERR_SUMMARY; a change from 0 to 1 raises vector 2. -/
def setSummary (bit : Nat) (s : State) : State :=
  if s.err.summary.getLsbD bit then s
  else raiseVec 2 (s.onErr (fun e => { e with summary := e.summary ||| BitVec.ofNat 32 (2 ^ bit) }))

/-- Join an unreturned record of the same unit and code whose window of 1 ms is open (15 R420). -/
def joinLog (unit code t : Nat) : List LogRec → Option (List LogRec)
  | [] => none
  | r :: rest =>
    if r.entry.unit == unit && r.entry.code == code && !r.returned && decide (r.entry.first ≤ t) && decide (t < r.entry.first + 1000000) then
      some ({ r with entry := { r.entry with count := satAdd 32 r.entry.count 1, last := t } } :: rest)
    else (joinLog unit code t rest).map (fun l => r :: l)

/-- The CXL event record made from a new log record (13 R377). -/
def addCxlEvent (unit code sev : Nat) (s : State) : State :=
  raiseVec 8 (s.onHost (fun h =>
    { h with events := h.events ++ [{ handle := h.nextHandle, severity := sev, unit := unit, code := code }], nextHandle := h.nextHandle + 1 }))

/-- Record an error of severity 1 to 3: the unit's COUNT and FIRST, the log, LOST and ERR_SUMMARY (15 R418, R420 to R422). -/
def recordErr (kind index code sev : Nat) (detail : List Byte) (s : State) : State :=
  let unit := unitOf kind index
  let t := s.svc.now
  let rec0 : ErrRec := { unit := unit, code := code, sev := sev, count := 1, first := t, last := t, detail := padTo 8 detail }
  let s := s.onErr (fun e => { e with units := e.units.upd unit {} (fun u =>
    { u with count := satAdd 32 u.count 1, first := match u.first with | some f => some f | none => some rec0 }) })
  let s := match joinLog unit code t s.err.log with
    | some l => s.onErr (fun e => { e with log := l })
    | none =>
      if s.err.log.length < 4096 then
        addCxlEvent unit code sev (s.onErr (fun e =>
          { e with log := e.log ++ [{ id := e.nextId, entry := rec0 }], nextId := (e.nextId + 1) % 2 ^ 32 }))
      else
        setSummary 9 (s.onErr (fun e => { e with units := e.units.upd unit {} (fun u => { u with lost := satAdd 32 u.lost 1 }) }))
  setSummary (summaryBit kind) s

/-- A corrected event advances CORRECTED only (15 R418). -/
def recordCorrected (kind index : Nat) (s : State) : State :=
  s.onErr (fun e => { e with units := e.units.upd (unitOf kind index) {} (fun u => { u with corrected := satAdd 32 u.corrected 1 }) })

/-! ### Snapshots (14 R404) -/

/-- The counts as they stand. -/
def snapshot (s : State) : Snap :=
  { ports := s.ports.map (fun p => (p.1, p.2.cnt))
    arbs := s.core.arbs
    hot := s.home.hotCount
    short := s.pwr.short
    rampMiss := s.pwr.rampMiss
    energy := s.pwr.energy
    summaries := s.coll.summaries
    lanes := s.lanes.map (fun l => (l.1, l.2.test.errors, l.2.test.compared))
    closed := s.coll.ops.map (fun o => (o.1, o.2.closedCount))
    at_ := s.svc.now }

def takeSnapshot (s : State) : State := { s with snap := snapshot s }

/-- At the start of a 10 ms window, while a confidential tenant exists. -/
def settleSnapshot (s : State) : State := if anyConf s && s.svc.now % 10000000 == 0 then takeSnapshot s else s

/-- One nanosecond of local time, where the clock runs: after a power-good and while power stays good (17 R465). At the start of a 10 ms window the counts are
those before anything of that moment (00 R5, 14 R404). -/
def tick (s : State) : State :=
  if s.pwr.powerGood then settleSnapshot (s.onSvc (fun v => { v with now := (v.now + 1) % 2 ^ 64 })) else s

/-! ### The configuration epoch (14 R405) -/

def bumpEpoch (s : State) : State := s.onSec (fun e => { e with epoch := (e.epoch + 1) % 2 ^ 64 })

/-! ### Flash (14 R392, 15 R439): two copies with sequence numbers -/

/-- The configuration copy in force: the valid copy with the higher sequence number (14 R391). -/
def cfgNow (f : Flash) : CfgCopy :=
  if f.copyA.valid && (!f.copyB.valid || decide (f.copyB.seq ≤ f.copyA.seq)) then f.copyA
  else if f.copyB.valid then f.copyB else {}

/-- Write a change to both copies, one after the other. -/
def cfgWrite (g : CfgCopy → CfgCopy) (f : Flash) : Flash :=
  let c := cfgNow f
  let n := g { c with valid := true, seq := c.seq + 1 }
  { f with copyA := n, copyB := n }

end Machine
end Sys2Proof
end

