-- ==== Sys2Proof/Machine/Crypto.lean ====
section
/-! DEFINITION. The checks and hashes the spec computes over bytes: the CRC-16 of lane markers (02 R34), the CRC-64 of flits
(03 R58), SHA-256 (14 R389: the only hash function the part uses) with HMAC and HKDF over it (14 R399), and AES-256-GCM (04 R108,
14 R399). -/

namespace Sys2Proof.Machine

open Sys2Proof

/-! ### CRC-16 of markers and training frames: x^16 + x^12 + x^5 + 1 from 0xFFFF (02 R34) -/

/-- One bit into the CRC register. Bits are taken in increasing order, the order in which they are sent (02 R33), and the register
holds the coefficient of x^15 in bit 0, so that it too is sent highest power first (DEDUCED, log entry 11). -/
def crc16Step (r : Nat) (b : Bool) : Nat :=
  let r' := r / 2
  if (r % 2 == 1) != b then r' ^^^ 0x8408 else r'

/-- The CRC over the low `n` bits of a number, bit 0 first. -/
def crc16 (v : Nat) : Nat → Nat → Nat
  | 0, r => r
  | n + 1, r => crc16 (v / 2) n (crc16Step r (v % 2 == 1))

/-- CHECK of a 256-bit marker or frame head matches bits [239:0]. -/
def checkOk (w : BitVec 256) : Bool := w.toNat / 2 ^ 240 == crc16 w.toNat 240 0xFFFF

/-! ### CRC-64 of flits (03 R58) -/

/-- One bit into the CRC register, which holds the coefficient of x^63 in bit 0 (DEDUCED, log entry 11). -/
def crc64Step (r : Nat) (b : Bool) : Nat :=
  let r' := r / 2
  if (r % 2 == 1) != b then r' ^^^ 0xC96C5795D7870F42 else r'

/-- One byte, least significant bit first. -/
def crc64Byte (v : Nat) : Nat → Nat → Nat
  | 0, r => r
  | n + 1, r => crc64Byte (v / 2) n (crc64Step r (v % 2 == 1))

/-- The CRC register after a byte list. -/
def crc64Run : List Byte → Nat → Nat
  | [], r => r
  | b :: l, r => crc64Run l (crc64Byte b.toNat 8 r)

/-- The stored CRC: the inverted remainder. -/
def crc64 (l : List Byte) : BitVec 64 := ~~~ (BitVec.ofNat 64 (crc64Run l (2 ^ 64 - 1)))

/-! ### SHA-256

Its constants are the first 32 bits of the fractions of roots of the primes: square roots of the first 8 for the initial value, cube roots of the first 64 for
the rounds. Each round takes the oldest of a window of 16 message words and adds the word that 16 rounds later will be the oldest. -/

/-- The largest r below 2^n, on top of `r`, whose k-th power is at most `v`. -/
def rootBelow (k v : Nat) : Nat → Nat → Nat
  | 0, r => r
  | n + 1, r => rootBelow k v n (if (r + 2 ^ n) ^ k ≤ v then r + 2 ^ n else r)

/-- The primes up to 311, of which there are 64; a number below 18 x 18 is one where no smaller number from 2 to 17 divides it. -/
def smallPrimes : List Nat := ((List.range 310).map (· + 2)).filter (fun n => (List.range 16).all (fun d => decide (n ≤ d + 2) || n % (d + 2) != 0))

/-- The first 32 bits of the fraction of a prime's k-th root. -/
def rootWord (k p : Nat) : Nat := rootBelow k (p * 2 ^ (32 * k)) 36 0 % 2 ^ 32

/-- A 32-bit word turned right by `n` bits, and the three-way sums of turned words that the hash uses (`last` is shifted where `cut`). -/
def turned (x n : Nat) : Nat := x / 2 ^ n + x % 2 ^ n * 2 ^ (32 - n)
def sigmaOf (i j last : Nat) (cut : Bool) (x : Nat) : Nat := turned x i ^^^ turned x j ^^^ (if cut then x / 2 ^ last else turned x last)

/-- The word that joins the window. -/
def nextWord (win : List Nat) : Nat :=
  (win.getD 0 0 + sigmaOf 7 18 3 true (win.getD 1 0) + win.getD 9 0 + sigmaOf 17 19 10 true (win.getD 14 0)) % 2 ^ 32

/-- One round on the eight working words, newest first, with constant `k` and message word `w`. -/
def hashRound (k w : Nat) (v : List Nat) : List Nat :=
  let x := fun (i : Nat) => v.getD i 0
  let mixed := x 7 + sigmaOf 6 11 25 false (x 4) + (x 6 ^^^ (x 4 &&& (x 5 ^^^ x 6))) + k + w
  let most := (x 0 &&& x 1) ||| (x 2 &&& (x 0 ||| x 1))
  [(mixed + sigmaOf 2 13 22 false (x 0) + most) % 2 ^ 32, x 0, x 1, x 2, (x 3 + mixed) % 2 ^ 32, x 4, x 5, x 6]

/-- The rounds of a block, by their constants. -/
def hashRounds (ks : List Nat) (win v : List Nat) : List Nat :=
  (ks.foldl (fun (x : List Nat × List Nat) k => (x.1.drop 1 ++ [nextWord x.1], hashRound k (x.1.getD 0 0) x.2)) (win, v)).2

/-- Chaining value after the 64 B blocks of a padded message. -/
def hashBlocks (ks : List Nat) : Nat → List Byte → List Nat → List Nat
  | 0, _, h => h
  | n + 1, l, h =>
    let win := (List.range 16).map (fun i => leNat (((l.drop (4 * i)).take 4).reverse))
    hashBlocks ks n (l.drop 64) (List.zipWith (fun a b => (a + b) % 2 ^ 32) h (hashRounds ks win h))

/-- The SHA-256 digest as 32 bytes in their order (14 R389). The message is closed by a 1 bit, zeros, and its length in bits, to whole blocks. -/
def sha256 (m : List Byte) : List Byte :=
  let blocks := (m.length + 72) / 64
  let closed := padTo (64 * blocks - 8) (m ++ [0x80]) ++ (leBytes (8 * m.length) 8).reverse
  (hashBlocks (smallPrimes.map (rootWord 3)) blocks closed ((smallPrimes.take 8).map (rootWord 2))).flatMap (fun w => (leBytes w 4).reverse)

/-- The digest as a 256-bit number whose byte `i` is byte `i` of the digest. -/
def sha256Bits (m : List Byte) : BitVec 256 := BitVec.ofNat 256 (leNat (sha256 m))

/-! ### HMAC-SHA-256 and HKDF-SHA-256 (14 R399) -/

/-- A key filled to a block of the hash, each byte changed by a constant. -/
def hmacPad (key : List Byte) (c : Byte) : List Byte := (padTo 64 (if 64 < key.length then sha256 key else key)).map (fun b => b ^^^ c)

/-- HMAC-SHA-256: the outer hash over the inner one. -/
def hmac (key m : List Byte) : List Byte := sha256 (hmacPad key 0x5C ++ sha256 (hmacPad key 0x36 ++ m))

/-- The 64 B that HKDF-SHA-256 derives: a key extracted from the secrets under the salt, expanded twice over the info. -/
def hkdf64 (salt secrets info : List Byte) : List Byte :=
  let prk := hmac salt secrets
  let first := hmac prk (info ++ [1])
  first ++ hmac prk (first ++ info ++ [2])

/-! ### AES-256

A byte is a polynomial over two elements modulo x^8 + x^4 + x^3 + x + 1; a block is 16 bytes, column after column. -/

/-- A byte times x, and the product of two bytes over the `n` lowest bits of the second. -/
def timesX (a : Nat) : Nat := if a < 128 then 2 * a else (2 * a) ^^^ 0x11B
def timesByte (a b : Nat) : Nat → Nat
  | 0 => 0
  | n + 1 => (if b % 2 == 1 then a else 0) ^^^ timesByte (timesX a) (b / 2) n

/-- The product of the next `n` squares of a byte; of the first seven it is the inverse (0 for 0). -/
def squares (a : Nat) : Nat → Nat
  | 0 => 1
  | n + 1 => let q := timesByte a a 8; timesByte q (squares q n) 8

/-- The substitution: the inverse, times x^4 + x^3 + x^2 + x + 1 modulo x^8 + 1, plus 0x63. -/
def subByte (a : Nat) : Nat :=
  let v := squares a 7
  let p := v ^^^ 2 * v ^^^ 4 * v ^^^ 8 * v ^^^ 16 * v
  p % 256 ^^^ p / 256 ^^^ 0x63

/-- Byte lists added. -/
def addLists (a b : List Nat) : List Nat := List.zipWith (fun x y => x ^^^ y) a b

/-- The key's words, newest first, extended until `n` more are there; `rc` is the constant of the next full turn. -/
def keyWords : Nat → Nat → List (List Nat) → List (List Nat)
  | 0, _, ws => ws
  | n + 1, rc, ws =>
    let last := ws.headD []
    let full := ws.length % 8 == 0
    let mixed :=
      if full then addLists ((last.drop 1 ++ last.take 1).map subByte) [rc, 0, 0, 0]
      else if ws.length % 8 == 4 then last.map subByte else last
    keyWords n (if full then timesX rc else rc) (addLists (ws.getD 7 []) mixed :: ws)

/-- The 15 round keys of a 32 B key. -/
def roundKeys (key : List Byte) : List (List Nat) :=
  let k := (padTo 32 key).map (fun b => b.toNat)
  let ws := (keyWords 52 1 ((List.range 8).map (fun i => (k.drop (4 * i)).take 4)).reverse).reverse
  (List.range 15).map (fun r => ((ws.drop (4 * r)).take 4).flatten)

/-- The rows of a block turned by their number, and its columns mixed. -/
def turnRows (b : List Nat) : List Nat := (List.range 16).map (fun i => b.getD ((i + 4 * (i % 4)) % 16) 0)
def mixColumns (b : List Nat) : List Nat :=
  (List.range 16).map (fun i =>
    let x := fun (k : Nat) => b.getD (i / 4 * 4 + (i + k) % 4) 0
    timesX (x 0 ^^^ x 1) ^^^ x 1 ^^^ x 2 ^^^ x 3)

/-- The rounds under the keys that remain; the last one mixes no columns. -/
def aesRounds : List (List Nat) → List Nat → List Nat
  | [], b => b
  | [k], b => addLists (turnRows (b.map subByte)) k
  | k :: r, b => aesRounds r (addLists (mixColumns (turnRows (b.map subByte))) k)

/-- One block under the round keys of a key. -/
def aesBlock (ks : List (List Nat)) (b : List Nat) : List Nat := aesRounds (ks.drop 1) (addLists b (ks.headD []))

/-! ### AES-256-GCM -/

/-- A number from bytes, the first one highest, and the `n` bytes of a number in that order. -/
def beNat (l : List Byte) : Nat := leNat l.reverse
def beBytes (v n : Nat) : List Byte := (leBytes v n).reverse

/-- Encryption of one block given as a number. -/
def aesNumber (ks : List (List Nat)) (v : Nat) : List Byte := (aesBlock ks ((beBytes v 16).map (fun b => b.toNat))).map (fun x => BitVec.ofNat 8 x)

/-- The product of two 128-bit strings, over the `n` bits of the first that remain, the leftmost one first. -/
def ghashTimes (x v : Nat) : Nat → Nat
  | 0 => 0
  | n + 1 => (if x / 2 ^ n % 2 == 1 then v else 0) ^^^ ghashTimes x (if v % 2 == 1 then v / 2 ^^^ 0xE1 * 2 ^ 120 else v / 2) n

/-- The hash of the next `n` blocks of a byte list, on top of `y`. -/
def ghash (key : Nat) : Nat → List Byte → Nat → Nat
  | 0, _, y => y
  | n + 1, l, y => ghash key n (l.drop 16) (ghashTimes (y ^^^ beNat (padTo 16 (l.take 16))) key 128)

/-- Zeros up to whole blocks. -/
def wholeBlocks (l : List Byte) : List Byte := padTo (ceilDiv l.length 16 * 16) l

/-- The text passed through the key stream of a 96-bit nonce, whose blocks count from 2. The same function encrypts and decrypts. -/
def gcmText (key nonce text : List Byte) : List Byte :=
  let ks := roundKeys key
  let stream := (List.range (ceilDiv text.length 16)).flatMap (fun i => aesNumber ks (beNat nonce * 2 ^ 32 + 2 + i))
  List.zipWith (fun a b => a ^^^ b) text stream

/-- The 16 B tag over additional data and ciphertext. -/
def gcmTag (key nonce extra cipher : List Byte) : List Byte :=
  let ks := roundKeys key
  let l := wholeBlocks extra ++ wholeBlocks cipher ++ beBytes (8 * extra.length) 8 ++ beBytes (8 * cipher.length) 8
  beBytes (ghash (beNat (aesNumber ks 0)) (ceilDiv l.length 16) l 0 ^^^ beNat (aesNumber ks (beNat nonce * 2 ^ 32 + 1))) 16

end Sys2Proof.Machine
end

