-- ==== Sys2Proof/Machine/Operands.lean ====
section
/-! DEFINITION. Operand forms: the fields of packets (04 R82 to R91), of flits (03 R55 to R57), of lane markers and training
frames (02 R34, R44), of translation entries (11 R320), and the packing of mailbox payloads (13 R476). -/

namespace Sys2Proof

open Sys2Proof.Machine

/-! ### Opcodes (04 R85) -/

def opRdLine : Nat := 0x01
def opWrLine : Nat := 0x02
def opWrMasked : Nat := 0x03
def opAtomic : Nat := 0x04
def opRdData : Nat := 0x10
def opAtomicData : Nat := 0x11
def opCmpl : Nat := 0x12
def opRedPut : Nat := 0x20
def opRingPart : Nat := 0x21
def opRedRes : Nat := 0x28
def opRingRes : Nat := 0x29
def opMsgSend : Nat := 0x30
def opMsgAck : Nat := 0x31
def opRedCredit : Nat := 0x40
def opOpDone : Nat := 0x41
def opOpAbort : Nat := 0x42
def opKeyMsg : Nat := 0x48
def opMaskSet : Nat := 0x49
def opMaskAck : Nat := 0x4A

/-- The channel of an opcode, its data granules (`none`: set by MLEN), and whether the table gives it a CONF size. -/
structure OpRow where
  vc : Nat
  data : Option Nat
  conf : Bool
  deriving DecidableEq, Repr

/-- The opcode table of 04 R85. -/
def opRow (o : Nat) : Option OpRow :=
  if o == opRdLine then some { vc := 0, data := some 0, conf := true }
  else if o == opWrLine then some { vc := 0, data := some 8, conf := true }
  else if o == opWrMasked then some { vc := 0, data := some 8, conf := true }
  else if o == opAtomic then some { vc := 0, data := some 8, conf := true }
  else if o == opRdData then some { vc := 1, data := some 8, conf := true }
  else if o == opAtomicData then some { vc := 1, data := some 8, conf := true }
  else if o == opCmpl then some { vc := 1, data := some 0, conf := true }
  else if o == opRedPut then some { vc := 2, data := some 8, conf := true }
  else if o == opRingPart then some { vc := 2, data := some 8, conf := true }
  else if o == opRedRes then some { vc := 3, data := some 8, conf := true }
  else if o == opRingRes then some { vc := 3, data := some 8, conf := true }
  else if o == opMsgSend then some { vc := 4, data := none, conf := true }
  else if o == opMsgAck then some { vc := 4, data := some 0, conf := true }
  else if o == opRedCredit then some { vc := 5, data := some 0, conf := false }
  else if o == opOpDone then some { vc := 5, data := some 0, conf := false }
  else if o == opOpAbort then some { vc := 5, data := some 0, conf := false }
  else if o == opKeyMsg then some { vc := 5, data := some 8, conf := false }
  else if o == opMaskSet then some { vc := 5, data := some 0, conf := false }
  else if o == opMaskAck then some { vc := 5, data := some 0, conf := false }
  else none

/-- The opcode of a packet as a number. -/
def Packet.op (p : Packet) : Nat := p.opcode.toNat

/-- Is the packet a request, a packet on REQ (04 R90)? -/
def Packet.isReq (p : Packet) : Bool := p.vc.toNat == 0

/-- A message packet. -/
def Packet.isMsg (p : Packet) : Bool := p.op == opMsgSend || p.op == opMsgAck
/-- A packet that a plane makes for its ring neighbour. -/
def Packet.isRing (p : Packet) : Bool := p.op == opRingPart || p.op == opRingRes || p.op == opKeyMsg

/-- Data granules the header calls for (04 R82, R85). -/
def Packet.dataLen (p : Packet) : Nat :=
  match opRow p.op with
  | some r => match r.data with | some d => d | none => ceilDiv p.mlen.toNat 16
  | none => 0

/-- Length in granules by 04 R82: header, side granule, data, tag. -/
def Packet.len (p : Packet) : Nat := 2 + b2n p.sideBit + p.dataLen + b2n p.conf

/-- SIDE as 04 R86 allows it for the opcode. -/
def sideAllowed (o : Nat) (side : Bool) : Bool :=
  if o == opWrMasked || o == opAtomic then side
  else if o == opRedPut || o == opRedRes || o == opRingRes then true
  else !side

/-- MCAST as 04 R86 allows it: RED_RES, OP_DONE and OP_ABORT sent by a plane. -/
def mcastAllowed (p : Packet) : Bool :=
  !p.mcast || ((p.op == opRedRes || p.op == opOpDone || p.op == opOpAbort) && nodeInfra p.src)

/-- Check 2 of 04 R90 fails: the packet is malformed for the first plane that receives it. -/
def malformed2 (p : Packet) : Bool :=
  match opRow p.op with
  | none => true
  | some r =>
    p.vc.toNat != r.vc || !sideAllowed p.op p.sideBit || !mcastAllowed p || (p.conf && !r.conf) ||
    decide (2048 < p.mlen.toNat) || p.granules != p.len ||
    ((p.op == opMsgSend || p.op == opMsgAck) && decide (4 < p.oparg.toNat / 2 ^ 16 % 8))

/-- The flags of the packet that 04 R85 does not list for its opcode, or a SCOPE rule of R89 broken. -/
def flagsBad (p : Packet) : Bool :=
  let scopeBad := if p.release || p.acquire then p.scope == 3#2 else p.scope != 0#2
  let acqBad := p.acquire && p.op != opAtomic && !(p.op == opRdLine && p.volat)
  let relBad := p.release && p.op != opWrLine && p.op != opWrMasked && p.op != opAtomic
  let volBad := p.volat && p.op != opRdLine && p.op != opAtomic
  scopeBad || acqBad || relBad || volBad

/-- Fields of OPARG: bits [hi:lo] as a number. -/
def Packet.arg (p : Packet) (lo width : Nat) : Nat := p.oparg.toNat / 2 ^ lo % 2 ^ width

/-- SUBOP, WIDE and NORET of an ATOMIC (04 R102). -/
def Packet.subop (p : Packet) : Nat := p.arg 0 4
def Packet.wide (p : Packet) : Bool := p.arg 4 1 == 1
def Packet.noret (p : Packet) : Bool := p.arg 5 1 == 1

/-- GROUP, GEN, PIDX, CHUNK and OPSEQ of a collective packet (08 R218). -/
def Packet.group (p : Packet) : Nat := p.arg 16 12
def Packet.gen (p : Packet) : Nat := p.arg 28 4
def Packet.pidx (p : Packet) : Nat := p.arg 0 16
def Packet.chunk (p : Packet) : Nat := p.offset.toNat % 2 ^ 24
def Packet.opseq (p : Packet) : Nat := p.offset.toNat / 2 ^ 24

/-- The first line number a request names: OFFSET divided by 128 (04 R91). -/
def Packet.line (p : Packet) : Nat := p.offset.toNat / 128
/-- The byte mask of the side granule as a number (04 R91). -/
def Packet.mask (p : Packet) : Nat := leNat (padTo 16 p.side)

/-- A packet with every field 0, of a given opcode; the channel and the framed length follow from the fields. -/
def blank (o : Nat) (src dst : Node) : Packet :=
  { dst := dst, src := src, vc := BitVec.ofNat 3 (match opRow o with | some r => r.vc | none => 0),
    opcode := BitVec.ofNat 8 o, tenant := 0, release := false, acquire := false, volat := false, scope := 0, conf := false,
    sideBit := false, mcast := false, keySlot := 0, seq := 0, tag := 0, offset := 0, status := 0, mlen := 0, oparg := 0,
    ctr := 0, granules := 2, side := [], data := [], auth := true }

/-- Set the framed length that the fields call for. -/
def Packet.framed (p : Packet) : Packet := { p with granules := p.len }

/-- A response to a request (04 R97, R111): opposite direction, its TAG, SEQ, TENANT and OFFSET, protected as the request was. -/
def respond (o : Nat) (self : Node) (req : Packet) (status : Nat) (data : List Byte) (oparg : BitVec 32) : Packet :=
  Packet.framed { blank o self req.src with
    tenant := req.tenant, seq := req.seq, tag := req.tag, offset := req.offset, status := BitVec.ofNat 8 status,
    conf := req.conf, keySlot := if req.conf then req.keySlot else 0, data := data, oparg := oparg }

/-- A CMPL a plane makes of a refused request (04 R99): its own SRC, CONF 0. -/
def planeCmpl (self : Node) (req : Packet) (status : Nat) : Packet :=
  Packet.framed { blank opCmpl self req.src with
    tenant := req.tenant, seq := req.seq, tag := req.tag, offset := req.offset, status := BitVec.ofNat 8 status }

/-! ### Completion status (04 R115) -/

def stOk : Nat := 0x00
def stDestDown : Nat := 0x01
def stNodeUnknown : Nat := 0x02
def stAccessDenied : Nat := 0x03
def stNotMapped : Nat := 0x04
def stTenantRevoked : Nat := 0x05
def stTimeout : Nat := 0x06
def stDataLost : Nat := 0x07
def stBusy : Nat := 0x08
def stOpAborted : Nat := 0x09
def stBadRequest : Nat := 0x0A
def stPathLost : Nat := 0x0B
def stNotReady : Nat := 0x0C
def stAuthFail : Nat := 0x0D

/-! ### Packets as granules (04 R83) -/

/-- Place a field of a header. -/
def fieldAt (v lo : Nat) : Nat := v * 2 ^ lo

/-- The reserved bits of a header, in place: [31:29], [63:60], [159:156] and [255:240] (04 R83). A receiver ignores them and a plane changes none (R84). -/
def reservedBits (h : Nat) : Nat :=
  h &&& (fieldAt 7 29 ||| fieldAt 15 60 ||| fieldAt 15 156 ||| fieldAt 0xFFFF 240)

/-- The 256-bit header. -/
def Packet.header (p : Packet) : Nat :=
  fieldAt p.dst.toNat 0 + fieldAt p.src.toNat 13 + fieldAt p.vc.toNat 26 + fieldAt p.opcode.toNat 32 + fieldAt p.tenant.toNat 40 +
  fieldAt (b2n p.release) 50 + fieldAt (b2n p.acquire) 51 + fieldAt (b2n p.volat) 52 + fieldAt p.scope.toNat 53 +
  fieldAt (b2n p.conf) 55 + fieldAt (b2n p.sideBit) 56 + fieldAt (b2n p.mcast) 57 + fieldAt p.keySlot.toNat 58 +
  fieldAt p.seq.toNat 64 + fieldAt p.tag.toNat 80 + fieldAt p.offset.toNat 96 + fieldAt p.status.toNat 136 +
  fieldAt p.mlen.toNat 144 + fieldAt p.oparg.toNat 160 + fieldAt p.ctr.toNat 192 + reservedBits p.rsv

/-- The bytes of a granule list, and the granules of a byte list. -/
def granuleBytes (gs : List (BitVec 128)) : List Byte := gs.flatMap (fun g => leBytes g.toNat 16)
def bytesGranules : Nat → List Byte → List (BitVec 128)
  | 0, _ => []
  | n + 1, l => BitVec.ofNat 128 (leNat (l.take 16)) :: bytesGranules n (l.drop 16)

/-- What CONF protects of a packet besides its header: the side granule and the data (04 R108). -/
def Packet.body (p : Packet) : List Byte := (if p.sideBit then padTo 16 p.side else []) ++ padTo (16 * p.dataLen) p.data

/-- The 96-bit nonce, from its bit 95 down: TENANT, DST and SRC on 16 bits each, and CTR (04 R108). AES-GCM takes it from the top, so bit 95 is the first
bit of its first byte (DEDUCED, log entry 7). -/
def Packet.nonce (p : Packet) : List Byte :=
  beBytes p.tenant.toNat 2 ++ beBytes p.dst.toNat 2 ++ beBytes p.src.toNat 2 ++ beBytes p.ctr.toNat 6

/-- Seal a confidential packet under a slot key, once for all its copies and hops (04 R108, R110): the encrypted part and the tag as they travel. -/
def Packet.sealed (p : Packet) (key : List Byte) : Packet :=
  let cipher := gcmText key p.nonce p.body
  { p with wire := some (cipher ++ gcmTag key p.nonce (leBytes p.header 32) cipher) }

/-- The granules of a packet as it travels; a confidential one carries what its sender sealed. -/
def Packet.toGranules (p : Packet) : List (BitVec 128) :=
  bytesGranules p.len (leBytes p.header 32 ++ (if p.conf then padTo (p.body.length + 16) (p.wire.getD p.body) else p.body))

/-- Read a packet out of its granules. The body of a confidential one stays sealed. -/
def packetOfGranules (gs : List (BitVec 128)) : Packet :=
  let bytes := granuleBytes gs
  let h := leNat (bytes.take 32)
  let f := fun (lo w : Nat) => h / 2 ^ lo % 2 ^ w
  let conf := f 55 1 == 1
  let side := f 56 1 == 1
  let rest := bytes.drop 32
  { dst := BitVec.ofNat 13 (f 0 13), src := BitVec.ofNat 13 (f 13 13), vc := BitVec.ofNat 3 (f 26 3), opcode := BitVec.ofNat 8 (f 32 8),
    tenant := BitVec.ofNat 10 (f 40 10), release := f 50 1 == 1, acquire := f 51 1 == 1, volat := f 52 1 == 1,
    scope := BitVec.ofNat 2 (f 53 2), conf := conf, sideBit := side, mcast := f 57 1 == 1, keySlot := BitVec.ofNat 2 (f 58 2),
    seq := BitVec.ofNat 16 (f 64 16), tag := BitVec.ofNat 16 (f 80 16), offset := BitVec.ofNat 40 (f 96 40),
    status := BitVec.ofNat 8 (f 136 8), mlen := BitVec.ofNat 12 (f 144 12), oparg := BitVec.ofNat 32 (f 160 32),
    ctr := BitVec.ofNat 48 (f 192 48), granules := gs.length,
    side := if side && !conf then padTo 16 rest else [], data := if conf then [] else if side then rest.drop 16 else rest,
    auth := !conf, wire := if conf then some rest else none, rsv := reservedBits h }

/-- A confidential packet at its destination, under the slot key that its TENANT and KEY_SLOT name there: its body in the clear, and whether its tag verifies
(04 R108, R112). -/
def Packet.openedWith (key : Option (List Byte)) (p : Packet) : Packet :=
  match p.conf, p.wire, key with
  | true, some w, some k =>
    let h := leBytes p.header 32
    let n := w.length - 16
    let b := gcmText k p.nonce (w.take n)
    { p with wire := none, side := if p.sideBit then padTo 16 b else [], data := if p.sideBit then b.drop 16 else b,
             auth := gcmTag k p.nonce h (w.take n) == w.drop n }
  | _, _, _ => p

/-! ### Flits (03 R55 to R57) -/

/-- KIND 1: a control flit. -/
def Flit.isCtl (f : Flit) : Bool := f.hdr.getLsbD 15
/-- START and CTYPE. -/
def Flit.start (f : Flit) : Nat := f.hdr.toNat % 2 ^ 15
def Flit.ctype (f : Flit) : Nat := f.hdr.toNat / 2 ^ 12 % 8
/-- LCTL: FSEQ, ACK, NAK, XOFF, END. -/
def Flit.fseq (f : Flit) : BitVec 10 := f.lctl.extractLsb' 0 10
def Flit.ack (f : Flit) : BitVec 10 := f.lctl.extractLsb' 10 10
def Flit.nak (f : Flit) : Bool := f.lctl.getLsbD 20
def Flit.xoff (f : Flit) : BitVec 6 := f.lctl.extractLsb' 21 6
def Flit.fin (f : Flit) : Nat := f.lctl.toNat / 2 ^ 27 % 2 ^ 15
/-- Granule 0 as a number: the parameters of a control flit. -/
def Flit.param (f : Flit) : Nat := match f.pay with | g :: _ => g.toNat | [] => 0
/-- The bytes [247:0] that the CRC covers. -/
def Flit.bytes (f : Flit) : List Byte := leBytes f.hdr.toNat 2 ++ padTo 240 (granuleBytes f.pay) ++ leBytes f.lctl.toNat 6
/-- The flit passes its CRC (03 R58). -/
def Flit.crcOk (f : Flit) : Bool := f.crc == crc64 f.bytes
/-- Build LCTL. -/
def mkLctl (fseq ack : BitVec 10) (nak : Bool) (xoff : BitVec 6) (fin : Nat) : BitVec 48 :=
  BitVec.ofNat 48 (fseq.toNat + ack.toNat * 2 ^ 10 + b2n nak * 2 ^ 20 + xoff.toNat * 2 ^ 21 + fin * 2 ^ 27)
/-- A flit with its CRC. -/
def mkFlit (hdr : BitVec 16) (pay : List (BitVec 128)) (lctl : BitVec 48) : Flit :=
  let f : Flit := { hdr := hdr, pay := pay, lctl := lctl, crc := 0 }
  { f with crc := crc64 f.bytes }

/-! ### Lane markers and training frames (02 R34, R44) -/

/-- Bits [lo + w - 1 : lo]. -/
def fld (v : BitVec 256) (lo w : Nat) : Nat := v.toNat / 2 ^ lo % 2 ^ w

/-- Number of 1 bits among the low `n`. -/
def popcount (v : Nat) : Nat → Nat
  | 0 => 0
  | n + 1 => v % 2 + popcount (v / 2) n

def commaWord : Nat := 0xC3A5F00F5A3C0FF0
def tcommaWord : Nat := 0x3C5A0FF0A5C3F00F

/-- A marker is valid: header bit 0, COMMA within 2 bits, CHECK matches, TYPE and WIDTH not reserved (02 R34, R35). -/
def markerValid (hdrBit : Bool) (m : BitVec 256) : Bool :=
  !hdrBit && decide (popcount (fld m 0 64 ^^^ commaWord) 64 ≤ 2) && checkOk m && (fld m 64 8 == 1 || fld m 64 8 == 2)

/-- A training frame is recognised: TCOMMA and CHECK (02 R44). -/
def frameValid (f : BitVec 256) : Bool := fld f 0 64 == tcommaWord && checkOk f

/-! ### Translation entries (11 R320) -/

def entP (e : BitVec 64) : Bool := e.getLsbD 0
def entR (e : BitVec 64) : Bool := e.getLsbD 1
def entW (e : BitVec 64) : Bool := e.getLsbD 2
def entA (e : BitVec 64) : Bool := e.getLsbD 3
def entSize (e : BitVec 64) : Nat := e.toNat / 16 % 4
/-- TARGET as an address: bits [52:16] in place. -/
def entTarget (e : BitVec 64) : Nat := e.toNat / 2 ^ 16 % 2 ^ 37 * 2 ^ 16
/-- Page size in bytes; SIZE 3 is reserved. -/
def pageBytes (size : Nat) : Nat := if size == 0 then 2 ^ 16 else if size == 1 then 2 ^ 21 else 2 ^ 30
/-- Reserved bits are 0, SIZE is not 3 and TARGET has no bit below the page size. -/
def entryWf (e : BitVec 64) : Bool :=
  e.toNat / 64 % 2 ^ 10 == 0 && e.toNat / 2 ^ 53 == 0 && entSize e != 3 && entTarget e % pageBytes (entSize e) == 0

/-! ### Mailbox payloads (13 R476) -/

/-- Round up to a multiple. -/
def alignUp (a n : Nat) : Nat := ceilDiv a n * n

/-- A field of a payload: a number of 1, 2, 4 or 8 B at a multiple of its size, or bytes on an 8 B boundary. -/
inductive PField where
  | num (size value : Nat)
  | bytes (l : List Byte)
  deriving DecidableEq, Repr

/-- Pack fields in order, each at the lowest offset its rule allows; the length is rounded up to a multiple of 8. -/
def packGo : List PField → List Byte → List Byte
  | [], acc => padTo (alignUp acc.length 8) acc
  | .num n v :: r, acc => packGo r (padTo (alignUp acc.length n) acc ++ leBytes v n)
  | .bytes l :: r, acc => packGo r (padTo (alignUp acc.length 8) acc ++ l)

def pack (fs : List PField) : List Byte := packGo fs []

/-- Read packed arguments: the sizes of the fields (0 for a 32 B value) give their offsets; the answer lists the numbers and
the end of the last field. -/
def unpackGo (l : List Byte) : List Nat → Nat → List Nat → List Nat × Nat
  | [], off, acc => (acc.reverse, off)
  | n :: r, off, acc =>
    let size := if n == 0 then 32 else n
    let o := alignUp off (if n == 0 then 8 else n)
    unpackGo l r (o + size) (leAt l o size :: acc)

end Sys2Proof
end

