-- ==== Sys2Proof/Machine/Mailbox.lean ====
section
/-! DEFINITION. The mailbox interface (13 R378 to R387): completions, events, transitions, the order of the checks, and the coarsening
of counts (14 R404). Every mailbox command's meaning goes through `command`. -/

namespace Sys2Proof.Machine

open Sys2Proof

/-! ### Status codes (13 R387) -/

def msOk : Nat := 0x0000
def msQueued : Nat := 0x0001
def msBusy : Nat := 0x0002
def msDenied : Nat := 0x0003
def msBadArg : Nat := 0x0004
def msNotReady : Nat := 0x0005
def msUnavailable : Nat := 0x0006
def msInProgress : Nat := 0x0007
def msFailed : Nat := 0x0008

/-- The result of a FAILED command: it names the cause (13 R387), a choice among named values in one byte: the code its rule gives, or its place
in the order in which the rule lists them (13 R476). -/
def failCause (b : Byte) : List Byte := pack [.num 1 b.toNat]

/-! ### Signals, completions and events -/

/-- The completion signal of a mailbox (13 R378): an in-band interrupt for mailbox 2, MSI-X vector m for the others. -/
def boxSignal (m : Nat) (s : State) : State :=
  if m == 2 then s.onMbx (fun b => { b with ibis := b.ibis + 1 }) else raiseVec m s

/-- Complete a command in the buffer (13 R380, R381): STATUS, LENGTH and the results, BUSY cleared, the signal where NOTIFY is set. -/
def reply (h : MHdr) (status : Nat) (result : List Byte) (s : State) : State :=
  let s := s.onBox h.mbx (fun b =>
    { b with buf := memSetN (memSetN (memSetN b.buf 12 (leBytes status 2)) 8 (leBytes result.length 4)) 16 result, busy := false, go := false })
  if h.notify then boxSignal h.mbx s else s

/-- Write one event record into a ring that has space (13 R383). -/
def ringPut (r : EvtRec) (b : Mailbox) : Mailbox :=
  { b with ring := b.ring.put (b.tail.toNat % 64) { r with phase := b.tail.toNat / 64 % 2 == 0 }, tail := b.tail + 1 }

/-- Is there space in the event ring? -/
def ringFree (b : Mailbox) : Bool := decide ((b.tail - b.head).toNat < 64)

/-- Post a record: written at once where the ring has space, held otherwise (13 R383). -/
def postEvent (m : Nat) (r : EvtRec) (signal : Bool) (s : State) : State :=
  let b := s.box m
  if ringFree b && b.waiting.isEmpty then
    let s := s.onBox m (ringPut r)
    if signal then boxSignal m s else s
  else s.onBox m (fun b => { b with waiting := b.waiting ++ [(r, signal)] })

/-- Write held records while there is space (13 R383). -/
def drainEvents (m : Nat) : Nat → State → State
  | 0, s => s
  | n + 1, s =>
    match (s.box m).waiting with
    | [] => s
    | (r, signal) :: rest =>
      if ringFree (s.box m) then
        let s := s.onBox m (fun b => ringPut r { b with waiting := rest })
        drainEvents m n (if signal then boxSignal m s else s)
      else s

/-- An unsolicited event (13 R475): OPCODE 0xFFFF, the event code and its data; the signal is raised whatever any NOTIFY said. -/
def unsolicited (m code : Nat) (data : List Byte) (s : State) : State :=
  postEvent m { opcode := 0xFFFF, status := 0, seq := BitVec.ofNat 32 code, data := padTo 16 data } true s

/-- A short command that can be queued, WINDOW_SET or XLAT_UPDATE: its result is not among those that CMD_RESULT_READ finds (13 R383, R388). -/
def isShort (op : Nat) : Bool := op == 0x0501 || op == 0x0603

/-- Post the completion of a long or queued command; the whole result of a long one is kept among the latest 64 (13 R383). -/
def postFinish (e : FrozenEvent) (s : State) : State :=
  let keep := fun (b : Mailbox) =>
    let l := b.results ++ [{ seq := e.hdr.seq, opcode := e.opcode, status := e.status, result := e.result }]
    { b with results := l.drop (l.length - 64) }
  postEvent e.hdr.mbx { opcode := e.opcode, status := e.status, seq := e.hdr.seq, data := padTo 16 e.result } e.hdr.notify
    (if isShort e.opcode then s else s.onBox e.hdr.mbx keep)

/-- A long or queued command completes by event. During a live handover its end waits for the new image (13 R386, 15 R432). -/
def finishEvent (h : MHdr) (op status : Nat) (result : List Byte) (s : State) : State :=
  let e : FrozenEvent := { hdr := h, opcode := op, status := status, result := result }
  if s.svc.handover then s.onMbx (fun b => { b with frozen := b.frozen ++ [e] }) else postFinish e s

/-- How a command that runs answers: in the buffer, or, when it was queued behind a transition, as an event. -/
inductive Via where
  | buffer
  | event
  deriving DecidableEq, Repr

/-- A final answer. -/
def finish (via : Via) (h : MHdr) (op status : Nat) (result : List Byte) (s : State) : State :=
  match via with
  | .buffer => reply h status result s
  | .event => finishEvent h op status result s

/-- A long command is accepted: IN_PROGRESS in the buffer; nothing is said again by a command that was queued. -/
def accept (via : Via) (h : MHdr) (s : State) : State :=
  match via with
  | .buffer => reply h msInProgress [] s
  | .event => s

/-! ### Transitions (13 R385) -/

/-- The unfinished transition of a function. -/
def findTrans (k : FnKey) (l : List Transition) : Option Transition := l.find? (fun t => t.key == k && t.ended.isNone)

/-- A transition starts. -/
def beginTrans (k : FnKey) (h : MHdr) (op : Nat) (s : State) : State :=
  s.onMbx (fun b => { b with trans := b.trans ++ [{ key := k, hdr := h, opcode := op, at_ := s.svc.now }] })

/-- The bound of a transition is measured from now. -/
def restartTrans (k : FnKey) (s : State) : State :=
  s.onMbx (fun b => { b with trans := b.trans.map (fun t => if t.key == k then { t with at_ := s.svc.now } else t) })

/-- Remove a transition. -/
def dropTrans (k : FnKey) (s : State) : State := s.onMbx (fun b => { b with trans := b.trans.filter (fun t => t.key != k) })

/-- A command that conflicts with transitions of several functions (11 R337): BUSY where one has a command queued, otherwise queued behind each. -/
def transitions (ks : List FnKey) (i : Instr) (h : MHdr) (run : State → State) (s : State) : State :=
  if ks.isEmpty then run s
  else if s.mbx.trans.any (fun t => ks.contains t.key && t.queued.isSome) then reply h msBusy [] s
  else
    reply h msQueued [] (s.onMbx (fun b =>
      { b with trans := b.trans.map (fun t => if ks.contains t.key then { t with queued := some i } else t) }))

/-- A command marked T: queued behind an unfinished transition of its function, BUSY where one is queued already; otherwise it runs. -/
def transition (k : FnKey) (i : Instr) (h : MHdr) (run : State → State) (s : State) : State :=
  match findTrans k s.mbx.trans with
  | some t =>
    if t.queued.isSome then reply h msBusy [] s
    else
      reply h msQueued [] (s.onMbx (fun b =>
        { b with trans := b.trans.map (fun t => if t.key == k then { t with queued := some i } else t) }))
  | none => run s

/-- A transition ends: its completion is posted, and the queued command, if any, runs against the state left. During a live handover its end is kept for the new
image (15 R432). -/
def endTrans (k : FnKey) (status : Nat) (result : List Byte) (runQueued : Instr → State → State) (s : State) : State :=
  match findTrans k s.mbx.trans with
  | none => s
  | some t =>
    if s.svc.handover then
      s.onMbx (fun b => { b with trans := b.trans.map (fun t => if t.key == k then { t with ended := some (status, result) } else t) })
    else
      let s := finishEvent t.hdr t.opcode status result (dropTrans k s)
      match t.queued with
      | some i => runQueued i s
      | none => s

/-! ### Who may command what (13 R379, R388) -/

/-- The Mailbox column of R388, as sets of mailboxes. -/
def boxH : List Nat := [0]
def boxF : List Nat := [1]
def boxB : List Nat := [2]
def boxS : List Nat := [3]
def boxT : List Nat := [4, 5, 6, 7]
def boxA : List Nat := [0, 1, 2, 3, 4, 5, 6, 7]

/-- May the mailbox act for the tenant (13 R379)? A tenant agent's commands for a tenant that is REVOKING are denied (14 R415). -/
def tenantOk (h : MHdr) (t : Nat) (s : State) : Bool :=
  decide (h.mbx < 4) || ((s.box h.mbx).tenants.getLsbD t && !isRevoking s t)

/-- What the list says of one command: its mailboxes, whether mailbox 2 serves it in RECOVERY (14 R393), the flags it may carry. -/
structure CmdRow where
  boxes : List Nat
  recovery : Bool := false
  flags : BitVec 8 := 0
  deriving DecidableEq, Repr

/-- The state in which a mailbox answers nothing but NOT_READY, or nothing at all (13 R372, 14 R393). -/
inductive Reach where
  | serves
  | notReady
  | silent
  deriving DecidableEq, Repr

/-- A READY part's mailboxes are reached over CXL.io, mailbox 2 over I3C (R378); a command that the part has taken already runs on (R373). -/
def reach (row : CmdRow) (h : MHdr) (s : State) : Reach :=
  match s.svc.mod with
  | .ready => if h.mbx == 2 || ioReaches s || (s.box h.mbx).busy then .serves else .silent
  | .recovery => if h.mbx == 2 then (if row.recovery then .serves else .notReady) else .silent
  | .boot => if h.mbx == 2 then .notReady else .silent
  | _ => .silent

/-- A command given to a mailbox while BUSY is set is ignored and counted (13 R381, 15 R423). -/
def overrun (m : Nat) (s : State) : State :=
  recordErr kHost (8 + m) 0x41 1 [] (s.onBox m (fun b => { b with overrun := satAdd 16 b.overrun 1 }))

/-- During a live handover a command waits for the new image with BUSY set (13 R386). -/
def stallCommand (i : Instr) (m : Nat) (s : State) : State :=
  if (s.box m).busy then overrun m s
  else s.onBox m (fun b => { b with busy := true, go := false, stalled := some i, stalledAt := s.svc.now })

/-- A command that reads or writes HBM waits, with BUSY set, while a channel that it needs retrains (15 R430). -/
def awaitHbm (i : Instr) (m : Nat) (s : State) : State :=
  s.onBox m (fun b => { b with busy := true, go := false, stalled := some i, stalledAt := s.svc.now })

/-- A mailbox command, through the checks in the order of R387. During a live handover the mailbox stalls and the new image
executes the command (13 R386); while a command of the mailbox reads its image or waits for a channel the mailbox is BUSY (R381). -/
def command (i : Instr) (h : MHdr) (row : CmdRow) (denied bad : State → Bool) (run : State → State) (s : State) :
    Host.Outcome State Fault Refusal :=
  if 8 ≤ h.mbx then .fault .noSuchUnit
  else .next (
    match reach row h s with
    | .silent => s
    | .notReady => reply h msNotReady [] s
    | .serves =>
      if s.svc.handover then stallCommand i h.mbx s
      else if (s.reed.loading.find h.mbx).isSome || (s.box h.mbx).stalled.isSome then overrun h.mbx s
      else if !row.boxes.contains h.mbx || denied s then reply h msDenied [] s
      else if h.flags &&& ~~~row.flags != 0 || bad s then reply h msBadArg [] s
      else run s)

/-- The answer to a command that never depends on the state: no tenant, no range to check. -/
def never : State → Bool := fun _ => false

/-! ### Coarsening (14 R404) -/

/-- A count, wait, depth, delay or energy as a command returns it: the current value, or 2^-10 of the snapshot's. -/
def coarse (s : State) (now snap : Nat) : Nat := if anyConf s then snap / 1024 else now
/-- A count of the error log as it is returned: no snapshot. -/
def coarseNow (s : State) (v : Nat) : Nat := if anyConf s then v / 1024 else v

/-- The configuration epoch as a result field. -/
def epochField (s : State) : PField := .num 8 s.sec.epoch

end Sys2Proof.Machine
end

