-- ==== Sys2Proof/Machine/General.lean ====
section
/-! DEFINITION. The general mailbox commands (13 R388), the heartbeat (15 R427), the node assignment (01 R17) and the error log
(15 R424). -/

namespace Sys2Proof.Machine

open Sys2Proof

/-! ### Identity -/

/-- The running image's slot, and the staged one's (14 R392). -/
def runSlot (s : State) : FwSlot := if s.svc.runB then s.flash.slotB else s.flash.slotA
def idleSlot (s : State) : FwSlot := if s.svc.runB then s.flash.slotA else s.flash.slotB

/-- SHA-256 of a slot's image. -/
def slotDigest (f : FwSlot) : List Byte := sha256 (memGetN f.bytes 0 f.len)

/-- RUN_DIGEST and PEND_DIGEST (14 R407): zero in RECOVERY, and zero unless an image is pending. -/
def runDigest (s : State) : List Byte := if s.svc.mod == .recovery then padTo 32 [] else slotDigest (runSlot s)
def pendDigest (s : State) : List Byte := if s.svc.pending then slotDigest (idleSlot s) else padTo 32 []

/-- NODE as reports and registers give it: 0 while no number is held (14 R407). -/
def nodeField (s : State) : Nat := (selfNode s).toNat

/-- DEVICE_INFO (13 R388). The part number, and the version of an image, which goes with its digest, are opaque: the spec gives no value. -/
def execDeviceInfo (h : MHdr) (s : State) : Host.Outcome State Fault Refusal :=
  command (.deviceInfo h) h { boxes := boxA, recovery := true } never never
    (fun s => reply h msOk (pack [.num 1 (b2n s.svc.bridge), .bytes (padTo 8 (Config.ident 0)), .num 2 (nodeField s),
      .num 8 (Config.fwVersion (runDigest s)), .num 8 (if s.svc.pending then Config.fwVersion (pendDigest s) else 0),
      .bytes (runDigest s), .bytes (pendDigest s), epochField s]) s) s

/-- TIME_EXCHANGE (13 R388, R382): T1 is now; T2 is open within the immediate class's bound of 100 us. -/
def execTimeExchange (h : MHdr) (s : State) : Host.Outcome State Fault Refusal :=
  command (.timeExchange h) h { boxes := boxA } never never
    (fun s =>
      let d := s.drawNat
      reply h msOk (pack [.num 8 s.svc.now, .num 8 ((s.svc.now + d.1 % 100001) % 2 ^ 64)]) d.2) s

/-- The kept result of a long command (13 R383). -/
def keptResult (m : Nat) (q : BitVec 32) (s : State) : Option LongResult :=
  (s.box m).results.reverse.find? (fun r => r.seq == q)

/-- CMD_RESULT_READ (13 R383, R388). -/
def execCmdResultRead (h : MHdr) (sequence : BitVec 32) (s : State) : Host.Outcome State Fault Refusal :=
  command (.cmdResultRead h sequence) h { boxes := boxA } never (fun s => (keptResult h.mbx sequence s).isNone)
    (fun s => match keptResult h.mbx sequence s with
      | some r => reply h msOk r.result s
      | none => s) s

/-- AGENT_TENANTS_SET (13 R379): the assignment, and the epoch advances (14 R405). -/
def execAgentTenantsSet (h : MHdr) (mailbox : Nat) (bitmap : BitVec 1024) (s : State) : Host.Outcome State Fault Refusal :=
  command (.agentTenantsSet h mailbox bitmap) h { boxes := boxH } never (fun _ => mailbox < 4 || 7 < mailbox)
    (fun s =>
      let s := bumpEpoch (s.onBox mailbox (fun b => { b with tenants := bitmap }))
      reply h msOk (pack [epochField s]) s) s

/-- FM_HEARTBEAT (13 R388, 15 R427): the timer restarts and the misses return to 0. -/
def execFmHeartbeat (h : MHdr) (s : State) : Host.Outcome State Fault Refusal :=
  command (.fmHeartbeat h) h { boxes := boxF } never never
    (fun s => reply h msOk (pack [.num 8 s.svc.now])
      (s.onSvc (fun v => { v with heartbeat := some v.now, beatBase := v.now, misses := 0 }))) s

/-- A full 10 ms has passed since the interval in progress began (15 R427). -/
def beatOver (s : State) : Bool := isReady s && s.svc.heartbeat.isSome && decide (s.svc.beatBase + 10000000 ≤ s.svc.now)

/-- HEARTBEAT_MISS (15 R427): a miss, and the four effects at the third in a row; not counted while the mailboxes stall. -/
def execHeartbeatMiss (s : State) : Host.Outcome State Fault Refusal :=
  .next (
    if !beatOver s then s
    else
      let s := s.onSvc (fun v => { v with beatBase := v.beatBase + 10000000, misses := if v.handover then v.misses else v.misses + 1 })
      if s.svc.misses == 3 && !s.svc.handover then
        let s := setSummary 11 (recordErr kPart 0 0x48 2 [] s)
        let s := unsolicited 0 0x00000006 (leBytes (s.svc.heartbeat.getD 0) 8) s
        s.onMbx (fun b => { b with ibis := b.ibis + 1 })
      else s)

/-- Is any fabric port of the part enabled (01 R17)? -/
def anyEnabled (s : State) : Bool := s.ports.any (fun p => p.2.enabled)

/-- No flash write starts once early removal is sensed (15 R434). -/
def flashHeld (s : State) : Bool := s.svc.removedAt.isSome

/-- NODE_ASSIGN (01 R17, R10): written to both configuration copies; it serves ports enabled afterwards. -/
def execNodeAssign (h : MHdr) (pair domain plane : Nat) (s : State) : Host.Outcome State Fault Refusal :=
  command (.nodeAssign h pair domain plane) h { boxes := boxF } (fun s => s.svc.bridge)
    (fun _ => 7 < pair || 1 < domain || 31 < plane)
    (fun s =>
      if anyEnabled s then reply h msBusy [] s
      else if flashHeld s then reply h msUnavailable [] s
      else
        let s := s.onFlash (cfgWrite (fun c => { c with node := some (pair, domain, plane) }))
        -- the sequences of 04 R94 start at 0 when the new number takes effect
        reply h msOk [] (bumpEpoch (s.onSvc (fun v => { v with numbered := false, node := some (mkNode pair true (32 * domain + plane)) })))) s

/-! ### The error log (15 R424) -/

/-- The 32 B of a record, with its COUNT as it is returned (15 R419, 14 R404). -/
def errBytes (s : State) (r : ErrRec) : List Byte :=
  leBytes r.unit 2 ++ leBytes r.code 1 ++ leBytes r.sev 1 ++ leBytes (coarseNow s r.count) 4 ++ leBytes r.first 8 ++ leBytes r.last 8 ++
  padTo 8 r.detail

/-- The first records of the log are returned: they never change again, and are freed where CLEAR asks it. -/
def logReturned (n : Nat) (clear : Bool) (l : List LogRec) : List LogRec :=
  if clear then l.drop n else (l.take n).map (fun r => { r with returned := true }) ++ l.drop n

/-- Log mode: the header and up to COUNT records, oldest first. -/
def logRead (h : MHdr) (count : Nat) (clear : Bool) (s : State) : State :=
  let out := s.err.log.take count
  let after := logReturned count clear s.err.log
  let firstId := match out with
    | r :: _ => r.id
    | [] => match s.err.log with | r :: _ => r.id | [] => s.err.nextId
  let header := leBytes out.length 2 ++ leBytes after.length 2 ++ leBytes firstId 4 ++ leBytes (b2n (s.err.summary.getLsbD 9)) 8
  reply h msOk (header ++ out.flatMap (fun r => errBytes s r.entry)) (s.onErr (fun e => { e with log := after }))

/-- Unit mode: the four items of one unit, cleared in the same step where CLEAR asks it. -/
def unitRead (h : MHdr) (unit : Nat) (clear : Bool) (s : State) : State :=
  let u := s.err.units.look unit {}
  let body := leBytes unit 2 ++ [0, 0] ++ leBytes (coarseNow s u.count) 4 ++ leBytes (coarseNow s u.lost) 4 ++ leBytes (coarseNow s u.corrected) 4 ++
    (match u.first with | some r => errBytes s r | none => padTo 32 [])
  reply h msOk body (if clear then s.onErr (fun e => { e with units := e.units.put unit {} }) else s)

/-- ERR_LOG_READ (15 R424), served by mailbox 2 in RECOVERY too. -/
def execErrLogRead (h : MHdr) (count : Nat) (clear unitMode : Bool) (unit : Nat) (s : State) : Host.Outcome State Fault Refusal :=
  command (.errLogRead h count clear unitMode unit) h { boxes := boxH ++ boxF ++ boxB, recovery := true } never
    (fun _ => 127 < count || (unitMode && !unitExists (unit / 4096) (unit % 4096)))
    (fun s => if unitMode then unitRead h unit clear s else logRead h count clear s) s

end Sys2Proof.Machine
end

