-- ==== Sys2Proof/Machine/Flags.lean ====
section
/-! DEFINITION. The arithmetic and its flags: number formats (07 R176, R186, R194), exact conversion (R187), the one rounding (R196 to
R198), block quantization (R199), the peat accumulator and its flags (R182 to R184, R188, R195, R200, R201), FP32 arithmetic
(09 R262) and the Hadamard rotations (09 R265). Every finite value is held exactly, as a natural multiple of 2^-160 (or of a
finer power where a product or a quotient needs it) with a sign. -/

namespace Sys2Proof.Machine

open Sys2Proof

/-- A value before rounding: NaN, an infinity, or a sign and a magnitude in units of 2^-u, u fixed by the context. -/
inductive FVal where
  | nan
  | inf (neg : Bool)
  | fin (neg : Bool) (mag : Nat)
  deriving DecidableEq, Repr

/-- A floating-point format (07 R186, R194): precision with the hidden bit, fraction bits, total bits, bias, emax, largest significand,
has Inf, canonical NaN. -/
structure Fmt where
  p : Nat
  frac : Nat
  bits : Nat
  bias : Nat
  emax : Nat
  top : Nat
  hasInf : Bool
  nanCode : Nat
  deriving DecidableEq, Repr

def fmtFp32 : Fmt := { p := 24, frac := 23, bits := 32, bias := 127, emax := 127, top := 2 ^ 24 - 1, hasInf := true, nanCode := 0x7FC00000 }
def fmtBf16 : Fmt := { p := 8, frac := 7, bits := 16, bias := 127, emax := 127, top := 2 ^ 8 - 1, hasInf := true, nanCode := 0x7FC0 }
def fmtFp16 : Fmt := { p := 11, frac := 10, bits := 16, bias := 15, emax := 15, top := 2 ^ 11 - 1, hasInf := true, nanCode := 0x7E00 }
def fmtE4m3 : Fmt := { p := 4, frac := 3, bits := 8, bias := 7, emax := 8, top := 14, hasInf := false, nanCode := 0x7F }
def fmtE5m2 : Fmt := { p := 3, frac := 2, bits := 8, bias := 15, emax := 15, top := 7, hasInf := true, nanCode := 0x7E }
def fmtE2m1 : Fmt := { p := 2, frac := 1, bits := 4, bias := 1, emax := 2, top := 3, hasInf := false, nanCode := 0 }

/-- Format code 5 or 6: an integer format. -/
def isIntFmt (c : Nat) : Bool := c == 5 || c == 6
/-- Format code 7 or 8: a block format. -/
def isBlkFmt (c : Nat) : Bool := c == 7 || c == 8
/-- The element format of a floating-point code (07 R176). -/
def fmtOf (c : Nat) : Fmt :=
  if c == 0 then fmtFp32 else if c == 1 then fmtBf16 else if c == 2 then fmtFp16
  else if c == 3 || c == 7 then fmtE4m3 else if c == 4 then fmtE5m2 else fmtE2m1
/-- Bits of one element (07 R176, R179). -/
def elemBits (c : Nat) : Nat := if c == 0 || c == 6 then 32 else if c == 1 || c == 2 then 16 else if c == 8 then 4 else 8
/-- Elements per 128 B payload (07 R176). -/
def perPayload (c : Nat) : Nat := 1024 / elemBits c
/-- Element `k` of a payload (07 R179). -/
def elemOf (c : Nat) (data : List Byte) (k : Nat) : Nat :=
  let w := elemBits c
  if w == 4 then (data.getD (k / 2) 0).toNat / 16 ^ (k % 2) % 16
  else leAt data (k * (w / 8)) (w / 8)
/-- Pack elements into bytes (07 R179). -/
def packElems (c : Nat) : List Nat → List Byte
  | [] => []
  | x :: r =>
    if elemBits c == 4 then
      match r with
      | y :: r' => BitVec.ofNat 8 (x % 16 + 16 * (y % 16)) :: packElems c r'
      | [] => [BitVec.ofNat 8 (x % 16)]
    else leBytes x (elemBits c / 8) ++ packElems c r
/-- The largest chunk element count: elements of a chunk of `bytes` data bytes (08 R215). -/
def elemsPerBytes (c bytes : Nat) : Nat := bytes / 128 * perPayload c

/-! ### Converting contributions (07 R187) -/

/-- A two's-complement number of `w` bits. -/
def toSigned (w v : Nat) : Int := if v % 2 ^ w < 2 ^ (w - 1) then (v % 2 ^ w : Nat) else ((v % 2 ^ w : Nat) : Int) - ((2 ^ w : Nat) : Int)
/-- The two's-complement code of an integer in `w` bits. -/
def ofSigned (w : Nat) (v : Int) : Nat := (v % ((2 ^ w : Nat) : Int)).toNat

/-- Decode a floating-point element into units of 2^-160; `sh` is `scale` of a block, 127 for the value itself. -/
def decodeFloat (f : Fmt) (x scale : Nat) : FVal :=
  let s := x / 2 ^ (f.bits - 1) % 2 == 1
  let e := x / 2 ^ f.frac % 2 ^ (f.bits - 1 - f.frac)
  let t := x % 2 ^ f.frac
  let ones := 2 ^ (f.bits - 1 - f.frac) - 1
  if f.hasInf && e == ones then (if t == 0 then .inf s else .nan)
  else if f.bits == 8 && !f.hasInf && x % 128 == 0x7F then .nan
  else
    let m := if e == 0 then t else t + 2 ^ f.frac
    let ee := if e == 0 then 1 else e
    -- e - bias + (scale - 127) - frac + 160, never negative (07 R187)
    .fin s (m * 2 ^ (ee + scale + 160 - (f.bias + 127 + f.frac)))

/-- Convert an element of a format to its exact value (07 R187); `scale` is the block's scale byte. -/
def convertElem (c x scale : Nat) : FVal :=
  if isIntFmt c then
    let v := toSigned (elemBits c) x
    .fin (decide (v < 0)) (v.natAbs * 2 ^ 160)
  else if isBlkFmt c then (if scale == 0xFF then .nan else decodeFloat (fmtOf c) x scale)
  else decodeFloat (fmtOf c) x 127

/-! ### Rounding (07 R196 to R198) -/

/-- The class of a result (07 R209): 0 plain, 1 NaN, 2 Inf, 3 saturated. -/
structure Rounded where
  code : Nat
  cls : Nat
  deriving DecidableEq, Repr

/-- The rounded significand of M at bit position q: nearest even, or stochastic against a 32-bit random value (07 R196). -/
def roundAt (m q : Nat) (rand : Option Nat) : Nat :=
  let t := m / 2 ^ q
  let r := m % 2 ^ q
  match rand with
  | none => if 2 ^ q < 2 * r || (2 * r == 2 ^ q && t % 2 == 1) then t + 1 else t
  | some rnd => if decide (rnd < r * 2 ^ 32 / 2 ^ q) then t + 1 else t

/-- Sign bit of a format. -/
def signBit (f : Fmt) (neg : Bool) : Nat := if neg then 2 ^ (f.bits - 1) else 0
/-- The code of an infinity, or what stands for it (07 R195). -/
def infCode (f : Fmt) (sat neg : Bool) : Nat :=
  if f.hasInf then signBit f neg + (2 ^ (f.bits - 1 - f.frac) - 1) * 2 ^ f.frac
  else if sat then signBit f neg + (f.emax + f.bias) * 2 ^ f.frac + (f.top - 2 ^ f.frac)
  else f.nanCode
/-- The code of the largest finite value of a sign. -/
def maxCode (f : Fmt) (neg : Bool) : Nat := signBit f neg + (f.emax + f.bias) * 2 ^ f.frac + (f.top - 2 ^ f.frac)

/-- Round M x 2^-u of a sign to a floating-point format (07 R196); u is at least 160. -/
def roundFloat (f : Fmt) (rand : Option Nat) (sat neg : Bool) (m u : Nat) : Rounded :=
  if m == 0 then { code := signBit f neg, cls := 0 }
  else
    let eu := max (Nat.log2 m) (u + 1 - f.bias)   -- the exponent e of R196, plus u; emin = 1 - bias
    let q := eu - f.frac
    let t := roundAt m q rand
    if decide (f.top * 2 ^ (f.emax + u - f.frac) < t * 2 ^ q) then
      if sat then { code := maxCode f neg, cls := 3 }
      else { code := infCode f false neg, cls := 2 }
    else if t == 2 ^ f.p then { code := signBit f neg + (eu + 1 + f.bias - u) * 2 ^ f.frac, cls := 0 }
    else if t < 2 ^ f.frac then { code := signBit f neg + t, cls := 0 }
    else { code := signBit f neg + (eu + f.bias - u) * 2 ^ f.frac + (t - 2 ^ f.frac), cls := 0 }

/-- Round to an integer format (07 R198); OVF has no effect. -/
def roundInt (w : Nat) (rand : Option Nat) (neg : Bool) (m u : Nat) : Rounded :=
  let t := roundAt m u rand
  if neg then
    if 2 ^ (w - 1) < t then { code := 2 ^ (w - 1), cls := 3 } else { code := ofSigned w (-(t : Int)), cls := 0 }
  else if 2 ^ (w - 1) ≤ t then { code := 2 ^ (w - 1) - 1, cls := 3 } else { code := t, cls := 0 }

/-- Encode a resolved value in an output format that is no block format (07 R195, R196, R198). -/
def encode (c : Nat) (rand : Option Nat) (sat : Bool) (v : FVal) (u : Nat) : Rounded :=
  if isIntFmt c then
    let w := elemBits c
    match v with
    | .nan => { code := 2 ^ (w - 1), cls := 1 }
    | .inf neg => { code := if neg then 2 ^ (w - 1) else 2 ^ (w - 1) - 1, cls := 2 }
    | .fin neg m => roundInt w rand neg m u
  else
    let f := fmtOf c
    match v with
    | .nan => { code := f.nanCode, cls := 1 }
    | .inf neg => { code := infCode f sat neg, cls := 2 }
    | .fin neg m => roundFloat f rand sat neg m u

/-- `mix` of 07 R197, modulo 2^64. -/
def srMix (x : Nat) : Nat :=
  let x := (x ^^^ (x >>> 30)) * 0xBF58476D1CE4E5B9 % 2 ^ 64
  let x := (x ^^^ (x >>> 27)) * 0x94D049BB133111EB % 2 ^ 64
  x ^^^ (x >>> 31)

/-- `sr_random(OPID, ELEM, SEED)` of 07 R197: a 32-bit value. -/
def srRandom (opid elem seed : Nat) : Nat := srMix (srMix (seed ^^^ opid) ^^^ elem) / 2 ^ 32

/-- The random value of an element: none under RNE. -/
def srKey (sr : Bool) (opid elem seed : Nat) : Option Nat := if sr then some (srRandom opid elem seed) else none

/-! ### FP32 arithmetic (09 R262): one rounding, nearest even, subnormals kept, canonical NaN -/

def f32Nan : Nat := 0x7FC00000
/-- The value of a binary32 code, in units of 2^-160. -/
def f32Val (x : Nat) : FVal := decodeFloat fmtFp32 x 127
/-- Round a value to binary32 with RNE. -/
def f32Of (v : FVal) (u : Nat) : Nat := (encode 0 none false v u).code

/-- Signed integer of a sign and magnitude. -/
def sgn (neg : Bool) (m : Nat) : Int := if neg then -(m : Int) else (m : Int)
/-- The value of a signed exact sum; an exact zero takes the given sign. -/
def ofInt (z : Bool) (i : Int) : FVal := if i == 0 then .fin z 0 else .fin (decide (i < 0)) i.natAbs

/-- Exact sum of two values in the same unit (IEEE 754: +Inf and -Inf give NaN; an exact zero is -0 only from two negative zeros). -/
def addVal : FVal → FVal → FVal
  | .nan, _ => .nan
  | _, .nan => .nan
  | .inf a, .inf b => if a == b then .inf a else .nan
  | .inf a, .fin _ _ => .inf a
  | .fin _ _, .inf b => .inf b
  | .fin a x, .fin b y => ofInt (a && b) (sgn a x + sgn b y)

/-- Exact product; from units of 2^-160 into units of 2^-320. -/
def mulVal : FVal → FVal → FVal
  | .nan, _ => .nan
  | _, .nan => .nan
  | .inf a, .inf b => .inf (a != b)
  | .inf a, .fin b y => if y == 0 then .nan else .inf (a != b)
  | .fin a x, .inf b => if x == 0 then .nan else .inf (a != b)
  | .fin a x, .fin b y => .fin (a != b) (x * y)

/-- The same value in units of 2^-320. -/
def widen : FVal → FVal
  | .fin a x => .fin a (x * 2 ^ 160)
  | v => v

def negVal : FVal → FVal
  | .nan => .nan
  | .inf a => .inf (!a)
  | .fin a x => .fin (!a) x

def f32Add (a b : Nat) : Nat := f32Of (addVal (f32Val a) (f32Val b)) 160
def f32Sub (a b : Nat) : Nat := f32Of (addVal (f32Val a) (negVal (f32Val b))) 160
def f32Mul (a b : Nat) : Nat := f32Of (mulVal (f32Val a) (f32Val b)) 320
/-- a x b + c with one rounding. -/
def f32Fma (a b c : Nat) : Nat := f32Of (addVal (mulVal (f32Val a) (f32Val b)) (widen (f32Val c))) 320
/-- Correctly rounded quotient: 320 fraction bits of the quotient and a sticky bit. -/
def f32Div (a b : Nat) : Nat :=
  match f32Val a, f32Val b with
  | .nan, _ => f32Nan
  | _, .nan => f32Nan
  | .inf _, .inf _ => f32Nan
  | .inf s, .fin t _ => f32Of (.inf (s != t)) 160
  | .fin s _, .inf t => f32Of (.fin (s != t) 0) 160
  | .fin s x, .fin t y =>
    if y == 0 then (if x == 0 then f32Nan else f32Of (.inf (s != t)) 160)
    else
      let n := x * 2 ^ 320
      f32Of (.fin (s != t) (2 * (n / y) + b2n (n % y != 0))) 321

/-- Integer square root by bits, highest first: the largest r below 2^n with r x r at most v. -/
def isqrtGo (v : Nat) : Nat → Nat → Nat
  | 0, r => r
  | n + 1, r => isqrtGo v n (if (r + 2 ^ n) * (r + 2 ^ n) ≤ v then r + 2 ^ n else r)

/-- Correctly rounded square root. -/
def f32Sqrt (a : Nat) : Nat :=
  match f32Val a with
  | .nan => f32Nan
  | .inf s => if s then f32Nan else a
  | .fin s x =>
    if x == 0 then a
    else if s then f32Nan
    else
      let v := x * 2 ^ 480
      let r := isqrtGo v 400 0
      f32Of (.fin false (2 * r + b2n (r * r != v))) 321

/-- Is the first value below the second, with -0 below +0 (07 R200)? Infinities order as usual. -/
def ltVal : FVal → FVal → Bool
  | .inf a, .inf b => a && !b
  | .inf a, .fin _ _ => a
  | .fin _ _, .inf b => !b
  | .fin a x, .fin b y =>
    if x == 0 && y == 0 then a && !b else decide (sgn a x < sgn b y)
  | _, _ => false

def f32Max (a b : Nat) : Nat :=
  match f32Val a, f32Val b with
  | .nan, _ => f32Nan
  | _, .nan => f32Nan
  | x, y => if ltVal x y then b else a
def f32Min (a b : Nat) : Nat :=
  match f32Val a, f32Val b with
  | .nan, _ => f32Nan
  | _, .nan => f32Nan
  | x, y => if ltVal y x then b else a
/-- VSGN (09 R263): -1, 0 or +1; a zero of either sign gives +0, NaN gives NaN. -/
def f32Sign (a : Nat) : Nat :=
  match f32Val a with
  | .nan => f32Nan
  | .inf s => if s then 0xBF800000 else 0x3F800000
  | .fin s x => if x == 0 then 0 else if s then 0xBF800000 else 0x3F800000

/-! ### The peat accumulator (07 R182 to R188, R195, R200) -/

/-- A takes a true result of an addition, or the RANGE flag is set (07 R184). -/
def accSet (a : Int) (c : Acc) : Acc :=
  if decide (a < -((2 ^ 319 : Nat) : Int)) || decide (((2 ^ 319 : Nat) : Int) ≤ a) then { c with range := true } else { c with a := a }

/-- Add one contribution to a SUM or AVG accumulator (07 R182, R184, R187). A NaN or an Inf clears ALLNEGZ, as R182 has it of any contribution other than -0;
R187's pseudocode ends before that step, and R188 has it only set its flag (DEDUCED, log entry 81). -/
def accAdd (c : Acc) (v : FVal) : Acc :=
  match v with
  | .nan => { c with nan := true, allNegZ := false }
  | .inf neg => if neg then { c with ninf := true, allNegZ := false } else { c with pinf := true, allNegZ := false }
  | .fin neg m =>
    accSet (c.a + sgn neg m) { c with allNegZ := c.allNegZ && neg && m == 0, count := c.count + 1 }

/-- Keep the extreme of MAX (or MIN) with -0 below +0 (07 R200); the flags go as those of a sum (R182). -/
def accExtreme (isMax : Bool) (c : Acc) (v : FVal) : Acc :=
  match v with
  | .nan => { c with nan := true, allNegZ := false }
  | .inf neg => if neg then { c with ninf := true, allNegZ := false } else { c with pinf := true, allNegZ := false }
  | .fin neg m =>
    let old : FVal := .fin (if c.a == 0 then c.zneg else decide (c.a < 0)) c.a.natAbs
    let better := if isMax then ltVal old v else ltVal v old
    let c := { c with allNegZ := c.allNegZ && neg && m == 0, count := c.count + 1 }
    if c.count == 1 || better then { c with a := sgn neg m, zneg := neg } else c

/-- Resolve a SUM from its flags (07 R195). -/
def resolveSum (c : Acc) : FVal :=
  if c.nan || (c.pinf && c.ninf) then .nan
  else if c.pinf then .inf false
  else if c.ninf then .inf true
  else ofInt c.allNegZ c.a

/-- Resolve MAX and MIN from their flags (07 R200). -/
def resolveExtreme (isMax : Bool) (c : Acc) : FVal :=
  let finite : FVal := .fin (if c.a == 0 then c.zneg else decide (c.a < 0)) c.a.natAbs
  if c.nan then .nan
  else if isMax then
    if c.pinf then .inf false
    else if c.ninf then (if c.count == 0 then .inf true else finite)
    else finite
  else
    if c.ninf then .inf true
    else if c.pinf then (if c.count == 0 then .inf false else finite)
    else finite

/-! ### AVG (07 R201) -/

/-- The FP32 value of 1/N rounded to nearest even. -/
def f32Recip (n : Nat) : Nat := f32Div 0x3F800000 (f32Of (.fin false (n * 2 ^ 160)) 160)

/-- Steps 2 and 3 of R201 on a resolved sum: round to FP32 (under OVF), multiply by 1/N. The class keeps an overflow of step 2. -/
def avgStep (sat : Bool) (n : Nat) (v : FVal) : Rounded :=
  let s := encode 0 none sat v 160
  { code := f32Mul s.code (f32Recip n), cls := s.cls }

/-! ### Block output (07 R199) -/

/-- Is a value finite? -/
def FVal.isFin : FVal → Bool
  | .fin _ _ => true
  | _ => false
def FVal.magOf : FVal → Nat
  | .fin _ m => m
  | _ => 0

/-- The class a value resolves to. -/
def valCls : FVal → Nat
  | .nan => 1
  | .inf _ => 2
  | .fin _ _ => 0

/-- One element of a block: its exact value x 2^(127 - e), rounded to the element format; beyond the largest it takes the largest. -/
def blockElem (f : Fmt) (rand : Option Nat) (e : Nat) (v : FVal) : Rounded :=
  match v with
  | .fin neg m => roundFloat f rand true neg (m * 2 ^ 127) (160 + e)
  | _ => { code := 0, cls := 0 }

/-- Quantize one block of values in units of 2^-160 to BLK_FP8 (7) or BLK_FP4 (8): the scale byte and the elements (07 R199, R209).
`rands` holds one random value per element under SR. -/
def quantBlock (c : Nat) (sat : Bool) (rands : List (Option Nat)) (vs : List FVal) : Nat × List Rounded :=
  let f := fmtOf c
  if vs.any (fun v => !v.isFin) then (0xFF, vs.map (fun v => { code := 0, cls := if v.isFin then 1 else valCls v }))
  else
    let m := vs.foldl (fun a v => max a v.magOf) 0
    let big := f.emax
    let e : Nat := if m == 0 then 0x7F else (Nat.log2 m + 127) - (160 + big)
    if 0xF6 < e then
      if sat then (0xF6, List.zipWith (fun r v => blockElem f r 0xF6 v) rands vs)
      else (0xFF, vs.map (fun _ => { code := 0, cls := 2 }))
    else (e, List.zipWith (fun r v => blockElem f r e v) rands vs)

/-! ### Rotations (09 R265) -/

/-- The sign of H[i][j]: true for -1. -/
def hadNeg (i j : Nat) : Bool := popcount (i &&& j) 6 % 2 == 1

/-- Row `i` of H applied to values in one unit. -/
def hadRow (xs : List FVal) (i : Nat) : FVal :=
  (xs.zipIdx.foldl (fun acc (xj : FVal × Nat) => addVal acc (if hadNeg i xj.2 then negVal xj.1 else xj.1)) (.fin true 0))

/-- The forward rotation 2^-3 H x, rounded once to FP32 (HROT): x in units of 2^-160, the sum in units of 2^-163. -/
def rotForward (xs : List Nat) : List Nat :=
  let vs := xs.map f32Val
  (List.range 32).map (fun i => f32Of (hadRow vs i) 163)

/-- The inverse rotation 2^-2 H y, rounded once to FP32. -/
def rotInverse (xs : List Nat) : List Nat :=
  let vs := xs.map f32Val
  (List.range 32).map (fun i => f32Of (hadRow vs i) 162)

/-- XHAD: the exact inverse rotation of 32 accumulators, by integer addition, subtraction and an arithmetic shift right of 2; a sum outside the range
of A sets RANGE and leaves A (07 R184, 09 R265). Of the flags 09 R265 says nothing: a NaN reaches all 32, an Inf each with its sign, and ALLNEGZ is 0
(DESIGN CHOICE, log entry 81). -/
def rotAccs (cs : List Acc) : List Acc :=
  (List.range 32).map (fun i =>
    let s := cs.zipIdx.foldl (fun (t : Int) (cj : Acc × Nat) => t + (if hadNeg i cj.2 then -cj.1.a else cj.1.a)) 0
    let pinf := cs.zipIdx.any (fun cj => if hadNeg i cj.2 then cj.1.ninf else cj.1.pinf)
    let ninf := cs.zipIdx.any (fun cj => if hadNeg i cj.2 then cj.1.pinf else cj.1.ninf)
    let old : Acc :=
      { a := (cs.getD i {}).a, nan := cs.any (fun c => c.nan), pinf := pinf, ninf := ninf, allNegZ := false,
        range := cs.any (fun c => c.range), count := cs.foldl (fun n c => n + c.count) 0 }
    let r := accSet s old
    if r.range then r else { r with a := s / 4 })

/-! ### Accumulator slots in scratch (07 R192) -/

/-- The flag byte of an accumulator. -/
def accFlags (a : Acc) : Nat := b2n a.nan + 2 * b2n a.pinf + 4 * b2n a.ninf + 8 * b2n a.allNegZ + 16 * b2n a.range

/-- The first byte of the batching carry, which no program sees: whether a finite contribution is held, and the sign of a zero extreme (R200;
DESIGN CHOICE, log entry 58). -/
def accCarry (a : Acc) : Nat := b2n (a.count != 0) + 2 * b2n a.zneg

/-- An accumulator of a value, its flag byte and its carry. -/
def accOfFlags (a : Int) (fl carry : Nat) : Acc :=
  { a := a, nan := bitOf fl 0, pinf := bitOf fl 1, ninf := bitOf fl 2, allNegZ := bitOf fl 3, range := bitOf fl 4,
    count := b2n (bitOf carry 0), zneg := bitOf carry 1 }

/-- Bytes of a slot: 48 of a wide lane, 16 of a narrow one, which holds bits [207:144] of A (R185). What XADD or XHAD leaves outside those bits is not kept:
below them it is cut off, above them it wraps (DESIGN CHOICE, log entry 81). -/
def accSize (narrow : Bool) : Nat := if narrow then 16 else 48
def accSlot (narrow : Bool) (a : Acc) : List Byte :=
  padTo (accSize narrow) ((if narrow then leBytes (ofSigned 64 (a.a / 2 ^ 144)) 8 else leBytes (ofSigned 320 a.a) 40) ++
    leBytes (accFlags a) 1 ++ leBytes (accCarry a) 1)
/-- The accumulator in a slot. -/
def slotAcc (narrow : Bool) (b : List Byte) : Acc :=
  if narrow then accOfFlags (toSigned 64 (leAt b 0 8) * 2 ^ 144) (leAt b 8 1) (leAt b 9 1)
  else accOfFlags (toSigned 320 (leAt b 0 40)) (leAt b 40 1) (leAt b 41 1)

end Sys2Proof.Machine
end

