-- ==== Sys2Proof/Machine/Geometry.lean ====
section
/-! DEFINITION. The geometry of a collective program (08 R214 to R219): elements, chunks, owners, contributors, receivers, payloads. -/

namespace Sys2Proof.Machine

open Sys2Proof

/-! ### Kinds (08 R216) -/

def kindAllReduce : Nat := 0
def kindReduceScatter : Nat := 1
def kindReduce : Nat := 2
def kindAllGather : Nat := 3
def kindBroadcast : Nat := 4
def kindFused : Nat := 5
def kindRing : Nat := 6

/-- Payload passed unchanged. -/
def isCopyKind (k : Nat) : Bool := k == kindAllGather || k == kindBroadcast
/-- Result to one member only. -/
def isUnicastKind (k : Nat) : Bool := k == kindReduceScatter || k == kindReduce

/-- CHUNK_BYTES. -/
def chunkBytes (p : ProgParams) : Nat := 2 ^ p.chunkLog2
/-- E, elements per chunk (08 R215). -/
def chunkElems (p : ProgParams) : Nat := elemsPerBytes p.fin (chunkBytes p)
/-- C, the number of chunks. -/
def chunkCount (p : ProgParams) : Nat := ceilDiv p.len (chunkElems p)
/-- Elements of chunk c. -/
def elemsOf (p : ProgParams) (c : Nat) : Nat := min ((c + 1) * chunkElems p) p.len - c * chunkElems p
/-- Infrastructure index of the owner of chunk c (08 R215). -/
def ownerOf (p : ProgParams) (c : Nat) : Nat := p.planes.getD ((c + p.pvoff) % p.p) 0
/-- Position of an infrastructure index in PLANES. -/
def planePos (p : ProgParams) (idx : Nat) : Option Nat := p.planes.findIdx? (fun i => i == idx)
/-- The first chunk an index owns, where it owns one at all. -/
def firstOwned (p : ProgParams) (idx : Nat) : Option Nat :=
  match planePos p idx with
  | some k => let c := (k + p.p - p.pvoff % p.p) % p.p; if c < chunkCount p then some c else none
  | none => none
/-- How many chunks an index owns. -/
def ownedCount (p : ProgParams) (idx : Nat) : Nat :=
  match firstOwned p idx with
  | some c => (chunkCount p - 1 - c) / p.p + 1
  | none => 0
/-- The k-th chunk an index owns, in increasing order. -/
def ownedChunk (p : ProgParams) (idx k : Nat) : Nat := (firstOwned p idx).getD 0 + k * p.p

/-- Payloads of a chunk's results. -/
def payloadsOut (p : ProgParams) (c : Nat) : Nat := ceilDiv (elemsOf p c) (perPayload p.fout)

/-! ### What contributions and results are made of -/

/-- PHASE 2 of a fused program: the contributions are verdicts (09 R279). -/
def isVerdict (p : ProgParams) : Bool := p.kind == kindFused && p.phase == 2
/-- PHASE 1 of a fused program: the result is a summary (09 R279). -/
def isSummary (p : ProgParams) : Bool := p.kind == kindFused && p.phase == 1
/-- The format of the contributions as they travel. -/
def inFmt (p : ProgParams) : Nat := if isVerdict p then 6 else p.fin
/-- The format of the results as they travel. -/
def outFmt (p : ProgParams) : Nat := if isSummary p then 6 else p.fout

/-- Columns of a low-rank result (09 R269): the compiled text fixes them. -/
def rankCols (p : ProgParams) : Nat := Config.rankCols p % p.len + 1
/-- Rows of a low-rank result that have elements in chunk c: the first, and how many. Each contributor sends these rows of P for the chunk, so that every
element is formed from its whole row (DESIGN CHOICE, log entry 10). -/
def rankRows (p : ProgParams) (c : Nat) : Nat × Nat :=
  let lo := c * chunkElems p / rankCols p
  (lo, ceilDiv (c * chunkElems p + elemsOf p c) (rankCols p) - lo)
/-- r of a low-rank result. -/
def rankR (p : ProgParams) : Nat := 32 * p.rankTiles

/-- Elements that each contributor sends for chunk c (R215, R269, R279). -/
def inElems (p : ProgParams) (c : Nat) : Nat :=
  if isVerdict p then 32
  else if p.rankTiles != 0 then (rankRows p c).2 * rankR p
  else elemsOf p c
/-- Payloads that each contributor sends for chunk c. -/
def inPayloads (p : ProgParams) (c : Nat) : Nat := ceilDiv (inElems p c) (perPayload (inFmt p))
/-- Payloads of chunk c's result. -/
def outPayloads (p : ProgParams) (c : Nat) : Nat := if isSummary p then 1 else payloadsOut p c

/-- The member whose share of an N-way split holds chunk c (08 R216). -/
def shareOf (p : ProgParams) (n c : Nat) : Nat := c / (chunkCount p / n)
/-- Does the member at a position contribute chunk c? -/
def contributes (p : ProgParams) (n c pos : Nat) : Bool :=
  if p.kind == kindAllGather then pos == shareOf p n c
  else if p.kind == kindBroadcast then pos == p.root
  else true
/-- Does the member at a position receive chunk c's result? -/
def receives (p : ProgParams) (n c pos : Nat) : Bool :=
  if p.kind == kindReduceScatter then pos == shareOf p n c
  else if p.kind == kindReduce then pos == p.root
  else true

/-- ELEM of a payload (08 R219). -/
def elemStart (p : ProgParams) (c pidx n : Nat) : Nat := c * chunkElems p + pidx * n
/-- Bytes of `k` elements of a format, E2M1 taking half a byte. -/
def elemBytes (fmt k : Nat) : Nat := ceilDiv (k * elemBits fmt) 8
/-- Where a result payload's scale byte goes in the buffer (08 R219). -/
def scaleOffset (p : ProgParams) (elem : Nat) : Nat := ceilDiv (elemBytes p.fout p.len) 128 * 128 + elem / 32
/-- Bytes a result buffer must cover for the elements up to and with element `last` (08 R482). -/
def coverBytes (p : ProgParams) (last : Nat) : Nat :=
  if isBlkFmt p.fout then scaleOffset p last + 1 else elemBytes p.fout (last + 1)

/-- Members of a group with a result due, and the length each needs (08 R482). -/
def resultNeeds (p : ProgParams) (n pos : Nat) : Nat :=
  if p.kind == kindReduceScatter then
    let per := chunkCount p / n
    coverBytes p (min ((pos + 1) * per * chunkElems p) p.len - 1)
  else if p.kind == kindReduce && pos != p.root then 0
  else coverBytes p (p.len - 1)

/-! ### The trunk ring (08 R242 to R245) -/

/-- K, the number of ring pairs, and a pair's position. -/
def ringK (p : ProgParams) : Nat := p.ring.length
def ringPosOf (p : ProgParams) (pair : Nat) : Option Nat := p.ring.findIdx? (fun x => x == pair)
/-- The number g of an FP32 payload within the whole operation. -/
def ringPayload (p : ProgParams) (chunk pidx : Nat) : Nat := chunk * (chunkElems p / 32) + pidx
/-- FP32 payloads of a chunk. -/
def ringPayloads (p : ProgParams) (chunk : Nat) : Nat := ceilDiv (elemsOf p chunk) 32
/-- Payloads with an even number travel east, toward increasing position. -/
def ringEast (g : Nat) : Bool := g % 2 == 0
/-- The position at which the accumulation of a payload starts. -/
def ringFirstPos (p : ProgParams) (g : Nat) : Nat := (g / 2 % ringK p + p.start) % ringK p
/-- The position next in the payload's direction, and the one that ends its path. -/
def ringNextPos (p : ProgParams) (g pos : Nat) : Nat := if ringEast g then (pos + 1) % ringK p else (pos + ringK p - 1) % ringK p
def ringLastPos (p : ProgParams) (g : Nat) : Nat :=
  if ringEast g then (ringFirstPos p g + ringK p - 1) % ringK p else (ringFirstPos p g + 1) % ringK p

end Sys2Proof.Machine
end

