-- ==== Sys2Proof/Machine/Faults.lean ====
section
/-! DEFINITION. The fault ring and who waits on a fault (11 R328 to R335), and the partition of a cluster (09 R250). -/

namespace Sys2Proof.Machine

open Sys2Proof

/-! ### Clusters (09 R250) -/

/-- The clusters of a mask. -/
def clustersOf (mask : Nat) : List Nat := (List.range 16).filter (fun c => bitOf mask c)

/-- The partition of a cluster, if any. -/
def partitionOf (s : State) (c : Nat) : Option (Nat × Partition) := s.reed.parts.find? (fun p => bitOf p.2.mask c)

/-- The partition number of a cluster, 0 where it has none. -/
def clusterPart (s : State) (c : Nat) : Nat := match partitionOf s c with | some p => p.1 | none => 0

/-! ### The fault ring -/

/-- The ring has room for a record; while the CXL link is down or its stream is Insecure (13 R374), and after a link reset until FAULT_RING_SET is repeated, faults wait as if it were full (13 R373). -/
def ringHasRoom (s : State) (r : FaultRing) : Bool := ioReaches s && !r.dead && decide ((r.next - r.head).toNat < 4096)

/-- A region digest waits like an engine (14 R409); it stands among the waiters under a number that no mover has, with its tenant for the
context. -/
def digestIndex : Nat := 32
def isDigest (w : Waiter) : Bool := !w.cluster && w.index == digestIndex

/-- ENGINE and INDEX, and CONTEXT, of a fault record (R329); of a region digest they are open (log entry 61). -/
def faultEngine (w : Waiter) : List Byte :=
  if isDigest w then [Config.digestEngine 0, Config.digestEngine 1] else leBytes (b2n w.cluster) 1 ++ leBytes w.index 1
def faultContext (s : State) (w : Waiter) : List Byte :=
  if isDigest w then (List.range 4).map (fun k => Config.digestEngine (2 + k))
  else leBytes (if w.cluster then clusterPart s w.index + 16 * w.context else w.context) 4

/-- The 32 B of a fault record (R329). -/
def faultBytes (s : State) (f : PendFault) (id : BitVec 32) : List Byte :=
  let w := f.first
  leBytes (f.page * 65536) 8 ++ leBytes f.tenant 2 ++ leBytes (2 ^ w.access) 1 ++ faultEngine w ++
  leBytes (b2n f.delayed) 1 ++ leBytes (b2n (id.toNat / 4096 % 2 == 0)) 1 ++ [0] ++ leBytes id.toNat 4 ++ faultContext s w ++
  leBytes (if isConf s f.tenant then 0 else w.at_) 8

/-- Write the record of one fault over CXL.io and raise the ring's vector. -/
def writeFault (k : Nat) (f : PendFault) (r : FaultRing) (s : State) : State :=
  let s := s.onHost (fun h => { h with hostMem := memSetN h.hostMem (r.base + 32 * (r.next.toNat % 4096)) (faultBytes s f r.next) })
  let s := s.onXlat (fun x => { x with faults := x.faults.set k { f with id := some r.next }, ring := some { r with next := r.next + 1 } })
  raiseVec r.vec s

/-- Write what can be written, the oldest first; the part keeps 1,024 pending faults (R332), later ones wait for a place. -/
def fillRing : Nat → State → State
  | 0, s => s
  | n + 1, s =>
    match s.xlat.ring with
    | none => s
    | some r =>
      if !ringHasRoom s r then s
      else match (s.xlat.faults.take 1024).findIdx? (fun f => f.id.isNone) with
        | some k => match s.xlat.faults[k]? with
          | some f => fillRing n (writeFault k f r s)
          | none => s
        | none => s

def fillAll (s : State) : State := fillRing (s.xlat.faults.length + 1) s

/-! ### Waiters (R328, R332, R335) -/

/-- Does a descriptor wait on a page? -/
def jobWaits (page : Nat) (j : Job) : Bool := match j.fault with | some f => f.1 / 65536 == page | none => false

/-- Does a queue's read of its submission ring wait on a page? -/
def ringOn (page : Nat) (q : Qp) : Bool := q.sqFault.any (fun a => a / 65536 == page)

/-- The waiter of a fault of an engine, other than at what moment and with what access: the one descriptor, context or region digest. -/
def sameWaiter (w v : Waiter) : Bool := v.cluster == w.cluster && v.index == w.index && v.context == w.context && v.desc == w.desc

/-- A stream of a context touches a page. -/
def streamOn (page : Nat) (t : Stream) : Bool := decide (t.fva / 65536 ≤ page) && decide (page ≤ (t.fva + t.len - 1) / 65536)

/-- Does a waiter still wait on the page: its stream, or the access of its operation's engine (09 R266), or its descriptor? What has ended otherwise waits no
longer. -/
def stillWaits (s : State) (page : Nat) (w : Waiter) : Bool :=
  if isDigest w then true
  else if w.cluster then
    let c := s.ctx { cluster := w.index, ctx := w.context }
    c.streams.any (fun t => t.faulting && streamOn page t) ||
    (match c.job with
     | some (.op g) => (s.op g).any (fun o => o.stalls.any (fun t => t.faulting && t.fva / 65536 == page))
     | _ => false)
  else (s.qp w.context).any (fun q => q.jobs.any (fun j => j.index.toNat == w.desc && jobWaits page j) ||
    (ringOn page q && q.sqHead.toNat == w.desc))

/-- Faults lose the waiters whose access has ended (R335); a fault without a waiter is pending no longer. -/
def settleWaiters (s : State) : State :=
  if s.xlat.faults.isEmpty then s
  else fillAll (s.onXlat (fun x => { x with
    faults := (x.faults.map (fun f => { f with waiters := f.waiters.filter (stillWaits s f.page) })).filter (fun f => !f.waiters.isEmpty) }))

end Sys2Proof.Machine
end

