-- ==== Sys2Proof/Machine/Idle.lean ====
section
/-! DEFINITION. Idle phases (09 R284, R285) and the contexts that a job leaves (09 R252, R278). -/

namespace Sys2Proof.Machine

open Sys2Proof

/-- The contexts that run: each has a job and has not come to its HALT. -/
def runningCtxs (s : State) : List Ctx :=
  s.reed.clusters.flatMap (fun k => (k.2.ctxs.filter (fun c => c.2.job.isSome && !c.2.halted)).map Prod.snd)

/-- Is the context inside an IDLE mark? A mark that begins inside another ends none: the context is in a mark until the last of them has ended (R284; log
entry 83). -/
def inMark (c : Ctx) : Bool := !c.marks.isEmpty

/-- Every context that runs is inside an IDLE mark, and one does. -/
def allIdle (s : State) : Bool := !(runningCtxs s).isEmpty && (runningCtxs s).all inMark

/-- Mean input power of the latest 10 ms, in mW (R285: 1,000 control intervals). -/
def meanOf10ms (s : State) : Nat :=
  let l := s.pwr.history.take 1000
  if l.isEmpty then s.pwr.pin else l.foldl (· + ·) 0 / l.length

/-- Clusters that may run ballast: no context, or every context inside an IDLE mark (R284). -/
def eligible (s : State) : Nat :=
  ((List.range 16).filter (fun c => ((s.cluster c).ctxs.filter (fun x => x.2.job.isSome && !x.2.halted)).all (fun x => inMark x.2))).length

/-- A cluster that is no longer eligible has yielded: what ballast is left comes from the eligible ones (R284, R285). -/
def yieldBallast (s : State) : State := s.onPwr (fun p => { p with ballast := min p.ballast (eligible s * p.perCluster) })

/-- P_ref goes with the idle phase: one that begins takes the mean input power of the 10 ms before; one that ends leaves none (R285). -/
def settlePhase (s : State) : State :=
  let s := yieldBallast s
  if allIdle s then (if s.pwr.pRef.isSome then s else s.onPwr (fun p => { p with pRef := some (meanOf10ms s) }))
  else s.onPwr (fun p => { p with pRef := none })

/-- The contexts of a job are free; stores already on their way to HBM are still completed (R278). -/
def freeContextsOf (job : CtxJob) (s : State) : State :=
  settleWaiters (settlePhase (s.onReed (fun r => { r with clusters := r.clusters.each (fun _ c =>
    { c with ctxs := c.ctxs.each (fun _ x => if x.job == some job then { streams := x.streams.filter (fun t => t.hst) } else x) }) })))

end Sys2Proof.Machine
end

