-- ==== Sys2Proof/Machine/Send.lean ====
section
/-! DEFINITION. How the part's own agents send packets: the GCM counter and key wear of a confidential packet (04 R108 to R111, 14 R396,
R401), and what a home or a plane discards or answers. -/

namespace Sys2Proof.Machine

open Sys2Proof

/-- Bytes that one channel may hold in the local queues of one direction: a twelfth of their 2 MiB (06 R142; how they are divided is open, log entry 67). -/
def localCap : Nat := 174762
/-- Bytes of a channel among the packets from, or to, the part's agents. -/
def localBytes (vc : Nat) (l : List Packet) : Nat := (l.filter (fun k => k.vc.toNat == vc)).foldl (fun n k => n + 16 * k.len) 0
/-- Room for a packet of a channel, at its largest (03 R61), on the way into the core: for a request an agent would send, and for the answer to one it would take. -/
def localRoom (s : State) (vc : Nat) : Bool := decide (localBytes vc ((s.core.localTx ++ s.core.localOut).map (fun x => x.1)) + 192 ≤ localCap)

/-- May a packet enter the local queues: its agents hold no earlier one of its channel, and its channel has room (06 R142)? -/
def mayQueue (c : Core) (p : Packet) : Bool :=
  !c.localOut.any (fun x => x.1.vc == p.vc) && decide (localBytes p.vc.toNat (c.localTx.map (fun x => x.1)) + 16 * p.len ≤ localCap)

/-- Hand a packet of a local agent to the core, with the port it must leave through where the agent fixes one. An agent holds a packet for which the local
queues have no room (06 R142; log entry 67). -/
def sendVia (via : Option Nat) (p : Packet) (s : State) : State :=
  s.onCore (fun c => if mayQueue c p then { c with localTx := c.localTx ++ [(p, via)] } else { c with localOut := c.localOut ++ [(p, via)] })
/-- Hand a packet of a local agent to the core. -/
def sendLocal (p : Packet) (s : State) : State := sendVia none p s

/-- The packets that the agents hold enter the local queues, as far as there is room. -/
def fillLocal (s : State) : State :=
  s.core.localOut.foldl (fun s x => sendVia x.2 x.1 s) (s.onCore (fun c => { c with localOut := [] }))

/-- Take a packet that the core has delivered to the agents out of their queue, where it is there. -/
def takeLocal (p : Packet) (s : State) : State := s.onCore (fun c => { c with localRx := c.localRx.erase p })

/-- The counter of a tenant's key slot, by number 4 x tenant + slot. -/
def ctrKey (t slot : Nat) : Nat := 4 * t + slot

/-- The key in a slot of a tenant, if it is KEYED (14 R396). -/
def slotKeyOf (s : State) (t k : Nat) : Option (List Byte) :=
  match s.tenant t with
  | some x => x.slots.find k
  | none => none

/-- A packet as its destination reads it (04 R108, R112). -/
def opened (s : State) (p : Packet) : Packet := p.openedWith (slotKeyOf s p.tenant.toNat p.keySlot.toNat)

/-- A slot's CTR has passed 2^47: KEY_WEAR is posted once to mailbox 3 (14 R401). -/
def wearCheck (t slot ctr : Nat) (s : State) : State :=
  match s.tenant t with
  | none => s
  | some x =>
    if 2 ^ 47 < ctr && !x.worn.contains slot then
      unsolicited 3 0x00000007 (leBytes t 2 ++ leBytes slot 1) (s.onTenant t (fun x => { x with worn := x.worn ++ [slot] }))
    else s

/-- The planes a packet of this end-point may be sprayed over: mask bit set, port up (01 R21, 10 R291). -/
def spraySet (s : State) : List Nat :=
  (List.range 64).filter (fun i => s.req.mask.getLsbD i && (s.port i).phase == .up)

/-- Hand a packet to the core. A bridge sprays what goes to another end-point over its spray set, and which plane of it takes the packet is
open; with no plane in the set nothing is sent (01 R20, R21). -/
def sprayVia (via : Option Nat) (p : Packet) (s : State) : State :=
  if s.svc.bridge && via.isNone && !nodeInfra p.dst && p.dst != selfNode s then
    let l := spraySet s
    if l.isEmpty then s
    else
      let d := s.drawNat
      sendVia (some (l.getD (d.1 % l.length) 0)) p d.2
  else sendVia via p s

/-- Send a packet of a local agent. A confidential packet takes the next CTR of its key and is sealed here, once (04 R110); one whose CTR would pass its 48
bits, or whose slot is EMPTY, is never sent (04 R109, 14 R396). -/
def sendPacket (via : Option Nat) (p : Packet) (s : State) : State :=
  if !p.conf then sprayVia via p s
  else
    let k := ctrKey p.tenant.toNat p.keySlot.toNat
    let c := s.req.ctrs.look k 0
    match slotKeyOf s p.tenant.toNat p.keySlot.toNat with
    | none => s
    | some key =>
      if 2 ^ 48 ≤ c then s
      else
        let s := s.onReq (fun r => { r with ctrs := r.ctrs.put k (c + 1) })
        sprayVia via (Packet.sealed { p with ctr := BitVec.ofNat 48 c } key) (wearCheck p.tenant.toNat p.keySlot.toNat c s)

/-- The slot under which this node sends for a tenant: `some none` in the clear, `some (some k)` under slot k, `none` where a confidential
tenant has no send slot and nothing may be sent (14 R396). -/
def sendSlotOf (t : Nat) (s : State) : Option (Option Nat) :=
  match s.tenant t with
  | none => some none
  | some x => if x.conf then (match x.sendSlot with | some k => some (some k) | none => none) else some none

/-- Protect a packet of a tenant that is no response, where it may be sent at all (04 R111). -/
def protectFor (p : Packet) (s : State) : Option Packet :=
  match sendSlotOf p.tenant.toNat s with
  | some (some k) => some (Packet.framed { p with conf := true, keySlot := BitVec.ofNat 2 k })
  | some none => some p.framed
  | none => none

/-- Send a packet of a tenant that is no response. -/
def sendFor (via : Option Nat) (p : Packet) (s : State) : State :=
  match protectFor p s with
  | some q => sendPacket via q s
  | none => s

/-- What check 6 of 04 R90 gives for a packet that is addressed to this node (04 R112, R113). -/
inductive AuthResult where
  | ok
  | fail
  | stale
  deriving DecidableEq, Repr

/-- A confidential tenant whose keys are zeroized here, or that is past its drain fence (14 R413, R414): its packets are stale. -/
def pastFence (t : Nat) (s : State) : Bool :=
  match s.tenant t with
  | some x => x.conf && (match x.rev with | some r => r.stage == .erasing || decide (r.t0 + r.fence ≤ s.svc.now) | none => false)
  | none => s.sec.revoked.contains (t, true)

/-- Check 8: the tenant is REVOKING at the home, or a non-confidential tenant revoked and not created again (14 R414). -/
def tenantGone (t : Nat) (s : State) : Bool := isRevoking s t || ((s.tenant t).isNone && s.sec.revoked.contains (t, false))

/-- Check 6: the packet's tenant, its slot and its tag. A plane-made CMPL is judged by R114 where it arrives. -/
def authCheck (p : Packet) (s : State) : AuthResult :=
  let t := p.tenant.toNat
  if pastFence t s then .stale
  else if p.conf then
    match s.tenant t with
    | some x => if (x.slots.find p.keySlot.toNat).isSome then (if p.auth then .ok else .fail) else .stale
    | none => .stale
  else if isConf s t && !(p.op == opCmpl && nodeInfra p.src) then .fail
  else .ok

/-- The tag of a packet fails, or its CONF is missing: counted per port. -/
def countAuthFail (port : Nat) (s : State) : State := s.onCnt port (fun c => { c with authFail := c.authFail + 1 })
def discardUnsure (port : Nat) (s : State) : State := if isPort port then countAuthFail port s else s
/-- Discarded into the port's stale counter. -/
def countStale (port : Nat) (s : State) : State := s.onCnt port (fun c => { c with stale := c.stale + 1 })

/-- The same, for a packet that need not have come in on a port. -/
def discardStale (port : Nat) (s : State) : State := if isPort port then countStale port s else s

/-- A packet that is no request fails a check of 04 R90: discarded and recorded against its port. -/
def discardMalformed (port check : Nat) (p : Packet) (s : State) : State :=
  if port == 0xFFFF then s
  else recordErr kPort port 0x07 2 (leBytes check 1 ++ leBytes p.op 1) (s.onCnt port (fun c => { c with malformed := c.malformed + 1 }))

/-- Checks 6 and 7 of 04 R90 on a packet that is no request, made before its operation is looked for; `bad` says that check 7 fails. -/
def pktChecked (port : Nat) (p : Packet) (bad : Bool) (go : State → State) (s : State) : State :=
  match authCheck p s with
  | .stale => discardStale port s
  | .fail => discardUnsure port s
  | .ok => if bad then discardMalformed port 7 p s else go s

/-- The same for a packet on MGT, which carries CONF 0 for every tenant: of check 6 only the fence applies (04 R111, R112 point 1). -/
def mgtChecked (port : Nat) (p : Packet) (bad : Bool) (go : State → State) (s : State) : State :=
  if pastFence p.tenant.toNat s then discardStale port s
  else if bad then discardMalformed port 7 p s
  else go s

end Sys2Proof.Machine
end

