-- ==== Sys2Proof/Machine/Abort.lean ====
section
/-! DEFINITION. The common abort of a collective (08 R232 to R238), at a plane and at a bridge's collective agent, and what a port that goes
down means for operations (08 R227, R233, R234, R247). -/

namespace Sys2Proof.Machine

open Sys2Proof

/-! ### Reasons (04 R117) -/

def rsDestDown : Nat := 0x01
def rsTenantRevoked : Nat := 0x05
def rsTimeout : Nat := 0x06
def rsDataLost : Nat := 0x07
def rsPathLost : Nat := 0x0B
def rsAuthFail : Nat := 0x0D
def rsMemberTimeout : Nat := 0x10
def rsMemberLeft : Nat := 0x11
def rsFormatError : Nat := 0x12
def rsProgramFault : Nat := 0x13

/-- The codes a plane or a member may use as an abort reason; any other makes an OP_ABORT malformed. -/
def reasonKnown (r : Nat) : Bool :=
  [rsDestDown, rsTenantRevoked, rsTimeout, rsDataLost, rsPathLost, rsAuthFail, rsMemberTimeout, rsMemberLeft, rsFormatError, rsProgramFault].contains r

/-- "No chunk" (08 R215, R234). -/
def noChunk : Nat := 0xFFFFFF

/-- Of two records the lower has the lower ORIGIN, then the lower REASON, then the lower CHUNK (08 R232). -/
def recLt (a b : AbortRec) : Bool :=
  decide (a.origin < b.origin) ||
  (a.origin == b.origin && (decide (a.reason < b.reason) || (a.reason == b.reason && decide (a.chunk < b.chunk))))

/-- Does a record set or lower the one kept? -/
def recLowers (kept : Option AbortRec) (r : AbortRec) : Bool :=
  match kept with
  | none => true
  | some k => recLt r k

/-! ### Collective packets (08 R218) -/

/-- OPARG of a collective packet: group, generation and the low 16 bits. -/
def collArg (low group gen : Nat) : BitVec 32 := BitVec.ofNat 32 (low + group * 2 ^ 16 + gen * 2 ^ 28)
/-- OFFSET of a collective packet: CHUNK and OPSEQ. -/
def collOff (chunk : Nat) (opid : BitVec 32) : BitVec 40 := BitVec.ofNat 40 (chunk % 2 ^ 24 + opid.toNat % 2 ^ 16 * 2 ^ 24)

/-- A collective packet of this node, before protection. -/
def collPacket (o : Nat) (s : State) (dst : Node) (mcast : Bool) (tenant low group gen chunk : Nat) (opid : BitVec 32) : Packet :=
  Packet.framed { blank o (selfNode s) dst with
    tenant := BitVec.ofNat 10 tenant, mcast := mcast, oparg := collArg low group gen, offset := collOff chunk opid }

/-- Packets that belong to a collective operation: RED_PUT, RED_RES, RED_CREDIT, OP_DONE, OP_ABORT and those of the ring. -/
def isColl (p : Packet) : Bool := [opRedPut, opRedRes, opRedCredit, opOpDone, opOpAbort, opRingPart, opRingRes].contains p.op

/-- The operation of this plane that such a packet names, where it is not CLOSED. -/
def namedOp (s : State) (p : Packet) : Option Op :=
  (s.op p.group).filter (fun o => isColl p && o.phase != .closed && o.gen == p.gen && o.opid.toNat % 2 ^ 16 == p.opseq)

/-- OP_ABORT with a record (08 R218): REASON, ORIGIN and FWD. -/
def abortPacket (s : State) (dst : Node) (mcast fwd : Bool) (tenant group gen : Nat) (opid : BitVec 32) (r : AbortRec) : Packet :=
  collPacket opOpAbort s dst mcast tenant (r.reason + r.origin * 2 ^ 8 + b2n fwd * 2 ^ 14) group gen r.chunk opid

/-! ### At a plane -/

/-- Keep a record: where it sets or lowers the operation's, credit stops, the open chunks' state is discarded, the settle interval starts
on the first record, and OP_ABORT is multicast unless the record is not lower than the last one sent (08 R235, R236). -/
def keepRecord (g : Nat) (r : AbortRec) (s : State) : State :=
  match s.op g with
  | none => s
  | some op =>
    if !recLowers op.record r then s
    else
      let first := op.record.isNone
      let s := s.onOp g (fun o => { o with
        record := some r, sent := some r, phase := .aborting, chunks := [], partials := [], gathered := [],
        settleAt := if first then s.svc.now else o.settleAt })
      let s := (freeContextsOf (.op g) s).onCore (fun c => { c with deliveries := c.deliveries.filter (fun d => d.group != g) })
      sendLocal (abortPacket s (selfNode s) true false op.tenant g op.gen op.opid r) s

/-- The lowest chunk still open; where none is, as for a member that is absent at OP_START, 08 R233 gives no CHUNK, and "no chunk" stands (DESIGN CHOICE, log
entry 82). -/
def lowestOpen (op : Op) : Nat := op.chunks.foldl (fun m c => min m c.idx) noChunk

/-- A plane originates an abort, only in RUNNING with no record yet (08 R233); `chunk` none: the lowest chunk still open. -/
def originate (g reason : Nat) (chunk : Option Nat) (s : State) : State :=
  match s.op g with
  | none => s
  | some op =>
    if op.phase == .running && op.record.isNone then
      keepRecord g { origin := selfIndex s, reason := reason, chunk := chunk.getD (lowestOpen op) } s
    else s

/-- Does the group have a member on an end-point port (01 R14)? -/
def memberOnPort (s : State) (g p : Nat) : Bool :=
  match s.coll.groups.find g with
  | some e => e.members.any (fun m => nodeIndex (BitVec.ofNat 13 m.member) == p)
  | none => false

/-- A program that runs over the trunk ring. -/
def isRing (op : Op) : Bool := op.prog.kind == kindRing

/-- What a plane's operation does when a port goes down: DEST_DOWN for a member's port, PATH_LOST for a trunk (08 R233, R247). -/
def opPortDown (p : Nat) (s : State) (g : Nat) : State :=
  match s.op g with
  | none => s
  | some op =>
    if isTrunk p then (if isRing op then originate g rsPathLost none s else s)
    else if memberOnPort s g p then originate g rsDestDown none s
    else s

/-! ### At a bridge's collective agent -/

/-- Chunks of plane r whose results the member is due. -/
def dueChunks (m : MemberOp) (r : Nat) : List Nat :=
  (List.range (ownedCount m.prog r)).map (fun k => ownedChunk m.prog r k) |>.filter (fun c => receives m.prog m.members.length c m.position)

/-- Packets that the part has received and that are still on their way to its agents: in receive buffers, in the core, in the agents' queue. -/
def onTheirWay (s : State) : List Packet :=
  s.ports.flatMap (fun q => q.2.rx) ++ s.core.voqs.flatMap (fun v => v.pkts.map (fun q => q.pkt)) ++ s.core.iqs.flatMap (fun q => q.2.flatMap (fun c => c.ends)) ++
  s.core.reseq.flatMap (fun q => q.2.flatMap (fun c => c.ends)) ++ s.core.localWait ++ s.core.localRx

/-- Is a packet a result of a member's operation? -/
def resultOf (m : MemberOp) (p : Packet) : Bool :=
  p.op == opRedRes && p.group == m.prog.group && p.gen == m.gen && p.opseq == m.opid.toNat % 2 ^ 16

/-- Results of a member's operation that have been received and are not placed yet: (chunk, payload). -/
def resultsComing (s : State) (m : MemberOp) : List (Nat × Nat) := ((onTheirWay s).filter (resultOf m)).map (fun p => (p.chunk, p.pidx))

/-- The chunks of plane r whose results the member has not fully received, lowest first. -/
def missingChunks (s : State) (m : MemberOp) (r : Nat) : List Nat :=
  let got := m.got ++ resultsComing s m
  (dueChunks m r).filter (fun c => (List.range (outPayloads m.prog c)).any (fun i => !got.contains (c, i)))

/-- Is a plane's port up at this bridge? -/
def planeUp (s : State) (r : Nat) : Bool := (s.port r).phase == .up

/-- Send a member's record to every plane of PLANES but one whose port is up, with FWD (08 R237). -/
def forwardRecord (g : Nat) (m : MemberOp) (r : AbortRec) (except : Option Nat) (s : State) : State :=
  m.prog.planes.foldl (fun s i =>
    if some i == except || !planeUp s i then s
    else sendLocal (abortPacket s (mkNode (nodePair (selfNode s)) true i) false true m.tenant g m.gen m.opid r) s) s

/-- A member keeps a record: it stops contributing, starts its settle interval on the first one, and forwards it (08 R230, R237). -/
def memberRecord (g : Nat) (r : AbortRec) (except : Option Nat) (s : State) : State :=
  match s.member g with
  | none => s
  | some m =>
    if m.phase == .reported || !recLowers m.record r then s
    else
      let first := m.record.isNone
      let s := s.onMember g (fun x => { x with record := some r, phase := .aborting, settleAt := if first then s.svc.now else x.settleAt })
      forwardRecord g m r except s

/-- A member's port to plane r goes down: PATH_LOST while it still expects results from r in RUNNING, else the plane is noted (08 R227, R234). -/
def memberPortDown (r : Nat) (s : State) (g : Nat) : State :=
  match s.member g with
  | none => s
  | some m =>
    if !m.prog.planes.contains r || m.record.isSome || m.phase == .reported then s
    else
      match missingChunks s m r with
      | c :: _ => if m.phase == .running then memberRecord g { origin := r, reason := rsPathLost, chunk := c } (some r) s else s
      | [] => s.onMember g (fun x => { x with lostPlanes := x.lostPlanes ++ [(r, s.svc.now)] })

/-- The collective engine, or the bridge's agent, is told which port went down (06 R161 step 1). -/
def collPortDown (p : Nat) (s : State) : State :=
  if s.svc.bridge then (s.coll.members.map Prod.fst).foldl (memberPortDown p) s
  else (s.coll.ops.map Prod.fst).foldl (opPortDown p) s

end Sys2Proof.Machine
end

