-- ==== Sys2Proof/Machine/Requester.lean ====
section
/-! DEFINITION. The requester side of the end-point block: sequence numbers and tags (04 R94 to R97), the single-request rule (05 R128),
spraying (10 R291), attempts and re-sends (10 R294 to R297, 05 R126), and the acceptance of responses (04 R98, R113, R114). -/

namespace Sys2Proof.Machine

open Sys2Proof

/-! ### Issuing -/

/-- A read, a write or a masked write, which may be re-sent; an ATOMIC never is (10 R295, R296). -/
def idempotent (p : Packet) : Bool := p.op == opRdLine || p.op == opWrLine || p.op == opWrMasked
def isWrite (p : Packet) : Bool := p.op == opWrLine || p.op == opWrMasked || p.op == opAtomic

/-- The plane of the next attempt of a bridge's request: a request to a plane has its port alone; any other goes through a plane of the
spray set that has not carried it yet, while one remains (10 R291, R295). Which of them is open. -/
def pickPlane (tried : List Nat) (p : Packet) (s : State) : Option Nat × State :=
  if nodeInfra p.dst then (some (nodeIndex p.dst), s)
  else
    let fresh := (spraySet s).filter (fun i => !tried.contains i)
    let l := if fresh.isEmpty then spraySet s else fresh
    if l.isEmpty then (none, s)
    else
      let d := s.drawNat
      (some (l.getD (d.1 % l.length) 0), d.2)

/-- Change an outstanding request. -/
def onReqTag (tag : Nat) (f : Request → Request) (s : State) : State := s.onReq (fun r => { r with out := r.out.adj tag f })

/-- The last granule of a request of this node has been sent: the timer of its attempt starts (10 R294). -/
def noteSent (k : Packet) (s : State) : State :=
  if k.isReq && k.src == selfNode s then
    onReqTag k.tag.toNat (fun r =>
      if r.pkt.dst == k.dst && r.pkt.seq == k.seq && !r.timing then { r with sentAt := s.svc.now, timing := true } else r) s
  else s

/-- May a packet of this node be sent at all: a confidential one needs a KEYED slot whose CTR is not spent (04 R109)? -/
def maySend (s : State) (p : Packet) : Bool :=
  !p.conf || ((slotKeyOf s p.tenant.toNat p.keySlot.toNat).isSome && decide (s.req.ctrs.look (ctrKey p.tenant.toNat p.keySlot.toNat) 0 < 2 ^ 48))

/-- An attempt that sends nothing is timed from now. -/
def idleAttempt (r : Request) (now : Nat) : Request := { r with sentAt := now, timing := true, via := none, due := false }

/-- An attempt that goes out: its timer starts with its last granule (10 R294). -/
def sentAttempt (p : Packet) (via : Option Nat) (r : Request) : Request :=
  { r with pkt := p, attempts := r.attempts + 1, timing := false, due := false, via := via,
           planes := match via with | some i => i :: r.planes | none => r.planes }

/-- One attempt: encrypted afresh (04 R109). A part never sends on a bridge's port that is down: DEST_DOWN is then made at the source for a plane (04 R115),
and with an empty spray set nothing is sent and the attempt times out. -/
def attempt (tag : Nat) (s : State) : State :=
  match s.req.out.find tag with
  | none => s
  | some r =>
    match protectFor { r.pkt with conf := false, keySlot := 0 } s with
    | none => onReqTag tag (fun r => idleAttempt r s.svc.now) s
    | some p =>
      let idle := fun (s : State) => onReqTag tag (fun r => { idleAttempt r s.svc.now with pkt := p, attempts := r.attempts + 1 }) s
      let send := fun (via : Option Nat) (s : State) =>
        sendPacket via p (onReqTag tag (sentAttempt p via) (s.onReq (fun q => { q with lastSend := q.lastSend.put p.dst.toNat s.svc.now })))
      if !maySend s p then idle s
      else if s.svc.bridge && p.dst != selfNode s then
        match pickPlane r.planes p s with
        | (none, s) => idle s
        | (some i, s) => if nodeInfra p.dst && (s.port i).phase != .up then sendLocal (planeCmpl (selfNode s) p stDestDown) (idle s) else send (some i) s
      else send none s

/-- Must the next request to a destination go alone (05 R128)? -/
def mustBeSingle (s : State) (d : Nat) : Bool :=
  match s.req.lastSend.find d with
  | none => true
  | some t => decide (t + 10000000 ≤ s.svc.now)

/-- The first TAG from a start that is not outstanding. -/
def freeTag (l : Map Request) : Nat → BitVec 16 → Option (BitVec 16)
  | 0, _ => none
  | n + 1, t => if (l.find t.toNat).isNone then some t else freeTag l n (t + 1)

/-- Room that a request reserves for its largest response: 10 granules for RD_LINE and ATOMIC, 2 for the others, one more with CONF (10 R293). -/
def responseRoom (s : State) (p : Packet) : Nat :=
  (if p.op == opRdLine || p.op == opAtomic then 10 else 2) + b2n (isConf s p.tenant.toNat)

/-- Granules the part has for the responses of its requests: the largest for each TAG (log entry 71). -/
def roomCap : Nat := 65536 * 11
def reservedRoom (s : State) : Nat := s.req.out.foldl (fun n r => n + r.2.room) 0

/-- May the next request to a destination be sent: room for its response, a place in the local queues, no single request out, and the SEQ 4,096 below
completed (04 R95)? -/
def mayIssue (s : State) (p : Packet) : Bool :=
  let d := p.dst.toNat
  decide (reservedRoom s + responseRoom s p ≤ roomCap) && localRoom s 0 && !s.req.single.contains d &&
  !s.req.out.any (fun r => r.2.pkt.dst.toNat == d && r.2.attempts != 0 && r.2.pkt.seq == s.req.seqs.look d 0 - 4096)

/-! ### The remote-line cache and this node's writes (05 R133) -/

/-- Two packets name one line of one tenant. -/
def onLine (p q : Packet) : Bool := p.tenant == q.tenant && p.dst == q.dst && p.offset == q.offset

/-- A copy of a line of a tenant at a node. -/
def sameLine (t node off : Nat) (c : CacheLine) : Bool := c.tenant == t && c.node == node && c.offset == off

/-- Drop a line. -/
def cacheDrop (t node off : Nat) (s : State) : State := s.onHost (fun h => { h with cache := h.cache.filter (fun c => !sameLine t node off c) })
def dropLine (p : Packet) (s : State) : State := cacheDrop p.tenant.toNat p.dst.toNat p.offset.toNat s

/-- Reads that are out and chosen may fill the cache no more. -/
def barFills (which : Packet → Bool) (s : State) : State :=
  s.onReq (fun r => { r with out := r.out.each (fun _ x => if which x.pkt then { x with noFill := true } else x) })

/-- A unit of this node stores to a line of the node's own memory: the cache's copy of it goes, and a read that is out fills none (05 R133 rule 2). -/
def ownWrite (t off : Nat) (s : State) : State :=
  let line := off / 128 * 128
  let me := selfNode s
  barFills (fun p => p.tenant.toNat == t && p.dst == me && p.offset.toNat == line) (cacheDrop t me.toNat line s)

/-- A write of this node to a line is out, or waits to be sent. -/
def writeOpen (s : State) (p : Packet) : Bool :=
  s.req.out.any (fun x => isWrite x.2.pkt && onLine p x.2.pkt) || s.req.waiting.any (fun x => isWrite x.1 && onLine p x.1)

/-- A host access; a mover goes on to its 64 KiB boundary when its tenant is REVOKING (11 R346), and its jobs judge that themselves. -/
def isWindowUse : Purpose → Bool
  | .window _ _ _ _ => true
  | _ => false

/-- Enter a request under a TAG. A host access of a tenant that is REVOKING gets TENANT_REVOKED at the source, and a confidential tenant
without a send slot issues nothing and takes no SEQ (14 R396, R413). -/
def enterRequest (tag : BitVec 16) (p : Packet) (u : Purpose) (s : State) : State :=
  let d := p.dst.toNat
  let s := if isWrite p then barFills (onLine p) s else s
  let put := fun (p : Packet) (s : State) => s.onReq (fun r =>
    { r with
      out := r.out.put tag.toNat { pkt := p, purpose := u, sentAt := s.svc.now, timing := true, room := responseRoom s p, noFill := writeOpen s p }
      nextTag := tag + 1 })
  if isWindowUse u && isRevoking s p.tenant.toNat then
    let p := { p with tag := tag }
    sendLocal (planeCmpl (selfNode s) p stTenantRevoked) (put p s)
  else if (protectFor p s).isNone then put { p with tag := tag } s
  else
    let n := s.req.seqs.look d 0
    let alone := mustBeSingle s d
    let s := put { p with tag := tag, seq := n } s
    attempt tag.toNat (s.onReq (fun r =>
      { r with
        seqs := r.seqs.put d (n + 1)
        unanswered := r.unanswered.filter (fun x => x.1 != d || decide ((n - x.2).toNat < 8192))
        single := if alone then r.single ++ [d] else r.single }))

/-- Send what may be sent of the waiting requests, in order to each destination. -/
def pumpGo : List (Packet × Purpose) → List Nat → State → State
  | [], _, s => s
  | (p, u) :: rest, blocked, s =>
    let keep := fun (s : State) => s.onReq (fun r => { r with waiting := r.waiting ++ [(p, u)] })
    if blocked.contains p.dst.toNat || !mayIssue s p then pumpGo rest (p.dst.toNat :: blocked) (keep s)
    else
      match freeTag s.req.out (s.req.out.length + 1) s.req.nextTag with
      | some t => pumpGo rest blocked (if s.req.out.length < 65536 then enterRequest t p u s else keep s)
      | none => pumpGo rest blocked (keep s)

def pump (s : State) : State := pumpGo s.req.waiting [] (s.onReq (fun r => { r with waiting := [] }))

/-- Issue a request for a purpose: it takes its place behind those that wait. Before a write of a mover, the cache of a bridge drops its copy of the line; a window has
updated it (05 R133 rule 2). -/
def issue (p : Packet) (u : Purpose) (s : State) : State :=
  let s := if isWrite p && !isWindowUse u then dropLine p s else s
  pump (s.onReq (fun r => { r with waiting := r.waiting ++ [(p, u)] }))

/-- A request of this node for a tenant. -/
def request (o : Nat) (s : State) (node : Node) (tenant offset : Nat) : Packet :=
  { blank o (selfNode s) node with tenant := BitVec.ofNat 10 tenant, offset := BitVec.ofNat 40 offset }

/-- RD_LINE, WR_LINE or WR_MASKED of a tenant. -/
def readRequest (s : State) (node : Node) (tenant offset : Nat) (volat : Bool) : Packet :=
  { request opRdLine s node tenant offset with volat := volat }
def writeRequest (s : State) (node : Node) (tenant offset mask : Nat) (data : List Byte) : Packet :=
  if mask == 2 ^ 128 - 1 then { request opWrLine s node tenant offset with data := padTo 128 data }
  else { request opWrMasked s node tenant offset with sideBit := true, side := leBytes mask 16, data := padTo 128 data }

/-! ### Re-sends (10 R295, 05 R126) -/

/-- SEQ `a` was assigned before SEQ `b`. -/
def seqBefore (a b : BitVec 16) : Bool := decide (0 < (b - a).toNat) && decide ((b - a).toNat < 32768)

/-- An earlier write to the destination of a RELEASE that is, or may still be, re-sent has no completion yet. -/
def releaseBlocked (s : State) (r : Request) : Bool :=
  s.req.out.any (fun x => x.2.pkt.dst == r.pkt.dst && isWrite x.2.pkt && idempotent x.2.pkt && seqBefore x.2.pkt.seq r.pkt.seq)

/-- An earlier write that was re-sent has ended without a completion: a RELEASE above it may never be sent again (05 R126). -/
def neverAgain (s : State) (r : Request) : Bool :=
  r.pkt.release && s.req.unanswered.any (fun x => x.1 == r.pkt.dst.toNat && seqBefore x.2 r.pkt.seq)

/-- Note such a write as it ends. -/
def noteUnanswered (r : Request) (status : Nat) (s : State) : State :=
  if isWrite r.pkt && status == stTimeout && decide (2 ≤ r.attempts) then
    s.onReq (fun q => { q with unanswered := q.unanswered ++ [(r.pkt.dst.toNat, r.pkt.seq)] })
  else s

/-- Re-sends that are due and may go. -/
def pumpDue (s : State) : State :=
  (s.req.out.filter (fun x => x.2.due)).foldl (fun s x =>
    match s.req.out.find x.1 with
    | some r => if r.pkt.release && (releaseBlocked s r || neverAgain s r) then s else attempt x.1 s
    | none => s) s

/-- A request leaves the table; a single request's destination opens once its home has answered (05 R128). -/
def closeRequest (tag : Nat) (fromHome : Bool) (s : State) : State :=
  match s.req.out.find tag with
  | none => s
  | some r =>
    let d := r.pkt.dst.toNat
    s.onReq (fun q =>
      { q with
        out := q.out.del tag
        single := if r.attempts == 0 then q.single else q.single.filter (fun x => x != d)
        lastSend := if q.single.contains d && !fromHome && r.attempts != 0 then q.lastSend.del d else q.lastSend })

/-- What a status of an attempt means for its request: another attempt, or the final status (10 R295, R296). -/
def verdict (r : Request) (status : Nat) : Option Nat :=
  if status == stDestDown || status == stTimeout then
    if r.attempts == 0 then some status
    else if r.pkt.op == opAtomic then some stPathLost
    else if idempotent r.pkt && decide (r.attempts < 4) then none
    else some status
  else some status

/-! ### Accepting a response (04 R98, R113, R114) -/

/-- What becomes of a response that arrives. -/
inductive Accept where
  | request (tag : Nat) (r : Request)
  | stale
  | staleKey
  | badTag
  | malformed
  deriving DecidableEq, Repr

/-- The statuses that a CMPL may carry (04 R115). -/
def wireStatus (st : Nat) : Bool :=
  [stOk, stDestDown, stNodeUnknown, stAccessDenied, stNotMapped, stTenantRevoked, stDataLost, stBadRequest, stNotReady, stAuthFail].contains st

/-- Flags that no response carries, an OFFSET that is no line of a data response, and a STATUS that no CMPL carries (04 R84, R90 check 7, R115; log entry 72). -/
def responseBad (p : Packet) : Bool :=
  p.release || p.acquire || p.volat || p.scope != 0 || ((p.op == opRdData || p.op == opAtomicData) && p.offset.toNat % 128 != 0) ||
  (p.op == opCmpl && !wireStatus p.status.toNat)

/-- The statuses a plane may put into a CMPL of its own. -/
def planeStatus (st : Nat) : Bool := st == stDestDown || st == stNodeUnknown || st == stBadRequest || st == stAuthFail

/-- An unauthenticated response that a confidential request may not be answered by (04 R114). -/
def unauthentic (r : Request) (p : Packet) (s : State) : Bool :=
  r.pkt.conf && !p.conf &&
  !(p.op == opCmpl && nodeInfra p.src && nodePair p.src == nodePair (selfNode s) && planeStatus p.status.toNat)

/-- Match a response: its authentication, its flags, its TAG. A completion made inside this part needs no tag; an unauthenticated response to a confidential
request is a stale completion unless it is the CMPL that 04 R114 allows. -/
def acceptResponse (port : Nat) (p : Packet) (s : State) : Accept :=
  let own := port == 0xFFFF && p.src == selfNode s && p.op == opCmpl && !p.conf
  let known := s.req.out.find p.tag.toNat
  if !own && pastFence p.tenant.toNat s then .staleKey
  else if !own && (match known with | some r => unauthentic r p s | none => false) then .stale
  else
    match if own then AuthResult.ok else authCheck p s with
    | .stale => .staleKey
    | .fail => .badTag
    | .ok =>
      if responseBad p then .malformed
      else match known with
        | none => .stale
        | some r => .request p.tag.toNat r

/-- A stale completion is counted and changes nothing else. -/
def countStaleCmpl (s : State) : State := s.onReq (fun r => { r with stale := r.stale + 1 })

/-! ### Suspect planes (10 R297) -/

/-- A response has arrived through a plane. -/
def planeAnswered (port : Nat) (s : State) : State :=
  if s.svc.bridge && isPort port then s.onReq (fun r => { r with timeouts := r.timeouts.put port 0 }) else s

/-- The plane's bit leaves the spray mask. -/
def dropPlane (i : Nat) (s : State) : State := s.onReq (fun r => { r with mask := r.mask &&& ~~~(BitVec.ofNat 64 (2 ^ i)), cleared := i :: r.cleared.filter (fun k => k != i) })

/-- A request sent through a plane has ended in TIMEOUT: at the eighth in a row the plane is removed and PLANE_SUSPECT reported. -/
def planeTimedOut (i : Nat) (s : State) : State :=
  let n := s.req.timeouts.look i 0 + 1
  let s := s.onReq (fun r => { r with timeouts := r.timeouts.put i (if n == 8 then 0 else n) })
  if n == 8 then (dropPlane i s).onReq (fun r => { r with suspects := r.suspects ++ [i] }) else s

end Sys2Proof.Machine
end

