-- ==== Sys2Proof/Machine/Translate.lean ====
section
/-! DEFINITION. The two translations (11 R319 to R322, R327), the HBM under its memory keys (14 R403) with its errors (15 R425, R437, R438), and the
doorbells of queue pairs (11 R339, 17 R473). -/

namespace Sys2Proof.Machine

open Sys2Proof

/-! ### Walks -/

/-- The present entry of a tree that translates an address. -/
def findEntry (l : List XEntry) (t a : Nat) : Option XEntry :=
  l.find? (fun x => x.tenant == t && decide (x.addr ≤ a) && decide (a < x.addr + pageBytes (entSize x.entry)))

/-- The translated address. -/
def XEntry.map (x : XEntry) (a : Nat) : Nat := entTarget x.entry + (a - x.addr)

/-- Engines that cache entries (R327): movers 0 to 31, clusters 32 to 47, the home 48; entries each keeps. -/
def cacheCap (engine : Nat) : Nat := if engine < 32 then 256 else if engine < 48 then 128 else 4096

/-- An engine has used an entry: it is the newest in its cache. -/
def touchCache (engine : Nat) (x : XEntry) (s : State) : State :=
  s.onXlat (fun v => { v with caches := v.caches.upd engine [] (fun l => (x :: l.erase x).take (cacheCap engine)) })

/-- Does an access (0 read, 1 write, 2 atomic) have its right? -/
def entRight (e : BitVec 64) (access : Nat) : Bool := if access == 0 then entR e else if access == 1 then entW e else entA e

/-- What a source translation gives (R319, R322, R328). -/
inductive SrcResult where
  | malformed
  | fault
  | denied
  | ok (node : Node) (offset : Nat)
  deriving DecidableEq, Repr

/-- Source translation of an FVA for an access of a tenant. -/
def srcTranslate (s : State) (t fva access : Nat) : SrcResult :=
  if 2 ^ 48 ≤ fva then .malformed
  else match findEntry s.xlat.src t fva with
    | none => .fault
    | some x =>
      if !entRight x.entry access then .denied
      else .ok (BitVec.ofNat 13 (x.map fva / 2 ^ 40)) (x.map fva % 2 ^ 40)

/-- Target translation and rights, check 9 of 04 R90: the HBM address, or the status. -/
def tgtTranslate (s : State) (t off access : Nat) : Nat ⊕ Nat :=
  if 2 ^ 38 ≤ off then .inr stNotMapped
  else match findEntry s.xlat.tgt t off with
    | none => .inr stNotMapped
    | some x => if entRight x.entry access then .inl (x.map off) else .inr stAccessDenied

/-! ### HBM under a memory key (14 R403) -/

/-- The memory key of a tenant. -/
def memKeyOf (s : State) (t : Nat) : Nat := match s.tenant t with | some x => x.memKey | none => 0

/-- A line as it reads under a key: a line written under another key is meaningless data, which is open. -/
def hbmLine (key line : Nat) (s : State) : List Byte × State :=
  match s.home.owner.find line with
  | some k => if k == key then (memGetN s.home.hbm (128 * line) 128, s) else s.drawBytes 128
  | none => (memGetN s.home.hbm (128 * line) 128, s)

/-- Does a mask select every byte of a line? -/
def fullMask : Nat := 2 ^ 128 - 1

/-- Merge bytes under a mask. -/
def mergeMask : Nat → List Byte → List Byte → List Byte
  | m, o :: os, n :: ns => (if m % 2 = 1 then n else o) :: mergeMask (m / 2) os ns
  | _, os, _ => os

/-- Store into a line under a key; a full store ends a lost-line mark (15 R437). -/
def hbmStore (key line mask : Nat) (data : List Byte) (s : State) : State :=
  if mask == 0 then s
  else
    let old := if mask == fullMask then (padTo 128 data, s) else hbmLine key line s
    let new := mergeMask mask old.1 (padTo 128 data)
    old.2.onHome (fun h => { h with
      hbm := memSetN h.hbm (128 * line) new
      owner := h.owner.put line key
      lost := if mask == fullMask then h.lost.filter (fun x => x != line) else h.lost })

/-- Lines that a range of bytes touches, with the part of each: (line, first byte, count, offset in the range). -/
def linesIn (a n : Nat) : List (Nat × Nat × Nat × Nat) :=
  if n = 0 then []
  else (List.range ((a + n - 1) / 128 - a / 128 + 1)).map (fun i =>
    let l := a / 128 + i
    let lo := max a (128 * l)
    let hi := min (a + n) (128 * (l + 1))
    (l, lo % 128, hi - lo, lo - a))

/-- A byte mask of `n` bytes from byte `b`. -/
def maskOf (b n : Nat) : Nat := (2 ^ n - 1) * 2 ^ b

/-- The channel of an address. -/
def channelOf (a : Nat) : Nat := Config.channelOf a % 64

/-! ### Retirement of HBM frames (15 R436 to R439) -/

/-- Does a target entry map some of a frame? A page is never smaller than a frame. -/
def mapsFrame (f : Nat) (x : XEntry) : Bool :=
  decide (entTarget x.entry ≤ 65536 * f) && decide (65536 * f < entTarget x.entry + pageBytes (entSize x.entry))

/-- The tenants whose target entries map a frame. -/
def frameTenants (f : Nat) (s : State) : List Nat := ((s.xlat.tgt.filter (mapsFrame f)).map (fun x => x.tenant)).eraseDups

/-- The spare frames for the data of frame `f`: those of the last 1 MiB of the firmware's range that are neither retired nor in use, `f` itself left out (15 R438,
R439; log entry 17). -/
def spareFrames (f : Nat) (s : State) : List Nat :=
  ((List.range 16).map (fun i => 2 ^ 22 - 16 + i)).filter (fun g => g != f && !(cfgNow s.flash).retired.contains g && !s.home.spares.contains g)

/-- One line of a frame is copied under a key, where its check was good; else it is marked lost in the replacement (15 R437). -/
def copyChecked (key f spare i : Nat) (c : Bool × State) : State :=
  let dest := 512 * spare + i
  if c.1 then
    let r := hbmLine key (512 * f + i) c.2
    hbmStore key dest fullMask r.1 r.2
  else c.2.onHome (fun h => { h with lost := if h.lost.contains dest then h.lost else h.lost ++ [dest] })

/-- May the words of a line be read at all: its channel has not failed, and it is not lost? -/
def readable (s : State) (a : Nat) : Bool := !(s.home.failedChannels.contains (channelOf a) || s.home.lost.contains (a / 128))

/-- The frame enters the list in both configuration copies (15 R439). -/
def listRetired (f : Nat) (s : State) : State := s.onFlash (cfgWrite (fun c => { c with retired := c.retired ++ [f] }))

/-- A spare frame has taken the place of a retired one. -/
def takeSpare (f spare : Nat) (s : State) : State := s.onHome (fun m => { m with spares := m.spares ++ [spare], moved := m.moved.put f spare })

/-- The part retires a firmware-owned frame on its own while spares remain; it never retires a tenant's frame so (15 R438). `bad` is the line that cannot be
read. A full list, or a configuration flash that takes no write (15 R434), leaves the frame in service (DEDUCED, log entry 21). -/
def retireOwn (f : Nat) (bad : Option Nat) (s : State) : State :=
  let l := (cfgNow s.flash).retired
  if 65536 * f < s.svc.fwBase || l.contains f || decide (1024 ≤ l.length) || s.svc.removedAt.isSome || !(frameTenants f s).isEmpty then s
  else match spareFrames f s with
    | [] => s
    | g :: _ =>
      listRetired f (takeSpare f g ((List.range 512).foldl (fun s i =>
        copyChecked s.sec.fwKey f g i (bad != some i && readable s (128 * (512 * f + i)), s)) s))

/-! ### Errors of the HBM (15 R425, R430, R437, R438) -/

/-- A frame should be retired. -/
def adviseRetire (a : Nat) (s : State) : State :=
  setSummary 13 (recordErr kHbm (channelOf a) 0x39 1 (leBytes (a / 65536 * 65536) 5) s)

/-- A corrected error: the eighth of a frame within 10 s advises its retirement. -/
def correctedAt (a : Nat) (s : State) : State :=
  let s := recordCorrected kHbm (channelOf a) s
  let f := a / 65536
  let l := ((s.home.corrected.look f []).filter (fun t => decide (s.svc.now < t + 10000000000))) ++ [s.svc.now]
  if 8 ≤ l.length then retireOwn f none (adviseRetire a (s.onHome (fun h => { h with corrected := h.corrected.del f })))
  else s.onHome (fun h => { h with corrected := h.corrected.put f l })

/-- An uncorrectable error at an address. -/
def damagedAt (a : Nat) (s : State) : State := adviseRetire a (recordErr kHbm (channelOf a) 0x38 2 (leBytes a 5) s)

/-- The check of the words that are read at an address: is the data good? A failed channel and a lost line are never good. -/
def eccCheck (e : Ecc) (a : Nat) (s : State) : Bool × State :=
  if !readable s a then (false, s)
  else match e with
    | .corrected => (true, correctedAt a s)
    | .uncorrectable => (false, retireOwn (a / 65536) (some (a / 128 % 512)) (damagedAt a s))
    | _ => (true, s)

/-- An open address in the firmware's range. -/
def fwAddress (s : State) : Nat × State :=
  let d := s.drawNat
  (s.svc.fwBase + d.1 % (2 ^ 38 - s.svc.fwBase), d.2)

/-- What an uncorrectable word of a mirror does beside the walk that it faults (15 R425): it is recorded at an open address of the firmware's range. -/
def mirrorCheck (e : Ecc) (s : State) : State :=
  if e == .mirror then
    let a := fwAddress s
    (eccCheck .uncorrectable a.1 a.2).2
  else s

/-- The target walk of a request: over a damaged mirror it faults, so it finds no page (15 R425; log entry 21). -/
def tgtWalk (e : Ecc) (s : State) (t off access : Nat) : Nat ⊕ Nat := if e == .mirror then .inr stNotMapped else tgtTranslate s t off access

/-- Do lines of a frame lie on a channel that retrains (15 R430)? -/
def frameWaits (s : State) (f : Nat) : Bool :=
  s.svc.hbmResetting.any (fun c => (List.range 512).any (fun i => channelOf (128 * (512 * f + i)) == c))

/-- Does a store that does not read the line report an error: its channel has failed? -/
def channelDead (s : State) (a : Nat) : Bool := s.home.failedChannels.contains (channelOf a)

/-! ### Doorbells (R339, 17 R473) -/

/-- A new submission tail: accepted, or the queue moves to ERROR where it would overtake the ring. -/
def setSqTail (n : Nat) (v : BitVec 32) (s : State) : State :=
  s.onQp n (fun q => if 2 ^ q.sqLog < (v - q.sqHead).toNat then { q with error := true } else { q with sqTail := v })

/-- A new completion head: ignored beyond the records written. -/
def setCqHead (n : Nat) (v : BitVec 32) (s : State) : State :=
  s.onQp n (fun q => if (q.cqTail - q.cqHead).toNat < (v - q.cqHead).toNat then q else { q with cqHead := v })

/-- The HBM line of a line-mode doorbell, where it translates to this part's own HBM. -/
def doorbellAt (s : State) (q : Qp) : Option Nat :=
  (findEntry s.xlat.src q.tenant q.dbFva).bind (fun x =>
    if x.map q.dbFva / 2 ^ 40 == (selfNode s).toNat then
      (findEntry s.xlat.tgt q.tenant (x.map q.dbFva % 2 ^ 40)).map (fun y => y.map (x.map q.dbFva % 2 ^ 40) / 128)
    else none)

/-- A write has landed on a line: line-mode doorbells on it wake their queues. -/
def doorbellLanded (line : Nat) (s : State) : State :=
  (s.queues.qps.filter (fun q => q.2.lineMode && doorbellAt s q.2 == some line)).foldl (fun s q =>
    let r := hbmLine (memKeyOf s q.2.tenant) line s
    setCqHead q.1 (BitVec.ofNat 32 (leAt r.1 4 4)) (setSqTail q.1 (BitVec.ofNat 32 (leAt r.1 0 4)) r.2)) s

end Sys2Proof.Machine
end

