-- ==== Sys2Proof/Machine/Programs.lean ====
section
/-! DEFINITION. Partitions and programs (09 R250 to R259, R483, 08 R214 to R216, 07 R178): PARTITION_SET, PROGRAM_LOAD, PROGRAM_UNLOAD, and the
start of contexts (R252, R258, R271). -/

namespace Sys2Proof.Machine

open Sys2Proof

/-! ### Partitions (R250, R251) -/

/-- Keys of the images of a partition: 16 x slot + partition. -/
def imageKey (partition slot : Nat) : Nat := 16 * slot + partition
def imagesOf (s : State) (partition : Nat) : List (Nat × Image) := s.reed.images.filter (fun i => i.1 % 16 == partition)

/-- A cluster with zeroed scratch and no context. -/
def zeroCluster (c : Nat) (s : State) : State := s.onCluster c (fun k => { k with scratch := [], ctxs := [] })

/-- The clusters that a PARTITION_SET zeroes: those that join the partition, and all of them where the partition is given to another tenant, to which nothing
that the last one's program left is visible. -/
def zeroedBy (s : State) (partition mask tenant : Nat) : List Nat :=
  match s.reed.parts.find partition with
  | some p => (clustersOf mask).filter (fun c => p.tenant != tenant || !bitOf p.mask c)
  | none => clustersOf mask

/-- PARTITION_SET where it is not refused: the clusters that join are zeroed, those of a deleted partition too. -/
def setPartition (partition mask tenant : Nat) (s : State) : State :=
  if mask == 0 then
    match s.reed.parts.find partition with
    | none => s
    | some p => bumpEpoch ((clustersOf p.mask).foldl (fun s c => zeroCluster c s) (s.onReed (fun r => { r with parts := r.parts.del partition })))
  else
    bumpEpoch (((zeroedBy s partition mask tenant).foldl (fun s c => zeroCluster c s) s).onReed (fun r =>
      { r with parts := r.parts.put partition { mask := mask, tenant := tenant } }))

/-- PARTITION_SET. -/
def execPartitionSet (h : MHdr) (partition mask tenant : Nat) (s : State) : Host.Outcome State Fault Refusal :=
  command (.partitionSet h partition mask tenant) h { boxes := boxF } never
    (fun s => 15 < partition || 65535 < mask || (mask != 0 && (s.tenant tenant).isNone))
    (fun s =>
      if !(imagesOf s partition).isEmpty && (s.reed.parts.find partition).isSome then reply h msBusy [] s
      else if (clustersOf mask).any (fun c => match partitionOf s c with | some p => p.1 != partition | none => false) then reply h msBusy [] s
      else reply h msOk [] (setPartition partition mask tenant s)) s

/-! ### The parameter block (R259, R214, R216, R178) -/

/-- The fields of a parameter block. -/
def paramsOf (b : List Byte) : ProgParams :=
  let n := leAt b
  let arith := n 19 1
  { kind := n 0 1, phase := n 1 1, group := n 2 2 % 4096, p := n 4 1, pvoff := n 5 1, chunkLog2 := n 6 1, w := n 7 1 + 1,
    len := n 8 8 % 2 ^ 40, root := n 16 2 % 512, fin := n 18 1 % 16, fout := n 18 1 / 16, op := arith % 8, ordered := bitOf arith 3,
    sr := bitOf arith 4, sat := bitOf arith 5, rotIn := bitOf arith 6, rotOut := bitOf arith 7, orderRule := n 20 1 % 16,
    optimizer := n 20 1 / 16, k := n 21 1, start := n 22 1, weighted := bitOf (n 23 1) 0, seed := BitVec.ofNat 64 (n 24 8),
    planes := ((bytesAt b 32 64).take (n 4 1)).map BitVec.toNat, ring := ((bytesAt b 96 8).take (n 21 1)).map BitVec.toNat, ntotal := n 104 2,
    gscale := BitVec.ofNat 32 (n 108 4), stateFva := n 112 8, tagFva := n 120 8, stageFva := n 128 8, stallMs := n 136 4, auxFva := n 144 8,
    rankTiles := n 152 1 }

/-- Rising without repeats. -/
def rising : List Nat → Bool
  | a :: b :: r => decide (a < b) && rising (b :: r)
  | _ => true

/-- Bytes of a block that are all of one value. -/
def allBytes (b : List Byte) (lo hi : Nat) (v : Byte) : Bool := (bytesAt b lo (hi - lo)).all (fun x => x == v)

/-- Formats, operation and modes (R178). An APPLY image combines its verdicts by AND whatever the formats of its gradients and weights (R279). -/
def arithOk (p : ProgParams) : Bool :=
  decide (p.fin ≤ 8) && decide (p.fout ≤ 8) && decide (p.op ≤ 6) &&
  (if 4 ≤ p.op then (isVerdict p && p.op == 4) || (isIntFmt p.fin && p.fout == p.fin) else !p.ordered || p.orderRule == 1) &&
  (!p.rotIn || (!p.ordered && p.op ≤ 1)) && (!p.rotOut || isBlkFmt p.fout)

/-- A floating-point input format (08 R242). -/
def floatFmt (c : Nat) : Bool := decide (c ≤ 8) && !isIntFmt c

/-- What a kind asks of the other fields of bytes [31:0] (08 R216, R242, 09 R259, R274). -/
def kindHeadOk (p : ProgParams) : Bool :=
  decide (p.kind ≤ 6) && (if p.kind == kindFused then decide (p.phase ≤ 2) && decide (p.optimizer ≤ 3) else p.phase == 0) &&
  (!isCopyKind p.kind || p.fout == p.fin) &&
  (if p.kind == kindRing then decide (2 ≤ p.k) && decide (p.k ≤ 8) && decide (p.start < p.k) && decide (p.op ≤ 3) && floatFmt p.fin
   else p.k == 0 && p.start == 0)

/-- Bytes [31:0] are in range and fit together, as every image's must be (08 R214, R215, 09 R259, R282). -/
def headOk (p : ProgParams) : Bool :=
  arithOk p && kindHeadOk p && decide (1 ≤ p.p) && decide (p.p ≤ 64) && decide (p.pvoff < p.p) && decide (12 ≤ p.chunkLog2) &&
  decide (p.chunkLog2 ≤ 20) && decide (1 ≤ p.len) && decide (chunkCount p ≤ 2 ^ 24 - 1) && decide (1 ≤ p.w) && decide (p.w ≤ 256) &&
  decide (p.root < 512)

/-- What a kind asks of the fields after byte 31. -/
def kindRestOk (p : ProgParams) : Bool :=
  (p.kind == kindAllReduce || p.rankTiles == 0) &&
  (if p.kind == kindRing then p.ring.length == p.k && rising p.ring && p.ring.all (fun x => decide (x < 8)) else p.ntotal == 0)

/-- The program's fields are in range and fit together (08 R214, R215). -/
def progOk (p : ProgParams) : Bool :=
  headOk p && kindRestOk p && p.planes.length == p.p && p.planes.all (fun i => decide (i < 64)) && p.planes.eraseDups.length == p.p &&
  decide (1 ≤ p.stallMs) && decide (p.stallMs ≤ 60000) && decide (p.rankTiles ≤ 8) && p.stateFva % 2 ^ 21 == 0 && p.tagFva % 4096 == 0 &&
  p.stageFva % 2 ^ 21 == 0

/-- Reserved places of bytes [31:0] hold 0 (R257, R259). -/
def headBytesOk (b : List Byte) : Bool :=
  decide (leAt b 2 2 < 4096) && leAt b 13 3 == 0 && decide (leAt b 16 2 < 512) && decide (leAt b 23 1 < 2)

/-- Reserved places of a parameter block hold their idle values (R257, R259). -/
def paramBytesOk (b : List Byte) : Bool :=
  let n := leAt b
  headBytesOk b && allBytes b (32 + n 4 1) 96 0xFF && allBytes b (96 + n 21 1) 104 0xFF && n 106 2 == 0 && n 140 4 == 0 && allBytes b 153 256 0

/-- A class 1 image uses only bytes [31:0] and [151:144], and the others are 0 (R282). -/
def computeBytesOk (b : List Byte) : Bool := headBytesOk b && allBytes b 32 144 0 && allBytes b 152 256 0

/-! ### The image (R257, R258, R483) -/

/-- The 64-bit words of a text. -/
def wordsOf : Nat → List Byte → List (BitVec 64)
  | 0, _ => []
  | n + 1, l => BitVec.ofNat 64 (leAt l 0 8) :: wordsOf n (l.drop 8)

/-- Header and parameter block of an image conform, for a partition of some clusters. -/
def imageOk (b : List Byte) (clusters : Nat) : Bool :=
  let n := leAt b
  let par := bytesAt b 64 256
  decide (320 ≤ b.length) && n 0 4 == 0x4C5A4F54 && n 4 2 == 1 && decide (n 6 1 ≤ 1) && decide (1 ≤ n 7 1) && decide (n 7 1 ≤ 16) &&
  decide (n 7 1 ≤ clusters) && n 8 4 % 8 == 0 && decide (8 ≤ n 8 4) && decide (n 8 4 ≤ 61440) && n 12 4 % 8 == 0 && decide (n 12 4 < n 8 4) &&
  n 16 4 % 4096 == 0 && n 20 4 % 4096 == 0 && n 24 4 % 4096 == 0 && n 28 4 % 4096 == 0 &&
  decide (n 16 4 + n 20 4 + n 24 4 + n 28 4 ≤ 2 ^ 23) && decide (n 32 4 ≤ n 28 4) && n 36 8 == 0 && n 44 4 == 0 &&
  b.length == 320 + n 32 4 + n 8 4 &&
  (if n 6 1 == 0 then paramBytesOk par && progOk (paramsOf par) else computeBytesOk par && headOk (paramsOf par))

/-- The loaded image of the bytes. -/
def imageOf (b : List Byte) (loadCount epoch : Nat) : Image :=
  let n := leAt b
  { loadCount := loadCount, digest := BitVec.ofNat 256 (leNat (sha256 b)), cls := n 6 1, minClusters := n 7 1,
    compiler := bytesAt b 48 16, text := wordsOf (n 8 4 / 8) (b.drop (320 + n 32 4)), entry := n 12 4, scrState := n 16 4, scrReorder := n 20 4, scrRing := n 24 4,
    scrWork := n 28 4, consts := (b.drop 320).take (n 32 4), prog := paramsOf (bytesAt b 64 256), epoch := epoch }

/-- Bytes of text in the slots of a partition. -/
def textBytes (s : State) (partition : Nat) : Nat := (imagesOf s partition).foldl (fun n i => n + 8 * i.2.text.length) 0

/-! ### PROGRAM_LOAD and PROGRAM_UNLOAD -/

/-- The partition's tenant is one the mailbox may act for, and is not REVOKING (R253, 14 R413). -/
def partDenied (h : MHdr) (partition : Nat) (s : State) : Bool :=
  match s.reed.parts.find partition with
  | some p => !tenantOk h p.tenant s || isRevoking s p.tenant
  | none => false

/-- Where a line of an image is: in this part's HBM, in the memory of another node, or nowhere that it can be read (R253, 11 R319). -/
inductive LineAt where
  | here (a : Nat)
  | far (node : Node) (off : Nat)
  | bad
  deriving DecidableEq, Repr

def lineAt (s : State) (t fva : Nat) : LineAt :=
  match srcTranslate s t fva 0 with
  | .ok node off =>
    if node == selfNode s then (match tgtTranslate s t off 0 with | .inl a => .here a | .inr _ => .bad) else .far node off
  | _ => .bad

/-- The image of a load has been read: rows 1 to 5 of R253 in turn. -/
def finishLoad (l : Loading) (s : State) : State :=
  let key := imageKey l.partition l.slot
  let b := ((List.range l.lines.length).flatMap (fun i => l.lines.look i []))
  match s.reed.parts.find l.partition with
  | none => reply l.hdr msBadArg [] s
  | some p =>
    if (s.reed.images.find key).isSome then reply l.hdr msBusy [] s
    else if l.bad then reply l.hdr msFailed (failCause (Config.causeByte 6)) s
    else if !imageOk b (clustersOf p.mask).length then reply l.hdr msBadArg [] s
    else if 61440 < textBytes s l.partition + leAt b 8 4 then reply l.hdr msBadArg [] s
    else
      let count := (s.reed.loads.look key 0 + 1) % 256
      let s := bumpEpoch s
      let img := imageOf b count s.sec.epoch
      let s := s.onReed (fun r => { r with loads := r.loads.put key count, images := r.images.put key img })
      reply l.hdr msOk (pack [.num 2 (l.partition + 16 * l.slot + 256 * count), .bytes (leBytes img.digest.toNat 32), epochField s]) s

/-- Go on with a load: it is over once no line is to come, and not before. -/
def settleLoad (l : Loading) (s : State) : State :=
  if l.left == 0 then finishLoad l (s.onReed (fun r => { r with loading := r.loading.del l.hdr.mbx }))
  else s.onReed (fun r => { r with loading := r.loading.put l.hdr.mbx l })

/-- The lines of a load: number, and place in it. -/
def loadLines (l : Loading) : List ((Nat × Nat × Nat × Nat) × Nat) := (linesIn l.addr l.len).zipIdx

/-- Read the lines that this part holds; `ecc` is the check of the first. -/
def readHere (t : Nat) (ecc : Ecc) (l : Loading) (s : State) : Loading × State :=
  (loadLines l).foldl (fun (x : Loading × State) y =>
    match lineAt x.2 t (128 * y.1.1) with
    | .here a =>
      let c := eccCheck (if y.2 == 0 then ecc else .clean) a x.2
      if !c.1 then ({ x.1 with bad := true }, c.2)
      else
        let r := hbmLine (memKeyOf c.2 t) (a / 128) c.2
        ({ x.1 with lines := x.1.lines.put y.2 (bytesAt r.1 y.1.2.1 y.1.2.2.1) }, r.2)
    | .far _ _ => x
    | .bad => ({ x.1 with bad := true }, x.2)) (l, s)

/-- The lines that other nodes hold. -/
def farLines (s : State) (t : Nat) (l : Loading) : List (Nat × Node × Nat) :=
  (loadLines l).filterMap (fun y => match lineAt s t (128 * y.1.1) with | .far n off => some (y.2, n, off) | _ => none)

/-- Does a line of an image that this part holds lie on a channel that retrains (15 R430)? -/
def loadWaits (s : State) (t addr n : Nat) : Bool :=
  (linesIn addr n).any (fun y => match lineAt s t (128 * y.1) with | .here a => s.svc.hbmResetting.contains (channelOf a) | _ => false)

/-- PROGRAM_LOAD past the checks of R387: where it is not refused at once, the image is read, from other nodes by the part's own requests (04 R94). -/
def runLoad (h : MHdr) (partition slot addr : Nat) (len : ImageRef) (p : Partition) (s : State) : State :=
  if (s.reed.images.find (imageKey partition slot)).isSome then reply h msBusy [] s
  else if loadWaits s p.tenant addr len.len then awaitHbm (.programLoad h partition slot addr len) h.mbx s
  else
    let r := readHere p.tenant len.ecc { hdr := h, partition := partition, slot := slot, addr := addr, len := len.len } s
    let far := farLines r.2 p.tenant r.1
    if r.1.bad || far.isEmpty then finishLoad r.1 r.2
    else far.foldl (fun s y => issue (readRequest s y.2.1 p.tenant y.2.2 false) (.image h.mbx y.1) s)
      (settleLoad { r.1 with left := far.length } r.2)

/-- A line of an image has come for a tenant, or its request has failed. -/
def imageLine (t mbx i status : Nat) (data : List Byte) (s : State) : State :=
  match s.reed.loading.find mbx with
  | none => s
  | some l =>
    let y := ((linesIn l.addr l.len).getD i (0, 0, 0, 0))
    if !(s.reed.parts.find l.partition).any (fun p => p.tenant == t) then s
    else settleLoad (if status == stOk then { l with left := l.left - 1, lines := l.lines.put i (bytesAt data y.2.1 y.2.2.1) }
                else { l with left := l.left - 1, bad := true }) s

/-- PROGRAM_LOAD. -/
def execProgramLoad (h : MHdr) (partition slot addr : Nat) (len : ImageRef) (s : State) : Host.Outcome State Fault Refusal :=
  command (.programLoad h partition slot addr len) h { boxes := boxF ++ boxT } (partDenied h partition)
    (fun s => 15 < slot || (s.reed.parts.find partition).isNone)
    (fun s => match s.reed.parts.find partition with
      | some p => runLoad h partition slot addr len p s
      | none => s) s

/-- The slot that a PROG_ID names, where its load count is the slot's. -/
def findImage (s : State) (progId : Nat) : Option (Nat × Image) :=
  match s.reed.images.find (progId % 256) with
  | some i => if i.loadCount == progId / 256 then some (progId % 256, i) else none
  | none => none

/-- Does an operation that is not CLOSED, or a class 1 job, run the image of a slot? -/
def imageBusy (s : State) (key : Nat) : Bool :=
  s.coll.ops.any (fun o => o.2.progId % 256 == key && o.2.phase != .closed) ||
  s.reed.clusters.any (fun c => c.2.ctxs.any (fun x => x.2.job.isSome && x.2.image == key))

/-- PROGRAM_UNLOAD. -/
def execProgramUnload (h : MHdr) (progId : Nat) (s : State) : Host.Outcome State Fault Refusal :=
  command (.programUnload h progId) h { boxes := boxF ++ boxT }
    (fun s => match s.reed.parts.find (progId % 16) with | some p => !tenantOk h p.tenant s | none => false)
    (fun s => 65535 < progId || (findImage s progId).isNone)
    (fun s =>
      if imageBusy s (progId % 256) then reply h msBusy [] s
      else reply h msOk [] (bumpEpoch (s.onReed (fun r => { r with images := r.images.del (progId % 256) })))) s

/-! ### Starting contexts (R252, R258, R271) -/

/-- Scratch an image declares on a cluster. -/
def Image.scratch (i : Image) : Nat := i.scrState + i.scrReorder + i.scrRing + i.scrWork

/-- The 4 KiB pages of scratch that the contexts of a cluster hold. -/
def usedPages (s : State) (c : Nat) : List Nat := (s.cluster c).ctxs.flatMap (fun x => if x.2.job.isNone then [] else x.2.pages)

/-- The lowest context that is idle on every cluster of a partition. -/
def idleCtx (s : State) (cs : List Nat) : Option Nat :=
  (List.range 4).find? (fun k => cs.all (fun c => (s.ctx { cluster := c, ctx := k }).job.isNone && (s.ctx { cluster := c, ctx := k }).streams.isEmpty))

/-- Where `n` pages lie together clear of those in use. -/
def places (used : List Nat) (n : Nat) : List Nat :=
  (List.range (2049 - n)).filter (fun lo => used.all (fun u => decide (u < lo) || decide (lo + n ≤ u)))

/-- Place `n` pages: together where they can be, which place is open (log entry 78); else in the lowest free pages, so that what fits in 8 MiB always finds room (R252). -/
def placePages (used : List Nat) (n draw : Nat) : Option (List Nat) :=
  match places used n with
  | [] =>
    let free := ((List.range 2048).filter (fun k => !used.contains k)).take n
    if free.length == n then some free else none
  | p :: ps => some ((List.range n).map (fun k => (p :: ps).getD (draw % (p :: ps).length) 0 + k))

/-- Pages of a context's region, from a number of bytes before it and its length. -/
def regionPages (c : Ctx) (before len : Nat) : List Nat := (c.pages.drop (before / 4096)).take (len / 4096)
/-- The state, reorder, ring and work regions. -/
def statePages (i : Image) (c : Ctx) : List Nat := regionPages c 0 i.scrState
def reorderPages (i : Image) (c : Ctx) : List Nat := regionPages c i.scrState i.scrReorder
def ringPages (i : Image) (c : Ctx) : List Nat := regionPages c (i.scrState + i.scrReorder) i.scrRing
def workPages (i : Image) (c : Ctx) : List Nat := regionPages c (i.scrState + i.scrReorder + i.scrRing) i.scrWork

/-- Write bytes at an offset of a region, as far as it goes. -/
def putPaged (pages : List Nat) (off : Nat) (b : List Byte) (m : List Host.Cell) : List Host.Cell :=
  b.zipIdx.foldl (fun m x =>
    match pages[(off + x.2) / 4096]? with
    | some p => memSet m (4096 * p + (off + x.2) % 4096) x.1
    | none => m) m

/-- Read `n` bytes at an offset of a region; beyond it they are 0. -/
def getPaged (pages : List Nat) (off n : Nat) (m : List Host.Cell) : List Byte :=
  (List.range n).map (fun i =>
    match pages[(off + i) / 4096]? with
    | some p => memGet m (4096 * p + (off + i) % 4096)
    | none => 0)

/-- A context as an operation or a job starts it: the constants at the start of its work region. -/
def freshCtx (job : CtxJob) (key : Nat) (i : Image) (pages : List Nat) : Ctx := { job := some job, image := key, pc := i.entry, pages := pages }

/-- Start a job on every cluster of a partition; none where no context is idle or the declared scratch does not fit. -/
def startContexts (job : CtxJob) (key : Nat) (i : Image) (mask : Nat) (s : State) : Option State :=
  let cs := clustersOf mask
  let d := s.drawNat
  match idleCtx s cs, placePages (cs.flatMap (usedPages s)) (i.scratch / 4096) d.1 with
  | some k, some pages =>
    some (settlePhase (cs.foldl (fun s c => s.onCluster c (fun cl =>
      let x := freshCtx job key i pages
      { cl with ctxs := cl.ctxs.put k x, scratch := putPaged (workPages i x) 0 i.consts cl.scratch })) d.2))
  | _, _ => none

/-- A partition may start nothing while a cluster of it is in reset or waits for its images (R256). -/
def partReloading (s : State) (mask : Nat) : Bool := (clustersOf mask).any (fun c => (s.cluster c).resetting || (s.cluster c).reloading)

end Sys2Proof.Machine
end

