-- ==== Sys2Proof/Machine/Movers.lean ====
section
/-! DEFINITION. The movers (11 R340 to R346): how a started descriptor's work is issued piece by piece and goes on with the responses, its end,
its completion record, and the start of class 1 jobs (09 R282). -/

namespace Sys2Proof.Machine

open Sys2Proof

/-! ### Jobs -/

/-- A started descriptor of a queue. -/
def jobOf (s : State) (qpn : Nat) (index : BitVec 32) : Option (Qp × Job) :=
  (s.qp qpn).bind (fun q => (q.jobs.find? (fun j => j.index == index)).map (fun j => (q, j)))

def onJob (qpn : Nat) (index : BitVec 32) (f : Job → Job) (s : State) : State :=
  s.onQp qpn (fun q => { q with jobs := q.jobs.map (fun j => if j.index == index then f j else j) })

/-- The first failing request fixes the status. -/
def failJob (qpn : Nat) (index : BitVec 32) (status ecause : Nat) (s : State) : State :=
  onJob qpn index (fun j => if j.failed.isSome then j else { j with failed := some status, ecause := ecause }) s

/-- Length of the work in destination bytes, and how far it may be issued. -/
def jobLen (j : Job) : Nat := j.desc.len.toNat
def jobEnd (j : Job) : Nat := match j.limit with | some l => min l.1 (jobLen j) | none => jobLen j

/-- The piece at an offset: the part of one destination line. -/
def pieceLen (j : Job) (off : Nat) : Nat := min (128 - (j.desc.dst.toNat + off) % 128) (jobLen j - off)
/-- The offset of the piece that holds the last byte. -/
def lastPiece (j : Job) : Nat := (j.desc.dst.toNat + jobLen j - 1) / 128 * 128 - j.desc.dst.toNat

/-- The source lines of a piece, as virtual line addresses. -/
def srcLines (a n : Nat) : List Nat := (linesIn a n).map (fun l => 128 * l.1)

/-- The bytes of a range out of the lines read. -/
def assemble (buf : Map (List Byte)) (a n : Nat) : List Byte :=
  (linesIn a n).flatMap (fun l => bytesAt (buf.look (128 * l.1) []) l.2.1 l.2.2.1)

/-- FILL: the pattern runs from DST aligned down to 8 B. -/
def fillBytes (d : Desc) (off n : Nat) : List Byte :=
  (List.range n).map (fun i => (leBytes d.pattern.toNat 8).getD ((d.dst.toNat + off + i) % 8) 0)

/-! ### Translation by a mover (R327, R328) -/

/-- Translate for a mover; a hit is its newest cached entry. -/
def moverTranslate (q : Qp) (fva access : Nat) (s : State) : SrcResult × State :=
  let r := srcTranslate s q.tenant fva access
  (r, match findEntry s.xlat.src q.tenant fva, r with
    | some x, .ok _ _ => touchCache q.mover x s
    | _, _ => s)

/-- Use a translation: issue with the place it gives, wait on its fault, or fail the descriptor. -/
def useXlat (qpn : Nat) (index : BitVec 32) (q : Qp) (fva access : Nat) (go : Node → Nat → State → State) (s : State) : State :=
  let r := moverTranslate q fva access s
  match r.1 with
  | .ok node off => go node off r.2
  | .fault => onJob qpn index (fun j => { j with fault := some (fva, access) }) r.2
  | .malformed => failJob qpn index stBadRequest 0 r.2
  | .denied => failJob qpn index stAccessDenied 0 r.2

/-- Issue a request of a descriptor. -/
def jobIssue (qpn : Nat) (index : BitVec 32) (p : Packet) (u : Purpose) (s : State) : State :=
  issue p u (onJob qpn index (fun j => { j with pending := j.pending + 1 }) s)

/-- Is a request one of a mover's? -/
def ofMover (s : State) (m : Nat) (u : Purpose) : Bool :=
  let mine := fun (q : Nat) => match s.qp q with | some x => x.mover == m | none => false
  match u with
  | .window _ _ _ _ => false
  | .jobRead q _ _ _ => mine q
  | .jobWrite q _ _ _ => mine q
  | .jobAtomic q _ => mine q
  | .record q _ => mine q
  | .image _ _ => false
  | .digest _ _ => false

/-- Requests that a mover has outstanding. -/
def moverPending (s : State) (m : Nat) : Nat :=
  (s.req.out.filter (fun r => ofMover s m r.2.purpose)).length + (s.req.waiting.filter (fun r => ofMover s m r.2)).length

/-- May a mover issue `k` requests more (R342)? -/
def moverRoom (s : State) (m k : Nat) : Bool := decide (moverPending s m + k ≤ 1024)

/-- Read some lines, once all of them translate. -/
def readLines (qpn : Nat) (index : BitVec 32) (q : Qp) (volat : Bool) (piece : Nat) (lines : List Nat) (after : State → State) (s : State) : State :=
  match lines.find? (fun l => match srcTranslate s q.tenant l 0 with | .ok _ _ => false | _ => true) with
  | some l => useXlat qpn index q l 0 (fun _ _ s => s) s
  | none =>
    lines.foldl (fun s l => useXlat qpn index q l 0 (fun node off s =>
      jobIssue qpn index (readRequest s node q.tenant off volat) (.jobRead qpn index piece l) s) s) (after s)

/-- The piece that a REL descriptor writes with RELEASE. -/
def isLast (j : Job) (off : Nat) : Bool := j.desc.rel && off == lastPiece j

/-- May a mover, one unit, issue a RELEASE to a destination: every read it has issued is answered, and every write of it to another destination has completed
(05 R132)? A write that has completed with a failure holds nothing back (log entry 73). -/
def moverSettled (m : Nat) (dst : Node) (s : State) : Bool :=
  let open_ := fun (p : Packet) (u : Purpose) => ofMover s m u && (!isWrite p || p.dst != dst)
  !s.req.out.any (fun r => open_ r.2.pkt r.2.purpose) && !s.req.waiting.any (fun r => open_ r.1 r.2)

/-- Where a mover's access at an address goes, if it translates. -/
def homeOf (q : Qp) (fva access : Nat) (s : State) : Option Node :=
  match srcTranslate s q.tenant fva access with
  | .ok node _ => some node
  | _ => none

/-- A RELEASE of a mover at an address has to wait (05 R132). -/
def releaseWaits (q : Qp) (fva access : Nat) (s : State) : Bool :=
  match homeOf q fva access s with
  | some d => !moverSettled q.mover d s
  | none => false

/-- Write one piece, with RELEASE where it is the last one of a REL descriptor. -/
def writePiece (qpn : Nat) (index : BitVec 32) (q : Qp) (j : Job) (off n : Nat) (data : List Byte) (after : State → State) (s : State) : State :=
  let fva := j.desc.dst.toNat + off
  useXlat qpn index q fva 1 (fun node o s =>
    let b := o % 128
    let p := writeRequest s node q.tenant (o - b) (maskOf b n) (List.replicate b 0 ++ data)
    let p := if isLast j off then { p with release := true, scope := j.desc.scope } else p
    jobIssue qpn index p (.jobWrite qpn index off n) (after s)) s

/-! ### The work of each descriptor (R341, R342) -/

/-- May the next piece be issued? The last one of a REL descriptor waits for every other. -/
def mayPiece (j : Job) : Bool :=
  decide (j.issued < jobEnd j) && j.fault.isNone && j.failed.isNone && !j.complete &&
  (!j.desc.rel || j.issued != lastPiece j || j.done == lastPiece j)

/-- Issue the next piece of a COPY or FILL. -/
def nextPiece (qpn : Nat) (index : BitVec 32) (q : Qp) (j : Job) (s : State) : State :=
  let off := j.issued
  let n := pieceLen j off
  let adv := fun (s : State) => onJob qpn index (fun j => { j with issued := off + n }) s
  if j.op == 2 then writePiece qpn index q j off n (fillBytes j.desc off n) adv s
  else readLines qpn index q j.desc.vol off (srcLines (j.desc.src.toNat + off) n) adv s

/-- A piece of a COPY whose source lines are all there is written. -/
def copyPiece (qpn : Nat) (index : BitVec 32) (off : Nat) (s : State) : State :=
  match jobOf s qpn index with
  | none => s
  | some (q, j) =>
    let n := pieceLen j off
    let buf := j.bufs.look off []
    if j.op == 1 && j.failed.isNone && j.fault.isNone && (srcLines (j.desc.src.toNat + off) n).all (fun l => (buf.find l).isSome) &&
        moverRoom s q.mover 1 && !(isLast j off && releaseWaits q (j.desc.dst.toNat + off) 1 s) then
      writePiece qpn index q j off n (assemble buf (j.desc.src.toNat + off) n)
        (fun s => onJob qpn index (fun j => { j with bufs := j.bufs.del off }) s) s
    else s

/-- The source bytes that ATOMIC and COMPUTE read first. -/
def operandLen (j : Job) : Nat := if j.op == 3 then 144 else 96
def operandOf (j : Job) : Option (List Byte) :=
  let buf := j.bufs.look 0 []
  let a := j.desc.src.toNat
  if (srcLines a (operandLen j)).all (fun l => (buf.find l).isSome) then some (assemble buf a (operandLen j)) else none

/-- ATOMIC: the one request on the line at DST. -/
def issueAtomic (qpn : Nat) (index : BitVec 32) (q : Qp) (j : Job) (b : List Byte) (s : State) : State :=
  useXlat qpn index q j.desc.dst.toNat 2 (fun node o s =>
    let p := { request opAtomic s node q.tenant o with
      sideBit := true, side := bytesAt b 128 16, data := bytesAt b 0 128, oparg := BitVec.ofNat 32 (j.desc.arg.toNat % 64) }
    let last := j.desc.rel && bitOf j.desc.arg.toNat 5
    let p := if last then { p with release := true, scope := j.desc.scope } else p
    jobIssue qpn index p (.jobAtomic qpn index) (onJob qpn index (fun j => { j with stage := 1 }) s)) s

/-- ATOMIC: the old line goes to DST + 128. -/
def writeOld (qpn : Nat) (index : BitVec 32) (q : Qp) (j : Job) (s : State) : State :=
  useXlat qpn index q (j.desc.dst.toNat + 128) 1 (fun node o s =>
    let b := o % 128
    let p := writeRequest s node q.tenant (o - b) (maskOf b (128 - b)) (List.replicate b 0 ++ (j.bufs.look 1 []).look 0 [])
    let p := if j.desc.rel then { p with release := true, scope := j.desc.scope } else p
    jobIssue qpn index p (.jobWrite qpn index 128 128) (onJob qpn index (fun j => { j with stage := 3 }) s)) s

/-- COMPUTE: the class 1 image that PROG_ID and the digest name, in a partition of the queue's tenant. -/
def computeImage (s : State) (q : Qp) (j : Job) (b : List Byte) : Option (Nat × Image × Partition) :=
  (findImage s (j.desc.arg.toNat % 65536)).bind (fun i =>
    (s.reed.parts.find (i.1 % 16)).bind (fun p =>
      if i.2.cls == 1 && i.2.digest.toNat == leAt b 0 32 && p.tenant == q.tenant then some (i.1, i.2, p) else none))

/-- COMPUTE: launch, once a context is free on every cluster of the partition (09 R252). -/
def launch (qpn : Nat) (index : BitVec 32) (q : Qp) (j : Job) (b : List Byte) (s : State) : State :=
  match computeImage s q j b with
  | none => failJob qpn index stBadRequest 0 s
  | some (key, img, part) =>
    if partReloading s part.mask then s
    else match startContexts (.job qpn index) key img part.mask s with
      | some s => onJob qpn index (fun j => { j with stage := 1, pending := j.pending + 1 }) s
      | none => s

/-- Read the operand bytes at SRC. -/
def readOperand (qpn : Nat) (index : BitVec 32) (s : State) : State :=
  match jobOf s qpn index with
  | some (q, j) => readLines qpn index q j.desc.vol 0 (srcLines j.desc.src.toNat (operandLen j)) id s
  | none => s

/-- The operand of ATOMIC or COMPUTE has still to be read, and the mover may issue the reads. -/
def operandDue (s : State) (q : Qp) (j : Job) : Bool :=
  j.stage == 0 && j.pending == 0 && j.limit.isNone && (operandOf j).isNone && moverRoom s q.mover (srcLines j.desc.src.toNat (operandLen j)).length

/-- The requests that the next piece of a COPY or FILL takes. -/
def pieceRequests (j : Job) : Nat := if j.op == 2 then 1 else (srcLines (j.desc.src.toNat + j.issued) (pieceLen j j.issued)).length

/-- Issue what a descriptor can issue now; `n` bounds the pieces. -/
def issueJob (qpn : Nat) (index : BitVec 32) : Nat → State → State
  | 0, s => s
  | n + 1, s =>
    match jobOf s qpn index with
    | none => s
    | some (q, j) =>
      if s.queues.resetting.getLsbD q.mover || j.complete || j.failed.isSome || j.fault.isSome then s
      else if j.op == 1 || j.op == 2 then
        if mayPiece j && moverRoom s q.mover (pieceRequests j) &&
            !(j.op == 2 && isLast j j.issued && releaseWaits q (j.desc.dst.toNat + j.issued) 1 s) then issueJob qpn index n (nextPiece qpn index q j s) else s
      else if j.op == 3 then
        match j.stage, operandOf j with
        | 0, none => if operandDue s q j then readOperand qpn index s else s
        | 0, some b =>
          if j.limit.isSome || !moverRoom s q.mover 1 || (j.desc.rel && bitOf j.desc.arg.toNat 5 && releaseWaits q j.desc.dst.toNat 2 s) then s else issueAtomic qpn index q j b s
        | 2, _ => if !moverRoom s q.mover 1 || j.desc.rel && releaseWaits q (j.desc.dst.toNat + 128) 1 s then s else writeOld qpn index q j s
        | _, _ => s
      else if j.op == 4 && j.stage == 0 then
        match operandOf j with
        | some b => if j.limit.isSome then s else launch qpn index q j b s
        | none => if operandDue s q j then readOperand qpn index s else s
      else s

/-- Has a descriptor's work ended: nothing outstanding, and its end, its limit or a failure reached? -/
def jobEnded (j : Job) : Bool :=
  j.pending == 0 && j.fault.isNone &&
  (j.failed.isSome ||
   (if j.op == 1 || j.op == 2 then decide (jobEnd j ≤ j.issued) && j.bufs.isEmpty
    else if j.op == 3 then j.stage == 4 || (j.stage == 0 && j.limit.isSome)
    else if j.op == 4 then j.stage == 2 || (j.stage == 0 && j.limit.isSome)
    else true))

/-- The descriptor with its end status: one that was stopped short of its end takes the status of the stop. -/
def endLimited (j : Job) : Job :=
  let short := fun (l : Nat × Nat × Nat) => decide (l.1 < jobLen j) || (j.op == 3 && j.stage != 4) || j.op == 4
  match j.limit with
  | some l => if j.op != 0 && short l then { j with complete := true, failed := some l.2.1, ecause := l.2.2 } else { j with complete := true }
  | none => { j with complete := true }

/-- Its end: with the status of its first failing request, or TENANT_REVOKED where its tenant entered REVOKING before (R346). -/
def endJob (j : Job) : Job :=
  if j.failed.isSome then { j with complete := true }
  else if j.revoked then { j with complete := true, failed := some stTenantRevoked, ecause := 0 }
  else endLimited j

/-- Go on with one descriptor: pieces whose data is there, new pieces, and its end. -/
def advanceJob (qpn : Nat) (index : BitVec 32) (s : State) : State :=
  let s := match jobOf s qpn index with
    | some (_, j) => if j.op == 1 then (j.bufs.map Prod.fst).foldl (fun s off => copyPiece qpn index off s) s else s
    | none => s
  let s := issueJob qpn index 1024 s
  match jobOf s qpn index with
  | some (_, j) => if !j.complete && jobEnded j then onJob qpn index endJob s else s
  | none => s

/-- Go on with every descriptor of a mover, in the order of the queues. -/
def advanceMover (m : Nat) (s : State) : State :=
  ((s.queues.qps.filter (fun q => q.2.mover == m)).flatMap (fun q => q.2.jobs.map (fun j => (q.1, j.index)))).foldl
    (fun s x => advanceJob x.1 x.2 s) s

/-- Contexts have become free: class 1 jobs that wait for one may start. -/
def wakeComputes (s : State) : State :=
  (s.queues.qps.flatMap (fun q => (q.2.jobs.filter (fun j => j.op == 4 && j.stage == 0)).map (fun j => (q.1, j.index)))).foldl
    (fun s x => advanceJob x.1 x.2 s) s

/-! ### Responses to a descriptor's requests -/

/-- Everything below which the destination has landed, with the pieces beyond. -/
def joinLanded : Nat → Nat → List (Nat × Nat) → Nat × List (Nat × Nat)
  | 0, d, l => (d, l)
  | n + 1, d, l =>
    match l.find? (fun x => x.1 == d) with
    | some x => joinLanded n (d + x.2) (l.erase x)
    | none => (d, l)

/-- One request of the descriptor has ended. -/
def lessPending (qpn : Nat) (index : BitVec 32) (s : State) : State := onJob qpn index (fun j => { j with pending := j.pending - 1 }) s

/-- A part of the destination has landed. -/
def landPiece (off n : Nat) (j : Job) : Job :=
  if j.op == 3 then { j with stage := 4, done := jobLen j }
  else
    let r := joinLanded (j.landed.length + 1) j.done (j.landed ++ [(off, n)])
    { j with done := r.1, landed := r.2 }

/-- The end of a read of a descriptor. -/
def jobReadDone (qpn : Nat) (index : BitVec 32) (piece line status : Nat) (data : List Byte) (s : State) : State :=
  let s := lessPending qpn index s
  if status != stOk then failJob qpn index status 0 s
  else onJob qpn index (fun j => { j with bufs := j.bufs.upd piece [] (fun b => b.put line (padTo 128 data)) }) s

/-- The end of a write. -/
def jobWriteDone (qpn : Nat) (index : BitVec 32) (off n status : Nat) (s : State) : State :=
  let s := lessPending qpn index s
  if status != stOk then failJob qpn index status 0 s else onJob qpn index (landPiece off n) s

/-- The end of an ATOMIC: the old line and CAS_HIT. -/
def jobAtomicDone (qpn : Nat) (index : BitVec 32) (status : Nat) (data : List Byte) (hit : Bool) (s : State) : State :=
  let s := lessPending qpn index s
  if status != stOk then failJob qpn index status 0 s
  else onJob qpn index (fun j =>
    if bitOf j.desc.arg.toNat 5 then { j with stage := 4, done := jobLen j }
    else { j with stage := 2, casHit := hit, done := 0, bufs := j.bufs.put 1 [(0, padTo 128 data)] }) s

/-! ### Starting descriptors (R339, R340 to R342) -/

/-- The completion ring is full. -/
def cqFull (q : Qp) : Bool := decide (2 ^ q.cqLog ≤ (q.cqTail - q.cqHead).toNat)

/-- May a queue start its next descriptor? -/
def mayStart (s : State) (q : Qp) (d : Desc) : Bool :=
  !q.error && !q.stopping && !isRevoking s q.tenant && q.sqHead != q.sqTail && q.sqFault.isNone && !s.queues.resetting.getLsbD q.mover &&
  !(cqFull q && q.jobs.any (fun j => j.complete && !j.recording)) &&
  (!d.fence || q.jobs.all (fun j => j.complete))

/-- Enter a descriptor. -/
def startJob (qpn : Nat) (op : Nat) (d : Desc) (s : State) : State :=
  s.onQp qpn (fun q => { q with sqHead := q.sqHead + 1, jobs := q.jobs ++ [{ index := q.sqHead, op := op, desc := d }] })

/-- Does a flag byte or a reserved byte of 64 have a bit set that R340 gives as 0? -/
def reservedSet (b : List Byte) : Bool :=
  leAt b 1 1 / 16 != 0 || leAt b 2 1 / 4 != 0 || leAt b 3 1 != 0 || leAt b 36 4 != 0 || (b.drop 48).any (fun x => x != 0)

/-- A descriptor's 64 bytes (R340): which row of R341 it is, and its fields. One whose OPCODE byte has no row stands as a NOP that is bad. -/
def descOf (b : List Byte) : Nat × Desc :=
  let flag := fun (k : Nat) => bitOf (leAt b 1 1) k
  let op := leAt b 0 1
  (if op < 5 then op else 0,
   { fence := flag 0, rel := flag 1, vol := flag 2, cqIrq := flag 3, scope := BitVec.ofNat 2 (leAt b 2 1), len := BitVec.ofNat 32 (leAt b 4 4),
     src := BitVec.ofNat 64 (leAt b 8 8), dst := BitVec.ofNat 64 (leAt b 16 8), user := BitVec.ofNat 64 (leAt b 24 8),
     arg := BitVec.ofNat 32 (leAt b 32 4), pattern := BitVec.ofNat 64 (leAt b 40 8), rsv := reservedSet b, badOp := decide (5 ≤ op) })

/-- What the mover's read of the next descriptor gives (R338): the bytes that lie in the part's own HBM; those that another node has, which the row brings; a
wait, for a channel that retrains; a translation fault; or no descriptor at all, for want of the right to read or of a good line. -/
inductive RingRead where
  | here (b : List Byte) (s : State)
  | far (s : State)
  | waits
  | fault (fva : Nat)
  | bad
  deriving DecidableEq, Repr

/-- The address of the next descriptor of a queue. -/
def sqAt (q : Qp) : Nat := q.sqFva + 64 * (q.sqHead.toNat % 2 ^ q.sqLog)

def ringRead (q : Qp) (s : State) : RingRead :=
  let r := moverTranslate q (sqAt q) 0 s
  match r.1 with
  | .fault => .fault (sqAt q)
  | .ok node off =>
    if node != selfNode s then .far r.2
    else match tgtTranslate s q.tenant off 0 with
      | .inr _ => .bad
      | .inl a =>
        if s.svc.hbmResetting.contains (channelOf a) then .waits
        else if s.home.lost.contains (a / 128) || channelDead s a then .bad
        else
          let l := hbmLine (memKeyOf r.2 q.tenant) (a / 128) r.2
          .here (bytesAt l.1 (a % 128) 64) l.2
  | _ => .bad

/-- Does the ring give this descriptor? Where it lies in the part's own HBM a row that is not what it holds changes nothing. -/
def ringGives (r : RingRead) (op : Nat) (d : Desc) : Option State :=
  match r with
  | .here b s => if descOf b == (op, d) then some s else none
  | .far s => some s
  | _ => none

/-- A descriptor's row: the next one of its queue, as the mover reads it. A malformed one moves the queue to ERROR and completes with BAD_REQUEST. A ring that the
tenant may not read, or whose line is lost, moves the queue to ERROR, of which the spec does not speak (DESIGN CHOICE, log entry 50). -/
def descriptor (qpn : Nat) (op : Nat) (d : Desc) (first : BitVec 32 → State → State) (s : State) : Host.Outcome State Fault Refusal :=
  .next (
    match s.qp qpn with
    | none => s
    | some q =>
      if !isReady s || !mayStart s q d then s
      else match ringRead q s with
        | .fault a => s.onQp qpn (fun q => { q with sqFault := some a })
        | .bad => s.onQp qpn (fun q => { q with error := true })
        | r => match ringGives r op d with
          | none => s
          | some s =>
            let t := startJob qpn op d s
            if d.rsv || d.badOp || d.scope == 3#2 then
              advanceMover q.mover ((failJob qpn q.sqHead stBadRequest 0 t).onQp qpn (fun q => { q with error := true }))
            else advanceMover q.mover (first q.sqHead t))

/-- NOP: no work. -/
def execNop (qpn : Nat) (d : Desc) (s : State) : Host.Outcome State Fault Refusal := descriptor qpn 0 d (fun _ s => s) s
/-- COPY: LEN bytes from SRC to DST. -/
def execCopy (qpn : Nat) (d : Desc) (s : State) : Host.Outcome State Fault Refusal := descriptor qpn 1 d (fun _ s => s) s
/-- FILL: LEN bytes at DST. -/
def execFill (qpn : Nat) (d : Desc) (s : State) : Host.Outcome State Fault Refusal := descriptor qpn 2 d (fun _ s => s) s

/-- ATOMIC: LEN must be 128; the operand and mask are read first. -/
def execAtomicDescriptor (qpn : Nat) (d : Desc) (s : State) : Host.Outcome State Fault Refusal :=
  descriptor qpn 3 d (fun i s => if d.len != 128 then failJob qpn i stBadRequest 0 s else s) s

/-- COMPUTE: the digest and the argument block are read first (09 R282). -/
def execCompute (qpn : Nat) (d : Desc) (s : State) : Host.Outcome State Fault Refusal :=
  descriptor qpn 4 d (fun _ s => s) s

/-- A descriptor that waits on a fault translates again when it is woken. -/
def wakeJob (qpn : Nat) (index : BitVec 32) (s : State) : State :=
  match jobOf s qpn index with
  | none => s
  | some _ => advanceJob qpn index (onJob qpn index (fun j => { j with fault := none }) s)

/-! ### Completion records (R343, R344) -/

/-- The bytes [31:17] of a record. R343 names no field there and uses no other ECAUSE, yet the record of a class 1 job carries OP_ABORTED with its FCAUSE (09
R282): which of these bytes holds it is open (DESIGN CHOICE, log entry 49). -/
def recordRest (j : Job) : List Byte := (List.range 15).map (fun k => if k == Config.fcausePlace % 15 then BitVec.ofNat 8 j.fcause else 0)

/-- The 32 B of a record. -/
def recordBytes (q : Qp) (j : Job) : List Byte :=
  leBytes j.desc.user.toNat 8 ++ leBytes j.done 4 ++ leBytes j.index.toNat 2 ++ leBytes (j.failed.getD 0) 1 ++ leBytes j.ecause 1 ++
  leBytes (b2n (q.cqTail.toNat / 2 ^ q.cqLog % 2 == 0) + 2 * b2n j.casHit) 1 ++ recordRest j

/-- The record cannot be written: the queue moves to ERROR and CQ_WRITE_FAIL is recorded; a confidential tenant's queue is not named. -/
def recordFailed (qpn : Nat) (index : BitVec 32) (s : State) : State :=
  match s.qp qpn with
  | none => s
  | some q =>
    let s := recordErr kMover q.mover 0x31 2 (leBytes (if isConf s q.tenant then 0 else qpn) 4) s
    s.onQp qpn (fun q => { q with error := true, jobs := q.jobs.filter (fun j => j.index != index) })

/-- The address of the next record of a queue. -/
def recordAt (q : Qp) : Nat := q.cqFva + 32 * (q.cqTail.toNat % 2 ^ q.cqLog)

/-- May the record of a descriptor be written: the work has ended, the ring has room, a NOP's earlier descriptors have their records, the
tenant's drain fence has not ended (R346), and the mover may issue a RELEASE there (05 R132). -/
def mayRecord (s : State) (q : Qp) (j : Job) : Bool :=
  j.complete && !j.recording && j.fault.isNone && !cqFull q && !s.queues.resetting.getLsbD q.mover && !pastFence q.tenant s &&
  (j.op != 0 || (q.jobs.takeWhile (fun k => k.index != j.index)).all (fun k => k.recording)) && moverRoom s q.mover 1 && !releaseWaits q (recordAt q) 1 s

/-- Write the record: WR_MASKED with RELEASE at FABRIC scope. -/
def writeRecord (qpn : Nat) (q : Qp) (j : Job) (s : State) : State :=
  let fva := recordAt q
  let r := moverTranslate q fva 1 s
  match r.1 with
  | .fault => onJob qpn j.index (fun j => { j with fault := some (fva, 1) }) r.2
  | .ok node o =>
    let b := o % 128
    let p := { writeRequest r.2 node q.tenant (o - b) (maskOf b 32) (List.replicate b 0 ++ recordBytes q j) with release := true, scope := 2#2 }
    let s := onJob qpn j.index (fun j => { j with recording := true }) r.2
    issue p (.record qpn j.index) (s.onQp qpn (fun q => { q with cqTail := q.cqTail + 1 }))
  | _ => recordFailed qpn j.index r.2

/-- COMPLETION_RECORD. -/
def execCompletionRecord (qpn : Nat) (index : BitVec 32) (s : State) : Host.Outcome State Fault Refusal :=
  .next (
    match jobOf s qpn index with
    | some (q, j) => if isReady s && mayRecord s q j then writeRecord qpn q j s else s
    | none => s)

/-- The record's write has ended: VEC is raised where CQ_IRQ is set, and the descriptor is done. -/
def recordDone (qpn : Nat) (index : BitVec 32) (status : Nat) (s : State) : State :=
  match jobOf s qpn index with
  | none => s
  | some (q, j) =>
    if status != stOk then recordFailed qpn index s
    else
      let s := s.onQp qpn (fun q => { q with jobs := q.jobs.filter (fun j => j.index != index) })
      if j.desc.cqIrq then raiseVec q.vec s else s

/-! ### Stopping descriptors (R345, R346) -/

/-- The limit of a descriptor that is stopped: the next 64 KiB boundary of DST. -/
def stopLimit (j : Job) : Nat := alignUp (j.desc.dst.toNat + j.issued) 65536 - j.desc.dst.toNat

/-- Stop a started descriptor with a status: COPY and FILL at the boundary, a class 1 job at its next instruction. -/
def stopJob (status ecause : Nat) (all : Bool) (j : Job) : Job :=
  if j.complete || j.limit.isSome then j
  else if j.op == 1 || j.op == 2 then
    { j with limit := some (stopLimit j, status, ecause), fault := if stopLimit j == j.issued && j.bufs.isEmpty then none else j.fault }
  else if j.op == 4 || (all && j.op == 3) then
    { j with limit := some (0, status, ecause), fault := if j.stage == 0 then none else j.fault }
  else j

/-- A class 1 job that has been stopped ends once its contexts have no stream of their own in progress. -/
def endStopped (qpn : Nat) (index : BitVec 32) (s : State) : State :=
  match jobOf s qpn index with
  | none => s
  | some (_, j) =>
    if j.op == 4 && j.stage == 1 && j.limit.isSome &&
        !s.reed.clusters.any (fun c => c.2.ctxs.any (fun x => x.2.job == some (.job qpn index) && !x.2.streams.isEmpty)) then
      onJob qpn index (fun j => { j with stage := 2, pending := j.pending - 1 }) (freeContextsOf (.job qpn index) s)
    else s

/-- A descriptor whose tenant enters REVOKING: started and not completed, it ends with TENANT_REVOKED, a NOP that waits for its turn among them (R346). -/
def revokeJob (j : Job) : Job :=
  if j.op == 0 && !j.recording && j.failed.isNone then { j with failed := some stTenantRevoked, revoked := true }
  else if j.complete then j
  else { j with revoked := true }

/-- Stop the started descriptors of a queue; `all`, for a revocation (R346). Reads of its ring are over. -/
def stopQueue (qpn : Nat) (status ecause : Nat) (all : Bool) (s : State) : State :=
  let s := s.onQp qpn (fun q => { q with
    sqFault := none, jobs := q.jobs.map (fun j => let k := stopJob status ecause all j; if all then revokeJob k else k) })
  settleWaiters (match s.qp qpn with
    | some q => q.jobs.foldl (fun s j => advanceJob qpn j.index (endStopped qpn j.index s)) s
    | none => s)

end Sys2Proof.Machine
end

