-- ==== Sys2Proof/Machine/Streams.lean ====
section
/-! DEFINITION. Program faults (09 R266, 08 R233) and the data movement of HBM streams (09 R272). -/

namespace Sys2Proof.Machine

open Sys2Proof

/-- The tenant whose memory a cluster's programs reach (R272). -/
def clusterTenant (s : State) (c : Nat) : Option Nat := (partitionOf s c).map (fun p => p.2.tenant)

/-- The job of a class 1 context ends with OP_ABORTED and the FCAUSE (09 R282), or with a status of its own. ECAUSE stays 0: 11 R343 uses no value for a program
fault. -/
def endCompute (qpn : Nat) (index : BitVec 32) (status cause : Nat) (s : State) : State :=
  match jobOf s qpn index with
  | none => s
  | some (_, j) =>
    if j.stage != 1 then s
    else
      let s := freeContextsOf (.job qpn index) s
      let s := if status == stOk then s else failJob qpn index status 0 (onJob qpn index (fun j => if j.failed.isSome then j else { j with fcause := cause }) s)
      wakeComputes (advanceJob qpn index (onJob qpn index (fun j => { j with stage := 2, pending := j.pending - 1 }) s))

/-- The chunk that a context has taken last, where it is still open: the one that its faults concern (08 R233, R278). -/
def ctxChunk (s : State) (x : CtxId) (op : Op) : Option Nat :=
  let k := (s.ctx x).taken
  if k == 0 then none
  else (op.chunks.find? (fun y => y.idx == ownedChunk op.prog (selfIndex s) (k - 1))).map (fun y => y.idx)

/-- A program fault of a context: recorded against its cluster, and the operation or job ends (R266). For a confidential tenant the program
counter reads 0. -/
def programFault (x : CtxId) (cause code : Nat) (s : State) : State :=
  let c := s.ctx x
  match c.job with
  | none => s
  | some (.op g) =>
    let s := recordErr kCluster x.cluster 0x28 2 (leBytes cause 1 ++ leBytes (clusterPart s x.cluster) 1) s
    match s.op g with
    | some op =>
      if op.phase == .running && op.record.isNone then
        let s := s.onOp g (fun o => { o with fcause := cause, fcode := code, fpc := if isConf s op.tenant then 0 else c.pc })
        wakeComputes (originate g rsProgramFault (ctxChunk s x op) s)
      else s
    | none => s
  | some (.job qpn index) =>
    endCompute qpn index stOpAborted cause
      (recordErr kCluster x.cluster 0x28 2 (leBytes cause 1 ++ leBytes (clusterPart s x.cluster) 1) s)

/-- Damaged scratch or HBM data ends the operation with DATA_LOST (R208, R278), or the job with that status. -/
def dataLost (x : CtxId) (s : State) : State :=
  match (s.ctx x).job with
  | some (.op g) => wakeComputes (originate g rsDataLost ((s.op g).bind (ctxChunk s x)) s)
  | some (.job qpn index) => endCompute qpn index stDataLost 0 s
  | none => s

/-- FCAUSE 0x03 (R266). -/
def fcNotMapped : Nat := 3

/-- A stream's malformed address (11 R319): a class 1 job ends with BAD_REQUEST. An operation has no such status and no such abort reason; it ends as for an
address that is not mapped (DEDUCED, log entry 84). -/
def streamMalformed (x : CtxId) (s : State) : State :=
  match (s.ctx x).job with
  | some (.job qpn index) => endCompute qpn index stBadRequest 0 s
  | _ => programFault x fcNotMapped 0 s

/-! ### Streams -/

/-- What the translation of one line of a stream gives: the HBM address, a fault, the FCAUSE it ends with (R322), or a wait. -/
inductive StreamAt where
  | ok (a : Nat)
  | fault (fva : Nat)
  | cause (n : Nat)
  /-- a bit of [63:48] of the address is set (R319) -/
  | malformed
  /-- the channel of the HBM retrains (15 R430) -/
  | waits
  deriving DecidableEq, Repr

/-- Translate one line of a stream; entries it is pinned to stand beside the mirror's (11 R336). -/
def streamAt (s : State) (pins : List XEntry) (t fva access : Nat) : StreamAt :=
  match srcTranslate (s.onXlat (fun x => { x with src := pins ++ x.src })) t fva access with
  | .malformed => .malformed
  | .fault => .fault fva
  | .denied => .cause 4
  | .ok node off =>
    if node != selfNode s then .cause 3
    else match tgtTranslate s t off access with
      | .inl a => if s.svc.hbmResetting.contains (channelOf a) then .waits else .ok a
      | .inr st => .cause (if st == stAccessDenied then 4 else 3)

/-- The first line of a range that does not translate. -/
def streamStop (s : State) (pins : List XEntry) (t fva n access : Nat) : Option StreamAt :=
  (linesIn fva n).findSome? (fun l => match streamAt s pins t (128 * l.1) access with | .ok _ => none | r => some r)

/-- Read a tenant's virtual memory for a cluster, whose every line translates: the bytes, and whether all of them are good. -/
def streamRead (pins : List XEntry) (t fva n : Nat) (s : State) : (List Byte × Bool) × State :=
  (linesIn fva n).foldl (fun (x : (List Byte × Bool) × State) l =>
    match streamAt x.2 pins t (128 * l.1) 0 with
    | .ok a =>
      let c := eccCheck .clean a x.2
      let r := hbmLine (memKeyOf c.2 t) (a / 128) c.2
      ((x.1.1 ++ bytesAt r.1 l.2.1 l.2.2.1, x.1.2 && c.1), r.2)
    | _ => x) (([], true), s)

/-- Store a part of a line of the node's own HBM, at fabric offset `off` and HBM address `a`, for a unit of the node: whether its channel works and, where only a
part of the line is written, the line is good (15 R430, R437). A full line ends a lost-line mark; doorbells on the line are woken, copies of it dropped. -/
def storePart (t off a first : Nat) (data : List Byte) (s : State) : Bool × State :=
  let mask := maskOf first data.length
  if channelDead s a || (mask != fullMask && s.home.lost.contains (a / 128)) then (false, s)
  else (true, doorbellLanded (a / 128) (ownWrite t off (hbmStore (memKeyOf s t) (a / 128) mask (List.replicate first 0 ++ data) s)))

/-- The fabric offset that a line of a stream translates to. -/
def streamOff (s : State) (pins : List XEntry) (t fva : Nat) : Nat :=
  match srcTranslate (s.onXlat (fun x => { x with src := pins ++ x.src })) t fva 1 with
  | .ok _ off => off
  | _ => 0

/-- Write it: each line at its place, and whether all of them could be written. -/
def streamWrite (pins : List XEntry) (t fva : Nat) (data : List Byte) (s : State) : Bool × State :=
  (linesIn fva data.length).foldl (fun (x : Bool × State) l =>
    match streamAt x.2 pins t (128 * l.1) 1 with
    | .ok a =>
      let y := storePart t (streamOff x.2 pins t (128 * l.1)) a l.2.1 (bytesAt data l.2.2.2 l.2.2.1) x.2
      (x.1 && y.1, y.2)
    | _ => x) (true, s)

/-- Every page of a range is the newest of a cluster's translation cache (11 R327). -/
def touchCluster (c t fva : Nat) (s : State) : State :=
  match findEntry s.xlat.src t fva with
  | some x => touchCache (32 + c) x s
  | none => s

end Sys2Proof.Machine
end

