-- ==== Sys2Proof/Machine/Results.lean ====
section
/-! DEFINITION. The arithmetic of a chunk: how a contribution enters its elements' state (07 R181 to R188, R200 to R204), how the elements' values
are formed (R195 to R203, 09 R267 to R270) and packed into result payloads (R179, R180, R199, R209), and the update of a fused
program (09 R273 to R279). -/

namespace Sys2Proof.Machine

open Sys2Proof

/-! ### What a chunk's contributions and results are made of -/

/-- Blocks of a payload in a block format. -/
def blocksOf (fmt : Nat) : Nat := perPayload fmt / 32

/-- The side granule is as the format asks: none, or one valid scale per block and zeros (07 R180, R181). -/
def sideOk (fmt : Nat) (sideBit : Bool) (side : List Byte) : Bool :=
  if isBlkFmt fmt then
    sideBit && ((bytesAt side 0 (blocksOf fmt)).all (fun b => decide (b.toNat ≤ 0xF6) || b == 0xFF)) &&
    ((bytesAt side (blocksOf fmt) (16 - blocksOf fmt)).all (fun b => b == 0))
  else !sideBit

/-! ### Adding a contribution (07 R182, R187, R200, R202, R203, 09 R270) -/

/-- Contributions that are kept by position until the element is formed: ORDERED sums, and weighted ones. -/
def keepsTerms (p : ProgParams) : Bool := (p.ordered && decide (p.op ≤ 1)) || p.weighted
/-- A bitwise operation, a verdict among them. -/
def isBitwise (p : ProgParams) : Bool := isVerdict p || decide (4 ≤ p.op)
/-- AND, OR or XOR of raw bits. -/
def bitwise (p : ProgParams) (x y : Nat) : Nat :=
  if isVerdict p || p.op == 4 then x &&& y else if p.op == 5 then x ||| y else x ^^^ y

/-- Add one element of the contributor at a position. -/
def addElem (p : ProgParams) (pos e raw scale : Nat) (k : Chunk) : Chunk :=
  if isBitwise p then
    { k with terms := k.terms.upd e [] (fun m => m.put 0 (match m.find 0 with | some x => bitwise p x raw | none => raw)) }
  else if keepsTerms p then { k with terms := k.terms.upd e [] (fun m => m.put pos (raw + 2 ^ 32 * scale)) }
  else
    let v := convertElem (inFmt p) raw scale
    { k with accs := k.accs.upd e {} (fun a => if p.op ≤ 1 then accAdd a v else accExtreme (p.op == 2) a v) }

/-- A payload with its elements from number n on set to 0 (07 R181). -/
def cutElems (f n : Nat) (data : List Byte) : List Byte :=
  padTo 128 (packElems f ((List.range (min n (perPayload f))).map (elemOf f data)))

/-- Add a payload; elements beyond the chunk's are ignored, and go out as 0 where the payload passes unchanged (07 R181). -/
def addPayload (op : Op) (pos pidx : Nat) (data side : List Byte) (k : Chunk) : Chunk :=
  let f := inFmt op.prog
  let n := perPayload f
  if isCopyKind op.prog.kind then { k with copies := k.copies.put pidx (cutElems f (inElems op.prog k.idx - pidx * n) data, side) }
  else
    (List.range (min n (inElems op.prog k.idx - pidx * n))).foldl
      (fun k i => addElem op.prog pos (pidx * n + i) (elemOf f data i) (leAt side (i / 32) 1) k) k

/-! ### The value of an element (07 R195, R200, R201, R203) -/

/-- A kept contribution's exact value. -/
def termVal (p : ProgParams) (t : Nat) : FVal := convertElem (inFmt p) (t % 2 ^ 32) (t / 2 ^ 32)
/-- Its FP32 conversion (R203). -/
def termF32 (p : ProgParams) (t : Nat) : Nat := f32Of (termVal p t) 160

/-- The accumulator of an element; weighted contributions are multiplied, rounded once to FP32 and added exactly (R270), in MODE ORDERED too, for which 07 R203
would have a sequential sum (DEDUCED, log entry 81). `w` gives the weight of a position. -/
def accOfElem (p : ProgParams) (w : Nat → Nat) (k : Chunk) (e : Nat) : Acc :=
  if p.weighted then
    (k.terms.look e []).foldl (fun a t =>
      let v := f32Val (f32Of (mulVal (termVal p t.2) (f32Val (w t.1))) 320)
      if p.op ≤ 1 then accAdd a v else accExtreme (p.op == 2) a v) (k.accs.look e {})
  else k.accs.look e {}

/-- Blocks of 32. -/
def blocks32 {α : Type} : Nat → List α → List (List α)
  | 0, _ => []
  | n + 1, l => if l.isEmpty then [] else l.take 32 :: blocks32 n (l.drop 32)

/-- Pad a block to 32. -/
def pad32 {α : Type} (d : α) (l : List α) : List α := l ++ List.replicate (32 - l.length) d

/-- The accumulators of a chunk, each block rotated back where ROT_IN asks it (R267). -/
def chunkAccs (op : Op) (w : Nat → Nat → Nat) (k : Chunk) (n : Nat) : List Acc :=
  let l := (List.range n).map (fun e => accOfElem op.prog (w e) k e)
  if op.prog.rotIn then (blocks32 (n / 32 + 1) l).flatMap (fun b => (rotAccs (pad32 {} b)).take b.length) else l

/-- The sequential FP32 sum of R203, in increasing position. -/
def orderedSum (p : ProgParams) (m : Map Nat) : Nat :=
  match m with
  | [] => 0
  | t :: r => r.foldl (fun s x => f32Add s (termF32 p x.2)) (termF32 p t.2)

/-- The pair or group sum of an element before its output conversion, and the class a step of R201 has given it. A weighted sum is exact in either MODE
(09 R270; DEDUCED, log entry 81). -/
def sumVal (p : ProgParams) (k : Chunk) (e : Nat) (a : Acc) : FVal :=
  if p.op == 2 || p.op == 3 then resolveExtreme (p.op == 2) a
  else if p.ordered && !p.weighted then f32Val (orderedSum p (k.terms.look e []))
  else resolveSum a

/-- AVG of R201 on a resolved sum; every other operation keeps its value. -/
def avgVal (p : ProgParams) (n : Nat) (v : FVal) : FVal × Nat :=
  if p.op == 1 then
    (if p.ordered then (match encode 0 none p.sat v 160 with | r => (f32Val (f32Mul r.code (f32Recip n)), 0))
     else match avgStep p.sat n v with | r => (f32Val r.code, r.cls))
  else (v, 0)

/-- Values of the contributed elements of a chunk, with their classes. -/
def chunkVals (op : Op) (n : Nat) (w : Nat → Nat → Nat) (k : Chunk) : List (FVal × Nat) :=
  ((chunkAccs op w k (inElems op.prog k.idx)).zipIdx).map (fun x => avgVal op.prog n (sumVal op.prog k x.2 x.1))

/-! ### Result payloads (07 R179, R180, R196 to R199, R209) -/

/-- The class of a result: that of its value, of its encoding, or of a step before it. -/
def classOf (v : FVal) (pre enc : Nat) : Nat := if valCls v != 0 then valCls v else if enc != 0 then enc else pre

/-- Rotate a block forward: each value rounded to FP32 first, for HROT works on FP32 (R264, R268). -/
def rotBlock (sat : Bool) (vs : List FVal) : List FVal :=
  (rotForward ((pad32 (.fin false 0) vs).map (fun v => (encode 0 none sat v 160).code))).map f32Val

/-- One block in a block format: its scale byte, its elements, their classes. Elements beyond those given are sent as 0, rotated or not (07 R181). -/
def outBlock (op : Op) (elem : Nat) (vs : List (FVal × Nat)) : Nat × List Nat × List Nat :=
  let p := op.prog
  let xs := pad32 (.fin false 0) ((if p.rotOut then rotBlock p.sat (vs.map Prod.fst) else vs.map Prod.fst).take vs.length)
  let q := quantBlock p.fout p.sat ((List.range 32).map (fun i => srKey p.sr op.opid.toNat (elem + i) p.seed.toNat)) xs
  (q.1, q.2.map (fun r => r.code), List.zipWith (fun r v => if r.cls != 0 then r.cls else v.2) q.2 vs)

/-- One payload of results: data, side, classes. `elem` is its first element's offset in the operation. -/
def outPayload (op : Op) (elem : Nat) (vs : List (FVal × Nat)) : (List Byte × List Byte) × List Nat :=
  let p := op.prog
  if isBlkFmt p.fout then
    let bs := (blocks32 (blocksOf p.fout) vs).zipIdx.map (fun b => outBlock op (elem + 32 * b.2) b.1)
    ((padTo 128 (packElems p.fout (bs.flatMap (fun b => b.2.1))), padTo 16 (bs.map (fun b => BitVec.ofNat 8 b.1))), bs.flatMap (fun b => b.2.2))
  else
    let rs := vs.zipIdx.map (fun v => (encode p.fout (srKey p.sr op.opid.toNat (elem + v.2) p.seed.toNat) p.sat v.1.1 160, v.1))
    ((padTo 128 (packElems p.fout (rs.map (fun r => r.1.code))), []), rs.map (fun r => classOf r.2.1 r.2.2 r.1.cls))

/-- All payloads of a chunk from its values. -/
def outPayloadsOf (op : Op) (c : Nat) (vs : List (FVal × Nat)) : List (Nat × List Byte × List Byte) × List Nat :=
  let n := perPayload op.prog.fout
  (List.range (payloadsOut op.prog c)).foldl (fun (x : List (Nat × List Byte × List Byte) × List Nat) i =>
    let r := outPayload op (elemStart op.prog c i n) ((vs.drop (i * n)).take n)
    (x.1 ++ [(i, r.1.1, r.1.2)], x.2 ++ r.2)) ([], [])

/-- How many of some classes are of one class. -/
def countCls (n : Nat) (l : List Nat) : Nat := (l.filter (fun c => c == n)).length

/-- Take the classes of the results of elements from `e0` on into an operation's counts: none at or beyond LEN, and each element at most once (R209). -/
def takeClasses (e0 : Nat) (l : List Nat) (o : Op) : Op :=
  let new := (l.zipIdx.map (fun x => (x.1, e0 + x.2))).filter (fun x => x.1 != 0 && decide (x.2 < o.prog.len) && !o.classed.contains x.2)
  let cls := new.map Prod.fst
  { o with nans := satAdd 32 o.nans (countCls 1 cls), infs := satAdd 32 o.infs (countCls 2 cls), sats := satAdd 32 o.sats (countCls 3 cls),
           classed := o.classed ++ new.map Prod.snd }

/-! ### Low rank (R264, R269) -/

/-- One MMUL of a row and a row of the transposed operand, all FP32 codes: the 32 products and the old value summed exactly, rounded once. -/
def dotTile (acc : Nat) (a b : List Nat) : Nat :=
  f32Of ((List.zipWith (fun x y => mulVal (f32Val x) (f32Val y)) a b).foldl addVal (widen (f32Val acc))) 320

/-- The row of Q for column j, as FP32 codes (BF16 in memory). -/
def qRow (q : List Byte) (r j : Nat) : List Nat := (List.range r).map (fun k => leAt q (2 * (j * r + k)) 2 * 2 ^ 16)

/-- Element of the product: tiles in increasing order. -/
def rankDot (r : Nat) (prow qrow : List Nat) : Nat :=
  (List.range (r / 32)).foldl (fun acc t => dotTile acc ((prow.drop (32 * t)).take 32) ((qrow.drop (32 * t)).take 32)) 0

/-- The result elements of a chunk from the rows of P that have elements in it (R269). -/
def rankVals (p : ProgParams) (c : Nat) (pvals : List (FVal × Nat)) (q : List Byte) : List (FVal × Nat) :=
  let r := rankR p
  let row := fun (i : Nat) => ((pvals.drop ((i - (rankRows p c).1) * r)).take r).map (fun v => (encode 1 none p.sat v.1 160).code * 2 ^ 16)
  (List.range (elemsOf p c)).map (fun e =>
    let g := c * chunkElems p + e
    (f32Val (rankDot r (row (g / rankCols p)) (qRow q r (g % rankCols p))), 0))

/-! ### The fused update (R273 to R275) -/

/-- An FP32 field of the argument block. -/
def argF32 (op : Op) (off : Nat) : Nat := leAt op.args off 4
/-- STEP. -/
def argStep (op : Op) : Nat := leAt op.args 0 4
def f32One : Nat := 0x3F800000
def f32Neg (x : Nat) : Nat := x ^^^ 0x80000000

/-- Arrays of an optimizer's state. -/
def stateArrays (optimizer : Nat) : Nat := if optimizer ≤ 1 then 3 else 2

/-- ADAMW with a given LAMBDA on (w, m, v). -/
def adamStep (op : Op) (lam g w m v : Nat) : List Nat :=
  let b1 := argF32 op 8
  let b2 := argF32 op 12
  let m := f32Fma b1 m (f32Mul (f32Sub f32One b1) g)
  let v := f32Fma b2 v (f32Mul (f32Mul (f32Sub f32One b2) g) g)
  let u := f32Div (f32Mul m (argF32 op 24)) (f32Add (f32Sqrt (f32Mul v (argF32 op 28))) (argF32 op 16))
  [f32Fma (f32Neg (argF32 op 4)) (f32Fma lam w u) w, m, v]

/-- One element's new state (R275). -/
def updateElem (op : Op) (g : Nat) (st : List Nat) : List Nat :=
  let w := st.getD 0 0
  let m := st.getD 1 0
  let v := st.getD 2 0
  let lam := argF32 op 20
  let lr := f32Neg (argF32 op 4)
  let b1 := argF32 op 8
  let b2 := argF32 op 12
  if op.prog.optimizer == 0 then adamStep op lam g w m v
  else if op.prog.optimizer == 1 then adamStep op 0 (f32Fma lam w g) w m v
  else if op.prog.optimizer == 2 then
    let u := f32Sign (f32Fma b1 m (f32Mul (f32Sub f32One b1) g))
    [f32Fma lr (f32Fma lam w u) w, f32Fma b2 m (f32Mul (f32Sub f32One b2) g)]
  else
    let g := f32Fma lam w g
    let m := f32Fma b1 m g
    [f32Fma lr m w, m]

/-- The FP32 words of a byte list. -/
def f32s : Nat → List Byte → List Nat
  | 0, _ => []
  | n + 1, l => leAt l 0 4 :: f32s n (l.drop 4)

/-- Place of array `a` of the k-th owned chunk's record (R274). -/
def stateAt (p : ProgParams) (k a : Nat) : Nat :=
  p.stateFva + k * chunkElems p * (4 * stateArrays p.optimizer) + 4 * a * chunkElems p

/-- Stage 2 (R273): each element rounded to FP32, multiplied by GSCALE; the gradients with their classes. -/
def gradients (p : ProgParams) (vs : List (FVal × Nat)) : List (Nat × Nat) :=
  vs.map (fun v =>
    let r := encode 0 none p.sat v.1 160
    let g := f32Mul r.code p.gscale.toNat
    (g, classOf (f32Val g) v.2 r.cls))

/-- How the forming of a chunk ends: done, stalled on a translation fault at an address with an access (none: on a channel that retrains), a program fault, or
damaged data. -/
inductive Formed where
  | ok (pays : List (Nat × List Byte × List Byte)) (cls : List Nat) (s : State)
  | stall (at_ : Option (Nat × Nat))
  | cause (n : Nat)
  | lost (s : State)

/-- What a read of the tenant's memory gives: its bytes, a stall, a program fault, or damaged data. -/
inductive Read where
  | ok (b : List Byte) (s : State)
  | stall (at_ : Option (Nat × Nat))
  | cause (n : Nat)
  | lost (s : State)

def readMem (t fva n : Nat) (s : State) : Read :=
  match streamStop s [] t fva n 0 with
  | some (.cause c) => .cause c
  | some .malformed => .cause fcNotMapped
  | some (.fault a) => .stall (some (a, 0))
  | some _ => .stall none
  | none => match streamRead [] t fva n s with
    | ((b, true), s) => .ok b s
    | ((_, false), s) => .lost s

/-- Go on with what has been read, or stop as the read does. -/
def Read.then (r : Read) (go : List Byte → State → Formed) : Formed :=
  match r with
  | .ok b s => go b s
  | .stall a => .stall a
  | .cause c => .cause c
  | .lost s => .lost s

def readThen (t fva n : Nat) (go : List Byte → State → Formed) (s : State) : Formed := (readMem t fva n s).then go

/-- Write into the tenant's memory and go on. -/
def writeThen (t fva : Nat) (b : List Byte) (go : State → Formed) (s : State) : Formed :=
  match streamStop s [] t fva b.length 1 with
  | some (.cause c) => .cause c
  | some .malformed => .cause fcNotMapped
  | some (.fault a) => .stall (some (a, 1))
  | some _ => .stall none
  | none => match streamWrite [] t fva b s with
    | (true, s) => go s
    | (false, s) => .lost s

/-- Read all arrays of a record. -/
def readArrays (t : Nat) (p : ProgParams) (k n : Nat) : List Nat → List (List Nat) → (List (List Nat) → State → Formed) → State → Formed
  | [], acc, go, s => go acc s
  | a :: r, acc, go, s => readThen t (stateAt p k a) (4 * n) (fun b s => readArrays t p k n r (acc ++ [f32s n b]) go s) s

/-- Write them all back. -/
def writeArrays (t : Nat) (p : ProgParams) (k : Nat) : List (Nat × List Nat) → (State → Formed) → State → Formed
  | [], go, s => go s
  | x :: r, go, s => writeThen t (stateAt p k x.1) (x.2.flatMap (fun w => leBytes w 4)) (fun s => writeArrays t p k r go s) s

/-- Stage 4 (R273): the weights converted. -/
def sendWeights (op : Op) (c : Nat) (cls : List Nat) (ws : List Nat) (s : State) : Formed :=
  .ok (outPayloadsOf op c (ws.map (fun w => (f32Val w, 0)))).1 cls s

/-- Stages 3 to 5 (R273, R277): the state is updated unless its tag is STEP already or the step is skipped. -/
def updateChunk (op : Op) (c k : Nat) (apply : Bool) (gs : List Nat) (cls : List Nat) (s : State) : Formed :=
  let p := op.prog
  let n := elemsOf p c
  let na := stateArrays p.optimizer
  readThen op.tenant (p.tagFva + 4 * k) 4 (fun tag s =>
    readArrays op.tenant p k n (List.range na) [] (fun arrs s =>
      if !apply || leAt tag 0 4 == argStep op then sendWeights op c cls (arrs.getD 0 []) s
      else
        let new := (List.range n).map (fun i => updateElem op (gs.getD i 0) (arrs.map (fun a => a.getD i 0)))
        let cols := (List.range na).map (fun a => (a, new.map (fun e => e.getD a 0)))
        writeArrays op.tenant p k cols (fun s =>
          writeThen op.tenant (p.tagFva + 4 * k) (leBytes (argStep op) 4) (fun s => sendWeights op c cls (new.map (fun e => e.getD 0 0)) s) s) s) s) s

/-- The staged gradient of the k-th owned chunk (R279). -/
def stageAt (p : ProgParams) (k : Nat) : Nat := p.stageFva + 4 * k * chunkElems p

/-- A fused chunk in its PHASE (R279). -/
def formFused (op : Op) (c k : Nat) (vs : List (FVal × Nat)) (verdict : Bool) (s : State) : Formed :=
  let p := op.prog
  if p.phase == 2 then
    (if verdict then readThen op.tenant (stageAt p k) (4 * elemsOf p c) (fun b s => updateChunk op c k true (f32s (elemsOf p c) b) [] s) s
     else updateChunk op c k false [] [] s)
  else
    let gs := gradients p vs
    let cls := gs.map Prod.snd
    if p.phase == 1 then
      writeThen op.tenant (stageAt p k) (gs.flatMap (fun g => leBytes g.1 4)) (fun s =>
        .ok [(0, padTo 128 (leBytes (countCls 1 cls) 4 ++ leBytes (countCls 2 cls) 4), [])] cls s) s
    else updateChunk op c k true (gs.map Prod.fst) cls s

/-- The first contributed element of a chunk, in the operation. -/
def inFirst (p : ProgParams) (c : Nat) : Nat := if p.rankTiles != 0 then (rankRows p c).1 * rankR p else c * chunkElems p

/-- The weights of a chunk (R270): position k of block b at AUX_FVA + 4 x (b x N + k); nothing is read where no weight is asked. -/
def readWeights (op : Op) (n c : Nat) (s : State) : Read :=
  let p := op.prog
  if !p.weighted then .ok [] s
  else readMem op.tenant (p.auxFva + 4 * (inFirst p c / 32 * n)) (4 * n * ceilDiv (inElems p c) 32) s

/-- The weight of an element of the chunk and a position. -/
def weightAt (n : Nat) (w : List Byte) (e pos : Nat) : Nat := leAt w (4 * (e / 32 * n + pos)) 4

/-- Form the results of a chunk whose contributions are complete; `n` members, `k` its place among the owned chunks (R224). -/
def formChunk (op : Op) (n k : Nat) (x : Chunk) (s : State) : Formed :=
  let p := op.prog
  let c := x.idx
  if isCopyKind p.kind then .ok (x.copies.map (fun y => (y.1, y.2.1, y.2.2))) [] s
  else if isVerdict p then formFused op c k [] ((x.terms.look 0 []).look 0 0 == 1) s
  else if isBitwise p then
    let m := perPayload p.fout
    .ok ((List.range (payloadsOut p c)).map (fun i =>
      (i, padTo 128 (packElems p.fout ((List.range (min m (elemsOf p c - i * m))).map (fun e => (x.terms.look (i * m + e) []).look 0 0))), []))) [] s
  else (if x.terms.isEmpty then Read.ok [] s else readWeights op n c s).then (fun w s =>
    let vs := chunkVals op n (weightAt n w) x
    if p.kind == kindFused then formFused op c k vs false s
    else if p.rankTiles != 0 then
      readThen op.tenant p.auxFva (2 * rankR p * rankCols p) (fun q s =>
        let r := outPayloadsOf op c (rankVals p c vs q)
        .ok r.1 r.2 s) s
    else
      let r := outPayloadsOf op c vs
      .ok r.1 r.2 s)

end Sys2Proof.Machine
end

