-- ==== Sys2Proof/Machine/Contribute.lean ====
section
/-! DEFINITION. What a bridge's collective agent contributes (08 R222, 10 R302, R303): each payload of each credited chunk, once, on the port to the plane that
owns the chunk. The values come from the host's memory, of which the spec gives the part no row: they are open (log entry 57). -/

namespace Sys2Proof.Machine

open Sys2Proof

/-- The open bytes of a payload in the input format, and its side granule: every scale is a valid one (07 R180). -/
def rawPayload (fmt free : Nat) : List Byte × List Byte :=
  ((List.range 128).map (fun k => Config.freeByte (free + k)),
   if isBlkFmt fmt then
     padTo 16 ((List.range (blocksOf fmt)).map (fun b =>
       let e := Config.freeNat (free + 128 + b) % 0xF8
       BitVec.ofNat 8 (if e == 0xF7 then 0xFF else e)))
   else [])

/-- One block of 32 open FP32 elements, rotated forward and quantized to the input format: the scale byte and the elements' codes (09 R267). -/
def rotatedBlock (fmt free : Nat) : Nat × List Nat :=
  let ys := rotForward ((List.range 32).map (fun k => Config.freeNat (free + k) % 2 ^ 32))
  if isBlkFmt fmt then
    let q := quantBlock fmt false (List.replicate 32 none) (ys.map f32Val)
    (q.1, q.2.map (fun r => r.code))
  else (0, ys.map (fun y => (encode fmt none false (f32Val y) 160).code))

/-- A payload whose blocks are rotated. -/
def rotatedPayload (fmt free : Nat) : List Byte × List Byte :=
  let bs := (List.range (blocksOf fmt)).map (fun b => rotatedBlock fmt (free + 32 * b))
  (packElems fmt (bs.flatMap (fun b => b.2)), if isBlkFmt fmt then padTo 16 (bs.map (fun b => BitVec.ofNat 8 b.1)) else [])

/-- The payload of a chunk that a member contributes: a verdict of 0 or 1 in PHASE 2 (09 R279), rotated values with ROT_IN (R303), any values otherwise;
elements beyond the chunk's end are 0 (07 R181). -/
def contributionOf (p : ProgParams) (c i free : Nat) : List Byte × List Byte :=
  if isVerdict p then (padTo 128 (leBytes (Config.freeNat free % 2) 4), [])
  else
    let f := inFmt p
    let y := if p.rotIn then rotatedPayload f free else rawPayload f free
    (cutElems f (inElems p c - i * perPayload f) y.1, y.2)

/-- Numbers that one payload may draw. -/
def contributionDraws : Nat := 256

/-- RED_PUT of a member's payload (08 R218, R222). -/
def contributionPacket (s : State) (g : Nat) (m : MemberOp) (c i : Nat) : Packet :=
  let y := contributionOf m.prog c i s.free
  { collPacket opRedPut s (mkNode (nodePair (selfNode s)) true (ownerOf m.prog c)) false m.tenant i g m.gen c m.opid with
    data := y.1, sideBit := isBlkFmt (inFmt m.prog), side := y.2 }

/-- A member sends while it runs, has recorded no abort, may send for its tenant, which exists and is not REVOKING (14 R413: engines issue
nothing new for such a tenant), and its port to the owning plane is up (08 R222, R237). -/
def mayContribute (s : State) (m : MemberOp) (c : Nat) : Bool :=
  m.phase == .running && m.record.isNone && (s.tenant m.tenant).isSome && !isRevoking s m.tenant && (sendSlotOf m.tenant s).isSome && planeUp s (ownerOf m.prog c) && localRoom s 2

/-- Send what a member may, at most `n` payloads; each leaves the list as it is sent. -/
def contribute (g : Nat) : Nat → State → State
  | 0, s => s
  | n + 1, s =>
    match s.member g with
    | none => s
    | some m =>
      match m.toSend.find? (fun x => mayContribute s m x.1) with
      | none => s
      | some x =>
        contribute g n (sendFor (some (ownerOf m.prog x.1)) (contributionPacket s g m x.1 x.2)
          ({ s with free := s.free + contributionDraws }.onMember g (fun y => { y with toSend := y.toSend.erase x })))

/-- Send what the members may, now that the local queues have room. -/
def contributeAll (s : State) : State := s.coll.members.foldl (fun s m => contribute m.1 m.2.toSend.length s) s

/-- The payloads of newly credited chunks of plane `r` that the member contributes. -/
def creditedPayloads (m : MemberOp) (r : Nat) (cs : List Nat) : List (Nat × Nat) :=
  (cs.filter (fun c => decide (c < chunkCount m.prog) && ownerOf m.prog c == r && contributes m.prog m.members.length c m.position)).flatMap
    (fun c => (List.range (inPayloads m.prog c)).map (fun i => (c, i)))

end Sys2Proof.Machine
end

