-- ==== Sys2Proof/Machine/Buffers.lean ====
section
/-! DEFINITION. The packet buffer of the switch core: lines and attachments (06 R141), virtual output queues and their regions (06 R142,
R143), slots and loans (06 R148), stop flags (06 R149), flows (06 R152), the multicast store (06 R156, R157), and the flush of a
port (06 R161 to R163). -/

namespace Sys2Proof.Machine

open Sys2Proof

/-! ### Lines, attachments and outputs (06 R141) -/

/-- The attachment and the output of the local agents. -/
def outLocal : Nat := 0xFFFF
/-- The output that stands for the member ports of a multicast packet. -/
def outMcast : Nat := 0x10000

/-- Is an attachment spread over lines? -/
def isSpread (a : Nat) : Bool := isTrunk a || a == outLocal
/-- The line of a fixed attachment: end-point quads 2l and 2l + 1. -/
def fixedLine (p : Nat) : Nat := p / 8
/-- The n-th line in the rotation of a spread attachment. -/
def spreadLine (a n : Nat) : Nat := if a == 512 then n % 32 else if a == 528 then 32 + n % 32 else n % 64

/-- The ingress line of the next packet of an attachment; a spread one rotates. -/
def takeInLine (a : Nat) (s : State) : Nat × State :=
  if isSpread a then
    let n := s.core.rotIn.look a 0
    (spreadLine a n, s.onCore (fun c => { c with rotIn := c.rotIn.put a (n + 1) }))
  else (fixedLine a, s)

/-- The egress line of the next packet from an ingress line to an output; a spread one rotates. -/
def takeOutLine (line out : Nat) (s : State) : Nat × State :=
  if isSpread out then
    let k := out * 64 + line
    let n := s.core.rotOut.look k 0
    (spreadLine out n, s.onCore (fun c => { c with rotOut := c.rotOut.put k (n + 1) }))
  else (fixedLine out, s)

/-! ### Virtual output queues (06 R142, R143) -/

/-- Bytes of a packet. -/
def pktBytes (p : Packet) : Nat := 16 * p.len

def qBytes (l : List QPkt) : Nat := l.foldl (fun n q => n + pktBytes q.pkt) 0

/-- Is it the queue of a line, output and channel? -/
def isVoq (line out vc : Nat) (v : Voq) : Bool := v.line == line && v.out == out && v.vc == vc

/-- Bytes of one virtual output queue. -/
def voqBytes (s : State) (line out vc : Nat) : Nat :=
  (s.core.voqs.filter (isVoq line out vc)).foldl (fun n v => n + qBytes v.pkts) 0
/-- Bytes a channel holds on a line. -/
def lineBytes (s : State) (line vc : Nat) : Nat :=
  (s.core.voqs.filter (fun v => v.line == line && v.vc == vc)).foldl (fun n v => n + qBytes v.pkts) 0
/-- Shared bytes of a line in use: what each channel holds beyond its own 32 KiB. -/
def sharedBytes (s : State) (line : Nat) : Nat :=
  (List.range 6).foldl (fun n vc => n + (lineBytes s line vc - 32768)) 0
/-- Class G bytes of a line. -/
def gBytes (s : State) (line : Nat) : Nat :=
  (s.core.voqs.filter (fun v => v.line == line)).foldl (fun n v => n + qBytes (v.pkts.filter (fun q => q.g))) 0
/-- Class G bytes of a line for one output. -/
def gBytesFor (s : State) (line out : Nat) : Nat :=
  (s.core.voqs.filter (fun v => v.line == line && v.out == out)).foldl (fun n v => n + qBytes (v.pkts.filter (fun q => q.g))) 0

/-- Room for a packet: the channel's own share or the shared space, and its queue below 64 KiB (06 R143, R146). -/
def voqRoom (s : State) (line out vc bytes : Nat) : Bool :=
  let use := lineBytes s line vc
  (decide (use + bytes ≤ 32768) || decide (sharedBytes s line + ((use + bytes - 32768) - (use - 32768)) ≤ 557056)) &&
  decide (voqBytes s line out vc + bytes ≤ 65536)

/-- Put a packet at the end of its queue. -/
def voqPush (line out vc : Nat) (q : QPkt) (s : State) : State :=
  s.onCore (fun c =>
    if c.voqs.any (isVoq line out vc) then
      { c with voqs := c.voqs.map (fun v => if isVoq line out vc v then { v with pkts := v.pkts ++ [q] } else v) }
    else { c with voqs := c.voqs ++ [{ line := line, out := out, vc := vc, pkts := [q] }] })

/-! ### Flows, slots and stop flags (06 R148, R149, R152) -/

/-- A flow by number: ingress line, output, channel and egress line. -/
def flowKey (line out vc eline : Nat) : Nat := ((line * 0x20000 + out) * 8 + vc) * 64 + eline
/-- The output of a flow. -/
def flowOut (k : Nat) : Nat := k / 512 % 0x20000
def Cell.flow (c : Cell) : Nat := flowKey c.line c.out c.vc c.eline

/-- The unicast cells that hold slots of an egress line: in the intermediate queues, in the resequencer and at the outputs. -/
def slotCells (s : State) (eline : Nat) : List Cell :=
  (s.core.iqs.flatMap (fun q => q.2.filter (fun c => c.mcast.isNone && c.eline == eline))) ++
  s.core.reseq.look eline [] ++
  (s.core.held.flatMap (fun h => h.2.filter (fun c => c.eline == eline)))

/-- A usable slot for a cell, if the ingress line holds one: the standing allowance of 8, or a loan of the channel with a free slot. -/
def freeSlot (s : State) (cells : List Cell) (eline iline vc : Nat) : Option Nat :=
  if (cells.filter (fun c => c.slot == 0 && c.line == iline)).length < 8 then some 0
  else
    match s.core.loans.find? (fun l => l.eline == eline && l.iline == iline && l.vc == vc &&
        decide ((cells.filter (fun c => c.slot == l.index + 1)).length < 32)) with
    | some l => some (l.index + 1)
    | none => none

/-- The loan an egress line can lend to a channel: the channel's reserved one, else the first free general one. -/
def lendable (s : State) (eline vc : Nat) : Option Nat :=
  let lent := fun (k : Nat) => s.core.loans.any (fun l => l.eline == eline && l.index == k)
  if !lent vc then some vc else (List.range 10).map (· + 6) |>.find? (fun k => !lent k)

/-- The ingress line of a loan still has a packet of its channel at the head of a queue toward the lending line. -/
def loanWanted (c : Core) (l : Loan) : Bool :=
  c.voqs.any (fun v => v.line == l.iline && v.vc == l.vc && (match v.pkts with | q :: _ => q.eline == l.eline | [] => false))

/-- A loan returns when every one of its slots is free: one that has been used, or one whose queue no longer needs it. -/
def returnLoans (s : State) : State :=
  s.onCore (fun c => { c with loans := c.loans.filter (fun l =>
    (!l.used && loanWanted c l) || (slotCells s l.eline).any (fun x => x.slot == l.index + 1)) })

/-- The stop flag of an output and channel at an egress line. -/
def stopped (s : State) (cells : List Cell) (out vc : Nat) : Bool :=
  ((isPort out) && (s.port out).link.xoffIn.getLsbD vc) ||
  decide (96 ≤ (cells.filter (fun c => c.out == out && c.vc == vc)).length) ||
  decide (448 ≤ (cells.filter (fun c => c.out == out)).length)

/-- The output has taken a packet out of the held cells of a flow (06 R148): the cells that carried it alone are freed, and the cell in which it ends, unless
another packet ends or goes on in it. Packets may be taken out of their order, where one of another queue waits (06 R173). -/
def releaseCells (p : Packet) (l : List Cell) : List Cell :=
  match l.findIdx? (fun c => c.ends.contains p) with
  | none => l
  | some i =>
    let c := l.getD i { line := 0, out := 0, vc := 0, eline := 0 }
    let alone := c.ends.head? == some p
    let before := if alone then (match (l.take i).reverse.dropWhile (fun x => x.ends.isEmpty) with
        | x :: r => ({ x with tail := false } :: r).reverse
        | [] => [])
      else l.take i
    let left := { c with ends := c.ends.erase p }
    before ++ (if left.ends.isEmpty && !left.tail then [] else [left]) ++ l.drop (i + 1)

/-- An output has taken a packet: the slots of its cells return, in whichever flow it came. -/
def outputTook (out : Nat) (p : Packet) (s : State) : State :=
  match s.core.held.find? (fun h => flowOut h.1 == out && h.2.any (fun c => c.ends.contains p)) with
  | some h => returnLoans (s.onCore (fun c => { c with held := c.held.put h.1 (releaseCells p h.2) }))
  | none => s

/-! ### Multicast (06 R156 to R158) -/

/-- The member ports of the group a multicast packet names in OPARG. -/
def mcastPorts (s : State) (p : Packet) : List Nat :=
  match s.coll.groups.find p.group with
  | some e => e.members.map (fun m => nodeIndex (BitVec.ofNat 13 m.member))
  | none => []

/-- The egress lines with at least one of some ports. -/
def linesOf (ports : List Nat) : List Nat := (List.range 64).filter (fun l => ports.any (fun p => fixedLine p == l))

/-- Room for some bytes in the multicast store of every target line (128 KiB each). -/
def mcRoom (s : State) (ports : List Nat) (bytes : Nat) : Bool :=
  (linesOf ports).all (fun l => decide (s.core.mcReserved.look l 0 + bytes ≤ 131072))

/-- Reserve it. -/
def mcReserve (ports : List Nat) (bytes : Nat) (s : State) : State :=
  s.onCore (fun c => { c with mcReserved := (linesOf ports).foldl (fun m l => m.upd l 0 (fun n => n + bytes)) c.mcReserved })

/-- Is a port ready for a multicast copy: not marked down, which a narrowing port is not (03 R78), free of XOFF, and its stop flag clear for the channel? -/
def mcReady (s : State) (p vc : Nat) : Bool :=
  !(s.port p).coreDown && !(stopped s (slotCells s (fixedLine p)) p vc)

/-- A port is no longer due a copy or an acknowledgement of some packets. -/
def excludePort (p : Nat) (which : Delivery → Bool) (s : State) : State :=
  s.onCore (fun c => { c with deliveries := c.deliveries.map (fun d => if which d then { d with ports := d.ports.filter (· != p) } else d) })

/-- Is a packet the one of a delivery? -/
def deliveryOf (p : Packet) (d : Delivery) : Bool :=
  d.opcode == p.op && d.group == p.group && d.chunk == p.chunk && d.pidx == p.pidx

/-- Free the store entries of a line whose residue is empty. -/
def mcFree (line : Nat) (s : State) : State :=
  let es := s.core.mcStore.look line []
  let gone := (es.filter (fun e => e.residue.isEmpty)).foldl (fun n e => n + pktBytes e.pkt) 0
  s.onCore (fun c => { c with
    mcStore := c.mcStore.put line (es.filter (fun e => !e.residue.isEmpty)),
    mcReserved := c.mcReserved.upd line 0 (fun n => n - gone) })

/-! ### Depth of a trunk egress queue (12 R357, R367) -/

/-- Bytes in a trunk queue. -/
def tqBytes (q : TrunkQueue) : Nat := q.pkts.foldl (fun n x => n + pktBytes x.1) 0

/-- Account the depth up to a moment, before the queue changes. -/
def tqTouch (now : Nat) (q : TrunkQueue) : TrunkQueue :=
  { q with
    area := q.area + tqBytes q * (now - q.depthAt)
    depthAt := now
    win := { q.win with maxDepth := max q.win.maxDepth (tqBytes q) } }

/-! ### Sample windows (12 R367, R368) -/

/-- P in force: 10 ms while a confidential tenant exists (12 R368). -/
def sampleP (s : State) : Nat := if anyConf s then 10000000 else s.svc.samplePeriod

/-- The first end of a window after a moment: the next multiple of P. -/
def windowStop (p start : Nat) : Nat := (start / p + 1) * p

/-- Keep the last 256 windows; each one that falls out is counted. -/
def keepSamples (n : Nat) (q : TrunkQueue) : TrunkQueue :=
  { q with samples := q.samples.drop (q.samples.length - 256), samplesLost := satAdd 32 q.samplesLost (q.samples.length + n - 256) }

/-- Every window that has ended by a moment is stored: the one in progress, then those in which nothing happened and the depth stood still. Of very many of these
only the last 256 are written out, for the others would fall out of the store at once. -/
def rollSamples (p now : Nat) (q : TrunkQueue) : TrunkQueue :=
  let e := windowStop p q.win.start
  if p = 0 ∨ now < e then q
  else
    let x := tqTouch e q
    let d := tqBytes q
    let n := (now - e) / p
    let m := min n 256
    let idle := (List.range m).map (fun k => ({ start := e + (n - m + k) * p, maxDepth := d, meanDepth := d } : SampleWin))
    keepSamples (n - m) { x with
      samples := x.samples ++ [{ x.win with meanDepth := x.area / (e - x.win.start) }] ++ idle
      win := { start := e + n * p, maxDepth := d }
      area := 0
      depthAt := e + n * p }

/-- A queue as it stands now, before it changes: the windows that have ended are stored, and the depth is accounted up to now. -/
def touchQueue (s : State) (q : TrunkQueue) : TrunkQueue := tqTouch s.svc.now (rollSamples (sampleP s) s.svc.now q)

/-- The queues of a trunk port as the flush leaves them. -/
def emptyTrunk (p : Nat) (s : State) : State :=
  if isTrunk p then s.onTrunk p (fun t => { t with queues := t.queues.each (fun _ q => { touchQueue s q with pkts := [] }) }) else s

/-- The packets a trunk port's ring buffers hold. -/
def trunkPkts (s : State) (p : Nat) : List Packet :=
  if isTrunk p then (s.trunk p).queues.flatMap (fun q => q.2.pkts.map (fun x => x.1)) else []

/-! ### The flush of a down port (06 R161 to R163) -/

/-- Every packet waiting in the core for an output, its residue entries among them (06 R161, R162). -/
def packetsFor (s : State) (p : Nat) : List Packet :=
  (s.port p).back ++ trunkPkts s p ++ (s.port p).tx ++
  (s.core.mcStore.flatMap (fun q => (q.2.filter (fun e => e.residue.contains p)).map (fun e => e.pkt))) ++
  (s.core.iqs.flatMap (fun q => (q.2.filter (fun c => c.out == p)).flatMap (fun c => c.ends))) ++
  (s.core.reseq.flatMap (fun q => (q.2.filter (fun c => c.out == p)).flatMap (fun c => c.ends))) ++
  ((s.core.voqs.filter (fun v => v.out == p)).flatMap (fun v => v.pkts.map (fun q => q.pkt)))

/-- Take them all out of the core, with their cells' slots, and the port out of every residue and delivery. -/
def emptyOutput (p : Nat) (s : State) : State :=
  let s := emptyTrunk p (s.onPort p (fun q => { q with back := [], tx := [] }))
  let s := s.onCore (fun c => { c with
    iqs := c.iqs.each (fun _ l => l.filter (fun x => x.out != p)),
    reseq := c.reseq.each (fun _ l => l.filter (fun x => x.out != p)),
    held := c.held.filter (fun h => flowOut h.1 != p),
    flowTx := c.flowTx.filter (fun h => flowOut h.1 != p),
    flowRx := c.flowRx.filter (fun h => flowOut h.1 != p),
    voqs := c.voqs.filter (fun v => v.out != p),
    mcStore := c.mcStore.each (fun _ l => l.map (fun e => { e with residue := e.residue.filter (· != p) })) })
  let s := mcFree (fixedLine p) s
  returnLoans (excludePort p (fun _ => true) s)

/-- Dispose of one flushed packet by its channel (06 R162): counted; a request turns into a CMPL DEST_DOWN toward its
source. A bridge forwards nothing for others (10 R308): the requests it flushes are its own, and complete in it. -/
def dispose (p : Nat) (k : Packet) (s : State) : State :=
  let s := s.onCnt p (fun c => { c with flush := c.flush.upd k.vc.toNat 0 (· + 1) })
  if k.isReq && (!s.svc.bridge || k.src == selfNode s) then sendLocal (planeCmpl (selfNode s) k stDestDown) s else s

/-- The whole flush. -/
def flushPort (p : Nat) (s : State) : State :=
  let ks := packetsFor s p
  ks.foldl (fun s k => dispose p k s) (emptyOutput p s)

end Sys2Proof.Machine
end

