-- ==== Sys2Proof/Machine/Coding.lean ====
section
/-! DEFINITION. The coding of the lanes (02 R30 to R34) and the test patterns (02 R49): the levels, the precoder, the scrambler, blocks and
codewords, the Reed-Solomon code, alignment markers, and what one lane does with the bits it is given to send. The field and the generator of
RS(544,514), which 02 R33 does not write out, are those of IEEE 802.3 (PRESUMED, log entry 33). -/

namespace Sys2Proof.Machine

open Sys2Proof

/-! ### Levels and precoding (02 R30, R31) -/

/-- The level index of a bit pair, its first bit sent first (02 R30). -/
def grayIndex (pair : Bool × Bool) : BitVec 2 :=
  match pair with
  | (false, false) => 0
  | (false, true) => 1
  | (true, true) => 2
  | (true, false) => 3

/-- The bit pair of a level index. -/
def grayPair (g : BitVec 2) : Bool × Bool := (g.getLsbD 1, g.getLsbD 1 != g.getLsbD 0)

/-- The level of an index, in units of which the outer ones are -3 and +3 (02 R30). -/
def levelOf (g : BitVec 2) : Int := 2 * g.toNat - 3

/-- The 1/(1+D) mod 4 precoder from a state p[n-1] (02 R31). -/
def precode (p : BitVec 2) : List (BitVec 2) → List (BitVec 2)
  | [] => []
  | g :: r => (g - p) :: precode (g - p) r

/-- What the receiver recovers from precoded indices, from the same state (02 R31). -/
def unprecode (p : BitVec 2) : List (BitVec 2) → List (BitVec 2)
  | [] => []
  | q :: r => (q + p) :: unprecode q r

/-- The bit pairs of a bit stream in transmission order (02 R30). -/
def bitPairs : List Bool → List (Bool × Bool)
  | a :: b :: r => (a, b) :: bitPairs r
  | _ => []

/-- The levels a transmitter sends for bits, from its precoder's state (02 R31). -/
def sendLevels (precoded : Bool) (p : BitVec 2) (bits : List Bool) : List (BitVec 2) :=
  let g := (bitPairs bits).map grayIndex
  if precoded then precode p g else g

/-- The bits a receiver recovers from levels, given the level before them (02 R31). -/
def receiveBits (precoded : Bool) (p : BitVec 2) (l : List (BitVec 2)) : List Bool :=
  (if precoded then unprecode p l else l).flatMap (fun g => [(grayPair g).1, (grayPair g).2])

/-! ### Scrambling and blocks (02 R32) -/

/-- One bit of the additive scrambler x^31 + x^28 + 1: its output and its next state. Bit k of the state, and so of SEED, is the output k + 1 bits ago: 02 R32
names the polynomial and no order of the stages (DESIGN CHOICE, log entry 33). -/
def scrambleBit (st : BitVec 31) : Bool × BitVec 31 :=
  let b := st.getLsbD 30 != st.getLsbD 27
  (b, (st <<< 1) ||| BitVec.ofNat 31 (b2n b))

/-- The payload bits of data blocks, scrambled from a state; the same function descrambles them (02 R32). -/
def scramble (st : BitVec 31) : List Bool → List Bool × BitVec 31
  | [] => ([], st)
  | x :: r =>
    let o := scrambleBit st
    let t := scramble o.2 r
    ((x != o.1) :: t.1, t.2)

/-- The scrambler's state after `n` payload bits (02 R32). -/
@[irreducible] def scrambleSkip : Nat → BitVec 31 → BitVec 31
  | 0, st => st
  | n + 1, st => scrambleSkip n (scrambleBit st).2

/-- The bits of a number, bit 0 first. -/
def bitsOf (v : Nat) (n : Nat) : List Bool := (List.range n).map (fun i => v.testBit i)

/-- The number that bits spell, the first in bit 0. -/
def ofBits (l : List Bool) : Nat := l.foldr (fun b n => b2n b + 2 * n) 0

/-- The bits of an alignment-marker block: header 0, then its payload (02 R32). -/
def markerBits (payload : BitVec 256) : List Bool := false :: bitsOf payload.toNat 256

/-! ### RS(544,514) over GF(2^10) (02 R33) -/

/-- One shift of a field element: times x modulo x^10 + x^3 + 1 (PRESUMED, log entry 33). -/
def gfX (a : Nat) : Nat := if 1024 ≤ 2 * a then (2 * a) ^^^ 0x409 else 2 * a

/-- The product of two field elements, by the bits of the first. -/
def gfMul (a b : Nat) : Nat :=
  ((List.range 10).foldl (fun x i => (if a.testBit i then x.1 ^^^ x.2 else x.1, gfX x.2)) ((0, b) : Nat × Nat)).1

/-- Powers of the primitive element x. -/
def gfPow (n : Nat) : Nat := (List.range (n % 1023)).foldl (fun a _ => gfX a) 1

/-- The inverse of a field element: its power 1,022. -/
def gfInv (a : Nat) : Nat :=
  ((List.range 9).foldl (fun x _ => let q := gfMul x.2 x.2; (gfMul x.1 q, q)) ((1, a) : Nat × Nat)).1

/-- The value at a point of a polynomial, its highest coefficient first. -/
def gfEval (p : List Nat) (x : Nat) : Nat := p.foldl (fun a c => gfMul a x ^^^ c) 0

/-- The product of a polynomial with x + r, both highest coefficient first. -/
def gfTimesRoot (r : Nat) (p : List Nat) : List Nat := List.zipWith (· ^^^ ·) (p ++ [0]) (0 :: p.map (gfMul r))

/-- The generator: the product of x + a^i for i from 0 to 29, highest coefficient first (PRESUMED, log entry 33). -/
def rsGenerator : List Nat := (List.range 30).foldl (fun g i => gfTimesRoot (gfPow i) g) [1]

/-- One step of the division by the generator. -/
def rsFeed (g : List Nat) (reg : List Nat) (m : Nat) : List Nat :=
  let f := m ^^^ reg.headD 0
  List.zipWith (· ^^^ ·) (reg.drop 1 ++ [0]) (g.map (gfMul f))

/-- The 30 parity symbols of a message. -/
def rsParity (msg : List Nat) : List Nat :=
  let g := rsGenerator.drop 1
  msg.foldl (rsFeed g) (List.replicate 30 0)

/-- The 30 syndromes of a received word. -/
def rsSyndromes (w : List Nat) : List Nat := (List.range 30).map (fun i => gfEval w (gfPow i))

/-- The search for the shortest error locator: the locator and the one before it, lowest coefficient first, its length, the gap and the old discrepancy. -/
structure Locator where
  c : List Nat := [1]
  b : List Nat := [1]
  len : Nat := 0
  gap : Nat := 1
  old : Nat := 1
  deriving DecidableEq, Repr

/-- The sum of two polynomials, lowest coefficient first. -/
def gfAdd (a b : List Nat) : List Nat := (List.range (max a.length b.length)).map (fun i => a.getD i 0 ^^^ b.getD i 0)

/-- One step of the search, for syndrome n. -/
def locStep (syn : List Nat) (l : Locator) (n : Nat) : Locator :=
  let d := (List.range (l.len + 1)).foldl (fun x i => x ^^^ gfMul (l.c.getD i 0) (syn.getD (n - i) 0)) 0
  if d == 0 then { l with gap := l.gap + 1 }
  else
    let c := gfAdd l.c (List.replicate l.gap 0 ++ l.b.map (gfMul (gfMul d (gfInv l.old))))
    if 2 * l.len ≤ n then { c := c, b := l.c, len := n + 1 - l.len, gap := 1, old := d } else { l with c := c, gap := l.gap + 1 }

/-- A codeword of 544 symbols, corrected where at most 15 of them are wrong; none where it cannot be corrected (02 R33, R37). -/
def rsDecode (w : List Nat) : Option (List Nat) :=
  let syn := rsSyndromes w
  if syn.all (· == 0) then some w
  else
    let l := (List.range 30).foldl (locStep syn) {}
    let omega := (List.range l.len).map (fun i => (List.range (i + 1)).foldl (fun x j => x ^^^ gfMul (l.c.getD j 0) (syn.getD (i - j) 0)) 0)
    let deriv := (List.range l.c.length).map (fun i => if i % 2 == 0 then l.c.getD (i + 1) 0 else 0)
    let fix := fun (pos sym : Nat) =>
      let e := 543 - pos
      let inv := gfPow (1023 - e)
      if gfEval l.c.reverse inv == 0 then sym ^^^ gfMul (gfPow e) (gfMul (gfEval omega.reverse inv) (gfInv (gfEval deriv.reverse inv))) else sym
    let v := w.zipIdx.map (fun x => fix x.2 x.1)
    if l.len ≤ 15 && (rsSyndromes v).all (· == 0) then some v else none

/-- The ten-bit symbols of a bit stream, in increasing order within each (02 R33). -/
def symbolsOf : Nat → List Bool → List Nat
  | 0, _ => []
  | n + 1, l => ofBits (l.take 10) :: symbolsOf n (l.drop 10)

/-- The bits of a codeword whose message is twenty blocks: 514 message symbols, then 30 parity symbols (02 R33). -/
def codewordBits (msg : List Bool) : List Bool := msg ++ (rsParity (symbolsOf 514 msg)).flatMap (fun s => bitsOf s 10)

/-- A received codeword cannot be corrected (02 R37). -/
def wordLost (precoded : Bool) (before : BitVec 2) (levels : List (BitVec 2)) : Bool :=
  (rsDecode (symbolsOf 544 (receiveBits precoded before levels))).isNone

/-! ### Alignment markers (02 R34) -/

/-- The fields of a marker that a lane gives it: TYPE, LANE, WIDTH, PRECODE. -/
structure MarkerHead where
  type : Nat
  lane : Nat
  width : Nat
  precode : Bool
  deriving DecidableEq, Repr

/-- The payload of a transmitted marker, reserved bits 0 (02 R34). -/
def mkMarker (h : MarkerHead) (seed : BitVec 31) (count : BitVec 16) : BitVec 256 :=
  let v := commaWord + h.type * 2 ^ 64 + h.lane % 16 * 2 ^ 72 + h.width % 8 * 2 ^ 76 + b2n h.precode * 2 ^ 79 + seed.toNat * 2 ^ 80 + count.toNat * 2 ^ 112
  BitVec.ofNat 256 (v + crc16 v 240 0xFFFF * 2 ^ 240)

/-! ### The transmitter of one lane in data mode (02 R28, R31 to R33) -/

/-- The first block of every 8,192nd codeword is a marker (02 R27, R28, R33); its SEED is the scrambler's state for the next data block. -/
def txMarker (h : MarkerHead) (t : LaneTx) : LaneTx :=
  if t.cw.isEmpty && t.words == 0 then { t with cw := markerBits (mkMarker h t.scr t.count), count := t.count + 1 } else t

/-- Twenty blocks make a codeword, which goes to the line (02 R33, R31). -/
def txCodeword (h : MarkerHead) (t : LaneTx) : LaneTx × List LineItem :=
  if t.cw.length < 5140 then (t, [])
  else
    let lv := sendLevels h.precode t.pre (codewordBits t.cw)
    ({ t with cw := [], words := (t.words + 1) % 8192, pre := if h.precode then lv.getLastD t.pre else t.pre }, [.codeword lv])

/-- One data block: its payload scrambled, after the marker where one is due (02 R32). -/
def txBlock (h : MarkerHead) (payload : List Bool) (t : LaneTx) : LaneTx × List LineItem :=
  let t := txMarker h t
  let x := scramble t.scr payload
  txCodeword h { t with cw := t.cw ++ true :: x.1, scr := x.2 }

/-- `n` data blocks out of the payload bits that wait. -/
def txBlocks (h : MarkerHead) : Nat → LaneTx → LaneTx × List LineItem
  | 0, t => (t, [])
  | n + 1, t =>
    let a := txBlock h (t.pay.take 256) { t with pay := t.pay.drop 256 }
    let b := txBlocks h n a.1
    (b.1, a.2 ++ b.2)

/-- Payload bits that a lane is given to send (03 R59). -/
def txBits (h : MarkerHead) (bits : List Bool) (t : LaneTx) : LaneTx × List LineItem :=
  let t := { t with pay := t.pay ++ bits }
  txBlocks h (t.pay.length / 256) t

/-- Payload bits of one marker period: 8,192 codewords of 20 blocks, less the marker block (02 R27, R28). -/
def periodBits : Nat := 163839 * 256

/-- Payload bits that a lane still sends before its next marker; 0 where the next block is the marker (02 R27, R33). -/
def toMarker (t : LaneTx) : Nat :=
  if t.words == 0 && t.cw.isEmpty then (if t.pay.isEmpty then 0 else periodBits - t.pay.length)
  else (8192 - t.words) * 5120 - t.cw.length / 257 * 256 - t.pay.length

/-- Payload bits of `c` codewords that follow `w` whole ones since data mode began: 20 blocks each, less the markers among them (02 R27, R28). -/
def wordBits (w c : Nat) : Nat := 5120 * c - 256 * (ceilDiv (w + c) 8192 - ceilDiv w 8192)

/-- `n` payload bits of idle blocks, before scrambling, from a place within a block on (02 R48; their content is open, log entry 34). -/
def idleFill (n place : Nat) : List Bool := (List.range n).map (fun i => Config.idleBit ((place + i) % 256))

/-- The first `n` bits of an endless repetition. -/
def repeatBits (n : Nat) (b : List Bool) : List Bool := (List.range n).map (fun i => b.getD (i % b.length) false)

/-- The bytes of a flit that travel on lane i of w: byte k on lane k mod w, least significant bit first (03 R59). -/
def stripe (w i : Nat) (bytes : List Byte) : List Bool :=
  (bytes.zipIdx.filter (fun x => x.2 % w == i)).flatMap (fun x => bitsOf x.1.toNat 8)

/-! ### Test patterns (02 R49) -/

/-- The two or more exponents below the degree and the degree of a PRBS pattern's polynomial, by pattern code 0 to 4 (02 R49). -/
def prbsTaps (code : Nat) : List Nat :=
  if code == 0 then [7, 6] else if code == 1 then [9, 5] else if code == 2 then [13, 12, 2, 1] else if code == 3 then [15, 14] else [31, 28]

/-- The next bit of a pattern from the bits before it, the latest first (02 R49): a PRBS by its polynomial; SSPRQ (5), whose sequence 02 R49 leaves to
IEEE 802.3, by an open function; SQUARE (6), 8 UI at +3 and 8 UI at -3, from the bit 16 UI before. -/
def patternNext (code : Nat) (before : List Bool) : Bool :=
  if code == 5 then Config.ssprqNext before
  else if code == 6 then before.getD 31 false
  else (prbsTaps code).foldl (fun x t => x != before.getD (t - 1) false) false

/-- How many bits the checker needs before it compares. -/
def patternNeeds (code : Nat) : Nat := if code == 5 || code == 6 then 32 else (prbsTaps code).headD 31

/-- The bits that precede a pattern's first: all 1, and for SQUARE the 16 UI that make it begin with +3 (DESIGN CHOICE, log entry 33). -/
def patternStart (code : Nat) : List Bool :=
  if code == 6 then ((List.replicate 8 [false, false]).flatten ++ (List.replicate 8 [false, true]).flatten) else List.replicate 32 true

/-- `n` bits of a pattern after those sent so far, the latest first: the bits, and the last 32. -/
def patternRun (code : Nat) : Nat → List Bool → List Bool × List Bool
  | 0, b => ([], b)
  | n + 1, b =>
    let x := patternNext code b
    let r := patternRun code n ((x :: b).take 32)
    (x :: r.1, r.2)

/-- The checker synchronizes itself to the pattern (02 R49): it takes received bits for its register until it has foreseen as many of them in a row as the
pattern's length asks; then the register runs on by itself, and each received bit is compared with it. A register of zeros alone is no PRBS. How it
synchronizes is the model's choice, and that nothing is compared before (DESIGN CHOICE, log entry 33). -/
def checkBit (code : Nat) (b : Bool) (t : LaneTest) : LaneTest :=
  let x := patternNext code t.seen
  if t.synced then
    { t with seen := (x :: t.seen).take 32, compared := satAdd 48 t.compared 1, errors := if x != b then satAdd 48 t.errors 1 else t.errors }
  else
    let full := decide (patternNeeds code ≤ t.seen.length) && (decide (4 < code) || (t.seen.take (patternNeeds code)).any id)
    let run := if full && x == b then t.run + 1 else 0
    { t with seen := (b :: t.seen).take 32, run := run, synced := decide (patternNeeds code ≤ run) }

def checkBits (code : Nat) (bits : List Bool) (t : LaneTest) : LaneTest := bits.foldl (fun t b => checkBit code b t) t

end Sys2Proof.Machine
end

