-- ==== Sys2Proof/Machine/Line.lean ====
section
/-! DEFINITION. What a port puts on its lines: training frames (02 R44), alignment markers (02 R34) and flits striped over its lanes
(03 R55 to R59), through the lane's loopback where one is active (02 R50). -/

namespace Sys2Proof.Machine

open Sys2Proof

/-! ### Lanes of a port -/

/-- The LANE index of logical lane k of a port (15 R417). -/
def laneOf (p k : Nat) : Nat := 140 * (p / 136) + p % 136 + k

/-- The port at whose position a physical lane lies (15 R417): the x1 port of an end-point lane, or the trunk port of a trunk lane; none for a spare. -/
def portAt (lane : Nat) : Option Nat :=
  let n := lane % 140
  if 136 ≤ n then none
  else if lane / 140 == 3 && decide (104 ≤ n) then some (if n < 120 then 512 else 528)
  else some (lane / 140 * 136 + n)

/-- A physical lane is a spare (02, "Spare lanes"). -/
def isSpare (lane : Nat) : Bool := decide (136 ≤ lane % 140)

/-- A lane serves a port in the attempt or in service: not in standby, not failed, not left out. -/
def inUse (p : Nat) (l : Lane) : Bool := l.port == some p && !l.standby && !l.failed && !l.leftOut

/-- The lanes in use by a port. -/
def activeLanes (s : State) (p : Nat) : Map Lane := s.lanes.filter (fun l => inUse p l.2)

def onLanesOf (p : Nat) (f : Lane → Lane) (s : State) : State :=
  { s with lanes := s.lanes.each (fun _ l => if l.port == some p then f l else l) }

/-- The number under which the part is known on a port (01 R15, R17). -/
def portSelf (s : State) (p : Nat) : Node := (s.port p).self.getD (selfNode s)

/-! ### Through the loopback (02 R50) -/

/-- An item of a lane's transmitter reaches the line, or its own receiver: in near-end serial all of it, in near-end parallel all but training frames;
in far-end the lane sends again what it receives, and its transmitter's own items go nowhere. -/
def putLine (x : LineItem) (l : Lane) : Lane :=
  if l.loopback == 0 then { l with line := l.line ++ [x] }
  else if l.loopback == 1 then { l with looped := l.looped ++ [x] }
  else if l.loopback == 2 then
    (match x with
     | .frame _ _ => { l with line := l.line ++ [x] }
     | _ => { l with looped := l.looped ++ [x] })
  else l

/-- The same of several items that are no frames. -/
def putItems (xs : List LineItem) (l : Lane) : Lane :=
  if l.loopback == 0 then { l with line := l.line ++ xs }
  else if l.loopback == 3 then l
  else { l with looped := l.looped ++ xs }

/-- A lane in far-end loopback sends again what its receiver slices (02 R50). -/
def echoLine (x : LineItem) (l : Lane) : Lane := if l.loopback == 3 then { l with line := l.line ++ [x] } else l

/-! ### Training frames (02 R44) -/

/-- `n` bits of PRBS13 from a register, as a number with the first bit in bit 0, and the register after them. -/
@[irreducible] def fillRun : Nat → BitVec 13 → Nat × BitVec 13
  | 0, r => (0, r)
  | n + 1, r =>
    let b := r.getLsbD 12 != (r.getLsbD 11 != (r.getLsbD 1 != r.getLsbD 0))
    let x := fillRun n ((r <<< 1) ||| BitVec.ofNat 13 (b2n b))
    (b2n b + 2 * x.1, x.2)

/-- Has this lane's receiver finished a step of training (02 R44 RX_READY, R45)? -/
def stepDone (n : Nat) (l : Lane) : Bool :=
  if n == 1 || n == 4 then decide (3 ≤ l.frames)
  else if n == 3 then decide (8 ≤ l.noRise) && l.undo.isNone && l.wishOld.isNone && l.lastStep.isNone
  else if n == 2 || n == 5 then l.heard
  else true

/-- The step of training that a port's lanes run, or run again while it narrows (03 R78). -/
def frameStep (q : Port) : Nat :=
  match q.phase with
  | .training n => n
  | .narrowing => q.narrowStep
  | _ => 0

/-- Bits [239:0] of a training frame. -/
def frameHead (q : Port) (node : Node) (phys : Nat) (l : Lane) : Nat :=
  tcommaWord + l.wish.1 % 16 * 2 ^ 64 + l.wish.2 % 16 * 2 ^ 68 + b2n l.precodeRx * 2 ^ 72 + b2n l.restartDue * 2 ^ 73 +
  b2n (stepDone (frameStep q) l && l.loopback != 2) * 2 ^ 74 + b2n (l.loopback == 3) * 2 ^ 75 + l.ansA % 4 * 2 ^ 76 + l.ansB % 4 * 2 ^ 78 +
  node.toNat * 2 ^ 80 + l.sendAs % 16 * 2 ^ 93 + phys % 256 * 2 ^ 97 + q.widthNow % 8 * 2 ^ 105 + b2n l.standby * 2 ^ 108 + l.fcountOut.toNat * 2 ^ 109

/-- The whole frame: its head with CHECK, and the PRBS13 that runs on from frame to frame. -/
def mkFrame (head fill : Nat) : BitVec 5440 := BitVec.ofNat 5440 (head + crc16 head 240 0xFFFF * 2 ^ 240 + fill * 2 ^ 256)

/-- The frame a lane sends now, and the lane after it. -/
def frameOf (q : Port) (node : Node) (phys : Nat) (l : Lane) : BitVec 5440 × Lane :=
  let f := fillRun 5184 l.fill
  (mkFrame (frameHead q node phys l) f.1, { l with fill := f.2, fcountOut := l.fcountOut + 1, restartDue := false })

/-- A lane sends one training frame, precoded from step 4 of training on where its direction is (02 R45 step 4). -/
def sendFrame (p lane : Nat) (s : State) : State :=
  s.onLane lane (fun l =>
    let x := frameOf (s.port p) (portSelf s p) (lane % 140) l
    putLine (.frame x.1 (l.precodeTx && decide (4 ≤ frameStep (s.port p)))) x.2)

/-! ### Data mode (02 R31 to R34, R48) -/

/-- What a lane's markers say of it. -/
def markerHead (q : Port) (l : Lane) : MarkerHead :=
  { type := if l.standby then 2 else 1, lane := l.sendAs, width := q.widthNow, precode := l.precodeTx }

/-- A seed of the scrambler, never 0 (02 R34). -/
def seedOf (n : Nat) : BitVec 31 := BitVec.ofNat 31 (n % (2 ^ 31 - 1) + 1)

/-- The lanes of a port, spares included, start data mode: precoders at 0 (02 R31), scramblers at open seeds. -/
def startData (p : Nat) (s : State) : State :=
  ({ s with
    lanes := s.lanes.each (fun k l => if l.port == some p then { l with tx := { scr := seedOf (Config.freeNat (s.free + k)) } } else l)
    free := s.free + 560 }).onPort p (fun q => { q with dataAt := s.svc.now, words := 0 })

/-- Bits go out on one lane. -/
def feedLane (q : Port) (bits : List Bool) (l : Lane) : Lane :=
  let x := txBits (markerHead q l) bits l.tx
  putItems x.2 { l with tx := x.1 }

/-- A lane of the port that sends in data mode: one in use, or a spare in standby (02 R48). -/
def sends (p : Nat) (l : Lane) : Bool := l.port == some p && !l.failed && !l.leftOut

/-- The port's lanes are in data mode and carry no flits yet: steps 6 and 7 of 02 R45, or those of a narrowing port (03 R78). -/
def idles (q : Port) : Bool := frameStep q == 6 || frameStep q == 7

/-- While no flits travel, the lanes of a port send markers and idle blocks, all of them the same number of codewords: one every 40 ns since data mode began (02
R27, R34, R45 step 6, R48). The codewords that are due by now go out, the one in progress whole. -/
def sendDue (p : Nat) (s : State) : State :=
  let q := s.port p
  let c := (s.svc.now - q.dataAt) / 40 + 1 - q.words
  if !idles q || c == 0 then s
  else ({ s with lanes := s.lanes.each (fun _ l => if sends p l then feedLane q (idleFill (wordBits q.words c) 0) l else l) }).onPort p
    (fun q => { q with words := q.words + c })

/-! ### Spares (02 R48) -/

/-- The standby spare of a port. -/
def spareOf (s : State) (p : Nat) : Option Nat := (s.lanes.find? (fun l => sends p l.2 && l.2.standby)).map Prod.fst

/-- The standby spare of a port that can stand in: trained, with marker lock (02 R48). -/
def standbyOf (s : State) (p : Nat) : Option Nat := (s.lanes.find? (fun l => sends p l.2 && l.2.standby && l.2.locked)).map Prod.fst

/-- The LANE number that this end sends on the lane whose receive direction has a logical number. -/
def sendNumber (s : State) (p k : Nat) : Nat :=
  match s.lanes.find? (fun l => l.2.port == some p && l.2.logical == k && !l.2.standby && !l.2.leftOut) with
  | some l => l.2.sendAs
  | none => k

/-- The standby spare takes the LANE number of a failed lane, in both directions (02 R48). -/
def substitute (p k : Nat) (s : State) : State :=
  match standbyOf s p with
  | none => s
  | some x =>
    let n := sendNumber s p k
    (s.onLane x (fun l => { l with standby := false, logical := k, sendAs := n })).onPort p (fun q => { q with spareUsed := true, pendingSpare := none })

/-! ### Flits (03 R55 to R59) -/

/-- Flits travel on a lane: one in use, or a failed one until its spare takes its number at the marker boundary (02 R48). -/
def carriesFlits (p : Nat) (q : Port) (l : Lane) : Bool :=
  l.port == some p && !l.standby && !l.leftOut && (!l.failed || q.pendingSpare == some l.logical)

/-- The lanes that carry a port's flits, by the LANE number they send: flit bytes go over them in that order, also where a narrowed group does not start at
logical lane 0, for which 03 R59 gives no order (DESIGN CHOICE, log entry 70). -/
def txLanes (s : State) (p : Nat) : List Nat :=
  (List.range 16).flatMap (fun k => (s.lanes.filter (fun l => carriesFlits p (s.port p) l.2 && l.2.sendAs == k)).map Prod.fst)

/-- The 256 bytes of a flit (03 R55). -/
def flitBytes (f : Flit) : List Byte := f.bytes ++ leBytes f.crc.toNat 8

/-- The marker boundary at which the spare takes a failed lane's number, where it comes within the next `n` payload bits of a lane: the spare, the failed
lane's number, and the bits before the boundary (02 R48). -/
def switchWithin (s : State) (p n : Nat) : Option (Nat × Nat × Nat) :=
  match (s.port p).pendingSpare, standbyOf s p with
  | some k, some x => if toMarker (s.lane x).tx < n then some (x, k, toMarker (s.lane x).tx) else none
  | _, _ => none

/-- The standby spare sends idle blocks while flits travel beside it, as many bits as each lane, so that its markers stand in the codewords of theirs (02 R33,
R48). -/
def feedSpare (p n : Nat) (s : State) : State :=
  match spareOf s p with
  | some x => s.onLane x (fun l => feedLane (s.port p) (idleFill n l.tx.pay.length) l)
  | none => s

/-- Bits for each of a port's lanes go out, `of i` on the i-th lane and `n` on each. Where the spare takes a failed lane's number among them, the bits before
the marker boundary still go out on the failed lane, and those behind it on the spare (02 R48). -/
def feedLanes (p n : Nat) (of : Nat → List Bool) (s : State) : State :=
  let ls := txLanes s p
  let q := s.port p
  match switchWithin s p n with
  | some (x, k, m) =>
    let t := ls.zipIdx.foldl (fun s y => s.onLane y.1 (fun l => feedLane q (if l.failed then (of y.2).take m else of y.2) l)) (feedSpare p m s)
    let i := ls.findIdx (fun y => (s.lane y).failed)
    let t := substitute p k t
    t.onLane x (feedLane (t.port p) ((of i).drop m))
  | none => ls.zipIdx.foldl (fun s y => s.onLane y.1 (feedLane q (of y.2))) (feedSpare p n s)

/-- A flit is striped over the lanes of its port (03 R59). -/
def stripeFlit (p : Nat) (f : Flit) (s : State) : State :=
  let w := (txLanes s p).length
  feedLanes p (2048 / w) (fun i => stripe w i (flitBytes f)) s

/-- A flit leaves the port. -/
def putFlit (p : Nat) (f : Flit) (s : State) : State := stripeFlit p f (s.onPort p (fun q => { q with sent := q.sent ++ [f] }))

/-- FSEQ of the data flit that goes out next: the oldest that is due again, or the next new one (03 R57, R67). -/
def nextFseq (l : Link) : BitVec 10 :=
  if l.resend == 0 then l.nextSeq
  else match l.retryBuf.drop (l.retryBuf.length - l.resend) with
    | f :: _ => f.fseq
    | [] => l.nextSeq

/-- A flit with the link control of the moment: ACK of the last flit accepted in order, NAK where one is due, and XOFF (03 R57, R65, R71). -/
def flitNow (l : Link) (hdr : BitVec 16) (pay : List (BitVec 128)) (fseq : BitVec 10) (fin : Nat) : Flit :=
  mkFlit hdr pay (mkLctl fseq (l.expected - 1) l.nakDue l.xoffOut fin)

/-- A control flit: its CTYPE, bits [11:0] 0; FSEQ of the next data flit, END 0; parameters in granule 0 and zeros elsewhere (03 R56, R57, R59). -/
def ctlFlit (l : Link) (ctype param : Nat) : Flit :=
  flitNow l (BitVec.ofNat 16 (2 ^ 15 + ctype * 2 ^ 12)) (BitVec.ofNat 128 param :: List.replicate 14 0) (nextFseq l) 0

/-- A control flit leaves the port; it takes a NAK that is due with it, and is never stored for retry (03 R59, R65). -/
def sendCtl (p ctype param : Nat) (s : State) : State :=
  putFlit p (ctlFlit (s.port p).link ctype param) (s.onLink p (fun l => { l with nakDue := false }))

/-- A number of equal control flits. -/
def sendCtls (p ctype param : Nat) : Nat → State → State
  | 0, s => s
  | n + 1, s => sendCtls p ctype param n (sendCtl p ctype param s)

/-- A WIDTH_CHANGE flit leaves whole on every lane that the port still holds (03 R78). -/
def sendWide (p ctype param : Nat) (s : State) : State :=
  let f := ctlFlit (s.port p).link ctype param
  let s := s.onPort p (fun q => { q with sent := q.sent ++ [f], link := { q.link with nakDue := false } })
  feedLanes p 2048 (fun _ => stripe 1 0 (flitBytes f)) s

/-- The marker with COUNT `c` comes: IDLE flits have filled the lanes up to it, the last one cut off there, and data flits begin behind it (03 R59, R75). The
spare has sent idle blocks meanwhile. -/
def fillTo (p : Nat) (c : BitVec 16) (s : State) : State :=
  match txLanes s p with
  | [] => s
  | x :: r =>
    let t := (s.lane x).tx
    let w := r.length + 1
    let idle := flitBytes (ctlFlit (s.port p).link 0 0)
    let n := toMarker t + (c - t.count).toNat * periodBits
    feedLanes p n (fun i => repeatBits n (stripe w i idle)) s

/-- A flit's bits have come in on every lane of the port: each descrambler has run on over them (02 R32). -/
def hearFlit (p : Nat) (s : State) : State :=
  let n := 2048 / (txLanes s p).length
  { s with lanes := s.lanes.each (fun _ l => if carriesFlits p (s.port p) l then { l with scrambler := scrambleSkip n l.scrambler } else l) }

def ctIdle : Nat := 0
def ctInit : Nat := 1
def ctInitAck : Nat := 2
def ctPing : Nat := 3
def ctEcho : Nat := 4
def ctWidth : Nat := 5
def ctDown : Nat := 6

end Sys2Proof.Machine
end

