-- ==== Sys2Proof/Machine/Ports.lean ====
section
/-! DEFINITION. Ports: enabling and disabling (01 R17, R22, 13 R385), going down and the flush (03 R80, R81, 06 R161 to R163), unit
reset of a port (15 R430, R431), PORT_STATUS_READ (13 R477), the causeway (02 R51, R52) and the brake level they set (16 R449). -/

namespace Sys2Proof.Machine

open Sys2Proof

/-! ### Lanes of ports (15 R417) -/

/-- Lanes of enabled ports. -/
def enabledLanes (s : State) : Nat := s.ports.foldl (fun n q => if q.2.enabled then n + lanesOf q.2.width else n) 0

/-- The brake level in mW: 178 W and 0.5 W for each lane of an enabled port (16 R449). -/
def brakeMw (lanes : Nat) : Nat := 178000 + 500 * lanes

/-- The cap in force in W: the lower of the caps of mailboxes 1 and 2, or 800 W (16 R447). -/
def capW (s : State) : Nat := s.pwr.caps.foldl (fun n c => min n c.2) 800

/-- The enabled port whose lanes hold a lane, if any. -/
def portOfLane (s : State) (lane : Nat) : Option Nat :=
  match s.ports.find? (fun q => q.2.enabled && decide (laneOf q.1 0 ≤ lane) && decide (lane < laneOf q.1 (lanesOf q.2.width))) with
  | some q => some q.1
  | none => (s.lane lane).port

/-- What a lane of a port keeps when training starts again (02 R46): its signal, its place, its taps, its counters and its output, and whether it has been
dropped. -/
def restartLane (l : Lane) : Lane :=
  { signal := l.signal, port := l.port, logical := l.sendAs, sendAs := l.sendAs, test := l.test, loopback := l.loopback, tapA := l.tapA, tapB := l.tapB,
    failed := l.failed, standby := l.standby, fill := l.fill, fcountOut := l.fcountOut, line := l.line, looped := l.looped }

/-- What a lane keeps when it serves no port any more: its taps too, which only training changes (02 R40). -/
def idleLane (l : Lane) : Lane :=
  { test := l.test, loopback := l.loopback, tapA := l.tapA, tapB := l.tapB, fill := l.fill, fcountOut := l.fcountOut, line := l.line, looped := l.looped }

/-- Training results of the lanes that serve a port are discarded (02 R46). -/
def restartLanes (p : Nat) (s : State) : State := onLanesOf p restartLane s

/-- The same when the link has gone down: dropped lanes may join again, and the lanes have their own places (03 R79). -/
def clearLanes (p : Nat) (s : State) : State :=
  { s with lanes := s.lanes.each (fun k l =>
      if l.port == some p then
        { restartLane l with failed := false, standby := isSpare k,
                             sendAs := if isSpare k then 0 else k - laneOf p 0, logical := if isSpare k then 0 else k - laneOf p 0 }
      else l) }

/-- A port whose lanes still see signal starts training again at step 1 (03 R81). -/
def resumeTraining (p : Nat) (s : State) : State :=
  if (s.port p).enabled && s.lanes.any (fun l => l.2.port == some p && l.2.signal) then
    s.onPort p (fun q => { q with phase := .training 1, t0 := s.svc.now })
  else s

/-- The lanes no longer serve a port. -/
def releaseLanes (p : Nat) (s : State) : State :=
  onLanesOf p idleLane s

/-! ### Link down (03 R80, R81) -/

def causeLos : Nat := 0
def causePartner : Nat := 1
def causeLocal : Nat := 2
def causeRetry : Nat := 3
def causeXoff : Nat := 4
def causeFraming : Nat := 5
def causeLane : Nat := 6
def causeNarrow : Nat := 7

/-- The link layer of a port that starts afresh: the receive reservation stays while whole packets wait for admission (03 R69). -/
def freshLink (q : Port) : Link := { reserved := if q.rx.isEmpty then [] else q.link.reserved }

/-- The packets that the retry buffer hands back, the one whose flits are still being made among them (03 R69). -/
def handBack (l : Link) : List Packet := l.sentPkts.map Prod.snd ++ l.txPkt.toList

/-- The port after the link has gone down: a partial packet is gone, whole packets stay to be admitted, the retry buffer's packets
are handed back (03 R69). -/
def portAfterDown (cause : Nat) (q : Port) : Port :=
  { q with
    phase := if cause == causeLocal then .disabled else .waiting
    lastDown := some cause
    attempts := 0
    widthNow := q.width
    partner := none
    narrowStep := 0
    partnerMask := none
    spareUsed := false
    pendingSpare := none
    coreDown := true
    flushing := true
    back := q.back ++ handBack q.link
    link := freshLink q
    cnt := { q.cnt with downs := q.cnt.downs.upd cause 0 (· + 1) } }

/-- At a bridge the plane's mask bit is cleared (10 R292), and the node number ends with the last port that is up (10 R289). -/
def bridgeDown (p : Nat) (s : State) : State :=
  if !s.svc.bridge then s
  else
    let s := s.onReq (fun r => { r with mask := r.mask &&& ~~~(BitVec.ofNat 64 (2 ^ p)), cleared := p :: r.cleared.filter (fun i => i != p) })
    if s.ports.any (fun q => q.2.phase == .up || q.2.phase == .narrowing) then s else s.onSvc (fun v => { v with node := none })

/-- The link of a port that is up goes down: a local disable sends 16 DOWN flits first (03 R80); counted and recorded, told to the core and the
collective engine, and posted. -/
def linkDown (p cause channel : Nat) (s : State) : State :=
  let s := if cause == causeLocal then sendCtls p ctDown 0 16 s else s
  let s := clearLanes p (s.onPort p (portAfterDown cause))
  let s := recordErr kPort p 0x01 (if cause == causePartner || cause == causeLocal then 1 else 2)
    [BitVec.ofNat 8 cause, BitVec.ofNat 8 (if cause == causeXoff then channel else 0)] s
  let s := unsolicited 1 0x00000002 (leBytes p 2 ++ [BitVec.ofNat 8 cause, BitVec.ofNat 8 (if cause == causeXoff then channel else 0)]) s
  bridgeDown p (collPortDown p (if cause == causeLocal then s else resumeTraining p s))

/-- Is the link up, narrowing included (03 R78)? -/
def linkUp (q : Port) : Bool := q.phase == .up || q.phase == .narrowing

/-- Both trunk ports are disabled, so the causeway closes (02 R51). -/
def causewayRule (s : State) : State :=
  if !(s.port 512).enabled && !(s.port 528).enabled then s.onSvc (fun v => { v with causewayClosed := true, causewayOpening := false }) else s

/-! ### Commands -/

/-- May a port take a width: x16 a trunk alone, the others an end-point quad at their own positions; a bridge's ports are x1 (01 R22, 10 R307). -/
def widthFits (s : State) (p w : Nat) : Bool :=
  if isTrunk p then w == 3 else decide (w < 3) && p % lanesOf w == 0 && (!s.svc.bridge || w == 0)

/-- A port that the personality lacks (10 R307). -/
def portAbsent (s : State) (p : Nat) : Bool := s.svc.bridge && isPort p && decide (64 ≤ p)

/-- Another enabled port of the quad has another width (01 R22). -/
def quadConflict (s : State) (p w : Nat) : Bool :=
  s.ports.any (fun q => q.2.enabled && q.1 != p && !isTrunk q.1 && q.1 / 4 == p / 4 && q.2.width != w)

/-- The port as PORT_ENABLE leaves it: it waits for signal, under the identity in force now (01 R17); a trunk port starts the opening of a closed
causeway (02 R52). -/
def enablePort (p w : Nat) (bridge : Bool) (s : State) : State :=
  let s := releaseLanes p (s.onPort p (fun q =>
    { q with enabled := true, width := w, widthNow := w, bridge := bridge, phase := .waiting, attempts := 0,
             self := s.svc.node, partner := none }))
  let s := { s with lanes := s.lanes.each (fun k l =>
      if laneOf p 0 ≤ k && k < laneOf p (lanesOf w) then { l with test := { l.test with on := false } } else l) }
  if isTrunk p && s.svc.causewayClosed then s.onSvc (fun v => { v with causewayOpening := true }) else s

/-- The first end-point port enabled after READY or NODE_ASSIGN puts the assigned number into use: every sequence starts at 0 (04 R94). -/
def useNumber (p : Nat) (s : State) : State :=
  if isTrunk p || s.svc.bridge || s.svc.numbered || s.svc.node.isNone then s
  else (s.onSvc (fun v => { v with numbered := true })).onReq (fun r => { r with seqs := [], lastSend := [], single := [], unanswered := [] })

/-- PORT_ENABLE as it runs, at once or from the queue of its function. A module that has sensed its removal, which resumes nothing without a warm reset (15 R434), answers
BUSY (DESIGN CHOICE, log entry 88). -/
def runPortEnable (via : Via) (h : MHdr) (p w : Nat) (bridge : Bool) (s : State) : State :=
  let q := s.port p
  if q.enabled && q.width == w && q.bridge == bridge then finish via h 0x0101 msOk [] s
  else if q.enabled || (!isTrunk p && quadConflict s p w) || s.svc.removedAt.isSome then finish via h 0x0101 msBusy [] s
  else if decide (capW s * 1000 < brakeMw (enabledLanes s + lanesOf w)) then finish via h 0x0101 msBusy [] s
  else
    let s := accept via h (enablePort p w bridge s)
    if isTrunk p && s.svc.causewayClosed then beginTrans (.port p) h 0x0101 s
    else finishEvent h 0x0101 msOk [] (useNumber p s)

/-- The port stops: where its link is up it sends 16 DOWN flits and goes down with LOCAL_DISABLE; otherwise it is simply disabled. -/
def stopPort (p : Nat) (s : State) : State :=
  let q := s.port p
  let s := if linkUp q then linkDown p causeLocal 0 s else s
  causewayRule (releaseLanes p (s.onPort p (fun q => { q with enabled := false, phase := .disabled })))

/-- PORT_DISABLE as it runs: it completes when the flush has. -/
def runPortDisable (via : Via) (h : MHdr) (p : Nat) (s : State) : State :=
  if !(s.port p).enabled then finish via h 0x0102 msOk [] s
  else
    let s := accept via h (stopPort p s)
    if (s.port p).flushing then beginTrans (.port p) h 0x0102 s else finishEvent h 0x0102 msOk [] s

/-- UNIT_RESET of a port as it runs (15 R430): as PORT_DISABLE, then as PORT_ENABLE once the flush is complete. -/
def runPortReset (via : Via) (h : MHdr) (p : Nat) (s : State) : State :=
  let q := s.port p
  if !q.enabled then finish via h 0x0902 msBusy [] s
  else
    let s := beginTrans (.port p) h 0x0902 (accept via h (bumpEpoch (stopPort p s)))
    if (s.port p).flushing then s else enablePort p q.width q.bridge s

/-- A queued command of a port's function runs (13 R385). -/
def runQueuedPort (i : Instr) (s : State) : State :=
  match i with
  | .portEnable h p w b => runPortEnable .event h p w b s
  | .portDisable h p => runPortDisable .event h p s
  | .unitReset h _ p => runPortReset .event h p s
  | _ => s

/-- PORT_ENABLE (13 R388, R477). -/
def execPortEnable (h : MHdr) (port width : Nat) (bridge : Bool) (s : State) : Host.Outcome State Fault Refusal :=
  command (.portEnable h port width bridge) h { boxes := boxF } (fun s => portAbsent s port)
    (fun s => !isPort port || 3 < width || !widthFits s port width)
    (fun s => transition (.port port) (.portEnable h port width bridge) h (runPortEnable .buffer h port width bridge) s) s

/-- PORT_DISABLE (03 R80, 13 R388). -/
def execPortDisable (h : MHdr) (port : Nat) (s : State) : Host.Outcome State Fault Refusal :=
  command (.portDisable h port) h { boxes := boxF } (fun s => portAbsent s port) (fun _ => !isPort port)
    (fun s => transition (.port port) (.portDisable h port) h (runPortDisable .buffer h port) s) s

/-- A port in unit reset after its flush: it is enabled again at its previous width and attributes, and has 100 ms from now to come up (15 R430). -/
def reenable (p : Nat) (s : State) : State :=
  match findTrans (.port p) s.mbx.trans with
  | some t =>
    if t.opcode != 0x0902 then endTrans (.port p) msOk [] runQueuedPort s
    else if (s.port p).enabled then s
    else enablePort p (s.port p).width (s.port p).bridge (restartTrans (.port p) s)
  | none => s

/-- FLUSH_COMPLETE (06 R161): the queues are disposed, DEST_DOWN is sent for each flushed request, and what waited for the flush goes on. -/
def execFlushComplete (port : Nat) (s : State) : Host.Outcome State Fault Refusal :=
  if !isPort port then .fault .noSuchUnit
  else .next (
    if !isReady s || !(s.port port).flushing then s
    else reenable port ((flushPort port s).onPort port (fun q => { q with flushing := false })))

/-- CAUSEWAY_OPEN (02 R52): the causeway of a READY part opens and the trunk enables that waited for it complete. -/
def execCausewayOpen (s : State) : Host.Outcome State Fault Refusal :=
  .next (
    if !isReady s || !s.svc.causewayOpening then s
    else
      let s := s.onSvc (fun v => { v with causewayClosed := false, causewayOpening := false })
      let done := fun (p : Nat) (s : State) =>
        match findTrans (.port p) s.mbx.trans with
        | some t => if t.opcode == 0x0101 then endTrans (.port p) msOk [] runQueuedPort s else s
        | none => s
      done 528 (done 512 s))

/-! ### PORT_STATUS_READ (13 R477) -/

/-- The state code. -/
def phaseCode (q : Port) : Nat :=
  if !q.enabled then 0
  else match q.phase with
    | .disabled => 0
    | .waiting => 1
    | .training _ => 2
    | .up => 3
    | .narrowing => 4
    | .failed => 5

/-- EFOM of a logical lane; 0 for a lane not in the port. -/
def efomOf (s : State) (p k : Nat) : Nat :=
  match s.lanes.find? (fun l => l.2.port == some p && l.2.logical == k && !l.2.standby && !l.2.failed && !l.2.leftOut) with
  | some l => l.2.efom
  | none => 0

/-- Sum of the link-down counts of all causes. -/
def allDowns (c : PortCount) : Nat := c.downs.foldl (fun n d => n + d.2) 0

/-- The 152 B result; its counts come from the snapshot while a confidential tenant exists (14 R404). -/
def portStatus (s : State) (p : Nat) : List Byte :=
  let q := s.port p
  let c := q.cnt
  let z := s.snap.ports.look p {}
  let n := fun (f : PortCount → Nat) => leBytes (coarse s (f c) (f z)) 8
  leBytes (phaseCode q) 1 ++ leBytes (if linkUp q then q.widthNow else 0xFF) 1 ++ leBytes (q.lastDown.getD 0xFF) 1 ++
  leBytes (b2n q.narrowed + 2 * b2n q.spareUsed) 1 ++ leBytes 0 4 ++ (List.range 16).flatMap (fun k => leBytes (efomOf s p k) 2) ++
  n (·.srcMismatch) ++ n (·.vcViolation) ++ n (·.malformed) ++ (List.range 6).flatMap (fun v => n (fun c => c.flush.look v 0)) ++
  n (·.stale) ++ n (·.collStale) ++ n (·.misrouted) ++ n (·.ringUnreachable) ++ n allDowns

def execPortStatusRead (h : MHdr) (port : Nat) (s : State) : Host.Outcome State Fault Refusal :=
  command (.portStatusRead h port) h { boxes := boxF ++ boxH ++ boxB } (fun s => portAbsent s port) (fun _ => !isPort port)
    (fun s => reply h msOk (portStatus s port) s) s

end Sys2Proof.Machine
end

