-- ==== Sys2Proof/Machine/Lanes.lean ====
section
/-! DEFINITION. Serial lanes (02): test patterns and loopbacks (R49, R50), training (R40, R44 to R46), qualification, markers and lock
(R34 to R36), background adaptation and failing lanes (R41 to R43), spares (R47, R48), loss of signal (03 R80), narrowing (03 R77,
R78). A lane sends one training frame for each that it receives (log entry 34). -/

namespace Sys2Proof.Machine

open Sys2Proof

/-! ### Tests and loopbacks -/

/-- Is the port of a lane enabled? -/
def laneBusy (s : State) (lane : Nat) : Bool :=
  match portOfLane s lane with
  | some p => (s.port p).enabled
  | none => false

/-- A test begins: the pattern from its start, the checker not yet synchronized. The counts stay until LANE_TEST_READ clears them: 02 R49 names no other
clear (DESIGN CHOICE, log entry 33). -/
def startTest (pattern : Nat) (afterPrecoder : Bool) (t : LaneTest) : LaneTest :=
  { t with on := true, pattern := pattern, afterPrecoder := afterPrecoder, gen := patternStart pattern, seen := [], run := 0, synced := false }

/-- LANE_TEST_START (02 R49). -/
def execLaneTestStart (h : MHdr) (lane pattern : Nat) (afterPrecoder : Bool) (s : State) : Host.Outcome State Fault Refusal :=
  command (.laneTestStart h lane pattern afterPrecoder) h { boxes := boxF } never (fun _ => !isLane lane || 6 < pattern)
    (fun s =>
      if laneBusy s lane then reply h msBusy [] s
      else reply h msOk [] (s.onLane lane (fun l => { l with test := startTest pattern afterPrecoder l.test }))) s

/-- What reaches the checker: in a near-end loopback the lane's own levels come back, else the line's (02 R50). -/
def reaches (l : Lane) (out levels : List (BitVec 2)) : List (BitVec 2) := if l.loopback == 1 || l.loopback == 2 then out else levels

/-- A running test up to now: the generator has sent as many levels as the receiver has sliced since it was looked at last, and the checker takes these. A
pattern sent before the precoder passes through it, one sent after it does not, and the checker is set alike (02 R31, R49; R50 speaks of the test's precoder
setting; DEDUCED, log entry 33). -/
def runTest (levels : List (BitVec 2)) (l : Lane) : Lane :=
  if !l.test.on then l
  else
    let g := patternRun l.test.pattern (2 * levels.length) l.test.gen
    let out := sendLevels (!l.test.afterPrecoder) l.tx.pre g.1
    let got := reaches l out levels
    let t := checkBits l.test.pattern (receiveBits (!l.test.afterPrecoder) l.test.rxPre got) l.test
    putLine (.pattern out) { l with test := { t with gen := g.2, rxPre := got.getLastD l.test.rxPre }, tx := { l.tx with pre := out.getLastD l.tx.pre } }

/-- LANE_TEST_READ (02 R49): errors and compared bits, cleared where asked. `line` holds the levels received since the last read. -/
def execLaneTestRead (h : MHdr) (lane : Nat) (read : TestRead) (s : State) : Host.Outcome State Fault Refusal :=
  command (.laneTestRead h lane read) h { boxes := boxF } never (fun _ => !isLane lane)
    (fun s =>
      let s := s.onLane lane (fun l => runTest read.line (echoLine (.pattern read.line) l))
      let t := (s.lane lane).test
      let z := s.snap.lanes.look lane (0, 0)
      reply h msOk (pack [.num 8 (coarse s t.errors z.1), .num 8 (coarse s t.compared z.2)])
        (if read.clear then s.onLane lane (fun l => { l with test := { l.test with errors := 0, compared := 0 } }) else s)) s

/-- The port at whose position a lane stands: the one it serves, else the one it lies at (15 R417), and for a spare of no port the first of its tile. -/
def homePort (s : State) (lane : Nat) : Nat := ((portOfLane s lane).or (portAt lane)).getD (lane / 140 * 136)

/-- The port of a lane that trains for a far-end loopback, as its frames show it: in the lane's own step (02 R45, R50). -/
def loopPort (s : State) (lane : Nat) (l : Lane) : Port := { s.port (homePort s lane) with phase := .training l.loopStep }

/-- Such a lane sends a frame, with FAR_LOOP set: it is set in the frames before entry (02 R50). -/
def sendLoopFrame (lane : Nat) (s : State) : State :=
  s.onLane lane (fun l =>
    let x := frameOf (loopPort s lane l) (portSelf s (homePort s lane)) (lane % 140) { l with loopback := 3 }
    { x.2 with loopback := l.loopback, line := l.line ++ [.frame x.1 (l.precodeTx && decide (4 ≤ l.loopStep))] })

/-- A lane is in no loopback, and trains for none. -/
def leaveLoop (lane : Nat) (s : State) : State := s.onLane lane (fun l => { l with loopback := 0, loopStep := 0, loopHdr := none })

/-- A lane begins to train for a far-end loopback, under the LANE number of its position. -/
def armLoop (lane : Nat) (h : MHdr) (s : State) : State :=
  s.onLane lane (fun l => { l with
    loopStep := 1, loopHdr := some h, loopAt := s.svc.now, frames := 0, heard := false, partnerReady := false, sendAs := lane - laneOf (homePort s lane) 0 })

/-- A lane enters a loopback or leaves it (02 R50). One is active at a time. Near-end serial leaves the line idle; near-end parallel sends frames with RX_READY
clear; for far-end the lane begins to train. -/
def enterLoop (lane mode : Nat) (h : MHdr) (s : State) : State :=
  let s := leaveLoop lane s
  if mode == 0 then s.onLane lane (fun l => { l with loopback := 1, line := l.line ++ [.idle] })
  else if mode == 1 then sendFrame (homePort s lane) lane (s.onLane lane (fun l => { l with loopback := 2 }))
  else if mode == 2 then sendLoopFrame lane (armLoop lane h s)
  else s

/-- A command that ends the training of another one makes that one fail. -/
def dropLoop (lane : Nat) (s : State) : State :=
  match (s.lane lane).loopHdr with
  | some g => finishEvent g 0x0106 msFailed (failCause (Config.causeByte 8)) s
  | none => s

/-- LANE_LOOPBACK_SET (02 R50). A far-end loopback needs the lane to train to the end of step 5; where it does not, the command fails and the lane stays out of
loopback. `trained` says whether the lane sees signal to train with; under GO it is open. The command is not compared with the port's state: 02 R50 gives a
procedure with the port disabled and no check (DESIGN CHOICE, log entry 37). -/
def execLaneLoopbackSet (h : MHdr) (lane mode : Nat) (trained : Bool) (s : State) : Host.Outcome State Fault Refusal :=
  command (.laneLoopbackSet h lane mode trained) h { boxes := boxF } never (fun _ => !isLane lane || 3 < mode)
    (fun s =>
      let s := reply h msInProgress [] s
      let s := dropLoop lane s
      if mode == 2 && !trained then
        finishEvent h 0x0106 msFailed (failCause (Config.causeByte 7)) (leaveLoop lane s)
      else if mode == 2 then enterLoop lane mode h s
      else finishEvent h 0x0106 msOk [] (enterLoop lane mode h s)) s

/-- The training of a lane for a far-end loopback has failed (02 R50). -/
def loopFailed (lane : Nat) (s : State) : State := leaveLoop lane (dropLoop lane s)

/-! ### Lanes of a port in training -/

/-- Does every active lane, at least one, meet a condition? -/
def allLanes (s : State) (p : Nat) (f : Lane → Bool) : Bool := !(activeLanes s p).isEmpty && (activeLanes s p).all (fun l => f l.2)

/-- Bounds of the steps from t0, in ns (02 R45). -/
def stepBound (n : Nat) : Nat :=
  1000000 * (if n == 1 then 2 else if n == 2 then 4 else if n == 3 then 70 else if n == 4 then 72 else if n == 5 then 74
    else if n == 6 then 78 else if n == 7 then 90 else 100)

/-- A port stays down with a reason in the error log and an event, until it is enabled again (02 R46, 01 R23). -/
def giveUp (p code sev event : Nat) (detail data : List Byte) (s : State) : State :=
  unsolicited 1 event data (recordErr kPort p code sev detail (releaseLanes p (s.onPort p (fun q => { q with phase := .failed, link := freshLink q, partner := none }))))

/-- Training begins again at step 1: the width asked for, no partner known yet, and a new t0. The lanes see signal already, so t0 is the moment of the
restart (02 R45 gives t0 for signal that is first detected: DESIGN CHOICE, log entry 34). -/
def restartPort (now k : Nat) (q : Port) : Port :=
  { q with attempts := k, phase := .training 1, t0 := now, stepAt := now, link := freshLink q, widthNow := q.width, partner := none, pendingSpare := none }

/-- Every lane of a port that sees signal sends a frame. -/
def sendFrames (p : Nat) (s : State) : State :=
  (s.lanes.filter (fun l => l.2.port == some p && l.2.signal && !l.2.failed)).foldl (fun s l => sendFrame p l.1 s) s

/-- An attempt fails at a step: both ends restart at step 1; the third failure ends training (02 R46). The frames of the end that found the failure (`own`) say
RESTART, those of the other end are frames again too. -/
def failAttempt (p n : Nat) (own : Bool) (s : State) : State :=
  let k := (s.port p).attempts + 1
  if 3 ≤ k then
    giveUp p 0x02 2 0x00000004 [BitVec.ofNat 8 n] (leBytes p 2 ++ [BitVec.ofNat 8 n]) (s.onPort p (fun q => { q with attempts := k }))
  else
    sendFrames p (onLanesOf p (fun l => { restartLane l with restartDue := own }) (s.onPort p (restartPort s.svc.now k)))

/-- The next step begins: what was heard in the step before is forgotten; step 3 sets both transmitters to INIT and starts the search, step 4 waits for
precoded frames (02 R45). -/
def stepLane (n : Nat) (l : Lane) : Lane :=
  let l := { l with partnerReady := false, heard := false }
  if n == 3 then { l with tapA := 4, tapB := 12, bestEfom := 0, noRise := 0, wish := (0, 0), wishOld := none, undo := none, lastStep := none }
  else if n == 4 then { l with frames := 0 }
  else l

def enterStep (p n : Nat) (s : State) : State :=
  let s := (onLanesOf p (stepLane n) s).onPort p (fun q => { q with phase := .training n, stepAt := s.svc.now })
  if n == 6 then sendDue p (startData p s) else s

/-- The lowest group of `w` consecutive logical lanes that a mask holds good (03 R77). -/
def groupStart (mask w : Nat) : Option Nat := (List.range (17 - w)).find? (fun a => (List.range w).all (fun k => bitOf mask (a + k)))

/-- The widest width code below a given one, or at it, that a mask can carry, with the first lane. -/
def fitWidth (mask : Nat) : Nat → Option (Nat × Nat)
  | 0 => (groupStart mask 1).map (fun a => (0, a))
  | c + 1 => match groupStart mask (lanesOf (c + 1)) with
    | some a => some (c + 1, a)
    | none => fitWidth mask c

/-- The mask of logical lanes that a port holds good. -/
def goodLanes (s : State) (p : Nat) : Nat := (activeLanes s p).foldl (fun m l => m ||| 2 ^ l.2.logical) 0

/-- The port runs at a width on the lanes from one upward; the lanes outside it are left out. -/
def useLanes (p code first : Nat) (s : State) : State :=
  let s := { s with lanes := s.lanes.each (fun _ l =>
    if inUse p l && (decide (l.logical < first) || decide (first + lanesOf code ≤ l.logical)) then { l with leftOut := true } else l) }
  s.onPort p (fun q => { q with widthNow := code })

/-- The port goes on at a step with the lanes that are left, as wide as they allow; with none the attempt fails. -/
def goOn (p n : Nat) (s : State) : State :=
  match fitWidth (goodLanes s p) (s.port p).widthNow with
  | some (c, a) => enterStep p n (useLanes p c a s)
  | none => failAttempt p (n - 1) true s

/-! ### Deskew (02 R36) -/

/-- The moment at which count 0 of a lane would have arrived, within the period of the count: lanes without skew agree on it. -/
def skewKey (unit period at_ count : Nat) : Nat := (at_ % (unit * period) + unit * period - unit * count % (unit * period)) % (unit * period)

/-- The second of two such moments is the later one by at most 4,096 UI, 60.2 ns (02 R36). -/
def withinSkew (m a b : Nat) : Bool := decide ((b + m - a) % m ≤ 60)

/-- The key of a lane: by FCOUNT in step 5, frames following one another every 40 ns; by COUNT in data mode, markers every 327.68 us (02 R27, R36, R45). -/
def laneSkew (marks : Bool) (l : Lane) : Nat :=
  if marks then skewKey 327680 65536 l.markerAt l.markerCount.toNat else skewKey 40 32768 l.frameAt l.fcount

/-- The earliest lane of those that join: the one within whose 60 ns most lanes in use lie, the lowest such. -/
def skewFirst (m : Nat) (keys : List Nat) : Option Nat :=
  let near := fun a => (keys.filter (withinSkew m a)).length
  keys.find? (fun a => keys.all (fun b => decide (near b ≤ near a)))

/-- Lanes skewed beyond what the receiver absorbs are left out, the standby spare among them, so that no two lanes that join are more than 4,096 UI apart. 02
R36 names no reference: the most lanes that lie within one such interval stay (DESIGN CHOICE, log entry 34). -/
def dropSkewed (p : Nat) (marks : Bool) (s : State) : State :=
  let m := if marks then 327680 * 65536 else 40 * 32768
  match skewFirst m ((activeLanes s p).map (fun l => laneSkew marks l.2)) with
  | none => s
  | some a => { s with lanes := s.lanes.each (fun _ l => if sends p l && !withinSkew m a (laneSkew marks l) then { l with leftOut := true } else l) }

/-- A spare cabled to another partner than its port's stays untrained and records SPARE_MISMATCH (02 R47). -/
def spareMismatch (lane : Nat) (s : State) : State := recordErr kLane lane 0x11 1 [] (s.onLane lane (fun l => { idleLane l with signal := true }))

/-- When the spares enter standby (02 R45 step 5), one whose partner is another than the port's is a mismatch, and one that has heard no frame is left out. -/
def judgeSpares (p : Nat) (s : State) : State :=
  (s.lanes.filter (fun l => sends p l.2 && l.2.standby)).foldl (fun s l =>
    match l.2.farNode with
    | some n => if (s.port p).partner == some n then s else spareMismatch l.1 s
    | none => s.onLane l.1 (fun l => { l with leftOut := true })) s

/-! ### From step to step -/

/-- A lane of the port's own positions has frame lock and its partner is ready, or it is out of service (02 R45 step 1). -/
def locksAt (s : State) (p k : Nat) : Bool :=
  let l := s.lane (laneOf p k)
  (l.port == some p && l.failed) || (l.port == some p && l.signal && decide (3 ≤ l.frames) && l.partnerReady)

/-- Every lane of the width that PORT_ENABLE gave is locked. -/
def allLocked (s : State) (p : Nat) : Bool := (List.range (lanesOf (s.port p).width)).all (locksAt s p)

/-- Both ends have finished a step of frames on every lane. -/
def bothDone (s : State) (p n : Nat) : Bool := allLanes s p (fun l => stepDone n l && l.partnerReady)

/-- Once every active lane has finished the step, the port goes on (02 R45). The lanes of a narrowing port run steps 5 and 6 again (03 R78). -/
def advance (p : Nat) (s : State) : State :=
  match (s.port p).phase with
  | .training 1 => if allLocked s p then goOn p 2 s else s
  | .training 2 => if bothDone s p 2 then enterStep p 3 s else s
  | .training 3 => if bothDone s p 3 then enterStep p 4 s else s
  | .training 4 => if bothDone s p 4 then enterStep p 5 s else s
  | .training 5 => if bothDone s p 5 then goOn p 6 (judgeSpares p (dropSkewed p false s)) else s
  | .training 6 => if allLanes s p (fun l => l.locked) then goOn p 7 (dropSkewed p true s) else s
  | .narrowing =>
    if (s.port p).narrowStep == 5 && bothDone s p 5 then
      (let t := dropSkewed p false s
       if (activeLanes t p).length < lanesOf (s.port p).widthNow then linkDown p causeNarrow 0 t
       else sendDue p (startData p (t.onPort p (fun q => { q with narrowStep := 6, stepAt := s.svc.now }))))
    else if (s.port p).narrowStep == 6 && allLanes s p (fun l => l.locked) then s.onPort p (fun q => { q with narrowStep := 7, stepAt := s.svc.now })
    else s
  | _ => s

/-! ### Signal detect -/

/-- May a spare lane stand in for a port (02 R47): same tile, x2, x4 or trunk; in T3 spares 136 and 137 are the trunks' own. -/
def spareFits (s : State) (p lane : Nat) : Bool :=
  let n := lane % 140
  isSpare lane && lane / 140 == p / 136 && decide (0 < (s.port p).width) &&
  (if p == 512 then n == 136 else if p == 528 then n == 137 else p / 136 != 3 || decide (138 ≤ n)) &&
  !s.lanes.any (fun l => isSpare l.1 && l.1 != lane && l.2.port == some p)

/-- The part may train this port: READY and not about to be removed (15 R434), enabled, numbered where it is a plane, and not isolated by the causeway (01 R17, 02 R51). -/
def mayTrain (s : State) (p : Nat) : Bool :=
  let q := s.port p
  isReady s && s.svc.removedAt.isNone && q.enabled && (s.svc.bridge || q.self.isSome) && !(isTrunk p && s.svc.causewayClosed)

/-- Training begins with the first lane that sees signal. -/
def startTraining (p : Nat) (s : State) : State :=
  if (s.port p).phase == .waiting then s.onPort p (fun q => { q with phase := .training 1, t0 := s.svc.now, stepAt := s.svc.now }) else s

/-- The port still gathers its lanes. -/
def gathers (q : Port) : Bool :=
  match q.phase with
  | .waiting => true
  | .training 1 => true
  | _ => false

/-- A lane that sees signal joins a port at its position; after step 1 it is left out of the attempt in progress (02 R45). Its test ends, for the port is
enabled (02 R49). -/
def joinLane (p place : Nat) (late : Bool) (l : Lane) : Lane :=
  { idleLane l with test := { l.test with on := false }, signal := true, port := some p, logical := place, sendAs := place, leftOut := late }

/-- SIGNAL_DETECT (02 R45, R47). 02 R45 starts t0 with the signal on any lane of the port, and does not say whether a spare is one of them: the model joins a spare in
standby and leaves a port that waits waiting, until a lane of its own positions sees signal (DESIGN CHOICE, log entry 35). A spare that may not stand in for the port stays untrained and records SPARE_MISMATCH. 02 R47 names that record for a spare
cabled to an x1 port or to a foreign partner; the model makes it for a second spare of the port, for a spare of another tile and for one that T3 reserves to
another port as well (DESIGN CHOICE, log entry 35). -/
def execSignalDetect (port lane : Nat) (s : State) : Host.Outcome State Fault Refusal :=
  if !isPort port || !isLane lane then .fault .noSuchUnit
  else .next (
    let q := s.port port
    if !mayTrain s port then s
    else
      match q.phase with
      | .waiting | .training _ =>
        if laneOf port 0 ≤ lane && lane < laneOf port (lanesOf q.width) && !isSpare lane then
          let l := s.lane lane
          if l.signal && l.port == some port then s
          else if l.failed && l.port == some port then s.onLane lane (fun l => { l with signal := true })
          else sendFrame port lane (startTraining port (s.onLane lane (joinLane port (lane - laneOf port 0) (!gathers q))))
        else if isSpare lane then
          if spareFits s port lane then sendFrame port lane (s.onLane lane (fun l => { joinLane port 0 (!gathers q) l with standby := true }))
          else recordErr kLane lane 0x11 1 [] (s.onLane lane (fun l => { l with signal := true }))
        else s
      | _ => s)

/-! ### Tap requests of the partner (02 R40, R44) -/

/-- The tap a request asks for: (magnitude, answer) with the answers 0 none, 1 UPDATED, 2 AT_LIMIT, 3 NOT_ALLOWED. -/
def tapWanted (req tap limit init : Nat) : Nat × Nat :=
  if req == 0 then (tap, 0)
  else if req == 1 then (if tap < limit then (tap + 1, 1) else (tap, 2))
  else if req == 2 then (if 0 < tap then (tap - 1, 1) else (tap, 2))
  else if req == 3 then (0, 1)
  else if req == 4 then (init, 1)
  else (tap, 3)

/-- A tap that would have changed is not allowed to. -/
def refuseTap (ans : Nat) : Nat := if ans == 1 then 3 else ans

/-- Apply a request where the result satisfies 02 R38. -/
def applyTaps (pre post : Nat) (l : Lane) : Lane :=
  let a := tapWanted pre l.tapA 16 4
  let b := tapWanted post l.tapB 24 12
  if a.1 + b.1 ≤ 24 then { l with tapA := a.1, tapB := b.1, ansA := a.2, ansB := b.2 }
  else { l with ansA := refuseTap a.2, ansB := refuseTap b.2 }

/-- Take the request of a frame: it is answered with the next frame; one that changes before its answer is refused for both taps. A request that stands on
unchanged after its answer is not applied again, until it has changed: 02 R40 does not say (DESIGN CHOICE, log entry 34). -/
def takeRequest (pre post : Nat) (l : Lane) : Lane :=
  match l.reqDue with
  | some r =>
    if r == (pre, post) then { applyTaps pre post l with reqDue := none, reqSeen := some (pre, post) }
    else { l with ansA := 3, ansB := 3, reqDue := none, reqSeen := some (pre, post) }
  | none =>
    if l.reqSeen == some (pre, post) then l
    else if pre == 0 && post == 0 then { l with reqSeen := some (0, 0), ansA := 0, ansB := 0 }
    else { l with reqDue := some (pre, post), ansA := 0, ansB := 0 }

/-! ### This receiver's own adaptation (02 R40 to R42) -/

/-- One setting moves by one step. -/
def moveSetting (k : Nat) (up : Bool) (l : Lane) : Lane :=
  { l with settings := l.settings.upd k 0 (fun v => if up then v + 1 else v - 1) }

/-- One trial of a setting: a step that lowered EFOM is undone, else the receiver tries its next step (02 R42). -/
def adaptStep (e setting : Nat) (up : Bool) (l : Lane) : Lane :=
  match l.lastStep with
  | some (k, u, old) =>
    if e < old then { moveSetting k (!u) l with lastStep := none } else { moveSetting setting up l with lastStep := some (setting, up, e) }
  | none => { moveSetting setting up l with lastStep := some (setting, up, e) }

/-- The request that takes back an UPDATED increment or decrement; a preset is not taken back. -/
def undoReq (req ans : Nat) : Nat := if ans == 1 then (if req == 1 then 2 else if req == 2 then 1 else 0) else 0

/-- A request starts: it stands unchanged in the frames sent until its answer has been seen (02 R40). -/
def ask (pre post e : Nat) (l : Lane) : Lane := { l with wish := (pre, post), wishOld := some e }

/-- Both parts of a request have their answer. -/
def answered (w : Nat × Nat) (ansA ansB : Nat) : Bool := (w.1 == 0 || ansA != 0) && (w.2 == 0 || ansB != 0)

/-- The answer to the request has come with EFOM `e`: it counts as risen or not, and one that lowered EFOM is taken back (02 R42, R45 step 3). -/
def judgeAnswer (ansA ansB e old : Nat) (l : Lane) : Lane :=
  let back := (undoReq l.wish.1 ansA, undoReq l.wish.2 ansB)
  { l with
    wish := (0, 0), wishOld := none
    bestEfom := max l.bestEfom e
    noRise := if l.bestEfom < e then 0 else l.noRise + 1
    undo := if e < old && l.undo.isNone && back != (0, 0) then some back else none }

/-- The last step of a setting before the search ends: it is undone where it lowered EFOM. -/
def endTrial (e : Nat) (l : Lane) : Lane :=
  match l.lastStep with
  | some (k, u, old) => if e < old then { moveSetting k (!u) l with lastStep := none } else { l with lastStep := none }
  | none => l

/-- One frame of the search for the settings and taps that maximize EFOM (02 R42, R45 step 3): wait for the answer; then hold until the answers have gone;
then take back what lowered EFOM, or try the next request, or the next setting. The search ends when EFOM has not risen in 8 consecutive requests and nothing is
left to be taken back. -/
def tune (r : RxView) (ansA ansB : Nat) (l0 : Lane) : Lane :=
  let e := min r.efom 0xFFFF
  let l := { l0 with efom := e, precodeRx := r.precode }
  match l.wishOld with
  | some old => if answered l.wish ansA ansB then judgeAnswer ansA ansB e old l else l
  | none =>
    if ansA != 0 || ansB != 0 then l
    else match l.undo with
      | some (a, b) => ask a b e l
      | none =>
        if 8 ≤ l.noRise then endTrial e l
        else if r.pre != 0 || r.post != 0 then ask r.pre r.post e l
        else adaptStep e r.setting r.up l

/-! ### Node numbers -/

/-- The pairs of the ring membership, in order; the own pair alone until it is set (12 R355). -/
def ringPairs (s : State) : List Nat :=
  match s.svc.ring with
  | some m => (List.range 8).filter (fun k => m.getLsbD k)
  | none => [nodePair (selfNode s)]

/-- Hops from pair a to pair b toward the east (or the west) among the members (12 R356). -/
def ringDist (s : State) (east : Bool) (a b : Nat) : Option Nat :=
  let l := ringPairs s
  match l.findIdx? (· == a), l.findIdx? (· == b) with
  | some i, some j => some (if east then (j + l.length - i) % l.length else (i + l.length - j) % l.length)
  | _, _ => none

/-- The neighbour check of 01 R23 and 02 R53: same infrastructure index, and the first, second or third next pair in ring order. -/
def neighbourOk (s : State) (p : Nat) (n : Node) : Bool :=
  let me := portSelf s p
  nodeInfra n && nodeIndex n == nodeIndex me && nodePair n != nodePair me &&
  (match ringDist s (p == 512) (nodePair me) (nodePair n) with
   | some d => decide (1 ≤ d) && decide (d ≤ 3)
   | none => false)

/-- The node-number check of a frame: the neighbour on a trunk, the plane of the port on a bridge (01 R23, 10 R307). -/
def frameNodeOk (s : State) (p : Nat) (n : Node) : Bool :=
  if isTrunk p then neighbourOk s p n
  else if s.svc.bridge then nodeInfra n && nodeIndex n == p && (s.svc.node.isNone || nodePair n == nodePair (selfNode s))
  else true

/-- Step 2 learns the partner's number and width: where the widths differ, the port trains at the narrower on its lowest lanes (02 R45, 03 R480). -/
def learnPartner (p : Nat) (f : BitVec 256) (s : State) : State :=
  let n : Node := BitVec.ofNat 13 (fld f 80 13)
  let w := min (s.port p).widthNow (fld f 105 3)
  let s := s.onPort p (fun q => { q with partner := some n })
  if w < (s.port p).widthNow then
    (match fitWidth (goodLanes s p) w with
     | some (c, a) => useLanes p c a s
     | none => s)
  else s

/-! ### Training frames (02 R44, R45) -/

/-- Is this step n of training? -/
def atStep (q : Port) (n : Nat) : Bool := q.phase == .training n

/-- What every valid frame of a step tells a lane (02 R44). The logical order of the receive lanes is that of LANE (02 R36). -/
def hear (now n : Nat) (f : BitVec 256) (l : Lane) : Lane :=
  { l with
    frames := min 3 (l.frames + 1)
    frameAt := now
    fcount := fld f 109 15
    heard := true
    partnerReady := l.partnerReady || f.getLsbD 74
    farLoop := f.getLsbD 75
    farNode := some (BitVec.ofNat 13 (fld f 80 13))
    farPhys := if 2 ≤ n then some (fld f 97 8) else l.farPhys
    farStandby := if 2 ≤ n then f.getLsbD 108 else l.farStandby
    logical := if n == 5 && !l.standby then fld f 93 4 else l.logical
    precodeTx := if n == 3 || n == 4 then f.getLsbD 72 else l.precodeTx }

/-- A frame in step 3 also carries the partner's tap request and the answers to this end's own. -/
def hearStep (now n : Nat) (f : BitVec 256) (r : RxView) (l : Lane) : Lane :=
  let l := hear now n f l
  if n == 3 then tune r (fld f 76 2) (fld f 78 2) (takeRequest (fld f 64 4) (fld f 68 4) l) else l

/-- The partner's spare has taken a number in training, for a lane that failed qualification (02 R46): this end's does too, and the lane that had it is
dropped. -/
def followInTraining (p lane k : Nat) (s : State) : State :=
  let n := sendNumber s p k
  let s := { s with lanes := s.lanes.each (fun x l => if l.port == some p && x != lane && !l.standby && l.logical == k then { l with failed := true } else l) }
  (s.onLane lane (fun l => { l with standby := false, logical := k, sendAs := n })).onPort p (fun q => { q with spareUsed := true })

/-- A valid frame in a step that frames run. The number on a spare is compared with that of its port, and no more (02 R47). -/
def takeFrame (port lane n : Nat) (f : BitVec 256) (r : RxView) (s : State) : State :=
  let l := s.lane lane
  let q := s.port port
  let node : Node := BitVec.ofNat 13 (fld f 80 13)
  if l.standby && q.partner.isSome && q.partner != some node then spareMismatch lane s
  else if n == 2 && !l.standby && !frameNodeOk s port node then
    (if isTrunk port then giveUp port 0x04 3 0x00000005 (leBytes node.toNat 2) (leBytes port 2 ++ leBytes node.toNat 2) s
     else failAttempt port 2 true s)
  else
    let s := s.onLane lane (hearStep s.svc.now n f r)
    let s := if n == 2 && !l.standby then learnPartner port f s else s
    let s := if 2 ≤ n && l.standby && !f.getLsbD 108 then followInTraining port lane (fld f 93 4) s else s
    advance port (sendFrame port lane s)

/-- A frame for a lane that trains alone, before a far-end loopback: it goes through steps 1 to 5 as a lane of a port does; at the end of step 5 it enters the
loopback, and the command completes (02 R45, R50). -/
def takeLoopFrame (lane : Nat) (f : BitVec 256) (r : RxView) (s : State) : State :=
  let n := (s.lane lane).loopStep
  let s := s.onLane lane (hearStep s.svc.now n f r)
  let l := s.lane lane
  if stepDone n l && l.partnerReady then
    (if n < 5 then sendLoopFrame lane (s.onLane lane (fun l => { stepLane (n + 1) l with loopStep := n + 1 }))
     else
      let t := s.onLane lane (fun l => { l with loopback := 3, loopStep := 0, loopHdr := none })
      match l.loopHdr with
      | some h => finishEvent h 0x0106 msOk [] t
      | none => t)
  else sendLoopFrame lane s

/-- The frame reaches the lane's receiver: not what the line brings while a near-end serial loopback returns the lane's own frames (02 R50). -/
def frameReaches (l : Lane) (frame : BitVec 5440) : Bool :=
  l.loopback != 1 || l.looped.any (fun x => match x with | .frame b _ => b == frame | _ => false)

/-- TRAINING_FRAME (02 R44): a frame of 5,440 bits received on a lane, with what this end's receiver finds meanwhile. A frame with RESTART set restarts an
attempt that has left step 1; in step 1 nothing is there to restart (DESIGN CHOICE, log entry 34). -/
def execTrainingFrame (port lane : Nat) (frame : BitVec 5440) (rx : RxView) (s : State) : Host.Outcome State Fault Refusal :=
  if !isPort port || !isLane lane then .fault .noSuchUnit
  else .next (
    let q := s.port port
    let l := s.lane lane
    let f : BitVec 256 := frame.setWidth 256
    let n := frameStep q
    if l.loopback == 3 then s.onLane lane (echoLine (.frame frame false))
    else if l.loopStep != 0 then
      (if port != homePort s lane then s
       else if frameValid f then takeLoopFrame lane f rx s
       else s.onLane lane (fun l => { l with frames := 0 }))
    else if n == 0 || l.port != some port || l.failed || !frameReaches l frame then s
    else if !frameValid f then (if n ≤ 5 then s.onLane lane (fun l => { l with frames := 0 }) else s)
    else if f.getLsbD 73 && 2 ≤ n && q.phase == .training n then failAttempt port n false s
    else if n ≤ 5 && !l.leftOut then takeFrame port lane n f rx s
    else s)

/-- Lanes without frame lock at the bound of step 1 are left out of the port (02 R45). -/
def leaveOut (p : Nat) (s : State) : State :=
  { s with lanes := s.lanes.each (fun _ l => if l.port == some p && l.frames < 3 then { l with leftOut := true } else l) }

/-- The bound of a step has passed: the lanes that are not locked at that of step 1 are left out, and the port goes on where both ends are ready with the
others; any other step fails (02 R45, R46). -/
def boundPassed (p n : Nat) (s : State) : State :=
  if n == 1 then
    let t := leaveOut p s
    if bothDone t p 1 then goOn p 2 t else failAttempt p 1 true s
  else failAttempt p n true s

/-- The lanes at a port's position whose training for a far-end loopback has passed the bound of its step fail (02 R45, R50). -/
def loopsExpire (port : Nat) (s : State) : State :=
  (s.lanes.filter (fun l => l.2.loopStep != 0 && homePort s l.1 == port && decide (l.2.loopAt + stepBound l.2.loopStep ≤ s.svc.now))).foldl
    (fun s l => loopFailed l.1 s) s

/-- TRAINING_BOUND_EXPIRY (02 R45, R46), and the 16 ms that a narrowing port has (03 R78). -/
def execTrainingBoundExpiry (port : Nat) (s : State) : Host.Outcome State Fault Refusal :=
  if !isPort port then .fault .noSuchUnit
  else .next (
    let q := s.port port
    match q.phase with
    | .training n => if s.svc.now < q.t0 + stepBound n then s else boundPassed port n s
    | .narrowing => if s.svc.now < q.narrowAt + 16000000 then s else linkDown port causeNarrow 0 s
    | _ => loopsExpire port s)

/-! ### Spares, failing lanes and narrowing -/

/-- The new lanes of a narrowing port: the intersection of the two masks, narrower than before (03 R77, R78). None where no lane is left. -/
def narrowTo (q : Port) : Option (Nat × Nat) :=
  match q.partnerMask with
  | some m => if q.widthNow == 0 then none else fitWidth (q.goodMask.toNat &&& m.toNat) (q.widthNow - 1)
  | none => none

/-- A lane that runs steps 5 to 7 again. -/
def rerunLane (l : Lane) : Lane :=
  { l with frames := 0, heard := false, partnerReady := false, locked := false, goodMarkers := 0, badMarkers := 0 }

/-- With both masks known the port takes its new lanes, which run steps 5 to 7 again; with no lane in common it fails (03 R78). -/
def narrowGo (p : Nat) (s : State) : State :=
  if (s.port p).partnerMask.isNone then s
  else match narrowTo (s.port p) with
    | some (c, a) => onLanesOf p rerunLane ((useLanes p c a s).onPort p (fun q => { q with narrowStep := 5 }))
    | none => linkDown p causeNarrow 0 s

/-- An end that finds a failure, or hears of one, narrows with the lanes it holds good: it sends its mask in WIDTH_CHANGE flits (03 R78). A failure on lanes that
run their steps again starts another exchange of masks. -/
def startNarrowing (p : Nat) (s : State) : State :=
  let m := goodLanes s p
  let s := s.onPort p (fun q => { q with
    phase := .narrowing
    narrowStep := 0
    narrowAt := if q.phase == .narrowing then q.narrowAt else s.svc.now
    partnerMask := if q.phase == .narrowing && q.narrowStep != 0 then none else q.partnerMask
    goodMask := BitVec.ofNat 16 m })
  narrowGo p (sendWide p ctWidth m s)

/-- A lane of a port that is up goes out of service: a spare where there is one, else a narrower port, and x1 goes down (02 R43, R48, 03 R77). Where a spare is
about to stand in, its own failure leaves the lane it was to replace without one, and a second failed lane narrows the port beside it. -/
def laneOut (p lane : Nat) (s : State) : State :=
  let k := (s.lane lane).logical
  let was := (s.lane lane).standby
  let waits := (s.port p).pendingSpare.isSome
  let s := s.onLane lane (fun l => { l with failed := true, standby := false, locked := false })
  let q := s.port p
  if was && !waits then s
  else if q.phase == .narrowing then
    (if goodLanes s p == 0 then linkDown p causeLane 0 s else startNarrowing p s)
  else if q.phase == .up then
    if (standbyOf s p).isSome && !waits then s.onPort p (fun q => { q with pendingSpare := some k })
    else
      let s := (substitute p (q.pendingSpare.getD k) s).onPort p (fun q => { q with pendingSpare := none })
      if q.widthNow == 0 then linkDown p causeLane 0 s else startNarrowing p s
  else s

/-- A lane fails qualification, or the 10 ms of a rerun: BER before FEC above 10^-5, EFOM below 24 or an uncorrectable codeword (02 R45 step 7). -/
def qualBad (r : QualRes) : Bool := decide (r.bits < 100000 * r.errors) || decide (r.efom < 24) || r.lost

/-- The logical lanes that fail, as a mask; bit 16 stands for the standby spare. A lane that has lost marker lock fails too (02 R35), and so does one that no
result speaks of, for every lane has to pass (02 R45). -/
def qualMask (s : State) (p : Nat) (res : List QualRes) : Nat :=
  let has := fun (k : Nat) => res.any (fun r => r.lane == k)
  let m := (activeLanes s p).foldl (fun m l => if l.2.locked && has l.2.logical then m else m ||| 2 ^ l.2.logical)
    (res.foldl (fun m r => if qualBad r then m ||| 2 ^ r.lane else m) 0)
  if (spareOf s p).isSome && !has 16 then m ||| 2 ^ 16 else m

/-- Qualification has passed: step 8 begins with this end's INIT (03 R75 step 1). A bridge without a number sends its INIT when it has taken one. -/
def initNumber (s : State) (p : Nat) : Node :=
  if isTrunk p || s.svc.bridge then portSelf s p else mkNode (nodePair (portSelf s p)) false p

/-- The channels as INIT announces them, in the XOFF bit order (03 R75). -/
def channelMask (p : Nat) : Nat := if isTrunk p then 0x3C else 0x3F

/-- This end's INIT: node number, channels, and the marker after which its data flits begin (03 R75). -/
def sendInit (p : Nat) (s : State) : State :=
  sendCtl p ctInit ((initNumber s p).toNat + channelMask p * 2 ^ 13 + (s.port p).link.startOwn.toNat * 2 ^ 19) s

/-- COUNT of the marker behind which this end's data flits begin: the next one, whose codeword comes within the 330 us of 03 R75, or the one after it where the
next block is a marker (the choice is the sender's, 03 R75). -/
def nextStart (s : State) (p : Nat) : BitVec 16 :=
  match activeLanes s p with
  | l :: _ => if toMarker l.2.tx == 0 then l.2.tx.count + 1 else l.2.tx.count
  | [] => 1

/-- The port enters link initialization. 03 R75 has each end send INIT control flits and gives no number of them: the model sends one on entering step 8, and none
again (DESIGN CHOICE, log entry 38). -/
def startInit (p : Nat) (s : State) : State :=
  let mask := goodLanes s p
  let s := (enterStep p 8 s).onPort p (fun q => { q with link := { freshLink q with startOwn := nextStart s p }, goodMask := BitVec.ofNat 16 mask })
  if s.svc.bridge && s.svc.node.isNone then s else sendInit p s

/-- Lanes that failed qualification leave the port; the spare stands in for the lowest of them where it is trained and has not failed itself (02 R46). -/
def qualDrop (p failing : Nat) (s : State) : State :=
  let k := (List.range 16).find? (fun i => bitOf failing i) |>.getD 0
  let spare := (standbyOf s p).isSome && !bitOf failing 16
  let t := { s with lanes := s.lanes.each (fun _ l =>
    if (inUse p l && bitOf failing l.logical) || (l.port == some p && l.standby && bitOf failing 16) then { l with failed := true } else l) }
  if spare && failing % 2 ^ 16 != 0 then substitute p k t else t

/-- QUALIFICATION_END (02 R45 step 7, R46): the results of the 10 ms, which have passed since the step began. -/
def execQualificationEnd (port : Nat) (res : List QualRes) (s : State) : Host.Outcome State Fault Refusal :=
  if !isPort port then .fault .noSuchUnit
  else .next (
    if !atStep (s.port port) 7 || s.svc.now < (s.port port).stepAt + 10000000 then s
    else
      let s := sendDue port s
      let failing := qualMask s port res
      if failing % 2 ^ 16 == 0 then startInit port (qualDrop port failing s)
      else failAttempt port 7 true (qualDrop port failing s))

/-- SPARE_SUBSTITUTION (02 R48): a marker is the next block of the spare, and the spare takes the failed lane's number with it. Where the marker boundary comes
within a flit, the switch takes place there (`feedLanes`), and this row finds nothing left to do. -/
def execSpareSubstitution (port : Nat) (s : State) : Host.Outcome State Fault Refusal :=
  if !isPort port then .fault .noSuchUnit
  else .next (
    match (s.port port).pendingSpare, standbyOf s port with
    | some k, some x => if toMarker (s.lane x).tx == 0 then substitute port k s else s
    | _, _ => s)

/-! ### Markers and lock (02 R34 to R36) -/

/-- A lane loses marker lock: reported down to the link layer at once. One that is out of service already is no loss to the port. In step 8 the loss fails the
attempt; in step 7 the lane fails its qualification. -/
def loseLock (lane : Nat) (s : State) : State :=
  let l := s.lane lane
  let s := s.onLane lane (fun l => { l with locked := false, goodMarkers := 0, badMarkers := 0, places := [] })
  match l.port with
  | some p =>
    if linkUp (s.port p) && sends p l then laneOut p lane s
    else if atStep (s.port p) 8 && inUse p l then failAttempt p 8 true s
    else s
  | none => s

/-- The count of a place at which a valid marker stands: one more where the last one there came one period before. -/
def placeCount (now pos : Nat) (l : Lane) : Nat :=
  match l.places.find pos with
  | some (n, t) => if now ≤ t + 491520 then n + 1 else 1
  | none => 1

/-- A valid marker: the third in a row at its place gives lock, whatever stands elsewhere. SEED loads the receive scrambler and is never 0, so that a 0 is not taken;
LANE gives the lane its place before the port is up. -/
def goodMarker (now pos : Nat) (payload : BitVec 256) (l : Lane) : Lane :=
  let n := placeCount now pos l
  let seed := BitVec.ofNat 31 (fld payload 80 31)
  { l with
    goodMarkers := if l.locked then 3 else min 3 n
    badMarkers := 0
    locked := l.locked || decide (3 ≤ n)
    places := if l.locked || 3 ≤ n then [] else l.places.put pos (n, now)
    markPos := pos
    markerAt := now
    scrambler := if seed == 0 then l.scrambler else seed
    markerCount := BitVec.ofNat 16 (fld payload 112 16) }

/-- The lane that a number has fails, and the lane named takes the number in its receive direction at once. -/
def relocate (p lane k : Nat) (s : State) : State :=
  { s with lanes := s.lanes.each (fun x l => if x != lane && inUse p l && l.logical == k then { l with failed := true, locked := false } else l) }

/-- The partner's spare has taken the number of a failed lane: this end's takes it at its own next marker boundary (02 R48). Where this end waits with its spare
for another lane, two lanes have failed, and the port narrows without that one. -/
def followSpare (p lane k : Nat) (s : State) : State :=
  if !(s.lane lane).standby || (s.port p).phase != .up || standbyOf s p != some lane then s
  else
    match (s.port p).pendingSpare with
    | none => (relocate p lane k s).onPort p (fun q => { q with pendingSpare := some k })
    | some j =>
      if j == k then s
      else
        let s := substitute p k (relocate p lane k s)
        if (s.port p).widthNow == 0 then linkDown p causeLane 0 s else startNarrowing p s

/-- ALIGNMENT_MARKER (02 R34 to R36): the block found at a bit position of the period. A block at another position than that of a lane in lock is data that
looks like a marker. The fourth period in a row without a valid marker loses the lock. The lanes send what is due meanwhile, and one in far-end loopback sends the
block again. -/
def execAlignmentMarker (lane : Nat) (block : BlockHead) (payload : BitVec 256) (s : State) : Host.Outcome State Fault Refusal :=
  if !isLane lane then .fault .noSuchUnit
  else .next (
    let s := s.onLane lane (echoLine (.block block.bit payload))
    let l := s.lane lane
    match l.port with
    | none => s
    | some p =>
      if l.locked && block.pos != l.markPos then s
      else if markerValid block.bit payload then
        let s := s.onLane lane (goodMarker s.svc.now block.pos payload)
        let s := s.onLane lane (fun l => if atStep (s.port p) 6 && !l.standby then { l with logical := fld payload 72 4 } else l)
        let s := sendDue p s
        advance p (if fld payload 64 8 == 1 then followSpare p lane (fld payload 72 4) s else s)
      else if !l.locked then s.onLane lane (fun l => { l with places := l.places.del block.pos })
      else if l.badMarkers < 3 then s.onLane lane (fun l => { l with badMarkers := l.badMarkers + 1 })
      else loseLock lane s)

/-- MARKER_LOCK_LOSS (02 R35): 4 periods, 1,310,720 ns, have passed without a valid marker at the expected position. -/
def execMarkerLockLoss (lane : Nat) (s : State) : Host.Outcome State Fault Refusal :=
  if !isLane lane then .fault .noSuchUnit
  else .next (if !(s.lane lane).locked || s.svc.now < (s.lane lane).markerAt + 1310720 then s else loseLock lane s)

/-! ### Adaptation in data mode (02 R41 to R43) -/

/-- EFOM (02 R41): the floor of the smallest product of height and width over 100, saturating. -/
def efomFrom (heights widths : List Nat) : Nat :=
  let ps := List.zipWith (· * ·) heights widths
  match ps with
  | [] => 0
  | x :: r => min 0xFFFF (r.foldl min x / 100)

/-- One measurement in data mode: EFOM and its run below 16. A step that lowered EFOM is undone at this, the next measurement; a new step is taken at most once per
millisecond (02 R42, R43). -/
def adapt (now e setting : Nat) (up : Bool) (l : Lane) : Lane :=
  let l := { l with efom := e, lowEfom := if e < 16 then l.lowEfom + 1 else 0 }
  let worse := match l.lastStep with | some (_, _, old) => decide (e < old) | none => false
  let free := match l.adaptAt with | some t => decide (t + 1000000 ≤ now) | none => true
  if worse || free then { adaptStep e setting up l with adaptAt := some now } else l

/-- A lane in data mode (02 R42): the port is up, or its lanes run step 6, 7 or 8. -/
def inData (q : Port) : Bool := q.phase == .up || decide (6 ≤ frameStep q)

/-- A lane fails in data mode (02 R43): where the port is up a spare takes its place or the port narrows; in steps 6 to 8 it is dropped, the spare substituted for it
where there is one, and the attempt fails (02 R46). -/
def laneFails (p lane : Nat) (s : State) : State :=
  match (s.port p).phase with
  | .training n => let k := if (s.lane lane).standby then 16 else (s.lane lane).logical
                   let t := qualDrop p (2 ^ k) s
                   if k == 16 then t else failAttempt p n true t
  | _ => laneOut p lane s

/-- BACKGROUND_ADAPTATION (02 R41 to R43): a measurement, with the bit errors before FEC among the bits of the last 10 ms. -/
def execBackgroundAdaptation (lane : Nat) (heights widths : List Nat) (ber : BitErrors) (setting : Nat) (up : Bool) (s : State) :
    Host.Outcome State Fault Refusal :=
  if !isLane lane then .fault .noSuchUnit
  else .next (
    let l := s.lane lane
    match l.port with
    | none => s
    | some p =>
      if !inData (s.port p) || l.failed || l.leftOut then s
      else
        let e := efomFrom heights widths
        let s := s.onLane lane (adapt s.svc.now e setting up)
        if 3 ≤ (s.lane lane).lowEfom || ber.bits < 10000 * ber.errors then
          laneFails p lane (recordErr kLane lane 0x10 1 (leBytes e 2 ++ [if 3 ≤ (s.lane lane).lowEfom then 0 else 1]) s)
        else s)

/-! ### Loss of signal and the end of narrowing -/

/-- LOS (03 R80): the whole port goes down; it trains again without the lane, and comes back narrower. A lane in standby or one that has failed is a lane of the
port too: 03 R80 says any lane (DESIGN CHOICE, log entry 35). In training the lane misses its bound; where no lane sees signal any more, the port waits for
its partner. -/
def execLos (port lane : Nat) (s : State) : Host.Outcome State Fault Refusal :=
  if !isPort port || !isLane lane then .fault .noSuchUnit
  else .next (
    if (s.lane lane).port != some port then s
    else
      let s := s.onLane lane (fun l => { restartLane l with signal := false })
      if linkUp (s.port port) then linkDown port causeLos 0 s
      else
        match (s.port port).phase with
        | .training _ =>
          if s.lanes.any (fun x => x.2.port == some port && x.2.signal) then s
          else restartLanes port (s.onPort port (fun q => { q with phase := .waiting, link := freshLink q, widthNow := q.width, partner := none }))
        | _ => s)

/-- The port is up again on its new lanes: the retry timers and the XOFF watchdog, which stood still, start anew (03 R78 says that they stop and not how they go
on: DESIGN CHOICE, log entry 35), and retry resumes from the oldest unacknowledged flit. -/
def narrowedPort (now : Nat) (q : Port) : Port :=
  { q with
    phase := .up
    narrowStep := 0
    narrowed := true
    partnerMask := none
    link := { q.link with resend := q.link.retryBuf.length, txAt := now, retryAt := now, xoffSince := q.link.xoffSince.each (fun _ _ => now) } }

/-- NARROW_COMPLETE (03 R77 to R79): the lanes of a narrowing port have run steps 5 and 6 and the 10 ms of step 7, with these results. -/
def execNarrowComplete (port : Nat) (res : List QualRes) (s : State) : Host.Outcome State Fault Refusal :=
  if !isPort port then .fault .noSuchUnit
  else .next (
    let q := s.port port
    if q.phase != .narrowing || q.narrowStep != 7 || s.svc.now < q.stepAt + 10000000 then s
    else if qualMask s port res % 2 ^ 16 != 0 then linkDown port causeNarrow 0 s
    else
      let s := sendDue port s
      let mask := goodLanes s port
      let s := (s.onPort port (narrowedPort s.svc.now)).onPort port (fun q => { q with goodMask := BitVec.ofNat 16 mask })
      unsolicited 1 0x00000003 (leBytes port 2 ++ [BitVec.ofNat 8 q.widthNow, 0] ++ leBytes mask 2)
        (recordErr kPort port 0x05 1 ([BitVec.ofNat 8 q.widthNow, 0] ++ leBytes mask 2) s))

end Sys2Proof.Machine
end

