-- ==== Sys2Proof/Machine/LinkLayer.lean ====
section
/-! DEFINITION. The Sulux link layer (03): retry (R64 to R69), flow control (R70 to R74), packets in flits (R60 to R63), link
initialization (R75, R76), width change, link down and link up. -/

namespace Sys2Proof.Machine

open Sys2Proof

/-! ### Sizes -/

/-- Largest packet of a channel in granules (03 R61). -/
def maxGranules (vc : Nat) : Nat := if vc == 4 then 131 else 12
/-- Flit time in ns (03 R59). -/
def flitTime (code : Nat) : Nat := if code == 0 then 16 else if code == 1 then 8 else if code == 2 then 4 else 1
/-- The XOFF threshold H of a channel (03 R71). -/
def xoffH (tMeas code vc : Nat) : Nat := 15 * ceilDiv (tMeas + 8) (flitTime code) + maxGranules vc
/-- Does a port carry a channel (03 R63)? -/
def carries (p vc : Nat) : Bool := if isTrunk p then decide (2 ≤ vc) && decide (vc < 6) else decide (vc < 6)

/-! ### Receive buffers and XOFF (03 R71) -/

/-- Granules that a channel's receive buffer holds. -/
def rxUse (q : Port) (vc : Nat) : Nat :=
  (q.rx.filter (fun k => k.vc.toNat == vc)).foldl (fun n k => n + k.granules) 0 +
  (match q.link.openPkt with
   | g :: _ => if g.toNat / 2 ^ 26 % 8 == vc then q.link.openPkt.length else 0
   | [] => 0)

/-- One channel's XOFF: set while free space is below H, cleared once it reaches H + 30. A port that narrows keeps its reservations (03 R78), and with them the H of
its initialization, (r - 30) / 2, though its flits last longer: 03 does not say that H follows (DESIGN CHOICE, log entry 35). -/
def xoffBit (q : Port) (vc : Nat) : Bool :=
  let r := q.link.reserved.look vc 0
  let h := (r - 30) / 2
  let free := r - rxUse q vc
  if r == 0 then false
  else if free < h then true
  else if h + 30 ≤ free then false
  else q.link.xoffOut.getLsbD vc

/-- Judge every channel again. -/
def xoffUpdate (p : Nat) (s : State) : State :=
  s.onPort p (fun q => { q with link := { q.link with
    xoffOut := BitVec.ofNat 6 ((List.range 6).foldl (fun n v => n + b2n (xoffBit q v) * 2 ^ v) 0) } })

/-! ### ACK, NAK and XOFF of every good flit (03 R64, R66, R67, R72) -/

/-- The retry buffer after an ACK: the flits up to it are released if it lies among the unacknowledged ones. -/
def ackBuf (a : BitVec 10) (l : List Flit) : List Flit :=
  match l.findIdx? (fun f => f.fseq == a) with
  | some i => l.drop (i + 1)
  | none => l

/-- The packets whose last flit is still unacknowledged. -/
def ackPkts (left : List Flit) (l : List (BitVec 10 × Packet)) : List (BitVec 10 × Packet) :=
  l.filter (fun x => left.any (fun f => f.fseq == x.1))

/-- A delivered copy of a multicast packet, or a unicast result, no longer waits for this port (06 R158). -/
def noteAcked (p : Nat) (done : List (BitVec 10 × Packet)) (s : State) : State :=
  done.foldl (fun s x => excludePort p (deliveryOf x.2) s) s

/-- XOFF as received, and since when each channel's has been set. -/
def takeXoff (now : Nat) (x : BitVec 6) (l : Link) : Link :=
  { l with xoffIn := x,
           xoffSince := (List.range 6).foldl (fun m v =>
             if x.getLsbD v then (match Map.find m v with | some _ => m | none => Map.put m v now) else Map.del m v) l.xoffSince }

/-- Take the link control of a good flit. -/
def takeLctl (p : Nat) (f : Flit) (s : State) : State :=
  let l := (s.port p).link
  let left := ackBuf f.ack l.retryBuf
  let moved := left.length != l.retryBuf.length
  let pk := ackPkts left l.sentPkts
  let done := l.sentPkts.filter (fun x => !pk.contains x)
  let s := s.onLink p (fun l => takeXoff s.svc.now f.xoff { l with
    retryBuf := left
    sentPkts := pk
    resend := if f.nak then left.length else min l.resend left.length
    txAt := if moved || f.nak then s.svc.now else l.txAt
    txExpiries := if moved || f.nak then 0 else l.txExpiries })
  noteAcked p done s

/-! ### Packets in flits (03 R60 to R63) -/

/-- Check 1 of 04 R90, made by a plane on its end-point ports: SRC is the number it has given the port (01 R16). -/
def srcOk (s : State) (p : Nat) (k : Packet) : Bool :=
  !(isPort p && !isTrunk p && !s.svc.bridge) || k.src == mkNode (nodePair (portSelf s p)) false p

/-- A packet that fails check 1 is discarded, counted and recorded (01 R16). -/
def discardSrc (p : Nat) (k : Packet) (s : State) : State :=
  recordErr kPort p 0x06 2 (leBytes k.src.toNat 2) (s.onCnt p (fun c => { c with srcMismatch := c.srcMismatch + 1 }))

/-- A whole packet has been received: one on a channel the port does not carry is discarded and recorded, one on a reserved channel fails
check 1 or check 2 of 04 R90, any other waits for admission. -/
def receivePacket (p : Nat) (k : Packet) (s : State) : State :=
  let vc := k.vc.toNat
  if 6 ≤ vc then (if srcOk s p k then discardMalformed p 2 k s else discardSrc p k s)
  else if carries p vc then s.onPort p (fun q => { q with rx := q.rx ++ [k] })
  else recordErr kPort p 0x08 2 [BitVec.ofNat 8 vc] (s.onCnt p (fun c => { c with vcViolation := c.vcViolation + 1 }))

/-- What framing a flit's granules gives. -/
structure Framing where
  openPkt : List (BitVec 128)
  done : List (List (BitVec 128)) := []
  bad : Bool := false
  deriving DecidableEq, Repr

/-- The largest packet that an open packet's channel allows. -/
def openMax (gs : List (BitVec 128)) : Nat :=
  match gs with
  | g :: _ => maxGranules (g.toNat / 2 ^ 26 % 8)
  | [] => 131

/-- One granule with its START and END marks. -/
def frameGranule (st en : Bool) (g : BitVec 128) (x : Framing) : Framing :=
  if x.bad then x
  else if st && !x.openPkt.isEmpty then { x with bad := true }
  else
    let cur := if st then [g] else if x.openPkt.isEmpty then [] else x.openPkt ++ [g]
    if openMax cur < cur.length then { x with bad := true }
    else if en then (if cur.isEmpty then { x with bad := true } else { x with openPkt := [], done := x.done ++ [cur] })
    else { x with openPkt := cur }

/-- The granules of a data flit. -/
def frameFlit (f : Flit) (cur : List (BitVec 128)) : Framing :=
  (f.pay.zipIdx).foldl (fun x gi => frameGranule (bitOf f.start gi.2) (bitOf f.fin gi.2) gi.1 x) { openPkt := cur }

/-- Accept a data flit's payload; inconsistent marks take the link down (03 R62). -/
def acceptPayload (p : Nat) (f : Flit) (s : State) : State :=
  let x := frameFlit f (s.port p).link.openPkt
  let ks := x.done.map (fun gs => packetOfGranules gs)
  let s := s.onLink p (fun l => { l with openPkt := x.openPkt })
  let s := ks.foldl (fun s k => receivePacket p k s) s
  if x.bad then linkDown p causeFraming 0 s else xoffUpdate p s

/-! ### The receiver (03 R65) -/

/-- A damaged or out-of-order flit in NORMAL asks for a retry once. -/
def askRetry (p : Nat) (s : State) : State :=
  s.onLink p (fun l => if l.retryWait then l else { l with nakDue := true, retryWait := true, retryAt := s.svc.now, retryCount := 0 })

/-- A flit that fails its CRC, or overlaps an uncorrectable codeword, is discarded whole. -/
def crcFailed (p : Nat) (s : State) : State := if linkUp (s.port p) then askRetry p s else s

/-- DATA_FLIT (03 R64, R65). -/
def execDataFlit (port : Nat) (f : Flit) (s : State) : Host.Outcome State Fault Refusal :=
  if !isPort port then .fault .noSuchUnit
  else .next (
    let s := hearFlit port s
    if !f.crcOk then crcFailed port s
    else if !linkUp (s.port port) || f.isCtl then s
    else
      let s := takeLctl port f s
      if f.fseq == (s.port port).link.expected then
        acceptPayload port f (s.onLink port (fun l => { l with expected := l.expected + 1, retryWait := false, retryCount := 0 }))
      else askRetry port s)

/-- The codeword that a flit overlaps fails it: one that the decoder corrects does not (02 R33, R37); where none is given, the flit's own CRC has failed. -/
def wordFails (s : State) (w : Option RxWord) : Bool :=
  match w with
  | some x => wordLost (s.lane x.lane).precodeRx x.before x.levels
  | none => true

/-- A codeword that a lane in far-end loopback has sliced is sent again (02 R50). -/
def echoWord (w : Option RxWord) (s : State) : State :=
  match w with
  | some x => s.onLane x.lane (echoLine (.codeword x.levels))
  | none => s

/-- CRC_FAILED_FLIT (02 R37, 03 R64, R65). -/
def execCrcFailedFlit (flit : LostFlit) (s : State) : Host.Outcome State Fault Refusal :=
  if !isPort flit.port then .fault .noSuchUnit
  else .next (
    let t := hearFlit flit.port (echoWord flit.word s)
    if wordFails s flit.word then crcFailed flit.port t else t)

/-- A control flit of a kind, received whole: what it does beyond its link control. -/
def control (port : Nat) (f : Flit) (kind : Nat) (act : State → State) (s : State) : Host.Outcome State Fault Refusal :=
  if !isPort port then .fault .noSuchUnit
  else .next (
    let s := hearFlit port s
    if !f.crcOk then crcFailed port s
    else if !f.isCtl || f.ctype != kind then s
    else act (if linkUp (s.port port) then takeLctl port f s else s))

/-- IDLE_CONTROL_FLIT (03 R59): ACK, NAK and XOFF only. -/
def execIdleControlFlit (port : Nat) (f : Flit) (s : State) : Host.Outcome State Fault Refusal := control port f 0 id s

/-! ### Link initialization (03 R75, R76) -/

/-- The number this part gives on a port: that of the port's position on an end-point port (01 R15). -/
def givenNode (s : State) (p : Nat) : Node := mkNode (nodePair (portSelf s p)) false p

/-- The node-number check of INIT (03 R76): the number given, on an end-point port; the neighbour, on a trunk; the number taken, on a bridge. -/
def initNodeOk (s : State) (p : Nat) (n : Node) : Bool :=
  if isTrunk p then neighbourOk s p n
  else if s.svc.bridge then s.svc.node.isNone || s.svc.node == some n
  else n == givenNode s p

/-- A bridge takes its node number from its first port to train; its sequences then start at 0 (01 R15, 04 R94). -/
def takeNumber (n : Node) (s : State) : State :=
  if s.svc.bridge && s.svc.node.isNone then
    (s.onSvc (fun v => { v with node := some n })).onReq (fun r => { r with seqs := [], lastSend := [], single := [], unanswered := [] })
  else s

/-- INIT has been understood: the first one is answered with the 16 loop measurements, and by a bridge that has just taken its number with its own INIT (03 R75
steps 1 and 2). -/
def afterInit (port : Nat) (first numbered : Bool) (s : State) : State :=
  if !first then s
  else sendCtls port ctPing (s.svc.now % 2 ^ 64) 16 (if numbered then s else sendInit port s)

/-- INIT (03 R75 step 1, R76). A number that fails its check restarts training; on a trunk the number is the neighbour's, on a bridge the number it has taken: a bridge
reports a port that gives another one, and three attempts leave it down (01 R15; log entry 38). -/
def execInit (port : Nat) (f : Flit) (s : State) : Host.Outcome State Fault Refusal :=
  control port f 1 (fun s =>
    let n : Node := BitVec.ofNat 13 (f.param % 2 ^ 13)
    if !atStep (s.port port) 8 then s
    else if f.param / 2 ^ 13 % 64 != channelMask port then failAttempt port 8 true s
    else if !initNodeOk s port n then
      failAttempt port 8 true (if s.svc.bridge then recordErr kPort port 0x04 3 (leBytes n.toNat 2) s else s)
    else
      let first := !(s.port port).link.initSeen
      afterInit port first (!s.svc.bridge || s.svc.node.isSome) ((takeNumber n s).onPort port (fun q => { q with
        partner := some n
        self := if s.svc.bridge then some ((takeNumber n s).svc.node.getD n) else q.self
        link := { q.link with initSeen := true, startCount := BitVec.ofNat 16 (f.param / 2 ^ 19) } }))) s

/-- LOOP_PING (03 R75 step 2): its stamp goes back in the next outgoing flit. -/
def execLoopPing (port : Nat) (f : Flit) (s : State) : Host.Outcome State Fault Refusal :=
  control port f 3 (fun s => if atStep (s.port port) 8 || linkUp (s.port port) then sendCtl port ctEcho (f.param % 2 ^ 64) s else s) s

/-- Step 3: the receive buffers are reserved under 03 R71. -/
def reserve (p : Nat) (q : Port) (t : Nat) : Map Nat :=
  (List.range 6).foldl (fun m v => if carries p v then m.put v (2 * xoffH t q.widthNow v + 30) else m) []

/-- LOOP_ECHO (03 R75 steps 2 and 3, R74): the sixteenth loop gives T_meas, the largest; above 400 ns initialization fails, else the
buffers are reserved and INIT_ACK is sent. -/
def execLoopEcho (port : Nat) (f : Flit) (s : State) : Host.Outcome State Fault Refusal :=
  control port f 4 (fun s =>
    let q := s.port port
    if !atStep q 8 || 16 ≤ q.link.loops.length then s
    else
      let loops := q.link.loops ++ [s.svc.now - f.param % 2 ^ 64]
      let s := s.onLink port (fun l => { l with loops := loops })
      if loops.length < 16 then s
      else
        let t := loops.foldl max 0
        if 400 < t then failAttempt port 8 true (recordErr kPort port 0x03 2 (leBytes t 4) s)
        else sendCtl port ctInitAck 0 (s.onPort port (fun q => { q with link := { q.link with tMeas := t, reserved := reserve port q t } }))) s

/-- INIT_ACK (03 R75 step 4): FSEQ starts at 0, ACK at 1,023, and all XOFF bits are clear. -/
def execInitAck (port : Nat) (f : Flit) (s : State) : Host.Outcome State Fault Refusal :=
  control port f 2 (fun s =>
    if !atStep (s.port port) 8 then s
    else s.onLink port (fun l => { l with initAcked := true, expected := 0, nextSeq := 0, xoffIn := 0, xoffOut := 0, xoffSince := [] })) s

/-- Initialization has run through steps 1 to 4. -/
def initDone (l : Link) : Bool := l.initSeen && l.initAcked && l.loops.length == 16 && !l.reserved.isEmpty

/-- The number of a bridge as a port of it comes up: where every port has gone down since the port's INIT, it is taken afresh (10 R289). -/
def renumber (port : Nat) (s : State) : State :=
  if s.svc.bridge && s.svc.node.isNone then
    match (s.port port).partner with
    | some n => (takeNumber n s).onPort port (fun q => { q with self := some n })
    | none => s
  else s

/-- A bridge that has taken another number since the port's INIT. -/
def otherNumber (s : State) (port : Nat) : Bool := s.svc.bridge && (s.port port).partner.any (fun n => !initNodeOk s port n)

/-- PORT_UP (03 R75 step 5): at the agreed marker, and never before the flush of the port has completed (06 R163). -/
def execPortUp (port : Nat) (s : State) : Host.Outcome State Fault Refusal :=
  if !isPort port then .fault .noSuchUnit
  else .next (
    let q := s.port port
    if !atStep q 8 || !initDone q.link || q.flushing then s
    else if otherNumber s port then failAttempt port 8 true (recordErr kPort port 0x04 3 (leBytes ((s.port port).partner.getD 0).toNat 2) s)
    else
      let s := (renumber port s).onPort port (fun q => { q with
        phase := .up
        attempts := 0
        coreDown := false
        mgtAllow := 192
        deficit := []
        goodMask := BitVec.ofNat 16 (goodLanes s port)
        link := { q.link with txAt := s.svc.now, txExpiries := 0 } })
      unsolicited 1 0x00000001 (leBytes port 2 ++ [BitVec.ofNat 8 (s.port port).widthNow]) (fillTo port (s.port port).link.startOwn s))

/-! ### Width change, DOWN and the timers -/

/-- WIDTH_CHANGE (03 R78): the partner's mask. It comes on every lane the partner holds, and the same mask again says nothing new. An end that is not narrowing yet,
or whose lanes run their steps again already, answers with its own and starts; with both masks known the lanes change. -/
def takeMask (p : Nat) (m : BitVec 16) (s : State) : State :=
  let q := s.port p
  let put := fun (s : State) => s.onPort p (fun q => { q with partnerMask := some m })
  if q.phase == .up then startNarrowing p (put s)
  else if q.narrowStep == 0 then narrowGo p (put s)
  else if q.partnerMask == some m then s
  else startNarrowing p ((put s).onPort p (fun q => { q with narrowStep := 0 }))

def execWidthChange (port : Nat) (f : Flit) (s : State) : Host.Outcome State Fault Refusal :=
  control port f 5 (fun s => if linkUp (s.port port) then takeMask port (BitVec.ofNat 16 (f.param % 2 ^ 16)) s else s) s

/-- DOWN (03 R80): cause PARTNER_DISABLE. -/
def execDown (port : Nat) (f : Flit) (s : State) : Host.Outcome State Fault Refusal :=
  control port f 6 (fun s => if linkUp (s.port port) then linkDown port causePartner 0 s else s) s

/-- LINK_RETRY_TIMER (03 R65): 2 us in RETRY_WAIT; the eighth expiry takes the link down. It stands still while the port narrows. -/
def execLinkRetryTimer (port : Nat) (s : State) : Host.Outcome State Fault Refusal :=
  if !isPort port then .fault .noSuchUnit
  else .next (
    let q := s.port port
    if q.phase != .up || !q.link.retryWait || s.svc.now < q.link.retryAt + 2000 then s
    else
      let s := s.onLink port (fun l => { l with nakDue := true, retryAt := s.svc.now, retryCount := l.retryCount + 1 })
      if 8 ≤ (s.port port).link.retryCount then linkDown port causeRetry 0 s else s)

/-- RETRY_BUFFER_TIMER (03 R67): 2 us without NAK or ACK progress on the oldest flit. When the wait begins again after an expiry 03 R67 does not say: the model restarts
it at the expiry, and again when the oldest flit is resent (`resendFlit`; DESIGN CHOICE, log entry 79). -/
def execRetryBufferTimer (port : Nat) (s : State) : Host.Outcome State Fault Refusal :=
  if !isPort port then .fault .noSuchUnit
  else .next (
    let q := s.port port
    if q.phase != .up || q.link.retryBuf.isEmpty || s.svc.now < q.link.txAt + 2000 then s
    else
      let s := s.onLink port (fun l => { l with resend := l.retryBuf.length, txAt := s.svc.now, txExpiries := l.txExpiries + 1 })
      if 8 ≤ (s.port port).link.txExpiries then linkDown port causeRetry 0 s else s)

/-- XOFF_WATCHDOG (03 R73): a channel's XOFF held for 1 ms. -/
def execXoffWatchdog (port channel : Nat) (s : State) : Host.Outcome State Fault Refusal :=
  if !isPort port || 6 ≤ channel then .fault .noSuchUnit
  else .next (
    let q := s.port port
    match q.link.xoffSince.find channel with
    | some t => if q.phase == .up && t + 1000000 ≤ s.svc.now then linkDown port causeXoff channel s else s
    | none => s)

end Sys2Proof.Machine
end

