-- ==== Sys2Proof/Machine/Trunks.lean ====
section
/-! DEFINITION. The egress controls of a trunk port (12): queues and the bubble rule (R357, R359, 06 R173), policers (R361), time gates
(R362 to R364), credit shapers (R365, R366), sampling (R367, R368), the ingress colour marker (R360) and the ring routes (R355). Times of
shapers and of packets being sent are in 1/16 ns, in which every packet's time at every width is whole. -/

namespace Sys2Proof.Machine

open Sys2Proof

/-! ### Queues, rates and times -/

/-- The trunk egress queue of a packet (R357). -/
def trunkQueueOf (k : Packet) : Nat :=
  let vc := k.vc.toNat
  if vc == 5 then 0 else if vc == 2 then 1 else if vc == 3 then 2 else 3 + k.arg 16 3

/-- A queue of a trunk port. -/
def State.tq (s : State) (p q : Nat) : TrunkQueue := (s.trunk p).queues.look q {}

/-- Local time in 1/16 ns. -/
def now16 (s : State) : Nat := 16 * s.svc.now
/-- D of R364 in 1/16 ns: the port sends 16 B per ns and lane. -/
def sendTime (s : State) (p : Nat) (k : Packet) : Nat := pktBytes k / lanesOf (s.port p).widthNow
/-- The port's current rate in MB/s. -/
def portRate (s : State) (p : Nat) : Nat := 16000 * lanesOf (s.port p).widthNow

/-! ### Gates (R362 to R364) -/

/-- GATES bit of a queue, and INTERVAL of an entry. -/
def gateBit (e : BitVec 32) (q : Nat) : Bool := e.getLsbD q
def gateInterval (e : BitVec 32) : Nat := e.toNat / 2 ^ 8

/-- The entry in force. -/
def gateNow (t : Trunk) : BitVec 32 := t.gates.entries.getD t.entry 0x0F4240FF#32
/-- Is the gate of a queue open? -/
def gateOpen (t : Trunk) (q : Nat) : Bool := gateBit (gateNow t) q

/-- Sum of the intervals of the run of open entries at the head of a list. -/
def openRun (q : Nat) : List (BitVec 32) → Nat
  | [] => 0
  | e :: r => if gateBit e q then gateInterval e + openRun q r else 0

/-- The list as a cycle that starts at an entry. -/
def cycleFrom (l : List (BitVec 32)) (k : Nat) : List (BitVec 32) := l.drop k ++ l.take k

/-- The end of a queue's open window in ns: none where the gate never closes. -/
def windowEnd (t : Trunk) (q : Nat) : Option Nat :=
  let run := if t.gates.entries.all (fun e => gateBit e q) then none
    else some (t.entryAt + openRun q (cycleFrom t.gates.entries t.entry))
  match run, t.pending with
  | some a, some g => some (min a g.base)
  | some a, none => some a
  | none, some g => some g.base
  | none, none => none

/-- The longest open window of a queue in ns: none where the gate never closes. -/
def longestWindow (t : Trunk) (q : Nat) : Option Nat :=
  let l := t.gates.entries
  if l.all (fun e => gateBit e q) then none
  else some ((List.range l.length).foldl (fun m k => max m (openRun q (cycleFrom l k))) 0)

/-- The gate rule for a packet of time `d` that starts at a moment in 1/16 ns (R358, R364). -/
def gateFits (t : Trunk) (q start d : Nat) : Bool :=
  gateOpen t q && (match windowEnd t q with | some e => decide (start + d ≤ 16 * e) | none => true)

/-- The packet exceeds the longest window of its queue: dropped at enqueue. -/
def gateNever (t : Trunk) (q d : Nat) : Bool :=
  match longestWindow t q with
  | some w => decide (16 * w < d)
  | none => false

/-! ### Shapers (R365, R366) -/

/-- A change of shaper that waited for the packet in progress takes effect. -/
def settleShaper (now : Nat) (q : TrunkQueue) : TrunkQueue :=
  match q.shaperNext with
  | some x => if q.sendingUntil ≤ now then { q with shaper := x, shaperNext := none } else q
  | none => q

/-- Credit up to a moment (1/16 ns) during which the gate has not changed. -/
def creditTo (isOpen : Bool) (now : Nat) (h : Shaper) : Shaper :=
  if now ≤ h.at_ then h
  else { h with
    credit := if isOpen then min ((h.burst * 1024000 : Nat) : Int) (h.credit + ((h.rq * 64 * (now - h.at_) : Nat) : Int)) else h.credit
    at_ := now }

/-- Bring a queue's shaper to a moment. -/
def advanceShaper (isOpen : Bool) (now : Nat) (q : TrunkQueue) : TrunkQueue :=
  let q := settleShaper now q
  { q with shaper := q.shaper.map (creditTo isOpen now) }

/-- Bring every shaper of a port to a moment under the gates in force. -/
def advanceShapers (p now : Nat) (s : State) : State :=
  s.onTrunk p (fun t => { t with queues := t.queues.each (fun k q => advanceShaper (gateOpen t k) now q) })

/-- The entry in force ends at its time, and the next one begins. -/
def nextEntry (p e : Nat) (s : State) : State :=
  (advanceShapers p (16 * e) s).onTrunk p (fun t => { t with entry := (t.entry + 1) % t.gates.entries.length, entryAt := e })

/-- A pending list takes over at its BASE_TIME, with its entry 0. -/
def takeOver (p : Nat) (g : GateList) (s : State) : State :=
  (advanceShapers p (16 * g.base) s).onTrunk p (fun t => { t with gates := g, pending := none, entry := 0, entryAt := g.base })

/-- The end of the entry in force, as its INTERVAL has it. -/
def entryEnd (t : Trunk) : Nat := t.entryAt + gateInterval (gateNow t)

/-- Does a pending list take over no later than a moment? -/
def takesOver (t : Trunk) (at_ : Nat) : Bool := match t.pending with | some g => decide (g.base ≤ at_) | none => false

/-- Every entry and list whose time has come is in force (R362, R363, 00 R5), whether or not its event has been given. -/
def settleGates (p : Nat) : Nat → State → State
  | 0, s => s
  | n + 1, s =>
    let t := s.trunk p
    match t.pending with
    | some g => if g.base ≤ s.svc.now && decide (g.base ≤ entryEnd t) then settleGates p n (takeOver p g s)
      else if entryEnd t ≤ s.svc.now then settleGates p n (nextEntry p (entryEnd t) s) else s
    | none => if entryEnd t ≤ s.svc.now then settleGates p n (nextEntry p (entryEnd t) s) else s

/-- The gates of a trunk port as they stand now: an entry lasts at least 32 ns. -/
def gatesNow (p : Nat) (s : State) : State := settleGates p ((s.svc.now - (s.trunk p).entryAt) / 32 + 2) s

/-- Is a queue eligible by credit? -/
def creditOk (q : TrunkQueue) : Bool :=
  match q.shaper with
  | some h => decide (0 ≤ h.credit)
  | none => true

/-- When the next packet of a queue starts, in 1/16 ns: now, or as the packet in progress ends. -/
def startOf (now : Nat) (q : TrunkQueue) : Nat := max now q.sendingUntil

/-- The queue as its next packet finds it: a change of shaper that waited for the packet in progress is in effect (R366). -/
def atBoundary (now : Nat) (q : TrunkQueue) : TrunkQueue := settleShaper (startOf now q) q

/-- A packet of the queue starts: its credit falls at the port's rate less Rq for its whole time, and the queue sends until its end. -/
def shaperSend (rate now d : Nat) (q : TrunkQueue) : TrunkQueue :=
  let start := startOf now q
  let q := atBoundary now q
  { q with
    sendingUntil := start + d
    shaper := q.shaper.map (fun h =>
      { h with credit := h.credit - ((rate : Int) - (h.rq : Int)) * 64 * (d : Int), at_ := max h.at_ (start + d) }) }

/-! ### Policers (R361) -/

/-- Tokens up to a moment, in 1/1000 byte. -/
def policerTo (now : Nat) (x : Policer) : Policer :=
  { x with tokens := min (x.pb * 1000) (x.tokens + x.pr * (now - x.at_)), at_ := now }

/-- The policer admits a packet of some bytes, or not; without one every packet is admitted. -/
def police (now bytes : Nat) (q : TrunkQueue) : Bool × TrunkQueue :=
  match q.policer with
  | none => (true, q)
  | some x =>
    let x := policerTo now x
    if bytes * 1000 ≤ x.tokens then (true, { q with policer := some { x with tokens := x.tokens - bytes * 1000 } })
    else (false, { q with policer := some x })

/-! ### Enqueue (R359, 06 R173) -/

/-- Bytes in a ring buffer: the three class M queues have one each, the MSG queues share one. -/
def ringBytes (s : State) (p q : Nat) : Nat :=
  if q < 3 then tqBytes (s.tq p q) else (List.range 5).foldl (fun n i => n + tqBytes (s.tq p (3 + i))) 0

/-- A packet place (06 R173, 03 R61). -/
def placeBytes (q : Nat) : Nat := if q < 3 then 192 else 2096

/-- The bubble rule: one free place for a transit packet, two for one from local injection. -/
def bubbleOk (s : State) (p q : Nat) (transit : Bool) : Bool :=
  decide (ringBytes s p q + (if transit then 1 else 2) * placeBytes q ≤ 524288)

/-- Put a packet at the end of a trunk queue. -/
def trunkPush (p q : Nat) (k : Packet) (s : State) : State :=
  s.onTq p q (fun x =>
    let x := touchQueue s x
    let x := { x with pkts := x.pkts ++ [(k, s.svc.now)] }
    { x with win := { x.win with maxDepth := max x.win.maxDepth (tqBytes x) } })

/-- Drops by cause. -/
def dropPolice (x : TrunkQueue) : TrunkQueue := { x with police := x.police + 1, win := { x.win with police := x.win.police + 1 } }
def dropFull (x : TrunkQueue) : TrunkQueue := { x with full := x.full + 1, win := { x.win with full := x.win.full + 1 } }
def dropGate (x : TrunkQueue) : TrunkQueue := { x with gateDrops := x.gateDrops + 1, win := { x.win with gate := x.win.gate + 1 } }

/-- A packet reaches a trunk port's egress. A class M packet enters its ring buffer or waits (none). A message never waits: the policer,
a full queue or the bubble rule, and a gate window that it can never fit drop it, in this order. -/
def trunkEnqueue (p : Nat) (transit : Bool) (k : Packet) (s : State) : Option State :=
  let q := trunkQueueOf k
  if q < 3 then (if bubbleOk s p q transit then some (trunkPush p q k s) else none)
  else
    let s := gatesNow p s
    let r := police s.svc.now (pktBytes k) (touchQueue s (s.tq p q))
    let s := s.onTq p q (fun _ => r.2)
    if !r.1 then some (s.onTq p q dropPolice)
    else if 262144 < tqBytes (s.tq p q) + pktBytes k || !bubbleOk s p q transit then some (s.onTq p q dropFull)
    else if gateNever (s.trunk p) q (sendTime s p k) then some (s.onTq p q dropGate)
    else some (trunkPush p q k s)

/-! ### Dequeue (R358) -/

/-- The head of a trunk queue, where it may start now. -/
def trunkHead (s : State) (p q : Nat) : Option Packet :=
  match (s.tq p q).pkts with
  | (k, _) :: _ =>
    if q < 3 then some k
    else if gateFits (s.trunk p) q (startOf (now16 s) (s.tq p q)) (sendTime s p k) && creditOk (atBoundary (now16 s) (s.tq p q)) then some k else none
  | [] => none

/-- The eligible MSG queue with the highest number. -/
def msgQueue (s : State) (p : Nat) : Option Nat := [7, 6, 5, 4, 3].find? (fun q => (trunkHead s p q).isSome)

/-- The head of a queue starts: its delay and count enter the sample window. -/
def trunkPop (p q : Nat) (s : State) : State :=
  match (s.tq p q).pkts with
  | (k, t) :: rest =>
    let d := sendTime s p k
    s.onTq p q (fun x =>
      let x := touchQueue s x
      let x := { x with pkts := rest, win := { x.win with sent := x.win.sent + 1, maxDelay := max x.win.maxDelay (s.svc.now - t) } }
      if q < 3 then x else shaperSend (portRate s p) (now16 s) d x)
  | [] => s

/-! ### Commands (13 R388) -/

/-- No trunk exists in the BRIDGE personality (10 R307). -/
def noTrunks (s : State) : Bool := s.svc.bridge

/-- A queue's sampling as P changes: the windows that have ended are stored, the one in progress is of neither P and is dropped, and the first window of the
new P runs from now to the next multiple of it (DESIGN CHOICE, log entry 42). -/
def restartSamples (p now : Nat) (q : TrunkQueue) : TrunkQueue :=
  let x := tqTouch now (rollSamples p now q)
  { x with win := { start := now, maxDepth := tqBytes x }, area := 0, depthAt := now }

/-- P has changed from the one in force in a state before: by QUEUE_SAMPLE_SET, or as the first confidential tenant comes or the last goes (R368). -/
def newPeriod (old s : State) : State :=
  if sampleP old == sampleP s || s.svc.bridge then s
  else [512, 528].foldl (fun s p => (List.range 8).foldl (fun s q => s.onTq p q (restartSamples (sampleP old) s.svc.now)) s) s

/-- RING_ROUTE_SET (R355): one entry for each member pair, 0 EAST, 1 WEST, 2 DEFAULT, in increasing pair order. -/
def execRingRouteSet (h : MHdr) (mask : BitVec 8) (routes : List Nat) (s : State) : Host.Outcome State Fault Refusal :=
  let pairs := (List.range 8).filter (fun k => mask.getLsbD k)
  command (.ringRouteSet h mask routes) h { boxes := boxF } noTrunks
    (fun s => routes.length != pairs.length || routes.any (fun r => decide (2 < r)) ||
      (s.svc.node.isSome && !mask.getLsbD (nodePair (selfNode s))))
    (fun s =>
      if s.svc.node.isNone then reply h msBusy [] s
      else reply h msOk [] (s.onSvc (fun v =>
        { v with ring := some mask, routes := (pairs.zip routes).foldl (fun m r => Map.put m r.1 r.2) [] }))) s

/-- MARKER_SET (R360): both buckets start full. -/
def execMarkerSet (h : MHdr) (port : Nat) (off : Bool) (cir cbs ebs : Nat) (s : State) : Host.Outcome State Fault Refusal :=
  command (.markerSet h port off cir cbs ebs) h { boxes := boxF } (fun s => portAbsent s port)
    (fun _ => !isPort port || (!off && (cir == 0 || decide (256000 < cir) || decide (16777216 < cbs) || decide (16777216 < ebs))))
    (fun s => reply h msOk [] (s.onPort port (fun q => { q with
      marker := if off then none else some { cir := cir, cbs := cbs, ebs := ebs, tc := cbs * 1000, te := ebs * 1000, at_ := s.svc.now } }))) s

/-- POLICER_SET (R361): T is PB at once. -/
def execPolicerSet (h : MHdr) (port queue pr pb : Nat) (s : State) : Host.Outcome State Fault Refusal :=
  command (.policerSet h port queue pr pb) h { boxes := boxF } (fun s => portAbsent s port)
    (fun _ => !isTrunk port || queue < 3 || 7 < queue || pr == 0 || 256000 < pr || pb < 2096 || 16777216 < pb)
    (fun s => reply h msOk [] (s.onTq port queue (fun x =>
      { x with policer := some { pr := pr, pb := pb, tokens := pb * 1000, at_ := s.svc.now } }))) s

/-- An entry that keeps R362. -/
def gateEntryOk (e : BitVec 32) : Bool := e.toNat % 8 == 7 && decide (32 ≤ gateInterval e)

/-- GATE_LIST_SET (R363). -/
def execGateListSet (h : MHdr) (port : Nat) (entries : List (BitVec 32)) (base : Nat) (s : State) : Host.Outcome State Fault Refusal :=
  command (.gateListSet h port entries base) h { boxes := boxF } (fun s => portAbsent s port)
    (fun s => !isTrunk port || entries.isEmpty || 64 < entries.length || entries.any (fun e => !gateEntryOk e) ||
      base < s.svc.now + 100000)
    (fun s =>
      let late := match (s.trunk port).pending with
        | some g => decide (g.base ≤ s.svc.now + 100000)
        | none => false
      if late then reply h msBusy [] s
      else reply h msOk [] (s.onTrunk port (fun t => { t with pending := some { entries := entries, base := base } }))) s

/-- What SHAPER_SET asks for: none where Rq is 0. -/
def newShaper (rq burst tokens at_ : Nat) : Option Shaper :=
  if rq == 0 then none
  else some { rq := rq, burst := burst, credit := if tokens == 0 then ((burst * 1024000 : Nat) : Int) else 0, at_ := at_ }

/-- SHAPER_SET (R366): TOKENS 0 FULL, 1 ZERO; at once, or when the packet in progress ends. -/
def execShaperSet (h : MHdr) (port queue rq burst tokens : Nat) (s : State) : Host.Outcome State Fault Refusal :=
  command (.shaperSet h port queue rq burst tokens) h { boxes := boxF } (fun s => portAbsent s port)
    (fun _ => !isTrunk port || queue < 3 || 7 < queue || 256000 < rq || 1048576 < burst || 1 < tokens)
    (fun s =>
      let now := now16 s
      reply h msOk [] (s.onTq port queue (fun x =>
        let x := settleShaper now x
        if x.sendingUntil ≤ now then { x with shaper := newShaper rq burst tokens now }
        else { x with shaperNext := some (newShaper rq burst tokens x.sendingUntil) }))) s

/-- QUEUE_SAMPLE_SET (R367): a new P begins its windows now. -/
def execQueueSampleSet (h : MHdr) (period : Nat) (s : State) : Host.Outcome State Fault Refusal :=
  command (.queueSampleSet h period) h { boxes := boxF } noTrunks (fun _ => period < 1000 || 10000000 < period)
    (fun s => reply h msOk [] (newPeriod s (s.onSvc (fun v => { v with samplePeriod := period })))) s

/-- One window as it is returned: the start, and depths, delay and counts (in units of 2^10 while a confidential tenant exists). -/
def sampleBytes (s : State) (w : SampleWin) : List Byte :=
  let n := fun (v : Nat) => leBytes (coarseNow s v) 8
  leBytes w.start 8 ++ n w.maxDepth ++ n w.meanDepth ++ n w.maxDelay ++ n w.sent ++ n w.police ++ n w.full ++ n w.gate

/-- QUEUE_SAMPLES_READ (R367): as many of the oldest windows as the command buffer holds, 63; CLEAR frees the windows returned. -/
def execQueueSamplesRead (h : MHdr) (port queue : Nat) (clear : Bool) (s : State) : Host.Outcome State Fault Refusal :=
  command (.queueSamplesRead h port queue clear) h { boxes := boxF } (fun s => portAbsent s port)
    (fun _ => !isTrunk port || 7 < queue)
    (fun s =>
      let s := s.onTq port queue (rollSamples (sampleP s) s.svc.now)
      let ws := (s.tq port queue).samples.take 63
      reply h msOk (pack [.num 2 ws.length, .bytes (ws.flatMap (sampleBytes s))])
        (if clear then s.onTq port queue (fun x => { x with samples := x.samples.drop 63 }) else s)) s

/-! ### Events -/

/-- GATE_ENTRY_CHANGE (R362): the entry in force ends, unless a pending list takes over first. -/
def execGateEntryChange (port : Nat) (s : State) : Host.Outcome State Fault Refusal :=
  if !isTrunk port then .fault .noSuchUnit
  else .next (
    let t := s.trunk port
    if s.svc.now < entryEnd t || takesOver t (entryEnd t) then s else nextEntry port (entryEnd t) s)

/-- GATE_LIST_TAKEOVER (R363): at BASE_TIME entry 0 of the pending list begins. -/
def execGateListTakeover (port : Nat) (s : State) : Host.Outcome State Fault Refusal :=
  if !isTrunk port then .fault .noSuchUnit
  else .next (
    match (s.trunk port).pending with
    | some g =>
      if s.svc.now < g.base then s else takeOver port g s
    | none => s)

/-- QUEUE_SAMPLE_WINDOW (R367): the window in progress ends at the next multiple of P and is stored; with 256 kept the oldest goes. -/
def execQueueSampleWindow (port queue : Nat) (s : State) : Host.Outcome State Fault Refusal :=
  if !isTrunk port || 8 ≤ queue then .fault .noSuchUnit
  else .next (s.onTq port queue (rollSamples (sampleP s) s.svc.now))

/-! ### The ingress colour marker (R360) -/

/-- Green 0, yellow 1, red 2. -/
def markColour (now bytes : Nat) (m : Marker) : Nat × Marker :=
  let got := m.cir * (now - m.at_)
  let tc := min (m.cbs * 1000) (m.tc + got)
  let te := min (m.ebs * 1000) (m.te + (m.tc + got - tc))
  let m := { m with tc := tc, te := te, at_ := now }
  if bytes * 1000 ≤ tc then (0, { m with tc := tc - bytes * 1000 })
  else if bytes * 1000 ≤ te then (1, { m with te := te - bytes * 1000 })
  else (2, m)

/-- The colour of a class G packet from a port; a port without a marker colours it green. -/
def colourOf (port bytes : Nat) (s : State) : Nat × State :=
  match (s.port port).marker with
  | some m =>
    let r := markColour s.svc.now bytes m
    (r.1, s.onPort port (fun q => { q with marker := some r.2 }))
  | none => (0, s)

/-! ### Ring routing (R355) -/

/-- The trunk port toward a member pair: the table's direction, else fewer hops with EAST on a tie; the other one while it is down. -/
def ringPort (s : State) (pair : Nat) : Nat :=
  let me := nodePair (selfNode s)
  let east := match s.svc.routes.look pair 2 with
    | 0 => true
    | 1 => false
    | _ => match ringDist s true me pair, ringDist s false me pair with
      | some a, some b => decide (a ≤ b)
      | _, _ => true
  let first := if east then 512 else 528
  let other := if east then 528 else 512
  if linkUp (s.port first) then first else if linkUp (s.port other) then other else first

end Sys2Proof.Machine
end

