-- ==== Sys2Proof/Machine/SwitchCore.lean ====
section
/-! DEFINITION. The switch core (06): checks 1 to 5 and the paths (04 R90, 01 R20, 12 R355, R356), admission and colour drop (R144 to R146, R159,
R160), cells, slots and the two stages (R147 to R153), multicast (R156 to R158), arbiters and their counters (R164 to R168), and the egress
of a port (R165, R173). -/

namespace Sys2Proof.Machine

open Sys2Proof

/-! ### Arbiters (R164 to R168) -/

/-- The kinds of R164, numbered from 0, and the number of an instance (13 R476). -/
def arbAdmission : Nat := 0
def arbLender : Nat := 1
def arbStage1 : Nat := 2
def arbStage2 : Nat := 3
def arbResidue : Nat := 4
def arbEgress : Nat := 5
def arbKey (kind index : Nat) : Nat := kind * 4096 + index

/-- One requester's counters after a decision: granted, or one more wait cycle (R168). -/
def arbStep (granted : Bool) (c : ArbCount) : ArbCount :=
  if granted then { c with grants := satAdd 48 c.grants 1, current := 0 }
  else { c with waits := satAdd 48 c.waits 1, current := c.current + 1, longest := max c.longest (min (c.current + 1) (2 ^ 32 - 1)) }

/-- A requester withdraws: the resource stays idle for one dead cycle (R167). -/
def arbWithdraw (r : Nat) (a : Arbiter) : Arbiter :=
  { a with dead := satAdd 48 a.dead 1, reqs := a.reqs.upd r {} (fun c => { c with withdrawals := satAdd 32 c.withdrawals 1 }) }

/-- Count one decision: the winner's grant and, where a decision is made in every core cycle, the wait of every other requester. -/
def arbCount (each : Bool) (asking : List Nat) (win : Option Nat) (a : Arbiter) : Arbiter :=
  { a with reqs := (if each then asking else asking.filter (fun r => some r == win)).foldl (fun m r => m.upd r {} (arbStep (some r == win))) a.reqs
           served := win.toList ++ a.served }

def onArb (key : Nat) (f : Arbiter → Arbiter) (s : State) : State := s.onCore (fun c => { c with arbs := c.arbs.upd key {} f })
def arbOf (s : State) (key : Nat) : Arbiter := s.core.arbs.look key {}

/-- A core cycle in which some requesters ask: those that no decision of the cycle has granted wait (R168). -/
def arbWaits (key : Nat) (asking : List Nat) (s : State) : State :=
  let late := asking.filter (fun r => !(arbOf s key).served.contains r)
  if late.isEmpty then s else onArb key (arbCount true late none) s

/-- The winner of a decision: the requester chosen in the last beat, while it may still go, else the one the policy picks (R166, R167). -/
def arbWinner (a : Arbiter) (asking : List Nat) (pick : Nat → List Nat → Option Nat) : Option Nat :=
  match a.chosen with
  | some r => if asking.contains r then some r else if a.lastBeat then none else pick a.rr asking
  | none => pick a.rr asking

/-- What an arbiter decides over: its requesters, and its policy from the round-robin position. -/
structure Contest where
  asks : State → List Nat
  pick : State → Nat → List Nat → Option Nat

/-- What a decision has come to: the winner, if any, whether the requester chosen before has withdrawn, and the state after the grant. -/
structure Decided where
  win : Option Nat
  gone : Bool
  st : State

/-- One decision of an arbiter: `next` is the position after a grant, `effect` what a grant does. A requester chosen in the last beat of the transfer before
that may no longer go withdraws, and the resource is idle (R167). -/
def decideNow (each : Bool) (key : Nat) (now : Contest) (next : Nat → Nat → Nat) (effect : Nat → State → State) (s : State) : Decided :=
  let a := arbOf s key
  let es := now.asks s
  if es.isEmpty && a.chosen.isNone then { win := none, gone := false, st := s }
  else
    let win := arbWinner a es (now.pick s)
    let gone := match a.chosen with | some r => a.lastBeat && win != some r | none => false
    let s := onArb key (fun a =>
      let a := arbCount each es win a
      let a := if gone then arbWithdraw (a.chosen.getD 0) a else a
      { a with chosen := none, rr := match win with | some r => next a.rr r | none => a.rr }) s
    { win := win, gone := gone, st := match win with | some r => effect r s | none => s }

/-- In LAST_BEAT mode the next winner is chosen during the last beat of a transfer, or of the dead cycle in place of one, from the requests of that beat
(R166, R167). -/
def chooseNext (key : Nat) (later : Contest) (s : State) : State :=
  let a := arbOf s key
  if a.lastBeat then onArb key (fun a => { a with chosen := later.pick s a.rr (later.asks s) }) s else s

/-- A decision whose transfer takes one beat: `later` is what the arbiter will decide over next. -/
def decide_ (each : Bool) (key : Nat) (now later : Contest) (next : Nat → Nat → Nat) (effect : Nat → State → State) (s : State) : State :=
  let d := decideNow each key now next effect s
  if d.gone || d.win.isSome then chooseNext key later d.st else d.st

/-- Round robin: the first requester after the position, in increasing order, wrapping. -/
def rrPick (pos : Nat) (es : List Nat) : Option Nat :=
  let best := fun (l : List Nat) => l.foldl (fun (m : Option Nat) x => match m with | some y => some (min x y) | none => some x) none
  match best (es.filter (fun x => decide (pos < x))) with
  | some x => some x
  | none => best es

/-- The instances that the part has (R164). -/
def arbExists (inst : Nat) : Bool :=
  let k := inst / 4096
  let i := inst % 4096
  decide (inst < 65536) && (if k < 5 then decide (i < 64) else k == 5 && isPort i)

/-- ARB_MODE_SET (R166): mode 0 SAME_CYCLE, 1 LAST_BEAT, from the next decision; a choice already made still counts.
LAST_BEAT characterisation is refused while a confidential tenant exists (14 R404). -/
def execArbModeSet (h : MHdr) (inst mode : Nat) (s : State) : Host.Outcome State Fault Refusal :=
  command (.arbModeSet h inst mode) h { boxes := boxF } (fun s => anyConf s && mode == 1) (fun _ => !arbExists inst || 1 < mode)
    (fun s => reply h msOk [] (onArb inst (fun a => { a with lastBeat := mode == 1 }) s)) s

/-- One requester as it is returned: its number and four counters. -/
def arbReqBytes (s : State) (z : Arbiter) (r : Nat × ArbCount) : List Byte :=
  let o := z.reqs.look r.1 {}
  leBytes r.1 8 ++ leBytes (coarse s r.2.grants o.grants) 8 ++ leBytes (coarse s r.2.waits o.waits) 8 ++
  leBytes (coarse s r.2.longest o.longest) 8 ++ leBytes (coarse s r.2.withdrawals o.withdrawals) 8

/-- Has a requester, as it is returned, counted anything? -/
def arbCounted (s : State) (z : Arbiter) (r : Nat × ArbCount) : Bool :=
  let o := z.reqs.look r.1 {}
  decide (0 < coarse s r.2.grants o.grants + coarse s r.2.waits o.waits + coarse s r.2.longest o.longest + coarse s r.2.withdrawals o.withdrawals)

/-- ARB_COUNTERS_READ (R168, R169): dead cycles, then the requesters that have counted anything, as many as the buffer holds (101); with CLEAR
what is returned is cleared in the same cycle. -/
def execArbCountersRead (h : MHdr) (inst : Nat) (clear : Bool) (s : State) : Host.Outcome State Fault Refusal :=
  command (.arbCountersRead h inst clear) h { boxes := boxF ++ boxH } never (fun _ => !arbExists inst)
    (fun s =>
      let a := arbOf s inst
      let z := s.snap.arbs.look inst {}
      let rs := (a.reqs.filter (arbCounted s z)).take 101
      reply h msOk (pack [.num 8 (coarse s a.dead z.dead), .num 2 rs.length, .bytes (rs.flatMap (arbReqBytes s z))])
        (if clear then onArb inst (fun a => { a with
            reqs := a.reqs.each (fun k c => if rs.any (fun r => r.1 == k) then { current := c.current } else c), dead := 0 }) s else s)) s

/-! ### Checks 1 to 5 and the path (04 R90, 01 R20) -/

/-- Where a packet goes, or why it goes nowhere: a check that it fails, an output that is down, or a ring that does not reach its pair. -/
inductive Path where
  | out (o : Nat)
  | refuse (check status : Nat)
  | down (o : Nat)
  | unreachable
  deriving DecidableEq, Repr

/-- Check 3: DST has a reserved infrastructure index, or its pair holds no part (01 R13). -/
def unknownDst (s : State) (pair : Nat) (p : Packet) : Bool :=
  (nodeInfra p.dst && decide (64 ≤ nodeIndex p.dst)) || (nodePair p.dst != pair && !(ringPairs s).contains (nodePair p.dst))

/-- The path of a packet from an end-point port. -/
def pathFromEndpoint (s : State) (me : Node) (p : Packet) : Path :=
  if p.dst == me then .out outLocal
  else if nodePair p.dst == nodePair me then (if nodeInfra p.dst then .refuse 4 stBadRequest else .out (nodeIndex p.dst))
  else if !p.isMsg || (nodeInfra p.dst && nodeIndex p.dst != nodeIndex me) then .refuse 4 stBadRequest
  else .out (ringPort s (nodePair p.dst))

/-- A message may cross from pair to pair to an end-point, or to the plane of this part's own index (01 R20). -/
def crossesTo (me : Node) (dst : Node) : Bool := !nodeInfra dst || nodeIndex dst == nodeIndex me

/-- The path of a packet from a trunk port (12 R356; 01 R20 for what a ring neighbour may send). -/
def pathFromTrunk (s : State) (port : Nat) (me : Node) (p : Packet) : Path :=
  if p.isMsg then
    if nodePair p.dst == nodePair me then
      (if p.dst == me then .out outLocal else if nodeInfra p.dst then .refuse 4 stBadRequest else .out (nodeIndex p.dst))
    else if !crossesTo me p.dst then .refuse 4 stBadRequest
    else
      let east := port == 528
      match ringDist s east (nodePair me) (nodePair p.dst), ringDist s east (nodePair me) (nodePair p.src) with
      | some a, some b => if a < b then .out (if east then 512 else 528) else .unreachable
      | _, _ => .unreachable
  else if p.isRing && p.dst == me && nodeInfra p.src && nodeIndex p.src == nodeIndex me && nodePair p.src != nodePair me &&
      ((s.port port).partner.isNone || (s.port port).partner == some p.src) then .out outLocal
  else .refuse 4 stBadRequest

/-- The trunk port whose neighbour is a plane: a ring packet goes only to a ring neighbour (01 R20). With no such neighbour on a trunk that is up, the way
to it is a trunk that is down, where one is. -/
def trunkTo (s : State) (dst : Node) : Option Nat :=
  let first := ringPort s (nodePair dst)
  let both := [first, if first == 512 then 528 else 512]
  match both.find? (fun o => (s.port o).partner == some dst) with
  | some o => some o
  | none => both.find? (fun o => (s.port o).coreDown)

/-- The path of a packet of the local agents; `via` is the port its agent has chosen. A bridge reaches every node through its ports toward
the planes (10 R307). -/
def pathFromLocal (s : State) (via : Option Nat) (p : Packet) : Path :=
  let me := selfNode s
  if p.mcast then .out outMcast
  else if p.dst == me then .out outLocal
  else if s.svc.bridge then .out (if nodeInfra p.dst then nodeIndex p.dst else via.getD 0)
  else if nodePair p.dst == nodePair me then (if nodeInfra p.dst then .refuse 4 stBadRequest else .out (nodeIndex p.dst))
  else if p.isRing && nodeInfra p.dst && nodeIndex p.dst == nodeIndex me then
    (match via with
     | some o => .out o
     | none => match trunkTo s p.dst with | some o => .out o | none => .refuse 4 stBadRequest)
  else if p.isMsg && crossesTo me p.dst then .out (ringPort s (nodePair p.dst))
  else .refuse 4 stBadRequest

/-- The path of a packet, with checks 2 to 5. A message on a trunk whose pair is absent is judged by R356 alone. -/
def pathOf (s : State) (port : Nat) (via : Option Nat) (p : Packet) : Path :=
  let me := if port == outLocal then selfNode s else portSelf s port
  let r :=
    if port == outLocal then
      (if !s.svc.bridge && !p.mcast && unknownDst s (nodePair me) p then .refuse 3 stNodeUnknown else pathFromLocal s via p)
    else if s.svc.bridge then .out outLocal
    else if malformed2 p then .refuse 2 stBadRequest
    else if isTrunk port then
      (if (!p.isMsg || nodePair p.dst == nodePair me) && unknownDst s (nodePair me) p then .refuse 3 stNodeUnknown
       else pathFromTrunk s port me p)
    else if unknownDst s (nodePair me) p then .refuse 3 stNodeUnknown
    else pathFromEndpoint s me p
  match r with
  | .out o => if isPort o && (s.port o).coreDown then .down o else r
  | _ => r

/-- A CMPL that a plane makes of a refused request (04 R99). A bridge makes none for another node (10 R308); a request of its own completes in it (R163). -/
def refuseRequest (status : Nat) (p : Packet) (s : State) : State :=
  if s.svc.bridge && p.src != selfNode s then s else sendLocal (planeCmpl (selfNode s) p status) s

/-- What a packet that fails check 2, 3 or 4 turns into: a CMPL for a request, a recorded discard for any other packet. -/
def refusePacket (port check status : Nat) (p : Packet) (s : State) : State :=
  if p.isReq then refuseRequest status p s else discardMalformed port check p s

/-- What a packet toward an output that is down turns into (check 5): CMPL DEST_DOWN for a request; any other is discarded and counted at that output, the
home's own responses among them (R163). -/
def refuseDown (o : Nat) (p : Packet) (s : State) : State :=
  if p.isReq then refuseRequest stDestDown p s else s.onCnt o (fun c => { c with destDown := c.destDown + 1 })

/-! ### Class G (R145, R159, R160) -/

/-- The default profiles by colour. -/
def redDefault (colour : Nat) : RedProfile :=
  if colour == 0 then { minTh := 64, maxTh := 112, maxP := 4096 }
  else if colour == 1 then { minTh := 32, maxTh := 96, maxP := 8192 }
  else { minTh := 8, maxTh := 48, maxP := 16384 }

def redKey (line out : Nat) : Nat := line * 0x20000 + out
def redProfile (s : State) (out colour : Nat) : RedProfile := s.core.redProf.look (out * 4 + colour) (redDefault colour)

/-- Is a packet class G (R145)? -/
def isClassG (s : State) (port out : Nat) (p : Packet) : Bool :=
  p.vc.toNat == 4 && (isTrunk port || isTrunk out || (isPort port && (s.port port).bridge))

/-- The average after an attempt, in 2^-16 KiB: A + (q - A) / 2^W. -/
def redAverage (a q w : Nat) : Nat := (a * (2 ^ w - 1) + q) / 2 ^ w

/-- Is a random value of 32 bits below the drop probability of a profile at an average? -/
def redDrops (f : RedProfile) (a rnd : Nat) : Bool :=
  if a < f.minTh * 65536 then false
  else if f.maxTh * 65536 ≤ a then true
  else decide (rnd * (f.maxTh - f.minTh) < f.maxP * (a - f.minTh * 65536))

/-- Admit or drop a class G packet: the average moves, the colour picks the profile, an open random value decides; a line's 128 KiB of class
G, and the room of its queue, are never passed. -/
def redAttempt (port line out : Nat) (p : Packet) (s : State) : Bool × State :=
  let bytes := pktBytes p
  let c := colourOf port bytes s
  let s := c.2
  let a := redAverage (s.core.redAvg.look (redKey line out) 0) (gBytesFor s line out * 64) (s.core.redW.look out 9)
  let s := s.onCore (fun k => { k with redAvg := k.redAvg.put (redKey line out) a })
  let d := s.drawNat
  let drop := redDrops (redProfile s out c.1) a (d.1 % 2 ^ 32) || decide (131072 < gBytes s line + bytes) || !voqRoom s line out 4 bytes
  let s := d.2
  if drop then (false, s.onCore (fun k => { k with redDrops := k.redDrops.upd (redKey line out * 4 + c.1) 0 (· + 1) })) else (true, s)

/-- RED_PROFILE_SET (R160): MAX_P in 2^-16; W 0xFF keeps the output's. -/
def execRedProfileSet (h : MHdr) (output colour minTh maxTh maxP w : Nat) (s : State) : Host.Outcome State Fault Refusal :=
  command (.redProfileSet h output colour minTh maxTh maxP w) h { boxes := boxF } (fun s => portAbsent s output)
    (fun _ => !(isPort output || output == outLocal) || 2 < colour || maxTh < minTh || 65535 < maxP || (15 < w && w != 0xFF))
    (fun s => reply h msOk [] (s.onCore (fun c => { c with
      redProf := c.redProf.put (output * 4 + colour) { minTh := minTh, maxTh := maxTh, maxP := maxP }
      redW := if w == 0xFF then c.redW else c.redW.put output w }))) s

/-! ### Admission (R144, R146, R164) -/

/-- A packet goes into its virtual output queue. -/
def enterVoq (line out : Nat) (g : Bool) (p : Packet) (s : State) : State :=
  let e := if out == outMcast then (0, s) else takeOutLine line out s
  voqPush line out p.vc.toNat { pkt := p, eline := e.1, g := g } e.2

/-- Multicast packets whose room the engine has not reserved at injection: OP_DONE and OP_ABORT (R156). -/
def reservesNow (p : Packet) : Bool := p.mcast && p.op != opRedRes

/-- The packet at the head of a channel of a port, or of the local agents with the port its agent has chosen. -/
def headOf (port vc : Nat) (s : State) : Option (Packet × Option Nat) :=
  if port == outLocal then s.core.localTx.find? (fun x => x.1.vc.toNat == vc)
  else ((s.port port).rx.find? (fun k => k.vc.toNat == vc)).map (fun k => (k, none))

/-- It leaves its receive buffer. The reservation of a port whose link is down is released with the last packet (03 R69). -/
def takeHead (port : Nat) (x : Packet × Option Nat) (s : State) : State :=
  if port == outLocal then s.onCore (fun c => { c with localTx := c.localTx.erase x })
  else
    let s := s.onPort port (fun q => { q with rx := q.rx.erase x.1 })
    let q := s.port port
    if linkUp q then xoffUpdate port s
    else if q.rx.isEmpty && q.phase != .training 8 then s.onLink port (fun l => { l with reserved := [] })
    else s

/-- The check of 04 R90, 1 to 5, that a packet fails, as what becomes of it; none where it passes to an output. A bridge takes what is addressed to it, and
counts anything else as MISROUTED (10 R308). -/
def checkPacket (port : Nat) (via : Option Nat) (p : Packet) (s : State) : State ⊕ Nat :=
  if !srcOk s port p then .inl (discardSrc port p s)
  else if isPort port && s.svc.bridge && p.dst != portSelf s port && !p.mcast then .inl (s.onCnt port (fun c => { c with misrouted := c.misrouted + 1 }))
  else
    match pathOf s port via p with
    | .out o => .inr o
    | .refuse check status => .inl (refusePacket port check status p s)
    | .down o => .inl (refuseDown o p s)
    | .unreachable => .inl (s.onCnt port (fun c => { c with ringUnreachable := c.ringUnreachable + 1 }))

/-- Does a refused packet have to wait, for the CMPL made of it has no room in the local queues (R142)? -/
def refusalWaits (s : State) (p : Packet) : Bool := p.isReq && (!s.svc.bridge || p.src == selfNode s) && !localRoom s 1

/-- Room for a class M packet: its channel and its queue on the line, and for a multicast packet its stores (R146, R156). -/
def roomFor (s : State) (port out : Nat) (p : Packet) : Bool :=
  voqRoom s (takeInLine port s).1 out p.vc.toNat (pktBytes p) && (!reservesNow p || mcRoom s (mcastPorts s p) (pktBytes p))

/-- May the head of a channel be admitted: a class M packet that passes its checks and has room? -/
def mayEnter (port : Nat) (s : State) (vc : Nat) : Bool :=
  match headOf port vc s with
  | some x =>
    match checkPacket port x.2 x.1 s with
    | .inr o => !isClassG s port o x.1 && roomFor s port o x.1
    | .inl _ => false
  | none => false

/-- Attachments that hold a packet, and those of one line that ask for admission (R164). -/
def attached (s : State) : List Nat :=
  (s.ports.filter (fun q => !q.2.rx.isEmpty)).map (fun q => q.1) ++ (if s.core.localTx.isEmpty then [] else [outLocal])
def admissionAsks (line : Nat) (s : State) : List Nat :=
  (attached s).filter (fun a => (takeInLine a s).1 == line && (List.range 6).any (mayEnter a s))

/-- The class M packet at the head of a channel is admitted. -/
def admitHead (port vc : Nat) (s : State) : State :=
  match headOf port vc s with
  | none => s
  | some x =>
    match checkPacket port x.2 x.1 s with
    | .inl _ => s
    | .inr o =>
      let s := takeHead port x s
      let l := takeInLine port s
      enterVoq l.1 o false x.1 (if reservesNow x.1 then mcReserve (mcastPorts s x.1) (pktBytes x.1) l.2 else l.2)

/-- Round robin by attachment (R164). -/
def admissionContest (line : Nat) : Contest := { asks := admissionAsks line, pick := fun _ => rrPick }

/-- The channel on which an attachment is admitted: the one presented, else the first on which it may be (log entry 68). -/
def admitOne (port vc a : Nat) (s : State) : State :=
  let ch := if a == port && mayEnter port s vc then some vc else (List.range 6).find? (mayEnter a s)
  match ch with
  | some v => admitHead a v s
  | none => s

/-- A class G packet is admitted or dropped, and never waits (R146). -/
def admitG (port out : Nat) (x : Packet × Option Nat) (s : State) : State :=
  let s := takeHead port x s
  let l := takeInLine port s
  let r := redAttempt port l.1 out x.1 (onArb (arbKey arbAdmission l.1) (arbCount false [port] (some port)) l.2)
  if r.1 then enterVoq l.1 out true x.1 r.2 else r.2

/-- PACKET_ADMISSION (R144, R146): the head of one channel of a port, or of the local agents (port 0xFFFF), is presented. A packet that fails a check goes at
once, a class G packet is admitted or dropped, and for class M the admission arbiter of the line decides; the packets it does not choose wait. -/
def admission (port vc : Nat) (s : State) : State :=
  match headOf port vc s with
  | none => s
  | some x =>
    match checkPacket port x.2 x.1 s with
    | .inl _ =>
      if refusalWaits s x.1 then s
      else match checkPacket port x.2 x.1 (takeHead port x s) with | .inl t => t | .inr _ => s
    | .inr o =>
      if isClassG s port o x.1 then admitG port o x s
      else
        let line := (takeInLine port s).1
        decide_ false (arbKey arbAdmission line) (admissionContest line) (admissionContest line) (fun _ r => r) (admitOne port vc) s

/-- Requests and contributions that waited for room in the local queues go on. -/
def pumpAfter (port : Nat) (s : State) : State := if port == outLocal then contributeAll (pump (fillLocal s)) else s

def execPacketAdmission (port vc : Nat) (s : State) : Host.Outcome State Fault Refusal :=
  if !(isPort port || port == outLocal) || 6 ≤ vc then .fault .noSuchUnit
  else .next (if !isReady s || (port == outLocal && s.svc.node.isNone) then s else pumpAfter port (admission port vc s))

/-- TRUNK_MESSAGE_ARRIVAL (12 R356): a message received on a trunk port is delivered, forwarded in its direction, or discarded. -/
def execTrunkMessageArrival (port : Nat) (p : Packet) (s : State) : Host.Outcome State Fault Refusal :=
  if !isTrunk port then .fault .noSuchUnit
  else .next (
    if !isReady s || s.svc.node.isNone || !p.isMsg then s
    else
      match checkPacket port none p s with
      | .inl _ => (match checkPacket port none p (takeHead port (p, none) s) with | .inl t => t | .inr _ => s)
      | .inr o => admitG port o (p, none) s)

/-! ### What an output takes (R152, R173) -/

/-- A ring packet this part passes on, rather than injects (08 R246). -/
def ringTransit (s : State) (k : Packet) : Bool :=
  match s.op k.group with
  | some op =>
    let g := ringPayload op.prog k.chunk k.pidx
    let me := ringPosOf op.prog (nodePair (selfNode s))
    if k.op == opRingPart then me != some (ringFirstPos op.prog g)
    else k.op == opRingRes && me != some (ringLastPos op.prog g)
  | none => false

/-- Transit through a trunk (R173): a message from another pair, or a ring packet passed on. -/
def isTransit (s : State) (k : Packet) : Bool :=
  if k.isMsg then nodePair k.src != nodePair (selfNode s) else ringTransit s k

/-- What a walk over the packets that wait at an output has reached: the state, and the queues in which a packet, or a local one, is still waiting. -/
structure Drain where
  st : State
  shut : List Nat := []
  shutLocal : List Nat := []

/-- One packet that waits at a trunk port for the bubble rule enters its ring buffer, unless one before it in its queue holds it back: a refused packet holds back
those behind it, but a packet from local injection never holds back transit, which one free place is enough for (R173). -/
def drainOne (p : Nat) (d : Drain) (k : Packet) : Drain :=
  let q := trunkQueueOf k
  let transit := isTransit d.st k
  if d.shut.contains q || (!transit && d.shutLocal.contains q) then d
  else match trunkEnqueue p transit k (d.st.onPort p (fun y => { y with tx := y.tx.erase k })) with
    | some t => { d with st := outputTook p k t }
    | none => if transit then { d with shut := q :: d.shut } else { d with shutLocal := q :: d.shutLocal }

/-- Packets that wait at a trunk port enter its ring buffers. -/
def drainTrunk (p : Nat) (s : State) : State := ((s.port p).tx.foldl (drainOne p) { st := s }).st

/-- One packet that waits at the local output enters the agents' queue, where its channel has room there (R142). -/
def drainLocalOne (d : Drain) (k : Packet) : Drain :=
  let vc := k.vc.toNat
  if d.shut.contains vc then d
  else if localCap < localBytes vc d.st.core.localRx + 16 * k.len then { d with shut := vc :: d.shut }
  else
    { d with st := noteSent k (outputTook outLocal k (d.st.onCore (fun c => { c with localWait := c.localWait.erase k, localRx := c.localRx ++ [k] }))) }

def drainLocal (s : State) : State := (s.core.localWait.foldl drainLocalOne { st := s }).st

/-- A packet whose last cell has been released goes to its output. -/
def toOutput (out : Nat) (k : Packet) (s : State) : State :=
  if out == outLocal then drainLocal (s.onCore (fun c => { c with localWait := c.localWait ++ [k] }))
  else
    let s := s.onPort out (fun q => { q with tx := q.tx ++ [k] })
    if isTrunk out then drainTrunk out s else s

/-! ### Stage 1 (R147 to R150) -/

/-- Fill a cell from the packets of one queue that are bound for one egress line: the packets that end in it, what stays, and the granules of
the new head already sent. -/
def fillCell (eline : Nat) : List QPkt → Nat → Nat → List Packet × List QPkt × Nat
  | [], _, _ => ([], [], 0)
  | q :: r, sent, room =>
    if room = 0 ∨ q.eline ≠ eline then ([], q :: r, sent)
    else if q.pkt.len - sent ≤ room then
      let x := fillCell eline r 0 (room - (q.pkt.len - sent))
      (q.pkt :: x.1, x.2.1, x.2.2)
    else ([], q :: r, sent + room)

/-- A multicast cell carries one packet, with the egress lines to copy it to. -/
def mcastCell (s : State) (line vc : Nat) (q : QPkt) : Cell :=
  { line := line, out := outMcast, vc := vc, eline := 0, cycle := s.core.cycle, ends := [q.pkt],
    mcast := some (linesOf (mcastPorts s q.pkt)) }

/-- Put a cell into an intermediate queue. -/
def putCell (j : Nat) (c : Cell) (s : State) : State := s.onCore (fun k => { k with iqs := k.iqs.upd j [] (fun l => l ++ [c]) })

/-- Change the packets of one virtual output queue; an empty queue is forgotten. -/
def setVoq (line out vc : Nat) (pkts : List QPkt) (sent : Nat) (s : State) : State :=
  s.onCore (fun c => { c with
    voqs := (c.voqs.map (fun v => if isVoq line out vc v then { v with pkts := pkts, sent := sent } else v)).filter (fun v => !v.pkts.isEmpty) })

/-- One cell leaves a virtual output queue toward an intermediate queue. -/
def sendCell (v : Voq) (j : Nat) (s : State) : State :=
  match v.pkts with
  | [] => s
  | q :: rest =>
    if v.out == outMcast then
      let left := q.pkt.len - v.sent
      let s := if left ≤ 8 then setVoq v.line v.out v.vc rest 0 s else setVoq v.line v.out v.vc v.pkts (v.sent + 8) s
      putCell j (mcastCell s v.line v.vc q) s
    else
      let slot := (freeSlot s (slotCells s q.eline) q.eline v.line v.vc).getD 0
      let x := fillCell q.eline v.pkts v.sent 8
      let k := flowKey v.line v.out v.vc q.eline
      let n := s.core.flowTx.look k 0
      let cell : Cell := { line := v.line, out := v.out, vc := v.vc, eline := q.eline, seq := n, cycle := s.core.cycle, slot := slot,
                           ends := x.1, tail := x.2.2 != 0 }
      let s := setVoq v.line v.out v.vc x.2.1 x.2.2 s
      putCell j cell (s.onCore (fun c => { c with
        flowTx := c.flowTx.put k (n + 1)
        loans := c.loans.map (fun l => if l.eline == q.eline && l.index + 1 == slot then { l with used := true } else l) }))

/-- May the head of a queue send a cell: a slot and no stop flag; a multicast cell needs neither. -/
def voqReady (s : State) (v : Voq) : Bool :=
  match v.pkts with
  | [] => false
  | q :: _ =>
    if v.out == outMcast then true
    else
      let cells := slotCells s q.eline
      (freeSlot s cells q.eline v.line v.vc).isSome && !stopped s cells v.out v.vc

/-- A stage 1 requester: the queue by output and channel. -/
def voqReq (v : Voq) : Nat := v.out * 8 + v.vc

/-- Round-robin positions of a stage 1 arbiter, packed: the channel served last, and the output served last on each channel. -/
def rrDigit (rr k : Nat) : Nat := rr / 2 ^ (18 * k) % 2 ^ 18
def rrPut (rr k v : Nat) : Nat := rr - rrDigit rr k * 2 ^ (18 * k) + v * 2 ^ (18 * k)

/-- MGT first, then round robin over the other channels, then over outputs. -/
def stage1Pick (rr : Nat) (es : List Nat) : Option Nat :=
  let chans := (es.map (· % 8)).eraseDups
  let ch := if chans.contains 5 then some 5 else rrPick (rrDigit rr 0) chans
  match ch with
  | some c => (rrPick (rrDigit rr (1 + c)) ((es.filter (fun e => e % 8 == c)).map (· / 8))).map (fun o => o * 8 + c)
  | none => none
def stage1Next (rr r : Nat) : Nat :=
  let rr := rrPut rr (1 + r % 8) (r / 8)
  if r % 8 == 5 then rr else rrPut rr 0 (r % 8)

/-- The requesters of a line's stage 1. -/
def stage1Contest (i : Nat) : Contest :=
  { asks := fun s => (s.core.voqs.filter (fun v => v.line == i && voqReady s v)).map voqReq, pick := fun _ => stage1Pick }

/-- Stage 1 of an ingress line in the present cycle. -/
def stage1 (s : State) (i : Nat) : State :=
  if !s.core.voqs.any (fun v => v.line == i) && (arbOf s (arbKey arbStage1 i)).chosen.isNone then s
  else decide_ true (arbKey arbStage1 i) (stage1Contest i) (stage1Contest i) stage1Next
    (fun r s => match s.core.voqs.find? (isVoq i (r / 8) (r % 8)) with
      | some v => sendCell v ((i + s.core.cycle) % 64) s
      | none => s) s

/-! ### The slot lender (R148) -/

/-- The first queue of an ingress line that could send a cell to an egress line if it had a slot. -/
def askingLoan (s : State) (eline i : Nat) : Option Voq :=
  s.core.voqs.find? (fun v => v.line == i && v.out != outMcast && (match v.pkts with
    | q :: _ =>
      let cells := slotCells s eline
      q.eline == eline && (freeSlot s cells eline i v.vc).isNone && !stopped s cells v.out v.vc && (lendable s eline v.vc).isSome
    | [] => false))

/-- One loan at most per egress line and cycle. -/
def lendSlots (s : State) (e : Nat) : State :=
  if !s.core.voqs.any (fun v => v.pkts.any (fun q => q.eline == e)) && (arbOf s (arbKey arbLender e)).chosen.isNone then s
  else
    let c : Contest := { asks := fun s => (List.range 64).filter (fun i => (askingLoan s e i).isSome), pick := fun _ => rrPick }
    decide_ true (arbKey arbLender e) c c (fun _ r => r)
      (fun i s => match askingLoan s e i with
        | some v => match lendable s e v.vc with
          | some k => s.onCore (fun c => { c with loans := c.loans ++ [{ eline := e, index := k, iline := i, vc := v.vc }] })
          | none => s
        | none => s) s

/-! ### Stage 2 (R151, R156) -/

/-- Cells of a queue that may leave in the present cycle toward an egress line. -/
def uniCell (s : State) (j e : Nat) : Option Cell :=
  (s.core.iqs.look j []).find? (fun c => c.mcast.isNone && c.eline == e && decide (c.cycle < s.core.cycle))
def mcCell (s : State) (j e : Nat) : Option Cell :=
  (s.core.iqs.look j []).find? (fun c => decide (c.cycle < s.core.cycle) && (match c.mcast with | some l => l.contains e | none => false))

/-- Replace one cell of an intermediate queue, or take it out. -/
def swapCell (j : Nat) (c : Cell) (n : Option Cell) (s : State) : State :=
  s.onCore (fun k => { k with iqs := k.iqs.upd j [] (fun l =>
    match n with
    | some x => l.map (fun y => if y == c then x else y)
    | none => l.erase c) })

/-- A multicast packet is whole in a line's store when no cell of it is still due there. -/
def mcWhole (s : State) (e : Nat) (p : Packet) : Bool :=
  !s.core.iqs.any (fun q => q.2.any (fun c => c.ends == [p] && (match c.mcast with | some l => l.contains e | none => false))) &&
  !s.core.voqs.any (fun v => v.out == outMcast && (match v.pkts with | q :: _ => q.pkt == p && v.sent != 0 | [] => false))

/-- A line offers a whole multicast packet to its member ports: the ready ones take their copy at once, the others form the residue. -/
def mcOffer (e : Nat) (p : Packet) (s : State) : State :=
  let ports := (mcastPorts s p).filter (fun o => fixedLine o == e && !(s.port o).coreDown)
  let ready := ports.filter (fun o => mcReady s o p.vc.toNat)
  let rest := (List.range 8).map (· + 8 * e) |>.filter (fun o => ports.contains o && !ready.contains o)
  let s := ready.foldl (fun s o => s.onPort o (fun q => { q with tx := q.tx ++ [p] })) s
  mcFree e (s.onCore (fun c => { c with mcStore := c.mcStore.upd e [] (fun l => l ++ [{ pkt := p, residue := rest }]) }))

/-- A copy of a multicast cell reaches an egress line. -/
def copyCell (j e : Nat) (c : Cell) (s : State) : State :=
  let left := (c.mcast.getD []).filter (fun x => x != e)
  let s := swapCell j c (if left.isEmpty then none else some { c with mcast := some left }) s
  match c.ends with
  | p :: _ => if mcWhole s e p then mcOffer e p s else s
  | [] => s

/-- A unicast cell reaches the resequencer of its egress line. -/
def deliverCell (j e : Nat) (c : Cell) (s : State) : State :=
  (swapCell j c none s).onCore (fun k => { k with reseq := k.reseq.upd e [] (fun l => l ++ [c]) })

/-- Requesters of a queue: 0 a unicast cell, 1 a multicast copy, for the connected line. -/
def stage2Asks (s : State) (j e : Nat) : List Nat :=
  (if (uniCell s j e).isSome then [2 * e] else []) ++ (if (mcCell s j e).isSome then [2 * e + 1] else [])

/-- A connection's turns: multicast copies and unicast cells alternately (R156). -/
def mcTurnKey (j e : Nat) : Nat := j * 64 + e
/-- The requesters of a connection, and the one whose turn it is. -/
def stage2Contest (j e : Nat) : Contest :=
  { asks := fun s => stage2Asks s j e
    pick := fun s _ es =>
      let uniTurn := s.core.mcTurn.look (mcTurnKey j e) false
      match es.find? (fun r => (r % 2 == 0) == uniTurn) with | some r => some r | none => es.head? }

/-- Stage 2 of an intermediate queue: multicast and unicast alternate, the oldest first within each. The next cycle connects the next egress line. -/
def stage2 (s : State) (j : Nat) : State :=
  if (s.core.iqs.look j []).isEmpty && (arbOf s (arbKey arbStage2 j)).chosen.isNone then s
  else
    let e := (s.core.cycle + 64 - j % 64) % 64
    decide_ true (arbKey arbStage2 j) (stage2Contest j e) (stage2Contest j ((e + 1) % 64)) (fun rr _ => rr)
      (fun r s =>
        let s := s.onCore (fun c => { c with mcTurn := c.mcTurn.put (mcTurnKey j e) (r % 2 == 1) })
        if r % 2 == 0 then (match uniCell s j e with | some c => deliverCell j e c s | none => s)
        else (match mcCell s j e with | some c => copyCell j e c s | none => s)) s

/-! ### The resequencer (R152) -/

/-- One cell of an egress line in the order of its flow; packets that end in it go to their output. -/
def release (s : State) (e : Nat) : State :=
  match (s.core.reseq.look e []).find? (fun c => c.seq == s.core.flowRx.look c.flow 0) with
  | none => s
  | some c =>
    let s := s.onCore (fun k => { k with
      reseq := k.reseq.upd e [] (fun l => l.erase c)
      flowRx := k.flowRx.put c.flow (c.seq + 1)
      held := k.held.upd c.flow [] (fun l => l ++ [c]) })
    c.ends.foldl (fun s p => toOutput c.out p s) s

/-! ### RESIDUE_SERVICE (R157) -/

/-- Ports of a residue from the pointer, in increasing order, wrapping. -/
def fromPointer (ptr : Nat) (l : List Nat) : List Nat := l.filter (fun p => decide (ptr ≤ p)) ++ l.filter (fun p => decide (p < ptr))

/-- The ready residue ports of an entry, in service order. -/
def residueReady (s : State) (x : McEntry) : List Nat := (fromPointer x.pointer x.residue).filter (fun p => mcReady s p x.pkt.vc.toNat)

/-- A residue port takes its copy. -/
def serveResidue (line : Nat) (x : McEntry) (p : Nat) (s : State) : State :=
  let s := s.onPort p (fun q => { q with tx := q.tx ++ [x.pkt] })
  mcFree line (s.onCore (fun c => { c with mcStore := c.mcStore.upd line [] (fun l =>
    l.map (fun y => if y == x then { y with residue := y.residue.filter (· != p), pointer := p + 1 } else y)) }))

/-- The oldest entry of a line that waits for a port which is ready. -/
def residueFor (line port : Nat) (s : State) : Option McEntry :=
  (s.core.mcStore.look line []).find? (fun x => (residueReady s x).contains port)

/-- The ready residue ports of a line: those of its oldest entry first, each entry's in service order. -/
def residueAsks (line : Nat) (s : State) : List Nat := ((s.core.mcStore.look line []).flatMap (residueReady s)).eraseDups

/-- A line's residue arbiter once a port has become ready: it serves the oldest entry that waits for that port. -/
def residueContest (line port : Nat) : Contest :=
  { asks := residueAsks line
    pick := fun s _ _ => (residueFor line port s).bind (fun x => (residueReady s x).head?) }

/-- The same for the copy after it, of whichever entry is then the oldest with a ready port. -/
def residueLater (line : Nat) : Contest := { asks := residueAsks line, pick := fun _ _ es => es.head? }

/-- RESIDUE_SERVICE: a residue port has become ready; the line serves the oldest entry that waits for it, from its pointer. -/
def execResidueService (line port : Nat) (s : State) : Host.Outcome State Fault Refusal :=
  if 64 ≤ line || !isPort port then .fault .noSuchUnit
  else .next (
    if !isReady s || ((residueFor line port s).isNone && (arbOf s (arbKey arbResidue line)).chosen.isNone) then s
    else
      decide_ false (arbKey arbResidue line) (residueContest line port) (residueLater line) (fun rr _ => rr)
        (fun p s => match residueFor line p s with | some x => serveResidue line x p s | none => s) s)

/-! ### EGRESS_DECISION (R165, R139) -/

/-- The packet at the head of a channel of a port, where it may start: on a trunk from its queues, elsewhere from the egress queue; REQ serves
sources round robin. -/
def egressHead (s : State) (p vc : Nat) : Option Packet :=
  let q := s.port p
  if q.link.xoffIn.getLsbD vc then none
  else if isTrunk p then
    (if vc == 4 then (msgQueue s p).bind (fun k => trunkHead s p k)
     else if vc == 5 then trunkHead s p 0 else if vc == 2 then trunkHead s p 1 else if vc == 3 then trunkHead s p 2 else none)
  else if vc == 0 then
    (rrPick q.rrSrc ((q.tx.filter (fun k => k.isReq)).map (fun k => k.src.toNat))).bind
      (fun n => q.tx.find? (fun k => k.isReq && k.src.toNat == n))
  else q.tx.find? (fun k => k.vc.toNat == vc)

/-- Channels with a packet that may start now, while the retry buffer has room for a flit (03 R66). -/
def egressAsks (p : Nat) (s : State) : List Nat :=
  if 128 ≤ (s.port p).link.retryBuf.length then [] else (List.range 6).filter (fun vc => (egressHead s p vc).isSome)

/-- The requesters of an egress arbiter as R168 counts them: the channels that ask and, on REQ, the sources, numbered from 16 (log entry 69). -/
def egressRequesters (p : Nat) (s : State) : List Nat :=
  let chans := egressAsks p s
  chans ++ (if chans.contains 0 then (((s.port p).tx.filter (fun k => k.isReq)).map (fun k => 16 + k.src.toNat)).eraseDups else [])

/-- Deficit round robin with a quantum of 12 granules over the five channels but MGT: the channel to serve, of those wanted, and the deficits. -/
def drr (size : Nat → Nat) (asks : List Nat) (want : Nat → Bool) : Nat → Nat → Map Nat → Option (Nat × Map Nat)
  | 0, _, _ => none
  | n + 1, cur, d =>
    if asks.contains cur && want cur && decide (size cur ≤ d.look cur 0) then some (cur, d.put cur (d.look cur 0 - size cur))
    else
      let d := if asks.contains cur then d else d.put cur 0
      let c := (cur + 1) % 5
      drr size asks want n c (if asks.contains c then d.put c (d.look c 0 + 12) else d)

/-- Granules of the head of a channel. -/
def headLen (s : State) (p vc : Nat) : Nat := match egressHead s p vc with | some k => k.len | none => 0

/-- The round robin of a port, for one of the channels wanted. -/
def egressRobin (p : Nat) (s : State) (asks : List Nat) (want : Nat → Bool) : Option (Nat × Map Nat) :=
  drr (headLen s p) (asks.filter (fun c => c != 5)) want 90 (s.port p).rr (s.port p).deficit

/-- The channel to serve: MGT within its share, else the round robin over the others; MGT beyond its share when no other asks. -/
def egressPick (p : Nat) (s : State) (asks : List Nat) : Option Nat :=
  if asks.contains 5 && decide (16 * (headLen s p 5 : Int) ≤ (s.port p).mgtAllow) then some 5
  else match egressRobin p s asks (fun _ => true) with
    | some x => some x.1
    | none => if asks.contains 5 then some 5 else none

/-- The allowance after the granules of a packet: each adds 1/16, and an MGT granule takes 1. -/
def allowAfter (mgt : Bool) : Nat → Int → Int
  | 0, a => a
  | n + 1, a => allowAfter mgt n (min 192 (a + 1) - (if mgt then 16 else 0))

/-- A packet starts on a port: its granules go out from the next flit on, and the allowance moves. -/
def startPacket (p : Nat) (k : Packet) (s : State) : State :=
  s.onPort p (fun q => { q with
    mgtAllow := allowAfter (k.vc.toNat == 5) k.len q.mgtAllow
    rrSrc := if k.isReq then k.src.toNat else q.rrSrc
    link := { q.link with txOpen := k.toGranules, txPkt := some k } })

/-- The chosen channel's packet leaves the core for the link; its channel is charged in the round robin, and its source is granted. -/
def serveChannel (p vc : Nat) (s : State) : State :=
  match egressHead s p vc with
  | none => s
  | some k =>
    let s := if vc == 5 then s
      else match egressRobin p s (egressAsks p s) (fun c => c == vc) with
        | some x => s.onPort p (fun q => { q with rr := x.1, deficit := x.2 })
        | none => s
    let s := if k.isReq then onArb (arbKey arbEgress p) (arbCount false [16 + k.src.toNat] (some (16 + k.src.toNat))) s else s
    let s := if isTrunk p then trunkPop p (trunkQueueOf k) s else outputTook p k (s.onPort p (fun q => { q with tx := q.tx.erase k }))
    let s := startPacket p k s
    if isTrunk p then drainTrunk p s else s

/-- A port's decision: its channels under R165. -/
def egressContest (p : Nat) : Contest := { asks := egressAsks p, pick := fun s _ es => egressPick p s es }

/-- The next flit of the started packet: START in its first, END in its last; each packet begins a flit, and what its last leaves over is padding (03 R60; log
entry 70). The flit joins the retry buffer; with the last granule a request's timer starts (10 R294). -/
def nextFlit (p : Nat) (first : Bool) (s : State) : State :=
  let l := (s.port p).link
  let now := l.txOpen.take 15
  let rest := l.txOpen.drop 15
  let f := flitNow l (if first then 1 else 0) (now ++ List.replicate (15 - now.length) 0) l.nextSeq (if rest.isEmpty then 2 ^ (now.length - 1) else 0)
  let s := s.onLink p (fun l => { l with
    txOpen := rest
    txPkt := if rest.isEmpty then none else l.txPkt
    sentPkts := match l.txPkt with | some k => if rest.isEmpty then l.sentPkts ++ [(l.nextSeq, k)] else l.sentPkts | none => l.sentPkts
    retryBuf := l.retryBuf ++ [f]
    nextSeq := l.nextSeq + 1
    nakDue := false
    txAt := if l.retryBuf.isEmpty then s.svc.now else l.txAt
    txExpiries := if l.retryBuf.isEmpty then 0 else l.txExpiries })
  let s := putFlit p f s
  match l.txPkt with
  | some k => if rest.isEmpty then noteSent k s else s
  | none => s

/-- The next flit of the retry buffer goes out again: FLIT_HDR, PAYLOAD, FSEQ and END as they were, the link control of the moment, a CRC computed afresh
(03 R67, R68). The 2 us wait of the oldest flit begins again when it is resent, as at the expiry before: 03 R67 does not say (DESIGN CHOICE, log entry 79). -/
def resendFlit (p : Nat) (s : State) : State :=
  let l := (s.port p).link
  match l.retryBuf.drop (l.retryBuf.length - l.resend) with
  | [] => s.onLink p (fun l => { l with resend := 0 })
  | f :: _ =>
    putFlit p (flitNow l f.hdr f.pay f.fseq f.fin) (s.onLink p (fun l => { l with
      resend := l.resend - 1
      nakDue := false
      txAt := if l.resend == l.retryBuf.length then s.svc.now else l.txAt }))

/-- A flit of the packet in progress goes out; with its last one, the last beat of the transfer, the arbiter may choose the next packet (R166). -/
def beat (p : Nat) (first : Bool) (s : State) : State :=
  let s := nextFlit p first s
  if (s.port p).link.txOpen.isEmpty then chooseNext (arbKey arbEgress p) (egressContest p) s else s

/-- A flit boundary where a packet is open: its next flit, or an IDLE while the retry buffer is full (03 R66). -/
def openBoundary (p : Nat) (s : State) : State :=
  if (s.port p).link.retryBuf.length < 128 then beat p false s else sendCtl p ctIdle 0 s

/-- A flit boundary where none is open: the arbiter's packet starts, or an IDLE goes out (03 R59). -/
def freeBoundary (p : Nat) (s : State) : State :=
  let s := if isTrunk p then advanceShapers p (now16 s) (gatesNow p s) else s
  let d := decideNow false (arbKey arbEgress p) (egressContest p) (fun rr _ => rr) (serveChannel p) s
  if (d.st.port p).link.txOpen.isEmpty then sendCtl p ctIdle 0 (if d.gone then chooseNext (arbKey arbEgress p) (egressContest p) d.st else d.st)
  else beat p true d.st

/-- EGRESS_DECISION: one flit boundary of a port that is up. Flits of the retry buffer that are due again go first (03 R67), then the packet in progress, then
the packet that the arbiter picks. -/
def execEgressDecision (port : Nat) (s : State) : Host.Outcome State Fault Refusal :=
  if !isPort port then .fault .noSuchUnit
  else .next (
    if !isReady s || (s.port port).phase != .up then s
    else if 0 < (s.port port).link.resend then resendFlit port s
    else if (s.port port).link.txOpen.isEmpty then freeBoundary port s
    else openBoundary port s)

/-! ### CORE_CYCLE -/

/-- An uncorrectable packet-buffer error (15 R425): the packet at the head of the queue is discarded and recorded; on RUP, RDN or MGT the
plane originates DATA_LOST for its operation. The timer of a request of the part's own runs from now, for it leaves no more (DEDUCED, log entry 80); a member whose result is lost so has one that it cannot place (08 R227). -/
def sramHit (h : SramHit) (s : State) : State :=
  if h.corrected then recordCorrected kCore 0 s
  else
  let s := recordErr kCore 0 0x20 2 (leBytes h.region 1 ++ leBytes h.addr 5) s
  match s.core.voqs.find? (isVoq h.line h.out h.vc) with
  | none => s
  | some v =>
    match v.pkts with
    | [] => s
    | q :: rest =>
      let s := noteSent q.pkt (setVoq h.line h.out h.vc rest 0 s)
      let s := if h.out == outMcast then
          s.onCore (fun c => { c with
            iqs := c.iqs.each (fun _ l => l.filter (fun x => !(x.mcast.isSome && x.ends == [q.pkt])))
            mcReserved := (linesOf (mcastPorts s q.pkt)).foldl (fun m e => m.upd e 0 (fun n => n - pktBytes q.pkt)) c.mcReserved })
        else s
      let s := s.onMember q.pkt.group (fun m => if resultOf m q.pkt then { m with unplaced := true } else m)
      if (namedOp s q.pkt).isSome then originate q.pkt.group rsDataLost none s else s

/-- Wait cycles of the arbiters that decide outside the core's own cycle (R168): attachments that ask for admission, ready residue ports, and the channels and
sources that ask at a port. -/
def outerWaits (s : State) : State :=
  let lines := ((attached s).map (fun a => (takeInLine a s).1)).eraseDups
  let s := lines.foldl (fun s l => arbWaits (arbKey arbAdmission l) (admissionAsks l s) s) s
  let s := s.core.mcStore.foldl (fun s e => arbWaits (arbKey arbResidue e.1) (residueAsks e.1 s) s) s
  (s.ports.filter (fun q => q.2.phase == .up)).foldl (fun s q => arbWaits (arbKey arbEgress q.1) (egressRequesters q.1 s) s) s

/-- CORE_CYCLE (R150 to R152): loans, stage 2, stage 1, the resequencers, what waits at the outputs, and the next cycle. -/
def execCoreCycle (hit : Option SramHit) (s : State) : Host.Outcome State Fault Refusal :=
  .next (
    if !isReady s then s
    else
      let s := match hit with | some h => sramHit h s | none => s
      let s := (List.range 64).foldl lendSlots (returnLoans s)
      let s := (List.range 64).foldl stage2 s
      let s := (List.range 64).foldl stage1 s
      let s := (List.range 64).foldl release s
      let s := drainTrunk 528 (drainTrunk 512 (drainLocal (outerWaits s)))
      s.onCore (fun c => { c with cycle := c.cycle + 1, arbs := c.arbs.each (fun _ a => { a with served := [] }) }))

end Sys2Proof.Machine
end

