-- ==== Sys2Proof/Machine/Home.lean ====
section
/-! DEFINITION. The home of the exported HBM (05, 10 R298, R305, R306): the sequence windows and the sluice (R121 to R128), the order of the checks
(04 R90, R479), line operations and atomics (04 R91 to R93, R102 to R107), hot lines (R140), and the export. -/

namespace Sys2Proof.Machine

open Sys2Proof

/-! ### Sequence windows (R121, R123, R128) -/

/-- How far a SEQ lies above L, modulo 2^16. -/
def seqAbove (low seq : BitVec 16) : Nat := (seq - low).toNat
/-- In the window [L, L + 4,096). -/
def inWindow (low seq : BitVec 16) : Bool := decide (seqAbove low seq < 4096)
/-- Accounted below the window, in [L - 4,096, L). -/
def belowWindow (low seq : BitVec 16) : Bool := decide (61440 ≤ seqAbove low seq)
/-- Order of SEQs around L. -/
def seqRank (low seq : BitVec 16) : Nat := (seqAbove low seq + 32768) % 65536
def seqLt (low a b : BitVec 16) : Bool := decide (seqRank low a < seqRank low b)

/-- L passes every accounted SEQ. -/
def raiseLow : Nat → BitVec 16 → List (BitVec 16 × Nat) → BitVec 16 × List (BitVec 16 × Nat)
  | 0, low, l => (low, l)
  | n + 1, low, l => if l.any (fun x => x.1 == low) then raiseLow n (low + 1) (l.filter (fun x => x.1 != low)) else (low, l)

/-- Failures that lie far below L keep their place below every later SEQ. -/
def keepFailure (low : BitVec 16) (f : Failure) : Failure :=
  if seqRank low f.seq < 28672 || inWindow low f.seq == false && seqAbove low f.seq < 32768 then { f with seq := low - 4096 } else f

/-- Has a RELEASE below L that ended answered for a failure: its tenant's, above it, with no held RELEASE of the tenant between (R125)? -/
def spent (w : SrcWin) (f : Failure) : Bool :=
  w.early.any (fun e => e.2 == f.tenant && !inWindow w.low e.1 && seqLt w.low f.seq e.1 &&
    !w.held.any (fun h => h.pkt.tenant.toNat == f.tenant && seqLt w.low f.seq h.pkt.seq && seqLt w.low h.pkt.seq e.1))

/-- What no later RELEASE can meet is forgotten: the failures that are answered for, and the RELEASE requests below L that have ended. -/
def tidyWin (w : SrcWin) : SrcWin :=
  { w with failures := w.failures.filter (fun f => !spent w f), early := w.early.filter (fun e => inWindow w.low e.1) }

/-- Account a SEQ at a moment. What an earlier request has left behind is tidied first; the request accounted here notes its failure afterwards. -/
def accountSeq (now : Nat) (seq : BitVec 16) (w : SrcWin) : SrcWin :=
  let w := tidyWin w
  let r := raiseLow (w.above.length + 1) w.low (w.above ++ [(seq, now)])
  { w with low := r.1, above := r.2, last := now, failures := w.failures.map (keepFailure r.1) }

/-- The window of a source; the first SEQ that arrives becomes L (R128). -/
def openWin (src : Nat) (seq : BitVec 16) (s : State) : State :=
  match s.home.wins.find src with
  | some _ => s
  | none => s.onWin src (fun w => { w with low := seq, last := s.svc.now })

/-- Is a SEQ new, already accounted, or outside? -/
inductive SeqClass where
  | fresh
  | duplicate
  | outside
  deriving DecidableEq, Repr

def seqClass (w : SrcWin) (seq : BitVec 16) : SeqClass :=
  if inWindow w.low seq then (if w.above.any (fun x => x.1 == seq) then .duplicate else .fresh)
  else if belowWindow w.low seq then .duplicate
  else .outside

/-- Account a SEQ where it is new and inside the window (R121, R479). -/
def accountIf (src : Nat) (seq : BitVec 16) (s : State) : State :=
  if seqClass (s.win src) seq == .fresh then s.onWin src (accountSeq s.svc.now seq) else s

/-! ### Answers and failures (04 R99, R100, R125) -/

/-- A write for the sluice: WR_LINE, WR_MASKED or ATOMIC. -/
def isWriteOp (p : Packet) : Bool := p.op == opWrLine || p.op == opWrMasked || p.op == opAtomic

/-- Answer a request. -/
def answer (p : Packet) (o status : Nat) (data : List Byte) (arg : BitVec 32) (s : State) : State :=
  sendPacket none (respond o (selfNode s) p status data arg) s

/-- CMPL with a status. -/
def answerCmpl (p : Packet) (status : Nat) (s : State) : State := answer p opCmpl status [] 0 s

/-- A write without RELEASE that ends in a failure is remembered for the first RELEASE of its tenant above it (R125). -/
def noteFailure (p : Packet) (status : Option Nat) (s : State) : State :=
  if isWriteOp p && !p.release then
    s.onWin p.src.toNat (fun w => { w with failures := w.failures ++ [{ seq := p.seq, tenant := p.tenant.toNat, status := status }] })
  else s

/-- A RELEASE has ended, however: of the failures between it and the RELEASE before it none spoils a later one (R125). -/
def noteEarly (p : Packet) (s : State) : State :=
  if p.release then s.onWin p.src.toNat (fun w => { w with early := w.early ++ [(p.seq, p.tenant.toNat)] }) else s

/-- A request fails with a status: the failure counts unless the SEQ was a duplicate. -/
def failRequest (dup : Bool) (p : Packet) (status : Nat) (s : State) : State :=
  answerCmpl p status (if dup then s else noteEarly p (noteFailure p (some status) s))

/-! ### Check 7: flags, alignment and the rules of atomics (04 R90, R102 to R107) -/

/-- An element's mask bits are all set or all clear. -/
def elemMaskOk (mask w : Nat) : Bool :=
  (List.range (128 / w)).all (fun k => let m := mask / 2 ^ (w * k) % 2 ^ w; m == 0 || m == 2 ^ w - 1)

/-- A malformed ATOMIC. -/
def atomicBad (p : Packet) : Bool :=
  let sub := p.subop
  decide (10 < sub) || (sub == 3 && p.wide) || (sub == 1 && p.mask / 2 ^ 64 != 0) ||
  (decide (2 ≤ sub) && !elemMaskOk p.mask (if p.wide then 8 else 4))

/-- Check 7 fails. -/
def check7Bad (p : Packet) : Bool := flagsBad p || p.offset.toNat % 128 != 0 || (p.op == opAtomic && atomicBad p)

/-- The access a request makes. -/
def accessOf (p : Packet) : Nat := if p.op == opRdLine then 0 else if p.op == opAtomic then 2 else 1

/-- The export is off; it governs what arrives on ports (10 R306). -/
def exportOff (s : State) (port : Nat) : Bool := port != outLocal && !s.home.exported
/-- New requests to the HBM get NOT_READY: the export is off, or early removal is sensed (15 R434). -/
def homeClosed (s : State) (port : Nat) : Bool := exportOff s port || s.svc.removedAt.isSome

/-! ### Atomics (04 R103 to R106) -/

/-- The new value of an element. -/
def atomicElem (sub bits x y : Nat) : Nat :=
  if sub == 2 then (x + y) % 2 ^ bits
  else if sub == 3 then f32Add x y
  else if sub == 4 then x &&& y
  else if sub == 5 then x ||| y
  else if sub == 6 then x ^^^ y
  else if sub == 7 then (if toSigned bits x < toSigned bits y then y else x)
  else if sub == 8 then (if toSigned bits y < toSigned bits x then y else x)
  else if sub == 9 then max x y
  else min x y

/-- The line after an element sub-operation. -/
def atomicElems (sub w mask : Nat) (line operand : List Byte) : List Byte :=
  (List.range (128 / w)).flatMap (fun k =>
    let x := leAt line (w * k) w
    if mask / 2 ^ (w * k) % 2 ^ w == 2 ^ w - 1 then leBytes (atomicElem sub (8 * w) x (leAt operand (w * k) w)) w else leBytes x w)

/-- The selected bytes of two lists are equal. -/
def eqMask : Nat → List Byte → List Byte → Bool
  | m, a :: as, b :: bs => (m % 2 == 0 || a == b) && eqMask (m / 2) as bs
  | _, _, _ => true

/-- An atomic on a line: the new line and CAS_HIT. -/
def atomicLine (p : Packet) (line : List Byte) : List Byte × Bool :=
  let d := padTo 128 p.data
  if p.subop == 0 then (mergeMask p.mask line d, false)
  else if p.subop == 1 then
    (if eqMask p.mask (line.take 64) (d.take 64) then (mergeMask p.mask line (d.drop 64 ++ List.replicate 64 0), true) else (line, false))
  else (atomicElems p.subop (if p.wide then 8 else 4) p.mask line d, false)

/-- Does an atomic store: some byte takes part, and a CAS has hit (04 R103, R105)? -/
def atomicStores (p : Packet) (hit : Bool) : Bool := p.mask != 0 && (p.subop != 1 || hit)

/-! ### Hot lines (R140) -/

/-- A hot-line window ends: it is counted where some line had more than 64 operations; a confidential tenant's line is not named. Of several such lines the
lowest is named, a choice of the model (DESIGN CHOICE, log entry 74). -/
def closeHot (s : State) : State :=
  match s.home.hotNow.find? (fun x => decide (64 < x.2.2.2)) with
  | some x =>
    s.onHome (fun h => { h with
      hotCount := satAdd 32 h.hotCount 1
      hotTenant := if isConf s x.2.1 then h.hotTenant else x.2.1
      hotOffset := if isConf s x.2.1 then h.hotOffset else x.2.2.1
      hotNow := []
      hotWindow := s.svc.now / 1000 })
  | none => s.onHome (fun h => { h with hotNow := [], hotWindow := s.svc.now / 1000 })

/-- One operation serialized on a line. -/
def countHot (p : Packet) (line : Nat) (s : State) : State :=
  let s := if s.home.hotWindow == s.svc.now / 1000 then s else closeHot s
  s.onHome (fun h => { h with hotNow := h.hotNow.upd line (0, 0, 0) (fun x => (p.tenant.toNat, p.offset.toNat, x.2.2 + 1)) })

/-! ### Line operations (04 R91 to R93) -/

/-- A store that does not read the line: it reports a failed channel, and nothing is written on a lost line unless all of it is. -/
def storeLine (p : Packet) (a mask : Nat) (ecc : Ecc) (s : State) : Bool × State :=
  if mask == 0 then (true, s)
  else if mask == fullMask then (if channelDead s a then (false, s) else (true, doorbellLanded (a / 128) (hbmStore (memKeyOf s p.tenant.toNat) (a / 128) mask p.data s)))
  else
    let c := eccCheck ecc a s
    if c.1 then (true, doorbellLanded (a / 128) (hbmStore (memKeyOf c.2 p.tenant.toNat) (a / 128) mask p.data c.2)) else (false, c.2)

/-- The operation itself at HBM address `a`, and its answer; `none` for a status of failure, DATA_LOST. -/
def lineOp (p : Packet) (a : Nat) (ecc : Ecc) (s : State) : Option State × State :=
  let s := countHot p (a / 128) s
  let key := memKeyOf s p.tenant.toNat
  if p.op == opRdLine then
    let c := eccCheck ecc a s
    if !c.1 then (none, c.2)
    else
      let r := hbmLine key (a / 128) c.2
      (some (answer p opRdData stOk r.1 0 r.2), r.2)
  else if p.op == opAtomic then
    let c := eccCheck ecc a s
    if !c.1 then (none, c.2)
    else
      let r := hbmLine key (a / 128) c.2
      let x := atomicLine p r.1
      let s := if atomicStores p x.2 then doorbellLanded (a / 128) (hbmStore key (a / 128) fullMask x.1 r.2) else r.2
      (some (if p.noret then answerCmpl p stOk s else answer p opAtomicData stOk r.1 (BitVec.ofNat 32 (b2n x.2)) s), s)
  else
    let r := storeLine p a (if p.op == opWrLine then fullMask else p.mask) ecc s
    if r.1 then (some (answerCmpl p stOk r.2), r.2) else (none, r.2)

/-- Apply a request that has passed every check. -/
def applyRequest (dup : Bool) (p : Packet) (a : Nat) (ecc : Ecc) (s : State) : State :=
  let r := lineOp p a ecc s
  match r.1 with
  | some t => if dup then t else noteEarly p t
  | none => failRequest dup p stDataLost r.2

/-! ### The sluice (R122, R125) -/

/-- Every SEQ of the source below `seq` is accounted. -/
def belowDone (w : SrcWin) (seq : BitVec 16) : Bool := !inWindow w.low seq

/-- No earlier RELEASE of the tenant is still held. -/
def noEarlier (w : SrcWin) (p : Packet) : Bool :=
  !w.held.any (fun h => h.pkt.tenant == p.tenant && seqLt w.low h.pkt.seq p.seq)

/-- May a RELEASE go? -/
def mayLand (w : SrcWin) (p : Packet) : Bool := belowDone w p.seq && noEarlier w p

/-- The failures that spoil a RELEASE: its tenant's, below it, with no RELEASE of the tenant between. -/
def spoilers (w : SrcWin) (p : Packet) : List Failure :=
  w.failures.filter (fun f => f.tenant == p.tenant.toNat && seqLt w.low f.seq p.seq &&
    !w.early.any (fun e => e.2 == p.tenant.toNat && seqLt w.low f.seq e.1 && seqLt w.low e.1 p.seq))

/-- The lowest of some failures. -/
def lowestFailure (low : BitVec 16) (l : List Failure) : Option Failure :=
  l.foldl (fun m f => match m with | some g => if seqLt low f.seq g.seq then some f else m | none => some f) none

/-- A RELEASE lands, executes or fails: spoiled first, then judged by check 9 and the export. -/
def landRelease (port : Nat) (p : Packet) (ecc : Ecc) (s : State) : State :=
  let w := s.win p.src.toNat
  let f := lowestFailure w.low (spoilers w p)
  let s := noteEarly p s
  match f with
  | some x => match x.status with | some st => answerCmpl p st s | none => s
  | none =>
    if tenantGone p.tenant.toNat s then answerCmpl p stTenantRevoked s
    else match tgtWalk ecc s p.tenant.toNat p.offset.toNat (accessOf p) with
      | .inr st => answerCmpl p st (mirrorCheck ecc s)
      | .inl a => if exportOff s port then answerCmpl p stNotReady s else applyRequest true p a ecc s

/-! ### A request at the home (04 R479) -/

/-- Checks 7 to 9 and what follows them; `dup` for a duplicate that R123 executes again. -/
def judge (dup : Bool) (port : Nat) (p : Packet) (ecc : Ecc) (s : State) : State :=
  if check7Bad p then failRequest dup p stBadRequest s
  else if tenantGone p.tenant.toNat s then failRequest dup p stTenantRevoked s
  else match tgtWalk ecc s p.tenant.toNat p.offset.toNat (accessOf p) with
    | .inr st => failRequest dup p st (mirrorCheck ecc s)
    | .inl a =>
      let s := match findEntry s.xlat.tgt p.tenant.toNat p.offset.toNat with | some x => touchCache 48 x s | none => s
      if homeClosed s port then failRequest dup p stNotReady s
      else if p.release && !dup then
        (if mayLand (s.win p.src.toNat) p then landRelease port p ecc s
         else s.onWin p.src.toNat (fun w => { w with held := w.held ++ [{ pkt := p, port := port }] }))
      else applyRequest dup p a ecc s

/-- A duplicate (R123). That of a held RELEASE is discarded, and counts in the port's stale counter too (04 R479; DESIGN CHOICE, log entry 76). -/
def duplicate (port : Nat) (p : Packet) (ecc : Ecc) (s : State) : State :=
  if (s.win p.src.toNat).held.any (fun h => h.pkt.seq == p.seq) then
    discardStale port (s.onWin p.src.toNat (fun w => { w with dups := w.dups + 1 }))
  else if p.op == opAtomic then answerCmpl p stBadRequest s
  else judge true port p ecc s

/-- Does a request read its line, so that the check of its words may concern that? -/
def readsLine (p : Packet) : Bool := p.op == opAtomic || p.op == opWrMasked && p.mask != 0 && p.mask != fullMask

/-- A held RELEASE lands out of the sluice, whose word is good. Of an error met there, it is open whether it lies in the sluice, where the line is read as well: an
uncorrectable word in the sluice completes the request with DATA_LOST (15 R425). -/
def landHeld (port : Nat) (p : Packet) (ecc : Ecc) (s : State) : State :=
  if ecc == .clean || ecc == .mirror then landRelease port p ecc s
  else
    let d := s.drawNat
    if readsLine p && d.1 % 2 == 0 then landRelease port p ecc d.2
    else
      let a := fwAddress d.2
      let c := eccCheck ecc a.1 a.2
      if c.1 then landRelease port p .clean c.2 else answerCmpl p stDataLost (noteEarly p c.2)

/-- A request that reaches the home. -/
def atHome (port : Nat) (p : Packet) (ecc : Ecc) (s : State) : State :=
  let src := p.src.toNat
  let s := openWin src p.seq s
  match authCheck p s with
  | .stale =>
    let new := seqClass (s.win src) p.seq == .fresh
    let s := (if port == outLocal then s else countStale port s)
    let s := accountIf src p.seq s
    if new then noteEarly p (noteFailure p none s) else s
  | .fail =>
    let new := seqClass (s.win src) p.seq == .fresh
    let s := accountIf src p.seq s
    let s := if new then noteEarly p (noteFailure p (some stAuthFail) s) else s
    sprayVia none (planeCmpl (selfNode s) p stAuthFail) s
  | .ok =>
    match seqClass (s.win src) p.seq with
    | .outside => answerCmpl p stBadRequest s
    | .duplicate => duplicate port p ecc s
    | .fresh => judge false port p ecc (accountIf src p.seq s)

/-- A request row: the packet that the core has delivered, addressed to this node. While an HBM channel retrains, REQ intake waits (15 R430), and
while its answer would have no room in the local queues (06 R142). -/
def homeRow (o port : Nat) (p : Packet) (ecc : Ecc) (s : State) : Host.Outcome State Fault Refusal :=
  if !(isPort port || port == outLocal) then .fault .noSuchUnit
  else .next (
    if !isReady s || s.svc.node != some p.dst || p.op != o || !s.svc.hbmResetting.isEmpty || !localRoom s 1 then s
    else atHome port (opened s p) ecc (takeLocal p s))

/-- RD_LINE (04 R92, 05 R130). -/
def execRdLine (port : Nat) (p : Packet) (ecc : Ecc) (s : State) : Host.Outcome State Fault Refusal := homeRow opRdLine port p ecc s
/-- WR_LINE (04 R92, 05 R122). It reads nothing, so its words are not checked. -/
def execWrLine (port : Nat) (p : Packet) (s : State) : Host.Outcome State Fault Refusal := homeRow opWrLine port p .clean s
/-- WR_MASKED (04 R93). -/
def execWrMasked (port : Nat) (p : Packet) (ecc : Ecc) (s : State) : Host.Outcome State Fault Refusal := homeRow opWrMasked port p ecc s
/-- ATOMIC (04 R102 to R107). -/
def execAtomic (port : Nat) (p : Packet) (ecc : Ecc) (s : State) : Host.Outcome State Fault Refusal := homeRow opAtomic port p ecc s

/-- RELEASE_LAND (R122): a held RELEASE whose conditions hold. -/
def execReleaseLand (src : Nat) (seq : BitVec 16) (ecc : Ecc) (s : State) : Host.Outcome State Fault Refusal :=
  .next (
    let w := s.win src
    match w.held.find? (fun h => h.pkt.seq == seq) with
    | none => s
    | some h =>
      if !isReady s || !mayLand w h.pkt || !s.svc.hbmResetting.isEmpty then s
      else landHeld h.port h.pkt ecc (s.onWin src (fun w => { w with held := w.held.filter (fun x => x.pkt.seq != seq) })))

/-! ### Holes (R124) and idle windows (R128) -/

/-- SEQs of a window that are not accounted, below the highest accounted one, lowest first. -/
def holesOf (w : SrcWin) : List (BitVec 16) :=
  let top := w.above.foldl (fun m x => max m (seqAbove w.low x.1)) 0
  ((List.range top).map (fun i => w.low + BitVec.ofNat 16 i)).filter (fun q => !w.above.any (fun x => x.1 == q))

/-- The earliest accounting of a SEQ above a hole. -/
def firstAbove (w : SrcWin) (q : BitVec 16) : Option Nat :=
  w.above.foldl (fun m x => if seqAbove w.low q < seqAbove w.low x.1 then (match m with | some t => some (min t x.2) | none => some x.2) else m) none

/-- Holes whose hold limit has passed. -/
def expiredHoles (now limit : Nat) (w : SrcWin) : List (BitVec 16) :=
  (holesOf w).filter (fun q => match firstAbove w q with | some t => decide (t + limit ≤ now) | none => false)

/-- Write the expired holes of a source off; held RELEASE requests above one are discarded, counted and recorded. -/
def writeOff (src : Nat) (s : State) : State :=
  let w := s.win src
  match expiredHoles s.svc.now s.home.reqTimeout w with
  | [] => s
  | q :: rest =>
    let gone := w.held.filter (fun h => seqLt w.low q h.pkt.seq)
    let s := s.onWin src (fun w =>
      let w := { w with
        held := w.held.filter (fun h => !seqLt w.low q h.pkt.seq)
        early := w.early ++ gone.map (fun h => (h.pkt.seq, h.pkt.tenant.toNat))
        expiries := w.expiries + gone.length }
      (q :: rest).foldl (fun w x => accountSeq s.svc.now x w) w)
    gone.foldl (fun s _ => recordErr kHome 0 0x18 2 (leBytes src 2 ++ leBytes q.toNat 2) s) s

/-- HOLE_WRITE_OFF. -/
def execHoleWriteOff (src : Nat) (s : State) : Host.Outcome State Fault Refusal := .next (whenReady s (writeOff src))

/-- REQ_TIMEOUT_SET (R124): open holes are measured against the new limit at once. -/
def execReqTimeoutSet (h : MHdr) (timeout : Nat) (s : State) : Host.Outcome State Fault Refusal :=
  command (.reqTimeoutSet h timeout) h { boxes := boxF } never (fun _ => timeout < 10000 || 10000000 < timeout)
    (fun s =>
      let s := s.onHome (fun v => { v with reqTimeout := timeout })
      reply h msOk [] ((s.home.wins.map Prod.fst).foldl (fun s src => writeOff src s) s)) s

/-- WINDOW_STATE_DROP (R128): 20 ms without an accounted SEQ, and nothing held. The counters of the source go with its window, a choice of the model (DESIGN
CHOICE, log entry 75). -/
def execWindowStateDrop (src : Nat) (s : State) : Host.Outcome State Fault Refusal :=
  .next (
    match s.home.wins.find src with
    | some w =>
      if isReady s && w.held.isEmpty && decide (w.last + 20000000 ≤ s.svc.now) then s.onHome (fun h => { h with wins := h.wins.del src }) else s
    | none => s)

/-! ### Hot lines -/

/-- HOT_LINE_WINDOW (R140): the microsecond of the counts is over. -/
def execHotLineWindow (s : State) : Host.Outcome State Fault Refusal :=
  .next (if s.home.hotWindow == s.svc.now / 1000 then s else closeHot s)

/-- HOT_LINE_READ: count, offset, tenant; cleared. -/
def execHotLineRead (h : MHdr) (s : State) : Host.Outcome State Fault Refusal :=
  command (.hotLineRead h) h { boxes := boxF ++ boxH } never never
    (fun s => reply h msOk (pack [.num 8 (coarse s s.home.hotCount s.snap.hot), .num 8 s.home.hotOffset, .num 2 s.home.hotTenant])
      (s.onHome (fun v => { v with hotCount := 0, hotOffset := 0, hotTenant := 0 }))) s

/-! ### The export (10 R306) -/

/-- HBM_EXPORT_SET as it runs. -/
def runExport (via : Via) (h : MHdr) (on : Bool) (s : State) : State :=
  if s.home.exported == on then finish via h 0x0203 msOk [] s
  else beginTrans .export_ h 0x0203 (accept via h (s.onHome (fun v => { v with exported := on })))

def execHbmExportSet (h : MHdr) (on : Bool) (s : State) : Host.Outcome State Fault Refusal :=
  command (.hbmExportSet h on) h { boxes := boxF } never never
    (fun s => transition .export_ (.hbmExportSet h on) h (runExport .buffer h on) s) s

/-- A queued HBM_EXPORT_SET runs. -/
def runQueuedExport (i : Instr) (s : State) : State :=
  match i with
  | .hbmExportSet h on => runExport .event h on s
  | _ => s

/-- EXPORT_TRANSITION_END: the last admitted request has answered. -/
def execExportTransitionEnd (s : State) : Host.Outcome State Fault Refusal :=
  .next (if (findTrans .export_ s.mbx.trans).isNone then s else endTrans .export_ msOk [] runQueuedExport (bumpEpoch s))

end Sys2Proof.Machine
end

