-- ==== Sys2Proof/Machine/Groups.lean ====
section
/-! DEFINITION. The group table of a plane (08 R210 to R213, 13 R477): installing, removing, and taking a member out. -/

namespace Sys2Proof.Machine

open Sys2Proof

/-! ### The group table (R210 to R213, 13 R477) -/

/-- The fields of an entry in table order, each in whole bytes, little-endian, and DIGEST over them (R210). -/
def entryBytes (group gen tenant : Nat) (ms : List MemberRec) : List Byte :=
  leBytes group 2 ++ leBytes gen 1 ++ leBytes tenant 2 ++ leBytes ms.length 2 ++ ms.flatMap (fun m => leBytes m.member 2) ++
  ms.flatMap (fun m => leBytes m.resultBase 5) ++ ms.flatMap (fun m => leBytes m.resultLen 5)

def entryDigest (group gen tenant : Nat) (ms : List MemberRec) : BitVec 32 :=
  BitVec.ofNat 32 (leNat ((sha256 (entryBytes group gen tenant ms)).take 4))

/-- An operation of the group is in flight until its settle interval has ended (R211, R229). -/
def opInFlight (s : State) (g : Nat) : Bool := match s.op g with | some o => o.phase != .closed | none => false

/-- The checks of R211 on a whole entry. -/
def entryOk (s : State) (g gen : Nat) (ms : List MemberRec) : Bool :=
  decide (1 ≤ ms.length) && decide (ms.length ≤ 512) && (ms.map (fun m => m.member)).eraseDups.length == ms.length &&
  ms.all (fun m => decide (m.member < 8192) && !nodeInfra (BitVec.ofNat 13 m.member) &&
    nodePair (BitVec.ofNat 13 m.member) == nodePair (selfNode s) && m.resultBase % 128 == 0) &&
  (match s.coll.groups.find g with | some e => e.gen != gen | none => true)

/-- Install an entry: no operation has run under it (R229). -/
def installEntry (g gen tenant : Nat) (ms : List MemberRec) (s : State) : State :=
  bumpEpoch (s.onColl (fun c => { c with
    groups := c.groups.put g { gen := gen, tenant := tenant, members := ms, digest := entryDigest g gen tenant ms }
    staged := c.staged.del g
    ops := c.ops.del g }))

/-- The staged entry that a part continues, if it does. -/
def stagedFor (s : State) (p : GroupPart) : Option (List MemberRec) :=
  if p.first == 0 then some []
  else match s.coll.staged.find p.group with
    | some e => if e.recs.length == p.first && e.gen == p.gen && e.tenant == p.tenant && e.n == p.n then some e.recs else none
    | none => none

/-- The part's fields are in range, and its tenant exists (13 R387, R477). -/
def partBad (s : State) (p : GroupPart) : Bool :=
  4095 < p.group || 15 < p.gen || p.recs.length == 0 || 254 < p.recs.length || p.n == 0 || 512 < p.n || (s.tenant p.tenant).isNone ||
  p.recs.any (fun m => decide (2 ^ 40 ≤ m.resultLen) || decide (2 ^ 40 ≤ m.resultBase))

/-- GROUP_INSTALL past the common checks: a part that does not continue the staged entry discards it, a field out of range in it or not; a part with FIRST = 0
discards an earlier staged entry whatever comes of its own; an entry that fails R211 changes nothing else (log entry 87). -/
def runInstall (h : MHdr) (p : GroupPart) (s : State) : State :=
  let drop := s.onColl (fun c => { c with staged := c.staged.del p.group })
  if (s.svc.node.isNone || opInFlight s p.group) && !partBad s p then reply h msBusy [] s
  else match stagedFor s p with
    | none => reply h msBadArg [] drop
    | some recs =>
      let recs := recs ++ p.recs
      if !p.last then
        reply h msOk [] (s.onColl (fun c => { c with staged := c.staged.put p.group { gen := p.gen, tenant := p.tenant, n := p.n, recs := recs } }))
      else if recs.length != p.n || !entryOk s p.group p.gen recs then reply h msBadArg [] (if p.first == 0 then drop else s)
      else
        let s := installEntry p.group p.gen p.tenant recs s
        reply h msOk (pack [.num 4 (entryDigest p.group p.gen p.tenant recs).toNat, epochField s]) s

/-- GROUP_INSTALL. -/
def execGroupInstall (h : MHdr) (part : GroupPart) (s : State) : Host.Outcome State Fault Refusal :=
  command (.groupInstall h part) h { boxes := boxF } (fun s => s.svc.bridge || isRevoking s part.tenant) (fun s => partBad s part && (stagedFor s part).isSome) (runInstall h part) s

/-- GROUP_REMOVE. -/
def execGroupRemove (h : MHdr) (group : Nat) (s : State) : Host.Outcome State Fault Refusal :=
  command (.groupRemove h group) h { boxes := boxF } (fun s => s.svc.bridge) (fun s => (s.coll.groups.find group).isNone)
    (fun s =>
      if opInFlight s group then reply h msBusy [] s
      else reply h msOk [] (bumpEpoch (s.onColl (fun c => { c with groups := c.groups.del group, ops := c.ops.del group })))) s

/-- Remove a member: the later ones move down by one position (R213). -/
def removeMember (g position gen : Nat) (s : State) : State :=
  match s.coll.groups.find g with
  | none => s
  | some e => installEntry g gen e.tenant (e.members.eraseIdx position) s

/-- A removal that can be applied: the position exists, and members remain. -/
def removalOk (s : State) (g position : Nat) : Bool :=
  match s.coll.groups.find g with
  | some e => decide (position < e.members.length) && decide (2 ≤ e.members.length)
  | none => false

/-- Apply one removal and complete its command. -/
def applyRemoval (g : Nat) (r : PendingRemoval) (s : State) : State :=
  if removalOk s g r.position then finishEvent r.hdr 0x0303 msOk [] (removeMember g r.position r.gen s)
  else finishEvent r.hdr 0x0303 msFailed (failCause (Config.causeByte 10)) s

/-- GROUP_MEMBER_REMOVE: at once, or after an abort with MEMBER_LEFT has settled. -/
def execGroupMemberRemove (h : MHdr) (group position gen : Nat) (s : State) : Host.Outcome State Fault Refusal :=
  command (.groupMemberRemove h group position gen) h { boxes := boxF } (fun s => s.svc.bridge) (fun s => !removalOk s group position || 15 < gen)
    (fun s =>
      let s := reply h msInProgress [] s
      if opInFlight s group then
        wakeComputes (originate group rsMemberLeft none
          (s.onOp group (fun o => { o with removals := o.removals ++ [{ position := position, gen := gen, hdr := h }] })))
      else applyRemoval group { position := position, gen := gen, hdr := h } s) s

end Sys2Proof.Machine
end

