-- ==== Sys2Proof/Machine/Slots.lean ====
section
/-! DEFINITION. The state of open chunks (08 R217, R223, 07 R192, R193, R204): who contributes and receives, the accumulator slots in the scratch of a program's
contexts, and the chunks that programs take (09 R263 WAITC). -/

namespace Sys2Proof.Machine

open Sys2Proof

/-! ### Members and chunks -/

/-- Member positions that contribute a chunk. -/
def contributors (op : Op) (n c : Nat) : List Nat := (List.range n).filter (fun k => contributes op.prog n c k)
/-- Member positions that receive a chunk. -/
def receivers (op : Op) (n c : Nat) : List Nat := (List.range n).filter (fun k => receives op.prog n c k)

/-- The node number at a position of the group's entry. -/
def memberNode (s : State) (g k : Nat) : Node :=
  match s.coll.groups.find g with
  | some e => BitVec.ofNat 13 ((e.members.getD k { member := 0, resultLen := 0, resultBase := 0 }).member)
  | none => 0
/-- N of the group. -/
def memberCount (s : State) (g : Nat) : Nat := match s.coll.groups.find g with | some e => e.members.length | none => 0
/-- The position of a node in the group. -/
def positionOf (s : State) (g : Nat) (n : Node) : Option Nat :=
  match s.coll.groups.find g with
  | some e => e.members.findIdx? (fun m => m.member == n.toNat)
  | none => none

/-- The open chunk of an index. -/
def chunkOf (op : Op) (c : Nat) : Option Chunk := op.chunks.find? (fun x => x.idx == c)
def onChunk (g c : Nat) (f : Chunk → Chunk) (s : State) : State :=
  s.onOp g (fun o => { o with chunks := o.chunks.map (fun x => if x.idx == c then f x else x) })

/-- Every contribution of a chunk is in. -/
def chunkFull (op : Op) (n : Nat) (x : Chunk) : Bool := x.got.length == (contributors op n x.idx).length * inPayloads op.prog x.idx
/-- Every contribution of one payload is in. -/
def payloadFull (op : Op) (n : Nat) (x : Chunk) (i : Nat) : Bool := (contributors op n x.idx).all (fun k => x.got.contains (k, i))

/-- The cluster that holds an element of a chunk's state (07 R193). -/
def elemCluster (s : State) (op : Op) (e : Nat) : Nat :=
  match s.reed.parts.find (op.progId % 16) with
  | some part => let cs := clustersOf part.mask; cs.getD (e / ceilDiv (chunkElems op.prog) cs.length) 0
  | none => 0

/-- The check of the scratch words that an access reads (07 R208, 15 R425): of `words`, each a cluster and an address, an open one is the damaged one, and DETAIL
is its address (15 R423); where no context holds the state any longer, an open address of `cluster`. -/
def scratchCheck (cluster : Nat) (words : List (Nat × Nat)) (e : Ecc) (s : State) : Bool × State :=
  match e with
  | .clean | .mirror => (true, s)
  | .corrected =>
    let d := s.drawNat
    (true, recordCorrected kCluster (words.getD (d.1 % words.length) (cluster, 0)).1 d.2)
  | .uncorrectable =>
    let d := s.drawNat
    let w := words.getD (d.1 % words.length) (cluster, d.1 % 2 ^ 23 / 8 * 8)
    (false, recordErr kCluster w.1 0x29 2 (leBytes w.2 4) d.2)

/-! ### Contributions before their turn (07 R204) -/

/-- Does a program take its contributions in the order of positions? -/
def inOrder (p : ProgParams) : Bool := p.ordered && decide (p.op ≤ 1) && !p.weighted

/-- Has a contribution of a payload come before one of the members ahead of it, or before one that waits itself? -/
def isEarly (op : Op) (n : Nat) (x : Chunk) (pos pidx : Nat) : Bool :=
  inOrder op.prog && (contributors op n x.idx).any (fun k => decide (k < pos) &&
    (!x.got.contains (k, pidx) || x.early.any (fun e => e.pos == k && e.pidx == pidx)))

/-- Contributions of 128 B that the reorder area holds, over the clusters of the partition. -/
def reorderRoom (s : State) (op : Op) : Nat :=
  match s.reed.images.find (op.progId % 256), s.reed.parts.find (op.progId % 16) with
  | some i, some part => i.scrReorder * (clustersOf part.mask).length / 128
  | _, _ => 0

/-- The lowest place that no early contribution of an operation has taken: in the reorder area, or in HBM. -/
def freePlace (op : Op) (inHbm : Bool) : Nat :=
  let used := op.chunks.flatMap (fun x => (x.early.filter (fun e => e.inHbm == inHbm)).map (fun e => e.slot))
  ((List.range (used.length + 1)).find? (fun k => !used.contains k)).getD 0

/-- The contexts that run a job. -/
def contextsOf (s : State) (job : CtxJob) : List CtxId :=
  s.reed.clusters.flatMap (fun k => (k.2.ctxs.filter (fun c => c.2.job == some job)).map (fun c => { cluster := k.1, ctx := c.1 }))

/-- The image a context runs. -/
def imageOfCtx (s : State) (c : Ctx) : Option Image := s.reed.images.find c.image

/-- Where a place of the reorder area lies: a cluster, the pages of the area there, and the offset in them. The places fill cluster after cluster (DESIGN
CHOICE, log entry 58). -/
def reorderAt (g : Nat) (op : Op) (slot : Nat) (s : State) : Option (Nat × List Nat × Nat) :=
  match s.reed.images.find (op.progId % 256), s.reed.parts.find (op.progId % 16) with
  | some i, some part =>
    let per := i.scrReorder / 128
    let c := (clustersOf part.mask).getD (slot / per) 0
    ((contextsOf s (.op g)).find? (fun x => x.cluster == c)).map (fun x => (c, reorderPages i (s.ctx x), slot % per * 128))
  | _, _ => none

/-- The HBM line of a place among the early contributions there: one after another in the firmware's range, from an open start (07 R204; log entry 58). -/
def spillLine (s : State) (slot : Nat) : Nat := s.svc.fwBase / 128 + (Config.spillBase + slot) % (2 ^ 31 - s.svc.fwBase / 128)

/-- An early contribution is kept: in the reorder area while that has room, else in HBM under the tenant's memory key (07 R204, 14 R403). -/
def keepEarly (g : Nat) (op : Op) (c pos pidx : Nat) (data side : List Byte) (s : State) : State :=
  let k := freePlace op false
  let inHbm := decide (reorderRoom s op ≤ k)
  let slot := if inHbm then freePlace op true else k
  let s := onChunk g c (fun x => { x with early := x.early ++ [{ pos := pos, pidx := pidx, side := side, slot := slot, inHbm := inHbm }] }) s
  if inHbm then hbmStore (memKeyOf s op.tenant) (spillLine s slot) fullMask data s
  else match reorderAt g op slot s with
    | some r => s.onCluster r.1 (fun k => { k with scratch := putPaged r.2.1 r.2.2 data k.scratch })
    | none => s

/-- The bytes of an early contribution. -/
def earlyBytes (g : Nat) (op : Op) (e : Early) (s : State) : List Byte × State :=
  if e.inHbm then hbmLine (memKeyOf s op.tenant) (spillLine s e.slot) s
  else match reorderAt g op e.slot s with
    | some r => (getPaged r.2.1 r.2.2 128 (s.cluster r.1).scratch, s)
    | none => ([], s)

/-- Early contributions of a payload whose turn has come join their elements' state, the lowest position first; `m` of them at most. -/
def takeEarly (g c pidx n : Nat) : Nat → State → State
  | 0, s => s
  | m + 1, s =>
    match (s.op g).bind (fun op => (chunkOf op c).bind (fun x =>
      (x.early.find? (fun e => e.pidx == pidx && !isEarly op n x e.pos pidx)).map (fun e => (op, e)))) with
    | none => s
    | some (op, e) =>
      let b := earlyBytes g op e s
      takeEarly g c pidx n m (onChunk g c (fun x => addPayload op e.pos pidx (padTo 128 b.1) e.side { x with early := x.early.erase e }) b.2)

/-- The HBM line that is read back first when a contribution brings the turn of early ones, where one of those is there. -/
def readsBack (s : State) (op : Op) (n pos pidx : Nat) (x : Chunk) : Option Nat :=
  (x.early.find? (fun e => e.inHbm && e.pidx == pidx && (contributors op n x.idx).all (fun k =>
    decide (e.pos ≤ k) || k == pos || x.got.contains (k, pidx)))).map (fun e => spillLine s e.slot)

/-! ### Chunks that programs take (07 R192, R193, 09 R263 WAITC; log entry 10) -/

/-- The slot forms of 07 R192. -/
inductive SlotKind where
  | wide
  | narrow
  | ordered
  | bitwise
  deriving DecidableEq, Repr

/-- The slots of an operation's state (07 R176, R185, R204, 09 R267): narrow for the 8-bit formats in EXACT mode, but wide where the inputs are rotated or
weighted, for a weighted product has more bits than a narrow lane (log entry 58). -/
def slotKind (p : ProgParams) : SlotKind :=
  if isBitwise p then .bitwise
  else if inOrder p then .ordered
  else if (p.fin == 3 || p.fin == 4 || p.fin == 5) && !p.rotIn && !p.ordered && !p.weighted then .narrow else .wide
def slotSize (k : SlotKind) : Nat :=
  match k with
  | .wide => accSize false
  | .narrow => accSize true
  | _ => 8

/-- The contributions of an element that have been folded in order: those with every contribution ahead of them in (07 R203, R204). -/
def inTurn (m : Map Nat) : Nat → Nat → Map Nat
  | 0, _ => []
  | n + 1, k => match m.find k with
    | some v => (k, v) :: inTurn m n (k + 1)
    | none => []

/-- The bytes of one element's slot, `n` members (07 R192). The flags of an ORDERED slot are those of the values added (log entry 58). -/
def slotBytes (op : Op) (n : Nat) (x : Chunk) (e : Nat) : List Byte :=
  match slotKind op.prog with
  | .wide => accSlot false (x.accs.look e {})
  | .narrow => accSlot true (x.accs.look e {})
  | .ordered =>
    let m := inTurn (x.terms.look e []) n 0
    padTo 8 (leBytes (orderedSum op.prog m) 4 ++ leBytes (accFlags (m.foldl (fun a t => accAdd a (termVal op.prog t.2)) {})) 1 ++ leBytes m.length 2)
  | .bitwise => padTo 8 (leBytes ((x.terms.look e []).look 0 0) 4)

/-- A slot as a program has left it is the element's state; that of an ORDERED sum a program cannot write. -/
def takeSlot (op : Op) (n e : Nat) (b : List Byte) (x : Chunk) : Chunk :=
  if b == slotBytes op n x e then x
  else match slotKind op.prog with
    | .wide => { x with accs := x.accs.put e (slotAcc false b) }
    | .narrow => { x with accs := x.accs.put e (slotAcc true b) }
    | .ordered => x
    | .bitwise => { x with terms := x.terms.put e [(0, leAt b 0 4)] }

/-- Weighted contributions whose weights have been read join their elements' state (09 R270). -/
def weigh (op : Op) (w : Nat → Nat → Nat) (x : Chunk) : Chunk :=
  { x with accs := x.terms.foldl (fun m t => m.put t.1 (accOfElem op.prog (w t.1) x t.1)) x.accs, terms := [] }

/-- The first element and the number of elements of a chunk that cluster number j of a partition of C holds (07 R193). -/
def shareAt (op : Op) (c j cs : Nat) : Nat × Nat :=
  let per := ceilDiv (chunkElems op.prog) cs
  (j * per, min ((j + 1) * per) (inElems op.prog c) - j * per)

/-- The number of a cluster within the partition of a program, and the clusters of that partition. -/
def clusterPlace (s : State) (progId cluster : Nat) : Nat × Nat :=
  match s.reed.parts.find (progId % 16) with
  | some part => ((clustersOf part.mask).findIdx (fun k => k == cluster), (clustersOf part.mask).length)
  | none => (0, 1)

/-- The place of a chunk among the plane's owned chunks. -/
def placeOf (op : Op) (s : State) (c : Nat) : Nat := (c - (firstOwned op.prog (selfIndex s)).getD 0) / op.prog.p

/-- Where the slots of a chunk's elements from `lo` up to `hi` lie at one context: the pages of its state region, and each element with its offset there, in
the place of the chunk in the window (07 R192, R193, R217). -/
def slotsAt (op : Op) (c lo hi : Nat) (s : State) (id : CtxId) : List Nat × List (Nat × Nat) :=
  match imageOfCtx s (s.ctx id) with
  | none => ([], [])
  | some im =>
    let q := clusterPlace s op.progId id.cluster
    let sh := shareAt op c q.1 q.2
    let size := slotSize (slotKind op.prog)
    let base := placeOf op s c % op.prog.w * ceilDiv (chunkElems op.prog) q.2 * size
    let es := ((List.range sh.2).map (fun i => sh.1 + i)).filter (fun e => decide (lo ≤ e) && decide (e < hi))
    (statePages im (s.ctx id), es.map (fun e => (e, base + (e - sh.1) * size)))

/-- The 64-bit words of pages of a cluster's scratch at an offset. -/
def wordsAt (cluster : Nat) (pages : List Nat) (off n : Nat) : List (Nat × Nat) :=
  (List.range (n / 8)).filterMap (fun i =>
    (pages[(off + 8 * i) / 4096]?).map (fun p => (cluster, 4096 * p + (off + 8 * i) % 4096)))

/-- The scratch words that hold the state of a chunk's elements from `lo` up to `hi` at one context. -/
def slotWordsAt (op : Op) (c lo hi : Nat) (s : State) (id : CtxId) : List (Nat × Nat) :=
  let y := slotsAt op c lo hi s id
  y.2.flatMap (fun e => wordsAt id.cluster y.1 e.2 (slotSize (slotKind op.prog)))

/-- The same over all the contexts of the operation. -/
def slotWords (g : Nat) (op : Op) (c lo hi : Nat) (s : State) : List (Nat × Nat) := (contextsOf s (.op g)).flatMap (slotWordsAt op c lo hi s)

/-- The scratch words that hold the state of the next chunk a context takes. -/
def takenWords (id : CtxId) (g : Nat) (s : State) : List (Nat × Nat) :=
  match s.op g with
  | some op => slotWordsAt op (ownedChunk op.prog (selfIndex s) (s.ctx id).taken) 0 (chunkElems op.prog) s id
  | none => []

/-- The scratch words of an operation's ring region (09 R256): where a slot lies in it is open. -/
def ringWords (g : Nat) (s : State) : List (Nat × Nat) :=
  (contextsOf s (.op g)).flatMap (fun id => match imageOfCtx s (s.ctx id) with
    | some im => wordsAt id.cluster (ringPages im (s.ctx id)) 0 im.scrRing
    | none => [])

/-- What an operation keeps of a chunk in slots: nothing of one whose payloads pass unchanged. -/
def slotted (op : Op) : Bool := !isCopyKind op.prog.kind

/-- Elements of an open chunk as they stand are written to their slots, on every cluster of the operation. -/
def depositOpen (g c lo hi : Nat) (s : State) : State :=
  match (s.op g).bind (fun op => (chunkOf op c).map (fun x => (op, x))) with
  | none => s
  | some (op, x) =>
    if !slotted op then s
    else (contextsOf s (.op g)).foldl (fun s id =>
      let y := slotsAt op c lo hi s id
      s.onCluster id.cluster (fun k => { k with
        scratch := y.2.foldl (fun m e => putPaged y.1 e.2 (slotBytes op (memberCount s g) x e.1) m) k.scratch })) s

/-- The state of elements of an open chunk is taken from their slots, which XCLR, XADD and XHAD may have written (09 R265, R271). -/
def syncOpen (g c lo hi : Nat) (s : State) : State :=
  match (s.op g).bind (fun op => (chunkOf op c).map (fun _ => op)) with
  | none => s
  | some op =>
    if !slotted op then s
    else
      let n := memberCount s g
      (contextsOf s (.op g)).foldl (fun s id =>
        let y := slotsAt op c lo hi s id
        let m := (s.cluster id.cluster).scratch
        onChunk g c (fun x => y.2.foldl (fun x e => takeSlot op n e.1 (getPaged y.1 e.2 (slotSize (slotKind op.prog)) m) x) x) s) s

/-- Do contributions of a chunk wait for their weights? -/
def unweighed (op : Op) (x : Chunk) : Bool := op.prog.weighted && !isBitwise op.prog && !x.terms.isEmpty

/-- What an access of the engine for a chunk meets: a page that is not present is an access that waits (09 R266, 11 R328). -/
def noteStall (g c : Nat) (at_ : Option (Nat × Nat)) (s : State) : State :=
  match at_ with
  | none => s
  | some a => s.onOp g (fun o => { o with stalls := o.stalls.filter (fun t => t.chunk != c) ++ [{ chunk := c, fva := a.1, access := a.2 }] })

/-- The accesses for a chunk go on. -/
def clearStall (g c : Nat) (s : State) : State :=
  if (s.op g).any (fun o => o.stalls.any (fun t => t.chunk == c)) then s.onOp g (fun o => { o with stalls := o.stalls.filter (fun t => t.chunk != c) }) else s

/-- The engine forms a chunk unless an access of it waits on a fault that has been entered. -/
def isStalled (op : Op) (c : Nat) : Bool := op.stalls.any (fun t => t.chunk == c && t.faulting)

/-- The weights of a chunk, read unless the engine's accesses for it wait on a fault. -/
def tryWeights (op : Op) (n c : Nat) (s : State) : Read := if isStalled op c then .stall none else readWeights op n c s

/-- Contributions that wait for their weights pass through the multiplication, where the weights can be read; what stops it shows when the chunk is taken or
its results are formed. -/
def weighOpen (g c : Nat) (s : State) : State :=
  match (s.op g).bind (fun op => (chunkOf op c).map (fun x => (op, x))) with
  | none => s
  | some (op, x) =>
    if !unweighed op x then s
    else
      let n := memberCount s g
      match tryWeights op n c s with
      | .ok w t => depositOpen g c 0 (inElems op.prog c) (onChunk g c (weigh op (weightAt n w)) (clearStall g c t))
      | .stall a => noteStall g c a s
      | _ => s

/-- Write a scalar register; S0 ignores writes (R260). -/
def setS (x : CtxId) (d : Nat) (v : BitVec 64) (s : State) : State :=
  if d == 0 then s else s.onCtx x (fun c => { c with sregs := c.sregs.put d v })

/-- A context takes its next owned chunk, where that is complete and its weights can be read: D receives CHUNK. -/
def takeChunk (id : CtxId) (g d : Nat) (s : State) : Option State :=
  match s.op g with
  | none => none
  | some op =>
    let k := (s.ctx id).taken
    let n := memberCount s g
    match chunkOf op (ownedChunk op.prog (selfIndex s) k) with
    | none => none
    | some x =>
      if k < ownedCount op.prog (selfIndex s) && chunkFull op n x then
        match if unweighed op x then tryWeights op n x.idx s else .ok [] s with
        | .ok _ s =>
          some (setS id d (BitVec.ofNat 64 x.idx) ((weighOpen g x.idx s).onCtx id (fun c => { c with wait := .none, taken := k + 1 })))
        | .stall _ => none
        | .cause f => some (programFault id f 0 (s.onCtx id (fun c => { c with taken := k + 1 })))
        | .lost t => some (dataLost id (t.onCtx id (fun c => { c with taken := k + 1 })))
      else none

/-- Where a context's next chunk is complete but its weights lie on a page that is not present, the engine's read of them waits. -/
def chunkStall (id : CtxId) (g : Nat) (s : State) : State :=
  match s.op g with
  | none => s
  | some op =>
    match chunkOf op (ownedChunk op.prog (selfIndex s) (s.ctx id).taken) with
    | none => s
    | some x =>
      if !chunkFull op (memberCount s g) x || !unweighed op x then s
      else match tryWeights op (memberCount s g) x.idx s with
        | .stall a => noteStall g x.idx a s
        | _ => s

/-- Contexts that wait for a chunk go on where theirs is complete. -/
def wakeChunks (g : Nat) (s : State) : State :=
  (contextsOf s (.op g)).foldl (fun s id =>
    match (s.ctx id).wait with
    | .chunk d => (takeChunk id g d s).getD (chunkStall id g s)
    | _ => s) s

end Sys2Proof.Machine
end

