-- ==== Sys2Proof/Machine/Ring.lean ====
section
/-! DEFINITION. The trunk ring (08 R242 to R246): a plane's pair sums, the partials that meet them, and the gathered results. -/

namespace Sys2Proof.Machine

open Sys2Proof

/-- The program counter of an operation's context on a cluster. -/
def enginePc (s : State) (g cluster : Nat) : Nat :=
  match (contextsOf s (.op g)).find? (fun x => x.cluster == cluster) with
  | some x => (s.ctx x).pc
  | none => 0

/-- A program fault of an operation's fixed work on a chunk, recorded against the first cluster of its partition (09 R266, 08 R233). -/
def opFault (g : Nat) (op : Op) (cause chunk : Nat) (s : State) : State :=
  let s := recordErr kCluster (elemCluster s op 0) 0x28 2 (leBytes cause 1 ++ leBytes (op.progId % 16) 1) s
  wakeComputes (originate g rsProgramFault (some chunk) (s.onOp g (fun o => { o with
    fcause := cause, fpc := if isConf s op.tenant then 0 else enginePc s g (elemCluster s op 0) })))

/-! ### The trunk ring (R242 to R246) -/

/-- Key of a ring slot. -/
def slotKey (c i : Nat) : Nat := 65536 * c + i

/-- The pair sums of an FP32 payload, each rounded to FP32 (R243), with weights `w` (09 R270). -/
def ownPayload (op : Op) (n : Nat) (w : Nat → Nat → Nat) (x : Chunk) (i : Nat) : List (BitVec 32) :=
  let l := (List.range 32).map (fun k => 32 * i + k)
  let accs := l.map (fun e => accOfElem op.prog (w e) x e)
  let accs := if op.prog.rotIn then rotAccs accs else accs
  (accs.zip l).map (fun a =>
    if a.2 < elemsOf op.prog x.idx && n != 0 then BitVec.ofNat 32 (encode 0 none op.prog.sat (sumVal op.prog x a.2 a.1) 160).code else 0)

/-- Contributions of the members' payloads that an FP32 payload is made of are in. -/
def ownReady (op : Op) (n : Nat) (x : Chunk) (i : Nat) : Bool :=
  let per := perPayload (inFmt op.prog)
  (List.range (ceilDiv 32 per + 1)).all (fun k =>
    let j := 32 * i / per + k
    decide (min (32 * (i + 1)) (elemsOf op.prog x.idx) ≤ j * per) || payloadFull op n x j)

/-- One step of the ring's addition (R244). -/
def ringAdd (p : ProgParams) (partial_ own : BitVec 32) : BitVec 32 :=
  BitVec.ofNat 32 (
    if p.op == 2 then f32Max partial_.toNat own.toNat
    else if p.op == 3 then f32Min partial_.toNat own.toNat
    else f32Add partial_.toNat own.toNat)

/-- A ring packet to the next part in a payload's direction; even payloads go ring-east (R243). -/
def ringPacket (s : State) (g : Nat) (op : Op) (o c i : Nat) (data side : List Byte) (sideBit : Bool) : Option (Nat × Packet) :=
  let num := ringPayload op.prog c i
  match ringPosOf op.prog (nodePair (selfNode s)) with
  | none => none
  | some me =>
    let dst := mkNode (op.prog.ring.getD (ringNextPos op.prog num me) 0) true (selfIndex s)
    some (if ringEast num then 512 else 528,
      { collPacket o s dst false op.tenant i g op.gen c op.opid with data := padTo 128 data, side := if sideBit then padTo 16 side else [], sideBit := sideBit })

/-- Send it. -/
def sendRing (g : Nat) (op : Op) (o c i : Nat) (data side : List Byte) (sideBit : Bool) (s : State) : State :=
  match ringPacket s g op o c i data side sideBit with
  | some x => sendFor (some x.1) x.2 s
  | none => s

/-- Every payload of a chunk has been gathered. -/
def gatheredAll (op : Op) (c : Nat) : Bool := (List.range (ringPayloads op.prog c)).all (fun i => (op.gathered.find (slotKey c i)).isSome)

/-- The K-th part of a payload's path converts it, keeps it and starts the all-gather (R244 step 4, R245 step 1). -/
def ringComplete (g : Nat) (op : Op) (c i : Nat) (vals : List (BitVec 32)) (s : State) : State :=
  let e0 := elemStart op.prog c i 32
  let cnt := min 32 (op.prog.len - e0)
  let vs := (vals.take cnt).map (fun v =>
    if op.prog.op == 1 then (f32Val (f32Mul v.toNat (f32Recip op.prog.ntotal)), 0) else (f32Val v.toNat, 0))
  let r := outPayload op e0 vs
  let s := s.onOp g (fun o => takeClasses e0 r.2 { o with gathered := o.gathered.put (slotKey c i) r.1 })
  sendRing g op opRingRes c i r.1.1 r.1.2 (isBlkFmt op.prog.fout) s

/-- A partial meets the own sum: it goes on, or ends its path here (R244). -/
def ringMeet (g : Nat) (op : Op) (n : Nat) (w : Nat → Nat → Nat) (x : Chunk) (i : Nat) (part : List (BitVec 32)) (s : State) : State :=
  let num := ringPayload op.prog x.idx i
  let new := List.zipWith (ringAdd op.prog) part (ownPayload op n w x i)
  let s := s.onOp g (fun o => { o with partials := o.partials.del (slotKey x.idx i) })
  if ringPosOf op.prog (nodePair (selfNode s)) == some (ringLastPos op.prog num) then ringComplete g op x.idx i new s
  else sendRing g op opRingPart x.idx i (new.flatMap (fun v => leBytes v.toNat 4)) [] false s

/-- Partials of an open chunk that can meet their own sums. -/
def ringWaiting (g c : Nat) (w : Nat → Nat → Nat) (s : State) : State :=
  match s.op g with
  | none => s
  | some op =>
    match chunkOf op c with
    | none => s
    | some x =>
      let n := memberCount s g
      (List.range (ringPayloads op.prog c)).foldl (fun s i =>
        match op.partials.find (slotKey c i) with
        | some part => if ownReady op n x i then ringMeet g op n w x i part s else s
        | none => s) s

/-- The in-pair reduction of a chunk is complete: the payloads whose path begins here are sent (R243, R244 step 1). -/
def ringStart (g c : Nat) (w : Nat → Nat → Nat) (s : State) : State :=
  match s.op g with
  | none => s
  | some op =>
    match chunkOf op c with
    | none => s
    | some x =>
      let n := memberCount s g
      if x.ringStarted || !chunkFull op n x then s
      else
        let s := onChunk g c (fun x => { x with ringStarted := true }) s
        (List.range (ringPayloads op.prog c)).foldl (fun s i =>
          if ringPosOf op.prog (nodePair (selfNode s)) == some (ringFirstPos op.prog (ringPayload op.prog c i)) then
            sendRing g op opRingPart c i ((ownPayload op n w x i).flatMap (fun v => leBytes v.toNat 4)) [] false s
          else s) s

/-- What follows a contribution to a ring chunk, or a partial of it; a weighted sum reads its weights, and waits while they are not to be had (09 R270,
R272). -/
def ringProgress (g c : Nat) (s : State) : State :=
  match s.op g with
  | none => s
  | some op =>
    let n := memberCount s g
    let s := syncOpen g c 0 (inElems op.prog c) s
    match if (chunkOf op c).any (unweighed op) then tryWeights op n c s else .ok [] s with
    | .ok w s => ringStart g c (weightAt n w) (ringWaiting g c (weightAt n w) (clearStall g c s))
    | .stall a => noteStall g c a s
    | .cause k => opFault g op k c s
    | .lost t => wakeComputes (originate g rsDataLost (some c) t)

end Sys2Proof.Machine
end

