-- ==== Sys2Proof/Machine/Collective.lean ====
section
/-! DEFINITION. The collective engine of a plane (08, 07 R209, 09 R252 to R256): OP_START, contributions, results and their delivery, ring packets, the
timers, and what the mailboxes read of it. -/

namespace Sys2Proof.Machine

open Sys2Proof

/-! ### Chunks: opening and credit (R217, R221) -/

/-- Credit for one chunk to each of its contributors. -/
def sendCredit (g : Nat) (op : Op) (c : Nat) (s : State) : State :=
  (contributors op (memberCount s g) c).foldl (fun s k =>
    sendLocal (collPacket opRedCredit s (memberNode s g k) false op.tenant 1 g op.gen c op.opid) s) s

/-- May another owned chunk open: at most W are open, and on the ring none beyond L + W (R217, R246). -/
def mayOpen (s : State) (op : Op) : Bool :=
  decide (op.opened < ownedCount op.prog (selfIndex s)) && decide (op.chunks.length < op.prog.w) && s.svc.removedAt.isNone &&
  (!isRing op || (match op.chunks with
    | [] => true
    | x :: _ => decide (ownedChunk op.prog (selfIndex s) op.opened < x.idx + op.prog.w * op.prog.p)))

/-- Open the chunks that may be: their slots are cleared, and the credit goes out. -/
def openChunks (g : Nat) : Nat → State → State
  | 0, s => s
  | n + 1, s =>
    match s.op g with
    | none => s
    | some op =>
      if op.phase != .running || op.record.isSome || !mayOpen s op then s
      else
        let c := ownedChunk op.prog (selfIndex s) op.opened
        openChunks g n (sendCredit g op c (depositOpen g c 0 (inElems op.prog c) (s.onOp g (fun o => { o with
          chunks := o.chunks ++ [{ idx := c, last := s.svc.now }], opened := o.opened + 1 }))))

/-- An operation whose last owned chunk has closed: its counts are kept, OP_DONE goes to every member, its contexts are free (R226, 07 R209). -/
def opComplete (g : Nat) (s : State) : State :=
  match s.op g with
  | none => s
  | some op =>
    let s := s.onColl (fun c =>
      let l := c.summaries ++ [{ opid := op.opid, tenant := op.tenant, nans := op.nans, infs := op.infs, sats := op.sats }]
      { c with summaries := l.drop (l.length - 64) })
    let s := s.onOp g (fun o => { o with phase := .done, settleAt := s.svc.now })
    let s := sendLocal (collPacket opOpDone s (selfNode s) true op.tenant 0 g op.gen (ownedCount op.prog (selfIndex s)) op.opid) s
    wakeComputes (freeContextsOf (.op g) s)

/-- Complete an operation that has no chunk left. -/
def checkDone (g : Nat) (s : State) : State :=
  match s.op g with
  | some op =>
    if op.phase == .running && op.record.isNone && op.closedCount == ownedCount op.prog (selfIndex s) then opComplete g s else s
  | none => s

/-! ### OP_START (R212, R220, R254, R482) -/

/-- The checks of R482 on the group entry. -/
def groupFits (p : ProgParams) (e : GroupEntry) : Bool :=
  let n := e.members.length
  (!(p.kind == kindReduce || p.kind == kindBroadcast) || decide (p.root < n)) &&
  (!(p.kind == kindReduceScatter || p.kind == kindAllGather) || chunkCount p % n == 0) &&
  e.members.zipIdx.all (fun m => decide ((if isSummary p then 128 * chunkCount p else resultNeeds p n m.2) ≤ m.1.resultLen))

/-- The argument block is one of a fused program, or 0 (09 R275, 13 R477). -/
def argsOk (p : ProgParams) (args : List Byte) : Bool :=
  if p.kind == kindFused then allBytes args 32 64 0 else allBytes args 0 64 0

/-- Do the arguments of OP_START fail a check that completes with BAD_ARG? -/
def startBad (a : OpStartArgs) (s : State) : Bool :=
  match s.coll.groups.find a.group, findImage s a.progId, s.reed.parts.find (a.progId % 16) with
  | some e, some i, some part =>
    e.digest != a.digest || i.2.digest != a.imageDigest || i.2.cls != 0 || i.2.prog.group != a.group || part.tenant != e.tenant ||
    !i.2.prog.planes.contains (selfIndex s) || !groupFits i.2.prog e || !argsOk i.2.prog a.args ||
    (a.timeout != 0 && (a.timeout < 1000000 || 600000000000 < a.timeout))
  | _, _, _ => true

/-- A confidential tenant without a send slot (R220). -/
def noSendSlot (s : State) (t : Nat) : Bool := (sendSlotOf t s).isNone

/-- The operation as it starts. -/
def newOp (a : OpStartArgs) (e : GroupEntry) (i : Image) (now : Nat) : Op :=
  { opid := a.opid, progId := a.progId, prog := i.prog, tenant := e.tenant, gen := e.gen, phase := .running, timeout := a.timeout,
    startAt := now, args := padTo 64 a.args }

/-- Is a member's port to the plane down (R233)? -/
def memberAbsent (s : State) (e : GroupEntry) : Bool := e.members.any (fun m => (s.port (nodeIndex (BitVec.ofNat 13 m.member))).coreDown)

/-- Start: contexts, chunks, credit; a plane without a chunk is done at once, and an absent member aborts. -/
def startOp (a : OpStartArgs) (e : GroupEntry) (i : Image) (s : State) : State :=
  let s := s.onColl (fun c => { c with ops := c.ops.put a.group (newOp a e i s.svc.now) })
  if memberAbsent s e then originate a.group rsDestDown none s
  else checkDone a.group (openChunks a.group i.prog.w s)

/-- OP_START past the checks of R387. -/
def runOpStart (h : MHdr) (a : OpStartArgs) (s : State) : State :=
  match s.coll.groups.find a.group, findImage s a.progId, s.reed.parts.find (a.progId % 16) with
  | some e, some i, some part =>
    if opInFlight s a.group || noSendSlot s e.tenant || partReloading s part.mask then reply h msBusy [] s
    else match startContexts (.op a.group) i.1 i.2 part.mask s with
      | none => reply h msBusy [] s
      | some t => reply h msOk [] (startOp a e i.2 t)
  | _, _, _ => s

/-- The tenant of a group, for the mailboxes of tenant agents. -/
def groupDenied (h : MHdr) (g : Nat) (s : State) : Bool :=
  match s.coll.groups.find g with
  | some e => !tenantOk h e.tenant s
  | none => false

/-- The program that an OP_START names lies in a partition of a tenant that the mailbox may not act for (13 R379). -/
def programDenied (h : MHdr) (progId : Nat) (s : State) : Bool :=
  match (findImage s progId).bind (fun i => s.reed.parts.find (i.1 % 16)) with
  | some p => !tenantOk h p.tenant s
  | none => false

/-- OP_START. -/
def execOpStart (h : MHdr) (a : OpStartArgs) (s : State) : Host.Outcome State Fault Refusal :=
  command (.opStart h a) h { boxes := boxF ++ boxT }
    (fun s => s.svc.bridge || groupDenied h a.group s || programDenied h a.progId s || (match s.coll.groups.find a.group with | some e => isRevoking s e.tenant | none => false))
    (startBad a) (runOpStart h a) s

/-- The state code of R229. -/
def opPhaseCode (o : OpPhase) : Nat :=
  match o with
  | .running => 0
  | .done => 1
  | .aborting => 2
  | .closed => 3

/-- What OP_STATUS_READ returns: state, chunks closed, record, FCAUSE, its code and the program counter (R229, 09 R266). -/
def opStatus (s : State) (group : Nat) : List Byte :=
  match s.op group with
  | none => pack [.num 1 3, .num 8 0, .num 8 0, .num 8 0, .num 8 0, .num 8 0, .num 8 0, .num 8 0]
  | some o =>
    let r := o.record.getD { origin := 0, reason := 0, chunk := 0 }
    pack [.num 1 (opPhaseCode o.phase), .num 8 (coarse s o.closedCount (s.snap.closed.look group 0)), .num 8 r.reason, .num 8 r.origin, .num 8 r.chunk, .num 8 o.fcause, .num 8 o.fcode,
      .num 8 o.fpc]

/-- OP_STATUS_READ. -/
def execOpStatusRead (h : MHdr) (group : Nat) (s : State) : Host.Outcome State Fault Refusal :=
  command (.opStatusRead h group) h { boxes := boxF ++ boxT } (fun s => s.svc.bridge || groupDenied h group s) (fun s => (s.coll.groups.find group).isNone)
    (fun s => reply h msOk (opStatus s group) s) s

/-- The counts of one operation as they are returned; the snapshot's while a confidential tenant exists (07 R209, 14 R404). -/
def summaryBytes (s : State) (x : Summary) : List PField :=
  let z := (s.snap.summaries.find? (fun y => y.opid == x.opid && y.tenant == x.tenant)).getD { opid := x.opid, tenant := x.tenant, nans := 0, infs := 0, sats := 0 }
  [.num 4 x.opid.toNat, .num 8 (coarse s x.nans z.nans), .num 8 (coarse s x.infs z.infs), .num 8 (coarse s x.sats z.sats)]

/-- RED_SUMMARY_READ: the operations of the tenants the mailbox may act for. -/
def execRedSummaryRead (h : MHdr) (s : State) : Host.Outcome State Fault Refusal :=
  command (.redSummaryRead h) h { boxes := boxF ++ boxT } never never
    (fun s =>
      let l := s.coll.summaries.filter (fun x => tenantOk h x.tenant s)
      reply h msOk (pack (.num 2 l.length :: l.flatMap (summaryBytes s))) s) s

/-! ### Contributions (R223, R224) -/

/-- The operation that a collective packet names, where it is open on this plane: RUNNING with no record (R223 check 1, R235). -/
def openOp (s : State) (p : Packet) : Option Op :=
  match s.op p.group with
  | some o => if o.phase == .running && o.record.isNone && o.gen == p.gen && o.opid.toNat % 2 ^ 16 == p.opseq then some o else none
  | none => none

/-- COLL_STALE of the port the packet came in on. -/
def countCollStale (port : Nat) (s : State) : State :=
  if isPort port then s.onCnt port (fun c => { c with collStale := c.collStale + 1 }) else s

/-- Check 3 of R223. -/
def contributionOk (s : State) (op : Op) (x : Chunk) (pos : Nat) (p : Packet) : Bool :=
  contributes op.prog (memberCount s p.group) x.idx pos && decide (p.pidx < inPayloads op.prog x.idx) && !x.got.contains (pos, p.pidx) &&
  p.tenant.toNat == op.tenant && sideOk (inFmt op.prog) p.sideBit p.side

/-- A contribution that has passed every check: it joins its elements' state, and brings the turn of early ones, or waits for its own turn (07 R204). -/
def takeContribution (op : Op) (x : Chunk) (pos : Nat) (p : Packet) (s : State) : State :=
  let g := p.group
  let n := memberCount s g
  let per := perPayload (inFmt op.prog)
  let data := padTo 128 p.data
  let side := padTo 16 p.side
  let s := onChunk g x.idx (fun k => { k with got := k.got ++ [(pos, p.pidx)], last := s.svc.now }) s
  let s :=
    if isEarly op n x pos p.pidx then keepEarly g op x.idx pos p.pidx data side s
    else takeEarly g x.idx p.pidx n n (onChunk g x.idx (addPayload op pos p.pidx data side) (syncOpen g x.idx (p.pidx * per) ((p.pidx + 1) * per) s))
  let s := weighOpen g x.idx (depositOpen g x.idx (p.pidx * per) ((p.pidx + 1) * per) s)
  wakeChunks g (if isRing op then ringProgress g x.idx s else s)

/-- The memory that a contribution reads: the scratch of its element's cluster, or HBM where it brings the turn of a spilled one (07 R208). -/
def contributionCheck (op : Op) (x : Chunk) (pos : Nat) (p : Packet) (ecc : Ecc) (s : State) : Bool × State :=
  match readsBack s op (memberCount s p.group) pos p.pidx x with
  | some line => eccCheck ecc (128 * line) s
  | none =>
    let per := perPayload (inFmt op.prog)
    scratchCheck (elemCluster s op (p.pidx * per)) (slotWords p.group op x.idx (p.pidx * per) ((p.pidx + 1) * per) s) ecc s

/-- RED_PUT at its plane, through the checks of R223. -/
def putArrives (port : Nat) (p : Packet) (ecc : Ecc) (s : State) : State :=
  match openOp s p with
  | none => countCollStale port s
  | some op =>
    match authCheck p s with
    | .stale => if pastFence p.tenant.toNat s then countCollStale port s else discardStale port s
    | .fail => wakeComputes (originate p.group rsAuthFail (some p.chunk) (discardUnsure port s))
    | .ok =>
      if flagsBad p then discardMalformed port 7 p s
      else
        match chunkOf op p.chunk, positionOf s p.group p.src with
        | some x, some pos =>
          if !contributionOk s op x pos p then wakeComputes (originate p.group rsFormatError (some p.chunk) s)
          else
            let r := contributionCheck op x pos p ecc s
            if r.1 then takeContribution op x pos p r.2 else wakeComputes (originate p.group rsDataLost (some p.chunk) r.2)
        | _, _ => wakeComputes (originate p.group rsFormatError (some p.chunk) s)

/-- A packet for this node's agents: the port exists, and the packet is of the row's opcode and addressed here. It leaves the agents' queue and is
read under its slot key (04 R108). -/
def agentRow (o port : Nat) (p : Packet) (run : Packet → State → State) (s : State) : Host.Outcome State Fault Refusal :=
  if !(isPort port || port == outLocal) then .fault .noSuchUnit
  else .next (if !isReady s || (p.dst != selfNode s && !p.mcast) || p.op != o then s else run (opened s p) (takeLocal p s))

/-- RED_PUT (R223). -/
def execRedPut (port : Nat) (p : Packet) (ecc : Ecc) (s : State) : Host.Outcome State Fault Refusal :=
  agentRow opRedPut port p (fun p => putArrives port p ecc) s

/-! ### Results (R224, 06 R156) -/

/-- Everything a chunk's results wait for is in: every contribution, and on the ring every gathered payload. -/
def chunkReady (op : Op) (n : Nat) (x : Chunk) : Bool := chunkFull op n x && (!isRing op || gatheredAll op x.idx)

/-- The results of a ring chunk: the gathered payloads of 32 elements, joined (R245). -/
def ringResults (op : Op) (c : Nat) : List (Nat × List Byte × List Byte) :=
  let per := perPayload op.prog.fout / 32
  (List.range (payloadsOut op.prog c)).map (fun i =>
    let gs := (List.range per).map (fun k => op.gathered.look (slotKey c (i * per + k)) ([], []))
    (i, padTo 128 (gs.flatMap (fun x => if x.1.isEmpty then [] else padTo (4 * elemBits op.prog.fout) x.1)),
     if isBlkFmt op.prog.fout then padTo 16 (gs.map (fun x => x.2.getD 0 0)) else []))

/-- Keep what has been formed. -/
def setFormed (g c : Nat) (pays : List (Nat × List Byte × List Byte)) (cls : List Nat) (s : State) : State :=
  (onChunk g c (fun x => { x with formed := true, ready := pays }) s).onOp g (fun o => takeClasses (c * chunkElems o.prog) cls o)

/-- The result packet of one payload to one member, or to all of them. -/
def resultPacket (s : State) (g : Nat) (op : Op) (c : Nat) (dst : Node) (mcast : Bool) (y : Nat × List Byte × List Byte) : Packet :=
  { collPacket opRedRes s dst mcast op.tenant y.1 g op.gen c op.opid with
    data := padTo 128 y.2.1, sideBit := isBlkFmt (outFmt op.prog), side := if isBlkFmt (outFmt op.prog) then padTo 16 y.2.2 else [] }

/-- Ports of some members that are up: those a copy must reach and be acknowledged on (06 R158). -/
def upPorts (s : State) (l : List Nat) : List Nat := l.filter (fun p => !(s.port p).coreDown)

/-- Inject one payload, where its store space can be reserved. -/
def injectOne (g : Nat) (op : Op) (c : Nat) (y : Nat × List Byte × List Byte) (s : State) : Option State :=
  let n := memberCount s g
  if isUnicastKind op.prog.kind then
    some ((receivers op n c).foldl (fun s k =>
      let p := resultPacket s g op c (memberNode s g k) false y
      (sendFor none p s).onCore (fun v => { v with
        deliveries := v.deliveries ++ [{ group := g, chunk := c, pidx := y.1, opcode := opRedRes, ports := upPorts s [nodeIndex p.dst] }] })) s)
  else
    match protectFor (resultPacket s g op c (selfNode s) true y) s with
    | none => none
    | some p =>
      let ports := mcastPorts s p
      if !mcRoom s ports (pktBytes p) then none
      else some ((sendPacket none p (mcReserve ports (pktBytes p) s)).onCore (fun v => { v with
        deliveries := v.deliveries ++ [{ group := g, chunk := c, pidx := y.1, opcode := opRedRes, ports := upPorts s ports }] }))

/-- Inject the formed payloads in order, as far as the stores have room. -/
def injectReady (g : Nat) (op : Op) (c : Nat) : List (Nat × List Byte × List Byte) → State → State
  | [], s => s
  | y :: rest, s =>
    match injectOne g op c y s with
    | none => s
    | some s => injectReady g op c rest (onChunk g c (fun x => { x with ready := rest, notices := x.notices ++ [y.1] }) s)

/-- Inject what a chunk holds ready. -/
def injectChunk (g c : Nat) (s : State) : State :=
  match s.op g with
  | none => s
  | some op =>
    match chunkOf op c with
    | none => s
    | some x => injectReady g op c x.ready s

/-- Contexts that wait for store room of a chunk go on once nothing of it is left to inject. -/
def wakeStores (g c : Nat) (s : State) : State :=
  match (s.op g).bind (fun op => chunkOf op c) with
  | some x =>
    if x.ready.isEmpty then
      (contextsOf s (.op g)).foldl (fun s id =>
        if (s.ctx id).wait == .store g c then s.onCtx id (fun k => { k with wait := .none }) else s) s
    else s
  | none => s

/-- The operation and the open chunk of an index, while the operation runs with no record. -/
def runningChunk (s : State) (g c : Nat) : Option (Op × Chunk) :=
  match s.op g with
  | some op => if op.phase != .running || op.record.isSome then none else (chunkOf op c).map (fun x => (op, x))
  | none => none

/-- What has waited for weights may go on. -/
def retryWeights (g c : Nat) (s : State) : State :=
  match runningChunk s g c with
  | some (op, _) => if op.prog.weighted then wakeChunks g (if isRing op then ringProgress g c s else weighOpen g c s) else s
  | none => s

/-- The results of a complete chunk are formed, from its slots as they stand, and injected as the stores have room (R224, 06 R156). -/
def formResults (g c : Nat) (s : State) : State :=
  match runningChunk s g c with
  | none => s
  | some (op, _) =>
    let s := syncOpen g c 0 (inElems op.prog c) s
    match runningChunk s g c with
    | none => s
    | some (op, x) =>
      let n := memberCount s g
      if !chunkReady op n x || isStalled op c then s
      else if isRing op then injectChunk g c (setFormed g c (ringResults op c) [] s)
      else match formChunk op n (placeOf op s c) x s with
        | .ok pays cls t => injectChunk g c (setFormed g c pays cls (clearStall g c t))
        | .stall a => noteStall g c a s
        | .cause k => opFault g op k c s
        | .lost t => wakeComputes (originate g rsDataLost (some c) t)

/-- RED_RES_INJECTION: results that are formed go out as the stores have room. Before that the state of the chunk is read, and checked (07 R208). -/
def injection (g c : Nat) (ecc : Ecc) (s : State) : State :=
  match runningChunk s g c with
  | none => s
  | some (op, x) =>
    if x.formed || !x.emitted.isEmpty then wakeStores g c (injectChunk g c s)
    else
      let r := scratchCheck (elemCluster s op 0) (slotWords g op c 0 (chunkElems op.prog) s) ecc s
      if !r.1 then wakeComputes (originate g rsDataLost (some c) r.2) else formResults g c (retryWeights g c r.2)

/-- RED_RES_INJECTION. -/
def execRedResInjection (group chunk : Nat) (ecc : Ecc) (s : State) : Host.Outcome State Fault Refusal :=
  .next (whenReady s (injection group chunk ecc))

/-! ### Delivery and closing (R225, R226) -/

/-- Close a chunk whose results are all delivered, and open the next, or finish. -/
def closeIf (g c : Nat) (s : State) : State :=
  match s.op g with
  | none => s
  | some op =>
    match chunkOf op c with
    | none => s
    | some x =>
      if x.formed && x.ready.isEmpty && x.notices.isEmpty then
        checkDone g (openChunks g op.prog.w (s.onOp g (fun o => { o with
          chunks := o.chunks.filter (fun y => y.idx != c), closedCount := o.closedCount + 1,
          partials := o.partials.filter (fun y => y.1 / 65536 != c), gathered := o.gathered.filter (fun y => y.1 / 65536 != c) })))
      else s

/-- A delivery notice: every port has its copy and has acknowledged it (06 R158). -/
def deliver (g c i : Nat) (s : State) : State :=
  match s.core.deliveries.find? (fun d => d.group == g && d.chunk == c && d.pidx == i && d.opcode == opRedRes && d.ports.isEmpty) with
  | none => s
  | some d =>
    closeIf g c (onChunk g c (fun x => { x with notices := x.notices.filter (fun y => y != i) })
      (s.onCore (fun v => { v with deliveries := v.deliveries.erase d })))

/-- DELIVERY_NOTICE. -/
def execDeliveryNotice (group chunk pidx : Nat) (s : State) : Host.Outcome State Fault Refusal :=
  .next (whenReady s (deliver group chunk pidx))

/-! ### Ring packets (R244 to R246) -/

/-- The ring operation a ring packet belongs to: the packet carries the sending pair's own group, so OPSEQ and tenant decide, the same group
before others. -/
def ringOp (s : State) (p : Packet) : Option (Nat × Op) :=
  let fits := fun (x : Nat × Op) => isRing x.2 && x.2.phase == .running && x.2.record.isNone && x.2.opid.toNat % 2 ^ 16 == p.opseq &&
    x.2.tenant == p.tenant.toNat
  match s.coll.ops.find? (fun x => fits x && x.1 == p.group) with
  | some x => some x
  | none => s.coll.ops.find? fits

/-- Is there a receive slot: an owned chunk in [L, L + 2W), a payload of it (R246)? The interval counts owned chunks, P indices apart (DEDUCED, log entry
82). -/
def ringSlot (s : State) (op : Op) (c i : Nat) : Bool :=
  ownerOf op.prog c == selfIndex s && decide (c < chunkCount op.prog) && decide (i < ringPayloads op.prog c) &&
  decide ((match op.chunks with | x :: _ => x.idx | [] => ownedChunk op.prog (selfIndex s) op.opened) ≤ c) &&
  decide (c < (match op.chunks with | x :: _ => x.idx | [] => ownedChunk op.prog (selfIndex s) op.opened) + 2 * op.prog.w * op.prog.p)

/-- A ring packet through authentication and its slot. -/
def ringArrives (port : Nat) (p : Packet) (take : Nat → Op → State → State) (s : State) : State :=
  pktChecked port p (flagsBad p) (fun s =>
    match ringOp s p with
    | none => countCollStale port s
    | some x =>
      if !ringSlot s x.2 p.chunk p.pidx then countCollStale port s
      else take x.1 x.2 (onChunk x.1 p.chunk (fun k => { k with last := s.svc.now }) s)) s

/-- A partial takes its slot and meets the own sum once that is complete; a slot with an uncorrectable error ends the operation (07 R208). -/
def takePartial (p : Packet) (ecc : Ecc) (g : Nat) (op : Op) (s : State) : State :=
  let r := scratchCheck (elemCluster s op (32 * p.pidx)) (ringWords g s) ecc s
  if !r.1 then wakeComputes (originate g rsDataLost (some p.chunk) r.2)
  else ringProgress g p.chunk (r.2.onOp g (fun o => { o with
    partials := o.partials.put (slotKey p.chunk p.pidx) ((List.range 32).map (fun k => BitVec.ofNat 32 (leAt p.data (4 * k) 4))) }))

/-- RING_PART (R244). -/
def execRingPart (port : Nat) (p : RingIn) (s : State) : Host.Outcome State Fault Refusal :=
  agentRow opRingPart port p.pkt (fun q => ringArrives port q (takePartial q p.ecc)) s

/-- A gathered payload is stored, and passed on unless it has made its K - 1 hops (R245). -/
def takeGathered (p : Packet) (g : Nat) (op : Op) (s : State) : State :=
  let num := ringPayload op.prog p.chunk p.pidx
  let s := s.onOp g (fun o => { o with gathered := o.gathered.put (slotKey p.chunk p.pidx) (padTo 128 p.data, p.side) })
  match ringPosOf op.prog (nodePair (selfNode s)) with
  | some me =>
    if ringNextPos op.prog num me == ringLastPos op.prog num then s
    else sendRing g op opRingRes p.chunk p.pidx p.data p.side p.sideBit s
  | none => s

/-- RING_RES (R245). -/
def execRingRes (port : Nat) (p : Packet) (s : State) : Host.Outcome State Fault Refusal :=
  agentRow opRingRes port p (fun p => ringArrives port p (takeGathered p)) s

/-! ### Timers (R231, R233, R247) -/

/-- CHUNK_STALL: MEMBER_TIMEOUT, or PATH_LOST on the ring with every in-pair contribution in. -/
def execChunkStall (group chunk : Nat) (s : State) : Host.Outcome State Fault Refusal :=
  .next (
    match s.op group with
    | none => s
    | some op =>
      match chunkOf op chunk with
      | none => s
      | some x =>
        if !isReady s || s.svc.now < x.last + op.prog.stallMs * 1000000 then s
        else wakeComputes (originate group
          (if isRing op && chunkFull op (memberCount s group) x then rsPathLost else rsMemberTimeout) (some chunk) s))

/-- OPERATION_TIMEOUT. -/
def execOperationTimeout (group : Nat) (s : State) : Host.Outcome State Fault Refusal :=
  .next (
    match s.op group with
    | none => s
    | some op =>
      if !isReady s || op.timeout == 0 || s.svc.now < op.startAt + op.timeout then s
      else wakeComputes (originate group rsTimeout none s))

/-- The abort settle interval. -/
def settleNs : Nat := 10000000

/-- A plane's operation settles: CLOSED, and the removals that waited are applied (R213, R229, R238). -/
def planeSettled (g : Nat) (s : State) : State :=
  match s.op g with
  | none => s
  | some op =>
    if !(op.phase == .aborting || op.phase == .done) || s.svc.now < op.settleAt + settleNs then s
    else
      let s := s.onOp g (fun o => { o with phase := .closed, removals := [] })
      wakeComputes (op.removals.foldl (fun s r => applyRemoval g r s) s)

end Sys2Proof.Machine
end

