-- ==== Sys2Proof/Machine/Messages.lean ====
section
/-! DEFINITION. Messages (12 R347 to R354): the receiver, which answers every message NOT_MAPPED, and the sender's acknowledgements and
timers. A part never originates a message (R350), so its list of sends is empty in every run; the rows that act on it are modelled for
any list. -/

namespace Sys2Proof.Machine

open Sys2Proof

/-- Check 6 and the checks after it, for a packet that is no request and is addressed to this node (04 R90, R113): discarded and counted,
or taken by its agent. A packet of a tenant that fails check 8 counts as stale (DESIGN CHOICE, log entry 76). -/
def judged (port : Nat) (p : Packet) (run : State → State) (s : State) : State :=
  match authCheck p s with
  | .stale => discardStale port s
  | .fail => discardUnsure port s
  | .ok =>
    if flagsBad p || p.offset.toNat % 128 != 0 then discardMalformed port 7 p s
    else if tenantGone p.tenant.toNat s then discardStale port s
    else run s

/-- The MSG_ACK of a message (R348): it repeats SEQ, TENANT and OPARG [19:0], protected under the message's KEY_SLOT (04 R111). -/
def msgAckOf (s : State) (p : Packet) (status : Nat) : Packet :=
  { respond opMsgAck (selfNode s) p status [] (BitVec.ofNat 32 (p.arg 0 20)) with tag := 0, offset := 0 }

/-- RESTART of a message (R347). -/
def msgRestart (p : Packet) : Bool := p.arg 19 1 == 1

/-- The stream memory after a SEQ is accepted with a status (R352, R353): H rises, and statuses below H - 4,095 are forgotten. -/
def acceptMsg (p : Packet) (status : Nat) (st : Option (BitVec 16 × Map Nat)) : BitVec 16 × Map Nat :=
  match if msgRestart p then none else st with
  | none => (p.seq, [(p.seq.toNat, status)])
  | some (h, m) =>
    let high := if decide ((p.seq - h).toNat < 32768) then p.seq else h
    (high, (Map.put m p.seq.toNat status).filter (fun e => decide ((high - BitVec.ofNat 16 e.1).toNat < 4096)))

/-- A message at this node (R349 to R353): the status first given to a SEQ accepted before; a stale message is discarded and counted; any
other is accepted with NOT_MAPPED, for the part has no receive queues. A RESTART message is never stale (DEDUCED, log entry 12); a stale one counts in the
port's stale counter too (04 R479; DESIGN CHOICE, log entry 76). -/
def messageArrives (port : Nat) (p : Packet) (s : State) : State :=
  let src := p.src.toNat
  let st := s.svc.streams.find src
  let below := match st with | some x => (x.1 - p.seq).toNat | none => 0
  let known := match st with | some x => if below < 4096 then x.2.find p.seq.toNat else none | none => none
  match known with
  | some status => sendPacket none (msgAckOf s p status) s
  | none =>
    if st.isSome && !msgRestart p && decide (4096 ≤ below) && decide (below < 8192) then
      discardStale port (s.onSvc (fun v => { v with staleMsgs := v.staleMsgs + 1 }))
    else
      sendPacket none (msgAckOf s p stNotMapped) (s.onSvc (fun v => { v with streams := v.streams.put src (acceptMsg p stNotMapped st) }))

/-- MSG_SEND (R349, R350). No message is written, so no memory error can meet it. -/
def execMsgSend (port : Nat) (p : Packet) (_ecc : Ecc) (s : State) : Host.Outcome State Fault Refusal :=
  agentRow opMsgSend port p (fun p => judged port p (messageArrives port p)) s

/-- MSG_RTO and MSG_LIFETIME, in ns, as they stand by default: no command sets them (R351). -/
def msgRto : Nat := 1000000
def msgLifetime : Nat := 100000000

/-- The message to a peer with a SEQ that is still unacknowledged: packet, first and last attempt, last acknowledgement BUSY. -/
def openSend (s : State) (peer : Nat) (seq : BitVec 16) : Option (Packet × Nat × Nat × Bool) :=
  (s.svc.sends.find? (fun x => x.1 == peer && x.2.1 == seq)).map (fun x => x.2.2)

/-- The message has completed with a status. -/
def endSend (peer : Nat) (seq : BitVec 16) (status : Nat) (s : State) : State :=
  s.onSvc (fun v =>
    { v with sends := v.sends.filter (fun x => !(x.1 == peer && x.2.1 == seq)), sendDone := v.sendDone ++ [(peer, seq, status)] })

/-- Restart the retransmission timer of a message, and note whether its last acknowledgement was BUSY. -/
def restartSend (peer : Nat) (seq : BitVec 16) (busy : Bool) (s : State) : State :=
  s.onSvc (fun v =>
    { v with sends := v.sends.map (fun x =>
      if x.1 == peer && x.2.1 == seq then (x.1, x.2.1, x.2.2.1, x.2.2.2.1, v.now, busy || x.2.2.2.2.2) else x) })

/-- MSG_ACK (R348, R351): every status but BUSY is final. -/
def execMsgAck (port : Nat) (p : Packet) (s : State) : Host.Outcome State Fault Refusal :=
  agentRow opMsgAck port p (fun p => judged port p (fun s =>
    if (openSend s p.src.toNat p.seq).isNone then discardStale port s
    else if p.status.toNat == stBusy then restartSend p.src.toNat p.seq true s
    else endSend p.src.toNat p.seq p.status.toNat s)) s

/-- MSG_RTO (R351): the same SEQ, a fresh CTR. -/
def execMsgRto (peer : Nat) (seq : BitVec 16) (s : State) : Host.Outcome State Fault Refusal :=
  .next (match openSend s peer seq with
    | some x =>
      if isReady s && decide (x.2.2.1 + msgRto ≤ s.svc.now) then restartSend peer seq false (sendFor none { x.1 with conf := false, keySlot := 0 } s)
      else s
    | none => s)

/-- MSG_LIFETIME (R351): TIMEOUT, or BUSY where the last MSG_ACK was BUSY. -/
def execMsgLifetime (peer : Nat) (seq : BitVec 16) (s : State) : Host.Outcome State Fault Refusal :=
  .next (match openSend s peer seq with
    | some x =>
      if isReady s && decide (x.2.1 + msgLifetime ≤ s.svc.now) then endSend peer seq (if x.2.2.2 then stBusy else stTimeout) s else s
    | none => s)

end Sys2Proof.Machine
end

