-- ==== Sys2Proof/Machine/KeysMasks.lean ====
section
/-! DEFINITION. Spray masks (04 R87, 10 R292) and key agreement (14 R396 to R401). -/

namespace Sys2Proof.Machine

open Sys2Proof

/-- A packet of the management channel: CONF 0, SEQ 0, TAG 0 (R398, 08 R218). -/
def mgtPacket (o : Nat) (s : State) (dst : Node) (tenant : Nat) (arg : BitVec 32) (data : List Byte) : Packet :=
  Packet.framed { blank o (selfNode s) dst with tenant := BitVec.ofNat 10 tenant, oparg := arg, data := data }

/-! ### Spray masks -/

/-- Check 7 alone: the packets of the mask handshake name no tenant, so nothing of check 6 or 8 applies to them. -/
def maskJudged (port : Nat) (p : Packet) (run : State → State) (s : State) : State :=
  if flagsBad p || p.offset.toNat % 128 != 0 then discardMalformed port 7 p s else run s

/-- SPRAY_MASK_SET (R87): the plane sends MASK_SET to an end-point of its pair; BUSY while no node number is held (13 R478). -/
def execSprayMaskSet (h : MHdr) (endpoint : Nat) (bits : BitVec 32) (s : State) : Host.Outcome State Fault Refusal :=
  command (.sprayMaskSet h endpoint bits) h { boxes := boxF } (fun s => s.svc.bridge)
    (fun s => 8192 ≤ endpoint || (s.svc.node.isSome &&
      (nodeInfra (BitVec.ofNat 13 endpoint) || nodePair (BitVec.ofNat 13 endpoint) != nodePair (selfNode s))))
    (fun s =>
      if s.svc.node.isNone then reply h msBusy [] s
      else
        sendPacket none (mgtPacket opMaskSet s (BitVec.ofNat 13 endpoint) 0 bits [])
          (accept .buffer h (s.onSvc (fun v => { v with masks := v.masks ++ [(endpoint, bits, h, v.now)] })))) s

/-- The bits of a mask after a MASK_SET of a plane with infrastructure index `i`: its own domain's half is replaced, but a bit that was
cleared when its port went down is set again by that plane alone (R87, 10 R292). -/
def maskAfter (i : Nat) (bits : BitVec 32) (r : Requester) : Requester :=
  let base := 32 * (i / 32)
  let old := r.mask.toNat
  let keep := fun (k : Nat) => r.cleared.contains (base + k) && base + k != i
  let now := (List.range 32).foldl (fun n k => if bits.getLsbD k && !keep k then n + 2 ^ (base + k) else n) 0
  let rest := if base == 0 then old / 2 ^ 32 * 2 ^ 32 else old % 2 ^ 32
  { r with
    mask := BitVec.ofNat 64 (rest + now)
    cleared := r.cleared.filter (fun k => k != i) }

/-- MASK_SET (R87): a bridge applies all 32 bits and then answers; the domain comes from SRC. -/
def execMaskSet (port : Nat) (p : Packet) (s : State) : Host.Outcome State Fault Refusal :=
  agentRow opMaskSet port p (fun p => maskJudged port p (fun s =>
    if !s.svc.bridge || !nodeInfra p.src || 64 ≤ nodeIndex p.src then discardStale port s
    else
      sendPacket none (mgtPacket opMaskAck s p.src p.tenant.toNat p.oparg []) (s.onReq (maskAfter (nodeIndex p.src) p.oparg)))) s

/-- MASK_ACK (R87): it completes the SPRAY_MASK_SET of that end-point with the same bits. -/
def execMaskAck (port : Nat) (p : Packet) (s : State) : Host.Outcome State Fault Refusal :=
  agentRow opMaskAck port p (fun p => maskJudged port p (fun s =>
    match s.svc.masks.find? (fun m => m.1 == p.src.toNat && m.2.1 == p.oparg) with
    | some m => finishEvent m.2.2.1 0x0107 msOk [] (s.onSvc (fun v => { v with masks := v.masks.erase m }))
    | none => discardStale port s)) s

/-- MASK_TIMEOUT (10 R292, 15 R423): 1 ms without a MASK_ACK; MASK_SET is not sent again. -/
def execMaskTimeout (endpoint : Nat) (s : State) : Host.Outcome State Fault Refusal :=
  .next (match s.svc.masks.find? (fun m => m.1 == endpoint && decide (m.2.2.2 + 1000000 ≤ s.svc.now)) with
    | some m =>
      let s := recordErr kPort (endpoint % 512) 0x09 2 (leBytes endpoint 2) (s.onSvc (fun v => { v with masks := v.masks.erase m }))
      finishEvent m.2.2.1 0x0107 msFailed (failCause 0) s
    | none => s)

/-! ### Key slots (R396) -/

/-- KCV: the first 8 B of SHA-256 over the slot key, TENANT and SLOT; 0 when EMPTY (R398). -/
def kcvOf (t k : Nat) (key : List Byte) : List Byte := (sha256 (key ++ leBytes t 2 ++ leBytes k 1)).take 8
def kcv (s : State) (t k : Nat) : List Byte :=
  match slotKeyOf s t k with
  | some key => kcvOf t k key
  | none => padTo 8 []

/-- Slot state and KCV, as the last EK fragment carries them. -/
def slotState (s : State) (t k : Nat) : List Byte := leBytes (b2n (slotKeyOf s t k).isSome) 1 ++ kcv s t k

/-- A key leaves its slot: the CTR it has come to is kept with its check value, so that none is used twice under it should it come back (04 R109). -/
def retireKey (t k : Nat) (s : State) : State :=
  match slotKeyOf s t k, s.req.ctrs.find (ctrKey t k) with
  | some key, some c => s.onReq (fun r => { r with
      ctrs := r.ctrs.del (ctrKey t k)
      spent := r.spent.upd (ctrKey t k) [] (fun l => (kcvOf t k key, c) :: l.filter (fun x => x.1 != kcvOf t k key)) })
  | _, _ => s.onReq (fun r => { r with ctrs := r.ctrs.del (ctrKey t k) })

/-- The CTR a key goes on with in its slot: 0 for one that was never there (04 R109). -/
def firstCtr (t k : Nat) (key : List Byte) (s : State) : Nat :=
  match (s.req.spent.look (ctrKey t k) []).find? (fun x => x.1 == kcvOf t k key) with
  | some x => x.2
  | none => 0

/-- Every key of a tenant leaves its slot (14 R413). -/
def retireKeys (t : Nat) (s : State) : State := (List.range 4).foldl (fun s k => retireKey t k s) s

/-- Install a key, and make the slot the send slot where SEND asks it; the epoch advances where either changes (R405). -/
def fillSlot (t k : Nat) (key : Option (List Byte)) (send : Bool) (s : State) : State :=
  match s.tenant t with
  | none => s
  | some x =>
    let changes := key.isSome || (send && x.sendSlot != some k)
    let s := match key with
      | some b => let n := firstCtr t k b s; (retireKey t k s).onReq (fun r => { r with ctrs := r.ctrs.put (ctrKey t k) n })
      | none => s
    let s := s.onTenant t (fun x => { x with
      slots := match key with
        | some b => x.slots.put k b
        | none => x.slots
      worn := if key.isSome then x.worn.filter (fun w => w != k) else x.worn
      sendSlot := if send then some k else x.sendSlot })
    if changes then bumpEpoch s else s

/-! ### The exchange (R397 to R400) -/

/-- Is this end the lower-numbered one? -/
def lowEnd (s : State) (peer : Nat) : Bool := decide ((selfNode s).toNat < peer)

/-- The exchange of a tenant's slot with a peer. -/
def findEx (s : State) (t peer slot : Nat) : Option KeyEx :=
  s.sec.exs.find? (fun e => e.tenant == t && e.peer == peer && e.slot == slot)
def sameEx (t peer slot : Nat) (e : KeyEx) : Bool := e.tenant == t && e.peer == peer && e.slot == slot
def onEx (t peer slot : Nat) (f : KeyEx → KeyEx) (s : State) : State :=
  s.onSec (fun x => { x with exs := x.exs.map (fun e => if sameEx t peer slot e then f e else e) })
def dropEx (t peer slot : Nat) (s : State) : State := s.onSec (fun x => { x with exs := x.exs.filter (fun e => !sameEx t peer slot e) })

/-- OPARG of a KEY_MSG (R398). -/
def keyArg (kind frag slot : Nat) (xid : BitVec 16) : BitVec 32 := BitVec.ofNat 32 (kind + 16 * frag + 256 * slot + 65536 * xid.toNat)

/-- Send one KEY_MSG. -/
def sendKey (peer tenant kind frag slot : Nat) (xid : BitVec 16) (data : List Byte) (s : State) : State :=
  sendPacket none (mgtPacket opKeyMsg s (BitVec.ofNat 13 peer) tenant (keyArg kind frag slot xid) (padTo 128 data)) s

/-- Fragment `i` of a byte list. -/
def fragment (b : List Byte) (i : Nat) : List Byte := padTo 128 ((b.drop (128 * i)).take 128)

/-- The fragments this end sends: its encapsulation key with the slot state and KCV, and its ciphertext. -/
def ekFrags (s : State) (slot9 : List Byte) : List (List Byte) :=
  let b := padTo 1184 (Config.kemPublic s.sec.nodeKem) ++ slot9
  (List.range 10).map (fragment b)
def ctFrags (ct : List Byte) : List (List Byte) := (List.range 9).map (fragment (padTo 1088 ct))

/-- Send all fragments of a kind. -/
def sendFrags (peer tenant kind slot : Nat) (xid : BitVec 16) (l : List (List Byte)) (s : State) : State :=
  l.zipIdx.foldl (fun s x => sendKey peer tenant kind x.2 slot xid x.1 s) s

/-- The exchange ends at this end, and its command completes if one has armed it. -/
def endEx (e : KeyEx) (status : Nat) (result : List Byte) (s : State) : State :=
  let s := dropEx e.tenant e.peer e.slot s
  match e.hdr with
  | some h => finishEvent h 0x0803 status result s
  | none => s

/-- This end cannot proceed: REFUSE with a reason, and FAILED with the matching cause (R400). -/
def refuseEx (e : KeyEx) (reason : Nat) (s : State) : State :=
  endEx e msFailed (failCause (BitVec.ofNat 8 reason))
    (sendKey e.peer e.tenant 4 0 e.slot (e.xid.getD 0) (leBytes reason 1) s)

/-- The fragments received, whole. -/
def allFrags (n : Nat) (m : Map (List Byte)) : Option (List Byte) :=
  if (List.range n).all (fun i => (m.find i).isSome) then some ((List.range n).flatMap (fun i => m.look i [])) else none

/-- What the exchange has derived: wrap key, confirm key and H (R399 step 3). -/
structure Derived where
  wrap : List Byte
  confirm : List Byte
  h : List Byte
  deriving DecidableEq, Repr

/-- The derivation, where both keys and both ciphertexts are there. -/
def derive_ (s : State) (e : KeyEx) : Option Derived :=
  match allFrags 10 e.eks, allFrags 9 e.cts, e.ekSent, e.rnd, e.xid with
  | some ek, some ct, some st, some n, some xid =>
    let mine := Config.encapsulate (ek.take 1184) n
    let theirs := Config.decapsulate s.sec.nodeKem (ct.take 1088)
    let myEk := (ekFrags s st).flatten
    let myCt := (ctFrags mine.1).flatten
    let low := lowEnd s e.peer
    let h := if low then sha256 (myEk ++ ek ++ myCt ++ ct) else sha256 (ek ++ myEk ++ ct ++ myCt)
    let ss := if low then mine.2 ++ theirs else theirs ++ mine.2
    let me := (selfNode s).toNat
    let nodes := if low then leBytes me 2 ++ leBytes e.peer 2 else leBytes e.peer 2 ++ leBytes me 2
    let salt := leBytes e.tenant 2 ++ leBytes e.slot 1 ++ leBytes xid.toNat 2
    let k := hkdf64 salt ss (nodes ++ h)
    some { wrap := k.take 32, confirm := k.drop 32, h := h }
  | _, _, _, _, _ => none

/-- The confirm tags: 0x01 for DELIVER, 0x02 for CONFIRM (R399). -/
def confirmTag (d : Derived) (n : Nat) : List Byte := (hmac d.confirm (leBytes n 1 ++ d.h)).take 16

/-- A slot key wrapped under the wrap key, with an all-zero nonce: 32 B and the tag; and unwrapped, none where the tag fails (R399). -/
def wrapKey (wrap key extra : List Byte) : List Byte :=
  let c := gcmText wrap (List.replicate 12 0) (padTo 32 key)
  c ++ gcmTag wrap (List.replicate 12 0) extra c
def unwrapKey (wrap b extra : List Byte) : Option (List Byte) :=
  if gcmTag wrap (List.replicate 12 0) extra (b.take 32) == b.drop 32 then some (gcmText wrap (List.replicate 12 0) (b.take 32)) else none

/-- TENANT, SLOT and XID, the additional data of the wrapping. -/
def wrapData (e : KeyEx) : List Byte := leBytes e.tenant 2 ++ leBytes e.slot 1 ++ leBytes (e.xid.getD 0).toNat 2

/-- The KEYED end sends DELIVER once everything is derived (R399 step 4). -/
def sendDeliver (e : KeyEx) (d : Derived) (key : List Byte) (s : State) : State :=
  onEx e.tenant e.peer e.slot (fun e => { e with delivered := true })
    (sendKey e.peer e.tenant 2 0 e.slot (e.xid.getD 0) (wrapKey d.wrap key (wrapData e) ++ confirmTag d 1) s)

/-- The EMPTY end takes DELIVER: it checks the tag, unwraps, installs, confirms and completes (R399 step 5). -/
def takeDeliver (e : KeyEx) (d : Derived) (b : List Byte) (s : State) : State :=
  match (if bytesAt b 48 16 == confirmTag d 1 then unwrapKey d.wrap (b.take 48) (wrapData e) else none) with
  | none => refuseEx e 5 s
  | some key =>
    let s := fillSlot e.tenant e.slot (some (padTo 32 key)) e.send s
    endEx e msOk [] (sendKey e.peer e.tenant 3 0 e.slot (e.xid.getD 0) (confirmTag d 2) s)

/-- Go on with an armed exchange as far as what has arrived allows: the digest and the slots of both ends are judged when the peer's key is
whole, then the ciphertext is sent, then the key delivered or taken. -/
def advanceEx (t peer slot : Nat) (s : State) : State :=
  match findEx s t peer slot with
  | none => s
  | some e =>
    match e.hdr, e.xid, allFrags 10 e.eks with
    | some _, some xid, some ek =>
      if sha256Bits (ek.take 1184) != e.ekDigest then refuseEx e 2 s
      else
        let mine := slotKeyOf s t slot
        let theirs := leAt ek 1184 1 == 1
        if mine.isSome && theirs && bytesAt ek 1185 8 == kcv s t slot then endEx e msOk [] (fillSlot t slot none e.send s)
        else if mine.isSome == theirs then refuseEx e 4 s
        else
          let s :=
            if e.rnd.isSome then s
            else
              let n := s.free
              let s := onEx t peer slot (fun e => { e with rnd := some n }) { s with free := n + 1 }
              sendFrags peer t 1 slot xid (ctFrags (Config.encapsulate (ek.take 1184) n).1) s
          match findEx s t peer slot with
          | none => s
          | some e =>
            match derive_ s e with
            | none => s
            | some d =>
              match mine, e.deliver with
              | some key, _ => if e.delivered then s else sendDeliver e d key s
              | none, some b => takeDeliver e d b s
              | none, none => s
    | _, _, _ => s

/-- Send this end's EK fragments, once it is armed and knows the exchange identifier. -/
def sendEks (t peer slot : Nat) (s : State) : State :=
  match findEx s t peer slot with
  | some e =>
    match e.hdr, e.xid with
    | some _, some xid =>
      if e.ekSent.isSome then s
      else
        let st := slotState s t slot
        sendFrags peer t 0 slot xid (ekFrags s st) (onEx t peer slot (fun e => { e with ekSent := some st }) s)
    | _, _ => s
  | none => s

/-- Arm this end: a new exchange, or one whose first fragments have come (R397). The lower-numbered end chooses XID; the other waits for it
(DEDUCED, log entry 14). -/
def armEx (h : MHdr) (t peer slot : Nat) (digest : BitVec 256) (send : Bool) (s : State) : State :=
  let s :=
    match findEx s t peer slot with
    | some _ => onEx t peer slot (fun e => { e with hdr := some h, ekDigest := digest, send := send, startAt := s.svc.now }) s
    | none => s.onSec (fun x => { x with exs := x.exs ++
        [{ tenant := t, peer := peer, slot := slot, hdr := some h, ekDigest := digest, send := send, startAt := s.svc.now }] })
  let s :=
    if lowEnd s peer && ((findEx s t peer slot).map (fun e => e.xid.isNone)).getD false then
      let d := s.drawNat
      onEx t peer slot (fun e => { e with xid := some (BitVec.ofNat 16 d.1) }) d.2
    else s
  advanceEx t peer slot (sendEks t peer slot s)

/-- The KEY_AGREE that runs (R397). -/
def runKeyAgree (h : MHdr) (t peer slot : Nat) (digest : BitVec 256) (s : State) : State :=
  let clear := h.flags.getLsbD 0
  let send := h.flags.getLsbD 1
  match s.tenant t with
  | none => reply h msFailed (failCause 6) s
  | some x =>
    if clear then
      if x.sendSlot == some slot then reply h msBusy [] s
      else
        let s := if (x.slots.find slot).isSome then bumpEpoch ((retireKey t slot s).onTenant t (fun x => { x with slots := x.slots.del slot })) else s
        reply h msOk [] s
    else if s.svc.node.isSome && peer == (selfNode s).toNat then
      if (x.slots.find slot).isSome then reply h msBusy [] s
      else reply h msOk [] (fillSlot t slot (some (padTo 32 (Config.slotKey s.free))) send { s with free := s.free + 1 })
    else
      match findEx s t peer slot with
      | some e => if e.hdr.isSome then reply h msBusy [] s else armEx h t peer slot digest send (accept .buffer h s)
      | none => armEx h t peer slot digest send (accept .buffer h s)

/-- KEY_AGREE (R397); CLEAR is flag bit 8 and SEND flag bit 9 of the command. -/
def execKeyAgree (h : MHdr) (tenant peer slot : Nat) (ekDigest : BitVec 256) (s : State) : Host.Outcome State Fault Refusal :=
  command (.keyAgree h tenant peer slot ekDigest) h { boxes := boxS ++ boxT, flags := 0x03 }
    (fun s => !tenantOk h tenant s || isRevoking s tenant) (fun _ => 1024 ≤ tenant || 8192 ≤ peer || 4 ≤ slot)
    (runKeyAgree h tenant peer slot ekDigest) s

/-- Does a packet belong to another exchange than the one its slot is in, or to none where only an EK fragment can open one? -/
def otherExchange (kind : Nat) (e : Option KeyEx) (xid : BitVec 16) : Bool :=
  match e with
  | some e => e.xid.isSome && e.xid != some xid
  | none => kind != 0

/-- An EK or CT fragment is stored; the first one of an exchange that nobody has armed opens it and starts the wait of R400. -/
def takeFrag (p : Packet) (t peer slot kind frag : Nat) (xid : BitVec 16) (s : State) : State :=
  let s :=
    if (findEx s t peer slot).isSome then s
    else s.onSec (fun x => { x with exs := x.exs ++
      [{ tenant := t, peer := peer, slot := slot, hdr := none, ekDigest := 0, send := false, startAt := s.svc.now, xid := some xid }] })
  let s := onEx t peer slot (fun e => { e with
    xid := some xid
    eks := if kind == 0 then e.eks.put frag (padTo 128 p.data) else e.eks
    cts := if kind == 1 then e.cts.put frag (padTo 128 p.data) else e.cts }) s
  advanceEx t peer slot (sendEks t peer slot s)

/-- DELIVER, CONFIRM or REFUSE of an exchange in progress (R399, R400). A CONFIRM before this end has delivered is discarded (04 R479; DESIGN CHOICE, log
entry 76). -/
def takeKind (port : Nat) (p : Packet) (kind : Nat) (e : KeyEx) (s : State) : State :=
  if kind == 2 then advanceEx e.tenant e.peer e.slot (onEx e.tenant e.peer e.slot (fun e => { e with deliver := some (p.data.take 64) }) s)
  else if kind == 3 then
    match derive_ s e with
    | some d =>
      if !e.delivered then discardStale port s
      else if p.data.take 16 == confirmTag d 2 then endEx e msOk [] (fillSlot e.tenant e.slot none e.send s)
      else refuseEx e 5 s
    | none => discardStale port s
  else endEx e msFailed (failCause (p.data.getD 0 0)) s

/-- A KEY_MSG of a tenant that this end serves (R399). A packet of another exchange than the one in progress is discarded. -/
def keyArrives (port : Nat) (p : Packet) (s : State) : State :=
  let t := p.tenant.toNat
  let peer := p.src.toNat
  let kind := p.arg 0 4
  let slot := p.arg 8 2
  let xid := BitVec.ofNat 16 (p.arg 16 16)
  if otherExchange kind (findEx s t peer slot) xid then discardStale port s
  else if kind ≤ 1 then takeFrag p t peer slot kind (p.arg 4 4) xid s
  else match findEx s t peer slot with
    | none => s
    | some e => takeKind port p kind e s

/-- KIND or FRAG outside what R398 allows; the reserved bits of OPARG are ignored (04 R84). -/
def keyBad (p : Packet) : Bool :=
  let kind := p.arg 0 4
  let frag := p.arg 4 4
  4 < kind || (if kind == 0 then 9 < frag else if kind == 1 then 8 < frag else frag != 0)

/-- KEY_MSG (R398 to R400). Management packets carry CONF 0 for every tenant, so only the fence of a revocation discards them (04 R111, R112);
an end without the tenant, or with the tenant REVOKING, refuses the first fragment. -/
def execKeyMsg (port : Nat) (p : Packet) (s : State) : Host.Outcome State Fault Refusal :=
  agentRow opKeyMsg port p (fun p s =>
    let t := p.tenant.toNat
    if pastFence t s then discardStale port s
    else if flagsBad p || p.offset.toNat % 128 != 0 || keyBad p then discardMalformed port 7 p s
    else if (s.tenant t).isNone || isRevoking s t then
      if p.arg 0 4 == 0 && p.arg 4 4 == 0 then
        sendKey p.src.toNat t 4 0 (p.arg 8 2) (BitVec.ofNat 16 (p.arg 16 16)) [6] s
      else discardStale port s
    else keyArrives port p s) s

/-- KEY_NOT_ARMED (R400): 100 ms after the first EK fragment. -/
def execKeyNotArmed (tenant peer slot : Nat) (s : State) : Host.Outcome State Fault Refusal :=
  .next (match findEx s tenant peer slot with
    | some e => if isReady s && e.hdr.isNone && decide (e.startAt + 100000000 ≤ s.svc.now) then refuseEx e 1 s else s
    | none => s)

/-- KEY_TIMEOUT (R400): 200 ms after this end's own command. -/
def execKeyTimeout (tenant peer slot : Nat) (s : State) : Host.Outcome State Fault Refusal :=
  .next (match findEx s tenant peer slot with
    | some e =>
      if isReady s && e.hdr.isSome && decide (e.startAt + 200000000 ≤ s.svc.now) then endEx e msFailed (failCause (Config.causeByte 0)) s
      else s
    | none => s)

end Sys2Proof.Machine
end

