-- ==== Sys2Proof/Machine/QueuePairs.lean ====
section
/-! DEFINITION. Queue pairs (11 R338, R339, R344, R345): QP_CREATE, QP_RESET, QP_DESTROY, the end of a stop, and the register doorbells (17 R473). -/

namespace Sys2Proof.Machine

open Sys2Proof

/-! ### QP_CREATE -/

/-- The queue pair of some arguments, ACTIVE with tails and heads at 0. -/
def newQp (a : QpArgs) : Qp :=
  { tenant := a.tenant, sqFva := a.sqFva, sqLog := a.sqLog, cqFva := a.cqFva, cqLog := a.cqLog, lineMode := a.lineMode, dbFva := a.dbFva,
    mover := a.mover, vec := a.vec }

/-- An argument is out of range, a ring is not aligned to its size, or the doorbell line is not in this part's HBM. -/
def qpArgsBad (a : QpArgs) (s : State) : Bool :=
  decide (65535 < a.qpn) || (s.tenant a.tenant).isNone || decide (a.sqLog < 6) || decide (12 < a.sqLog) || decide (a.cqLog < 6) ||
  decide (12 < a.cqLog) || a.sqFva % (64 * 2 ^ a.sqLog) != 0 || a.cqFva % (32 * 2 ^ a.cqLog) != 0 || decide (31 < a.mover) ||
  decide (2047 < a.vec) || (a.lineMode && (doorbellAt s (newQp a)).isNone)

/-- QP_CREATE: BUSY where the number is in use. -/
def execQpCreate (h : MHdr) (a : QpArgs) (s : State) : Host.Outcome State Fault Refusal :=
  command (.qpCreate h a) h { boxes := boxH ++ boxT } (fun s => !tenantOk h a.tenant s || isRevoking s a.tenant) (qpArgsBad a)
    (fun s =>
      if (s.qp a.qpn).isSome then reply h msBusy [] s
      else reply h msOk [] (s.onQueues (fun q => { q with qps := q.qps.put a.qpn (newQp a) }))) s

/-! ### QP_RESET and QP_DESTROY -/

/-- May the mailbox act for the queue's tenant? -/
def qpDenied (h : MHdr) (qpn : Nat) (s : State) : Bool :=
  match s.qp qpn with
  | some q => !tenantOk h q.tenant s
  | none => false

/-- The stop begins: no new start, unstarted descriptors discarded, started ones ended (R345). -/
def runQpStop (via : Via) (h : MHdr) (op qpn : Nat) (s : State) : State :=
  match s.qp qpn with
  | none => finish via h op msBadArg [] s
  | some _ =>
    let s := beginTrans (.qp qpn) h op (accept via h s)
    stopQueue qpn stOpAborted 3 false (s.onQp qpn (fun q => { q with stopping := true, sqHead := q.sqTail }))

/-- QP_RESET. -/
def execQpReset (h : MHdr) (qpn : Nat) (s : State) : Host.Outcome State Fault Refusal :=
  command (.qpReset h qpn) h { boxes := boxH ++ boxT } (qpDenied h qpn) (fun s => (s.qp qpn).isNone)
    (fun s => transition (.qp qpn) (.qpReset h qpn) h (runQpStop .buffer h 0x0608 qpn) s) s

/-- QP_DESTROY. -/
def execQpDestroy (h : MHdr) (qpn : Nat) (s : State) : Host.Outcome State Fault Refusal :=
  command (.qpDestroy h qpn) h { boxes := boxH ++ boxT } (qpDenied h qpn) (fun s => (s.qp qpn).isNone)
    (fun s => transition (.qp qpn) (.qpDestroy h qpn) h (runQpStop .buffer h 0x0609 qpn) s) s

/-- A queued command of a queue's function runs. -/
def runQueuedQp (i : Instr) (s : State) : State :=
  match i with
  | .qpReset h n => runQpStop .event h 0x0608 n s
  | .qpDestroy h n => runQpStop .event h 0x0609 n s
  | _ => s

/-- The queue as its command leaves it: freed, or ACTIVE with tails and heads at 0. -/
def stoppedQueue (op qpn : Nat) (s : State) : State :=
  if op == 0x0609 then s.onQueues (fun q => { q with qps := q.qps.del qpn })
  else s.onQp qpn (fun q => { q with error := false, stopping := false, sqTail := 0, sqHead := 0, cqTail := 0, cqHead := 0, jobs := [] })

/-- QP_STOP_COMPLETE: every started descriptor has written its record. A queue that a revocation has freed ends its reset as FAILED. -/
def execQpStopComplete (qpn : Nat) (s : State) : Host.Outcome State Fault Refusal :=
  .next (
    match findTrans (.qp qpn) s.mbx.trans with
    | none => s
    | some t =>
      match s.qp qpn with
      | some q => if firmwareRuns s && q.jobs.isEmpty then endTrans (.qp qpn) msOk [] runQueuedQp (stoppedQueue t.opcode qpn s) else s
      | none => if t.opcode == 0x0609 then endTrans (.qp qpn) msOk [] runQueuedQp s
        else endTrans (.qp qpn) msFailed (failCause (Config.causeByte 11)) runQueuedQp s)

/-! ### Register doorbells (17 R473) -/

/-- A doorbell page answers for an existing queue in REG mode of a part that is READY. -/
def regMode (s : State) (qpn : Nat) : Bool :=
  isReady s && ioReaches s && (match s.qp qpn with | some q => !q.lineMode | none => false)

/-- DB_SQ_TAIL. -/
def execDbSqTail (qpn : Nat) (v : BitVec 32) (s : State) : Host.Outcome State Fault Refusal :=
  .next (if regMode s qpn then setSqTail qpn v s else s)

/-- DB_CQ_HEAD: ring slots are freed. -/
def execDbCqHead (qpn : Nat) (v : BitVec 32) (s : State) : Host.Outcome State Fault Refusal :=
  .next (if regMode s qpn then setCqHead qpn v s else s)

end Sys2Proof.Machine
end

