-- ==== Sys2Proof/Machine/Bridge.lean ====
section
/-! DEFINITION. The bridge's windows (10 R309 to R318): the descriptors, host accesses, the remote-line cache (05 R133, 10 R317), failed
accesses, and the completion of a window's requests. -/

namespace Sys2Proof.Machine

open Sys2Proof

/-! ### Descriptors (R310) -/

def mib2 : Nat := 2097152

/-- A descriptor as the bits of R310 in table order, least significant first, in 24 B. -/
def winBytes (d : WinDesc) : List Byte :=
  leBytes (b2n d.en + d.size * 2 ^ 1 + d.target * 2 ^ 21 + d.tbase * 2 ^ 34 + d.tenant * 2 ^ 74 + b2n d.uncached * 2 ^ 84 + d.syncBase * 2 ^ 85 +
    d.syncLen * 2 ^ 105 + d.syncScope * 2 ^ 125 + d.failVec * 2 ^ 127) 24

/-- A descriptor out of its bytes. -/
def winOfBytes (b : List Byte) : WinDesc :=
  let f := fun (lo w : Nat) => leNat b / 2 ^ lo % 2 ^ w
  { en := f 0 1 == 1, size := f 1 20, target := f 21 13, tbase := f 34 40, tenant := f 74 10, uncached := f 84 1 == 1, syncBase := f 85 20,
    syncLen := f 105 20, syncScope := f 125 2, failVec := f 127 11 }

/-- A field is out of range. -/
def winBad (s : State) (d : WinDesc) : Bool :=
  let n : Node := BitVec.ofNat 13 d.target
  decide (d.size < 1) || decide (524288 < d.size) || decide (8191 < d.target) || nodePair n != nodePair (selfNode s) ||
  (nodeInfra n && decide (64 ≤ nodeIndex n)) || d.tbase % mib2 != 0 || decide (2 ^ 40 < d.tbase + d.size * mib2) ||
  (s.tenant d.tenant).isNone || decide (d.size < d.syncBase + d.syncLen) || decide (2 < d.syncScope) || decide (2047 < d.failVec)

/-- WINDOW_SET as it runs; the descriptor in force changes nothing (13 R385). Its check of the pair needs the bridge's own number (01 R478). -/
def runWindowSet (via : Via) (h : MHdr) (w : Nat) (d : WinDesc) (s : State) : State :=
  if (s.window w).desc == d then finish via h 0x0501 msOk [] s
  else if (s.window w).desc.en then finish via h 0x0501 msBusy [] s
  else finish via h 0x0501 msOk [] (bumpEpoch (s.onWindow w (fun x => { x with desc := d })))

/-- WINDOW_SET. -/
def execWindowSet (h : MHdr) (w : Nat) (d : WinDesc) (s : State) : Host.Outcome State Fault Refusal :=
  command (.windowSet h w d) h { boxes := boxH } (fun s => !s.svc.bridge)
    (fun s => 15 < w || (s.svc.node.isSome && winBad s d))
    (fun s =>
      if s.svc.node.isNone then reply h msBusy [] s
      else transition (.window w) (.windowSet h w d) h (runWindowSet .buffer h w d) s) s

/-- WINDOW_DISABLE as it runs: host accesses fail from now on (R311); a disabled window is already in the state asked for (13 R385). -/
def runWindowDisable (via : Via) (h : MHdr) (w : Nat) (s : State) : State :=
  if !(s.window w).desc.en then finish via h 0x0502 msOk [] s
  else beginTrans (.window w) h 0x0502 (accept via h (s.onWindow w (fun x => { x with disabling := true })))

/-- WINDOW_DISABLE. -/
def execWindowDisable (h : MHdr) (w : Nat) (s : State) : Host.Outcome State Fault Refusal :=
  command (.windowDisable h w) h { boxes := boxH } (fun s => !s.svc.bridge) (fun _ => 15 < w)
    (fun s => transition (.window w) (.windowDisable h w) h (runWindowDisable .buffer h w) s) s

/-- A queued command of a window runs. -/
def runQueuedWindow (i : Instr) (s : State) : State :=
  match i with
  | .windowSet h w d => runWindowSet .event h w d s
  | .windowDisable h w => runWindowDisable .event h w s
  | _ => s

/-- Is a request one of a window's? -/
def ofWindow (w : Nat) (u : Purpose) : Bool := match u with | .window v _ _ _ => v == w | _ => false

/-- A window has a request outstanding or waiting. -/
def windowBusy (s : State) (w : Nat) : Bool :=
  s.req.out.any (fun r => ofWindow w r.2.purpose) || s.req.waiting.any (fun r => ofWindow w r.2) || s.host.waiting.any (fun r => r.dpa / 2 ^ 40 == w)

/-- WINDOW_DISABLE_COMPLETE: no request of the window is outstanding; the cache lines filled through it go. -/
def execWindowDisableComplete (w : Nat) (s : State) : Host.Outcome State Fault Refusal :=
  .next (
    if !firmwareRuns s || (findTrans (.window w) s.mbx.trans).isNone || windowBusy s w then s
    else
      let s := s.onHost (fun h => { h with cache := h.cache.filter (fun c => !c.wins.contains w) })
      let s := s.onWindow w (fun x => { x with disabling := false, desc := { x.desc with en := false } })
      endTrans (.window w) msOk [] runQueuedWindow (bumpEpoch s))

/-- WINDOW_READ: the descriptor, the counters, which confidential mode never coarsens (17 R470), the log. -/
def execWindowRead (h : MHdr) (w : Nat) (s : State) : Host.Outcome State Fault Refusal :=
  command (.windowRead h w) h { boxes := boxH } (fun s => !s.svc.bridge) (fun _ => 15 < w)
    (fun s =>
      let x := s.window w
      reply h msOk (pack [.bytes (winBytes x.desc), .num 8 x.failRd.toNat, .num 8 x.failWr.toNat, .num 8 x.logAddr, .num 8 x.logInfo.toNat]) s) s

/-! ### Failed accesses (R318, 17 R469, R470) -/

/-- The window's interrupt: raised where its pending bit was clear. -/
def windowIrq (w : Nat) (s : State) : State :=
  if s.host.irqPend.getLsbD w then s
  else raiseVec (s.window w).desc.failVec (s.onHost (fun h => { h with irqPend := h.irqPend ||| BitVec.ofNat 32 (2 ^ w) }))

/-- Count and log a failed access of a window. -/
def failAccess (w dpa status : Nat) (write : Bool) (s : State) : State :=
  let x := s.window w
  let s := s.onWindow w (fun x =>
    if x.logInfo.getLsbD 9 then x
    else { x with logAddr := dpa % 2 ^ 44, logInfo := BitVec.ofNat 32 (status % 256 + 256 * b2n write + 512) })
  let old := if write then x.failWr else x.failRd
  if old == BitVec.allOnes 32 then s
  else windowIrq w (s.onWindow w (fun x => if write then { x with failWr := x.failWr + 1 } else { x with failRd := x.failRd + 1 }))

/-! ### Host completions (R312, R314) -/

/-- Give the host its completion; over an Insecure CXL.mem stream none goes (13 R374). -/
def hostAnswer (dpa : Nat) (write : Bool) (data : List Byte) (s : State) : State :=
  if ideBlocks s 1 then s
  else s.onHost (fun h => { h with resps := h.resps ++ [{ dpa := dpa, write := write, data := data }] })

/-- The completion of a failed access: all ones for a read, a normal Cmp for a write. -/
def hostFail (w dpa status : Nat) (write live : Bool) (s : State) : State :=
  let s := failAccess w dpa status write s
  if live then hostAnswer dpa write (if write then [] else List.replicate 64 0xFF#8) s else s

/-! ### The remote-line cache (R317, 05 R133) -/

def setOf (node off : Nat) : Nat := Config.cacheSet (node * 2 ^ 33 + off / 128) % 4096

/-- Fill a line through a window; its set keeps 16, the least recently used one leaving. -/
def cacheFill (w t node off : Nat) (data : List Byte) (s : State) : State :=
  s.onHost (fun h =>
    let old := h.cache.find? (sameLine t node off)
    let wins := match old with | some c => if c.wins.contains w then c.wins else w :: c.wins | none => [w]
    let rest := h.cache.filter (fun c => !sameLine t node off c)
    let mates := rest.filter (fun c => setOf c.node c.offset == setOf node off)
    let rest := match mates[15]? with | some v => rest.erase v | none => rest
    { h with cache := { tenant := t, node := node, offset := off, data := padTo 128 data, wins := wins } :: rest })

/-- A hit is the most recently used line. -/
def cacheTouch (c : CacheLine) (s : State) : State := s.onHost (fun h => { h with cache := c :: h.cache.erase c })

/-- A host write updates a held copy of the half before the write is issued, and never allocates. -/
def cacheUpdate (t node off mask : Nat) (data : List Byte) (s : State) : State :=
  s.onHost (fun h => { h with cache := h.cache.map (fun c =>
    if sameLine t node off c then { c with data := mergeMask mask c.data (padTo 128 data) } else c) })

/-! ### Host accesses (R309, R312, R313) -/

/-- The fabric line and the half that an offset of a window maps to, where the window serves it. -/
def windowMap (x : Window) (off : Nat) : Option (Nat × Nat) :=
  if x.desc.en && !x.disabling && decide (off < x.desc.size * mib2) then
    let o := x.desc.tbase + off
    some (o / 128 * 128, o / 64 % 2)
  else none

/-- An offset lies in the sync range. -/
def inSync (d : WinDesc) (off : Nat) : Bool :=
  decide (d.syncBase * mib2 ≤ off) && decide (off < (d.syncBase + d.syncLen) * mib2)

/-- A window's read is still out, so a RELEASE of the window waits (05 R132). -/
def windowReading (s : State) (w : Nat) : Bool :=
  let rd := fun (u : Purpose) => match u with | .window v _ write _ => v == w && !write | _ => false
  s.req.out.any (fun r => rd r.2.purpose) || s.req.waiting.any (fun r => rd r.2)

/-- Serve a host read. -/
def hostRead (w dpa : Nat) (s : State) : State :=
  let x := s.window w
  let off := dpa % 2 ^ 40
  match windowMap x off with
  | none => hostFail w dpa stNotMapped false true s
  | some (line, half) =>
    let node : Node := BitVec.ofNat 13 x.desc.target
    let sync := inSync x.desc off
    let hit := if sync || x.desc.uncached then none else s.host.cache.find? (sameLine x.desc.tenant x.desc.target line)
    match hit with
    | some c => hostAnswer dpa false (bytesAt c.data (64 * half) 64) (cacheTouch c s)
    | none =>
      let p := readRequest s node x.desc.tenant line (sync || x.desc.uncached)
      let p := if sync then { p with acquire := true, scope := BitVec.ofNat 2 x.desc.syncScope } else p
      let s := if sync then s.onReq (fun r => { r with acquiring := r.acquiring ++ [w] }) else s
      issue p (.window w dpa false true) s

/-- Serve a host write of some bytes of its 64 B. -/
def hostWrite (w dpa : Nat) (data : List Byte) (be : BitVec 64) (s : State) : State :=
  let x := s.window w
  let off := dpa % 2 ^ 40
  match windowMap x off with
  | none => hostFail w dpa stNotMapped true true s
  | some (line, half) =>
    let node : Node := BitVec.ofNat 13 x.desc.target
    let mask := be.toNat * 2 ^ (64 * half)
    let bytes := List.replicate (64 * half) 0 ++ padTo 64 data
    let p := { request opWrMasked s node x.desc.tenant line with sideBit := true, side := leBytes mask 16, data := padTo 128 bytes }
    let p := if inSync x.desc off then { p with release := true, scope := BitVec.ofNat 2 x.desc.syncScope } else p
    issue p (.window w dpa true true) (cacheUpdate x.desc.tenant x.desc.target line mask bytes s)

/-- Host accesses of one direction that are outstanding. -/
def hostOpen (s : State) (write : Bool) : Nat :=
  let mine := fun (u : Purpose) => match u with | .window _ _ wr _ => wr == write | _ => false
  (s.req.out.filter (fun r => mine r.2.purpose)).length + (s.req.waiting.filter (fun r => mine r.2)).length

/-- Must an access of a window wait: for one of the 2,048 places of its direction (R316), behind an ACQUIRE, or, for a RELEASE, behind a read? -/
def mustWait (s : State) (w : Nat) (r : HostReq) : Bool :=
  decide (2048 ≤ hostOpen s r.write) || s.req.acquiring.contains w || (r.write && inSync (s.window w).desc (r.dpa % 2 ^ 40) && windowReading s w)

/-- Serve one access. -/
def serveHost (w : Nat) (r : HostReq) (s : State) : State :=
  if r.write then hostWrite w r.dpa r.data r.be s else hostRead w r.dpa s

/-- Serve the accesses that wait, in the order of delivery; one that has to wait holds the later ones of its window (R313). -/
def drainGo : List HostReq → List Nat → State → State
  | [], _, s => s
  | r :: rest, held, s =>
    let w := r.dpa / 2 ^ 40
    if held.contains w || mustWait s w r then drainGo rest (w :: held) (s.onHost (fun h => { h with waiting := h.waiting ++ [r] }))
    else drainGo rest held (serveHost w r s)

def drainHost (s : State) : State := drainGo s.host.waiting [] (s.onHost (fun h => { h with waiting := [] }))

/-- The host reaches a device address: a bridge that is READY, a trained link, a committed decoder (13 R370 to R372). -/
def memReaches (s : State) (dpa : Nat) : Bool :=
  isReady s && s.svc.bridge && s.host.linkUp && !ideBlocks s 1 && decide (dpa < 2 ^ 44) &&
  s.host.hdm.any (fun d => d.2.committed && decide (d.2.base ≤ dpa) && decide (dpa < d.2.base + d.2.size))

/-- A host access enters its window's order. -/
def hostAccess (r : HostReq) (s : State) : Host.Outcome State Fault Refusal :=
  .next (
    if !memReaches s r.dpa then s
    else drainHost (s.onHost (fun h => { h with waiting := h.waiting ++ [r] })))

/-- MemRd (R312). -/
def execMemRd (dpa : Nat) (s : State) : Host.Outcome State Fault Refusal :=
  hostAccess { dpa := dpa, write := false, data := [], be := 0 } s
/-- MemRdData: handled as MemRd (13 R370). -/
def execMemRdData (dpa : Nat) (s : State) : Host.Outcome State Fault Refusal :=
  hostAccess { dpa := dpa, write := false, data := [], be := 0 } s
/-- MemWr: the whole 64 B. -/
def execMemWr (dpa : Nat) (data : List Byte) (s : State) : Host.Outcome State Fault Refusal :=
  hostAccess { dpa := dpa, write := true, data := data, be := BitVec.allOnes 64 } s
/-- MemWrPtl: the bytes enabled. -/
def execMemWrPtl (dpa : Nat) (data : List Byte) (be : BitVec 64) (s : State) : Host.Outcome State Fault Refusal :=
  hostAccess { dpa := dpa, write := true, data := data, be := be } s

/-! ### The end of a window's request -/

/-- The invalidation of an ACQUIRE: FABRIC scope empties the node's shared cache of the tenant's lines (R313), which reads sent before it fill no more. -/
def acquireDone (w : Nat) (p : Packet) (s : State) : State :=
  let s := if p.scope == 2#2 then
      barFills (fun q => q.tenant == p.tenant) (s.onHost (fun h => { h with cache := h.cache.filter (fun c => c.tenant != p.tenant.toNat) }))
    else s
  s.onReq (fun r => { r with acquiring := r.acquiring.erase w })

/-- A window's request has ended with a status; `noFill` where the line it read may be older than a write of this node or an ACQUIRE (05 R133). -/
def windowDone (w dpa : Nat) (write live noFill : Bool) (p : Packet) (status : Nat) (data : List Byte) (s : State) : State :=
  let t := p.tenant.toNat
  let node := p.dst.toNat
  let off := p.offset.toNat
  let s := if p.acquire then acquireDone w p s else s
  let s :=
    if status != stOk then hostFail w dpa status write live s
    else if write then (if live then hostAnswer dpa true [] s else s)
    else
      let s := if !p.volat && !noFill && !writeOpen s p && !isRevoking s t then cacheFill w t node off data s else s
      if live then hostAnswer dpa false (bytesAt data (64 * (dpa / 64 % 2)) 64) s else s
  drainHost s

end Sys2Proof.Machine
end

