-- ==== Sys2Proof/Machine/Responses.lean ====
section
/-! DEFINITION. Responses and timeouts at the requester (04 R97, R98, R100, R102, R114, R116, 10 R294 to R297): the four rows, and what the end of a
request means for what it serves. -/

namespace Sys2Proof.Machine

open Sys2Proof

/-- The mover of a queue. -/
def moverOf (s : State) (qpn : Nat) : Option Nat := (s.qp qpn).map (fun q => q.mover)

/-- Go on with the mover of a queue. -/
def advanceQueue (qpn : Nat) (s : State) : State :=
  match moverOf s qpn with
  | some m => advanceMover m s
  | none => s

/-- A line of the region that the oldest digest of a tenant reads has come from another node, or its request has failed (14 R409). -/
def digestLine (t i status : Nat) (data : List Byte) (s : State) : State :=
  match s.sec.digests.find? (fun d => d.tenant == t) with
  | none => s
  | some d =>
    let e := if status == stOk then { d with left := d.left - 1, far := d.far.put i data } else { d with left := d.left - 1, bad := true }
    s.onSec (fun x => { x with digests := x.digests.map (fun y => if y == d then e else y) })

/-- What the end of a request means for what it serves: a status, a line, and CAS_HIT. -/
def afterRequest (r : Request) (status : Nat) (data : List Byte) (hit : Bool) (s : State) : State :=
  match r.purpose with
  | .window w dpa write live => windowDone w dpa write live r.noFill r.pkt status data s
  | .jobRead q i piece line => advanceQueue q (jobReadDone q i piece line status data s)
  | .jobWrite q i piece n => advanceQueue q (jobWriteDone q i piece n status s)
  | .jobAtomic q i => advanceQueue q (jobAtomicDone q i status data hit s)
  | .record q i => advanceQueue q (recordDone q i status s)
  | .image m i => imageLine r.pkt.tenant.toNat m i status data s
  | .digest t i => digestLine t i status data s

/-- The response of a VOLATILE read or an ATOMIC drops the cache's copy of its line (05 R133 rule 3). -/
def dropVolatile (r : Request) (s : State) : State := if r.pkt.volat || r.pkt.op == opAtomic then dropLine r.pkt s else s

/-- A request ends: it leaves the table, and what it serves goes on. -/
def endOne (tag : Nat) (r : Request) (fromHome : Bool) (status : Nat) (data : List Byte) (hit : Bool) (s : State) : State :=
  afterRequest r status data hit (noteUnanswered r status (dropVolatile r (closeRequest tag fromHome s)))

/-- RELEASE requests that wait to be sent again and never may be end with the status of their last attempt (05 R126). -/
def endBarred : Nat → State → State
  | 0, s => s
  | n + 1, s =>
    match s.req.out.find? (fun x => x.2.due && neverAgain s x.2) with
    | some x => endBarred n (endOne x.1 x.2 false x.2.last [] false s)
    | none => s

/-- A request ends, and what waited for it may go, or ends too. -/
def endRequest (tag : Nat) (r : Request) (fromHome : Bool) (status : Nat) (data : List Byte) (hit : Bool) (s : State) : State :=
  pumpDue (pump (endBarred s.req.out.length (endOne tag r fromHome status data hit s)))

/-- An attempt has ended with a status: the request is re-sent, waits to be re-sent, or ends (10 R295, R296, 05 R126). -/
def attemptEnded (tag : Nat) (r : Request) (fromHome : Bool) (status : Nat) (data : List Byte) (hit : Bool) (s : State) : State :=
  match verdict r status with
  | some st => endRequest tag r fromHome st data hit s
  | none =>
    if neverAgain s r then endRequest tag r fromHome status data hit s
    else pumpDue (onReqTag tag (fun r => { r with due := true, last := status }) s)

/-- A response that has been accepted. -/
def takeResponse (tag : Nat) (r : Request) (p : Packet) (s : State) : State :=
  attemptEnded tag r (p.src == r.pkt.dst) (if p.op == opCmpl then p.status.toNat else stOk) (padTo 128 p.data) (p.arg 0 1 == 1) s

/-- A response row: the packet the core has delivered, addressed to this node. A stale completion counts in the port's stale counter too (04 R479; DESIGN
CHOICE, log entry 76). -/
def response (o port : Nat) (p : Packet) (s : State) : Host.Outcome State Fault Refusal :=
  if !(isPort port || port == 0xFFFF) then .fault .noSuchUnit
  else .next (
    if !isReady s || p.dst != selfNode s || p.op != o then s
    else
      let s := takeLocal p s
      let p := opened s p
      match acceptResponse port p s with
      | .staleKey => discardStale port s
      | .badTag => discardUnsure port s
      | .malformed => discardMalformed port 7 p s
      | .stale => discardStale port (countStaleCmpl (planeAnswered port s))
      | .request tag r => takeResponse tag r p (planeAnswered port s))

/-- RD_DATA (R97). -/
def execRdData (port : Nat) (p : Packet) (s : State) : Host.Outcome State Fault Refusal := response opRdData port p s
/-- ATOMIC_DATA (R102). -/
def execAtomicData (port : Nat) (p : Packet) (s : State) : Host.Outcome State Fault Refusal := response opAtomicData port p s
/-- CMPL (R98, R114). -/
def execCmpl (port : Nat) (p : Packet) (s : State) : Host.Outcome State Fault Refusal := response opCmpl port p s

/-- The plane of the latest attempt has let it time out (R297). -/
def lastPlaneTimedOut (r : Request) (s : State) : State :=
  match r.via with
  | some i => if s.svc.bridge then planeTimedOut i s else s
  | none => s

/-- REQUEST_TIMEOUT (R294): the timer of an attempt has run for the pair's request timeout. -/
def execRequestTimeout (tag : BitVec 16) (s : State) : Host.Outcome State Fault Refusal :=
  .next (
    match s.req.out.find tag.toNat with
    | none => s
    | some r =>
      if !isReady s || r.due || !r.timing || s.svc.now < r.sentAt + s.home.reqTimeout then s
      else attemptEnded tag.toNat r false stTimeout [] false (lastPlaneTimedOut r s))

end Sys2Proof.Machine
end

