-- ==== Sys2Proof/Machine/XlatFaults.lean ====
section
/-! DEFINITION. The mirrors and their commands (11 R320 to R326, R336, R337), and translation faults (R328 to R335, 17 R468). -/

namespace Sys2Proof.Machine

open Sys2Proof

/-! ### Waiters (R328, R332, R335) -/

/-- Change the streams of a context that wait on a page. -/
def onStreams (x : CtxId) (page : Nat) (f : Stream → Stream) (s : State) : State :=
  s.onCtx x (fun c => { c with streams := c.streams.map (fun t => if streamOn page t then f t else t) })

/-- Does a queue's read of its ring for a descriptor wait on a fault? -/
def ringWaits (q : Qp) (index : BitVec 32) : Bool := q.sqFault.isSome && q.sqHead == index

/-- Fail a descriptor that waits on a page; a record that cannot be written costs the queue (R344), and so does a descriptor that cannot be read (log entry
50). -/
def failWaiting (qpn : Nat) (index : BitVec 32) (status ecause : Nat) (s : State) : State :=
  match jobOf s qpn index with
  | some (_, j) =>
    if j.fault.isNone then s
    else if j.complete then recordFailed qpn index s
    else advanceJob qpn index (failJob qpn index status ecause (onJob qpn index (fun j => { j with fault := none }) s))
  | none => s.onQp qpn (fun q => if ringWaits q index then { q with error := true, sqFault := none } else q)

/-- The oldest region digest of a tenant fails; the byte that names its cause is open (log entry 13). -/
def failDigest (t cause : Nat) (s : State) : State :=
  match s.sec.digests.find? (fun d => d.tenant == t) with
  | some d => finishEvent d.hdr 0x0807 msFailed (pack [.num 1 (Config.causeByte cause).toNat])
      (s.onSec (fun e => { e with digests := e.digests.erase d }))
  | none => s

/-- An access of the engine on the page, of the operation that a context runs. -/
def stallOn (s : State) (x : CtxId) (page : Nat) : Option (Nat × Op × EngineStall) :=
  match (s.ctx x).job with
  | some (.op g) => (s.op g).bind (fun op => (op.stalls.find? (fun t => t.fva / 65536 == page)).map (fun t => (g, op, t)))
  | _ => none

/-- The access of a context ends with a program fault: its streams on the page are gone, and an access of the engine for it fails the chunk it forms (09 R266). -/
def failCluster (x : CtxId) (page cause : Nat) (s : State) : State :=
  let t := s.onCtx x (fun c => { c with streams := c.streams.filter (fun y => !(y.faulting && streamOn page y)) })
  match stallOn s x page with
  | some (g, op, y) =>
    if y.faulting then opFault g op cause y.chunk (t.onOp g (fun o => { o with stalls := o.stalls.erase y })) else programFault x cause 0 t
  | none => programFault x cause 0 t

/-- End a waiter's access. -/
def failWaiter (page : Nat) (w : Waiter) (status ecause cause : Nat) (s : State) : State :=
  if isDigest w then failDigest w.context (1 + ecause) s
  else if w.cluster then failCluster { cluster := w.index, ctx := w.context } page cause s
  else failWaiting w.context (BitVec.ofNat 32 w.desc) status ecause s

/-- The accesses of a context on a page wait on its fault, or no longer do: its streams, and those of the engine for it. -/
def setFaulting (x : CtxId) (page : Nat) (v : Bool) (s : State) : State :=
  let t := onStreams x page (fun t => { t with faulting := v }) s
  match stallOn s x page with
  | some (g, _, y) => t.onOp g (fun o => { o with stalls := o.stalls.map (fun z => if z == y then { z with faulting := v } else z) })
  | none => t

/-- Let a waiter translate again; a region digest does when it next goes on. -/
def wakeWaiter (page : Nat) (w : Waiter) (s : State) : State :=
  if isDigest w then s
  else if w.cluster then setFaulting { cluster := w.index, ctx := w.context } page false s
  else match jobOf s w.context (BitVec.ofNat 32 w.desc) with
    | some (_, j) => if jobWaits page j then wakeJob w.context j.index s else s
    | none => s.onQp w.context (fun q => if ringWaits q (BitVec.ofNat 32 w.desc) then { q with sqFault := none } else q)

/-- The fault on a page is pending no longer; its place goes to the next. -/
def endFault (tenant page : Nat) (each : Waiter → State → State) (s : State) : State :=
  match s.xlat.faults.find? (fun f => f.tenant == tenant && f.page == page) with
  | none => s
  | some f =>
    fillAll (f.waiters.foldl (fun s w => each w s)
      (s.onXlat (fun x => { x with faults := x.faults.filter (fun g => !(g.tenant == tenant && g.page == page)) })))

/-- One waiter leaves a fault; the fault ends with the last. -/
def dropWaiter (tenant page : Nat) (w : Waiter) (s : State) : State :=
  let out := fun (f : PendFault) =>
    if f.tenant == tenant && f.page == page then { f with waiters := f.waiters.filter (fun v => v != w) } else f
  fillAll (s.onXlat (fun x => { x with faults := (x.faults.map out).filter (fun f => !f.waiters.isEmpty) }))

/-- A waiter's fault timeout (R335): TRANSLATION_TIMEOUT, recorded against the engine, which a region digest has none of (15 R423); a
confidential tenant's page is not named. -/
def timeoutWaiter (tenant page : Nat) (w : Waiter) (s : State) : State :=
  let s := if isDigest w then s
    else recordErr (if w.cluster then kCluster else kMover) w.index 0x30 2 (leBytes (if isConf s tenant then 0 else page * 65536) 8) s
  failWaiter page w stOpAborted 1 6 s

/-! ### TRANSLATION_FAULT -/

/-- Does the fault of a page count an engine among its waiters? -/
def isWaiting (s : State) (tenant page : Nat) (w : Waiter) : Bool :=
  s.xlat.faults.any (fun f => f.tenant == tenant && f.page == page && f.waiters.any (sameWaiter w))

/-- Who waits on the page with this access and is not among its waiters: the context with such a stream, or with such an access of the engine, or the oldest such
descriptor of the queue, or its read of the ring. A stream waits though the context's job has ended since. -/
def newWaiter (s : State) (cluster : Bool) (index context tenant page access : Nat) : Option Waiter :=
  let w : Waiter := { cluster := cluster, index := index, context := context, access := access, at_ := s.svc.now }
  if cluster then
    let x : CtxId := { cluster := index, ctx := context }
    if clusterTenant s index == some tenant && !isWaiting s tenant page w &&
        ((s.ctx x).streams.any (fun t => streamOn page t && t.hst == (access == 1) && access != 2) ||
         (stallOn s x page).any (fun t => t.2.2.access == access && !t.2.2.faulting)) then some w else none
  else
    match s.qp context with
    | some q =>
      if q.mover == index && q.tenant == tenant then
        (((q.jobs.filter (fun j => jobWaits page j && j.fault.any (fun f => f.2 == access))).map (fun j => j.index)) ++
         (if ringOn page q && access == 0 then [q.sqHead] else [])).findSome? (fun i =>
          let w := { w with desc := i.toNat }
          if isWaiting s tenant page w then none else some w)
      else none
    | none => none

/-- A fault is entered: it joins the page's fault, or takes a record, or waits for one. Until FAULT_RING_SET it ends at once. -/
def enterFault (tenant page : Nat) (w : Waiter) (s : State) : State :=
  match s.xlat.ring with
  | none => timeoutWaiter tenant page w s
  | some r =>
    if s.xlat.faults.any (fun f => f.tenant == tenant && f.page == page) then
      s.onXlat (fun x => { x with faults := x.faults.map (fun f =>
        if f.tenant == tenant && f.page == page && !f.waiters.any (sameWaiter w) then { f with waiters := f.waiters ++ [w] } else f) })
    else
      let full := !ringHasRoom s r || decide (1024 ≤ s.xlat.faults.length)
      let s := s.onXlat (fun x => { x with faults := x.faults ++ [{ tenant := tenant, page := page, waiters := [w], first := w, delayed := full }] })
      if full then setSummary 8 (recordErr kHost 0 0x42 1 (leBytes r.next.toNat 4) s) else fillAll s

/-- A page that a tenant in REVOKING touches is not waited for (R335). -/
def revokedFault (w : Waiter) (page : Nat) (s : State) : State :=
  if w.cluster then s.onCtx { cluster := w.index, ctx := w.context } (fun c => { c with streams := c.streams.filter (fun t => !streamOn page t) })
  else failWaiter page w stTenantRevoked 0 0 s

/-- TRANSLATION_FAULT: the mirror entry is read again first; where it has become present the engine goes on and nothing is written. -/
def execTranslationFault (cluster : Bool) (index context tenant fva access : Nat) (s : State) : Host.Outcome State Fault Refusal :=
  if (cluster && (16 ≤ index || 4 ≤ context)) || (!cluster && 32 ≤ index) then .fault .noSuchUnit
  else .next (
    let page := fva / 65536
    match newWaiter s cluster index context tenant page access with
    | none => s
    | some w =>
      if !isReady s then s
      else if srcTranslate s tenant fva access != .fault then wakeWaiter page w s
      else if isRevoking s tenant then revokedFault w page s
      else
        let s := if cluster then setFaulting { cluster := index, ctx := context } page true s else s
        enterFault tenant page w s)

/-- FAULT_TIMEOUT: the waiter's own timer has run out. -/
def execFaultTimeout (cluster : Bool) (index context tenant fva : Nat) (s : State) : Host.Outcome State Fault Refusal :=
  .next (
    let page := fva / 65536
    match s.xlat.faults.find? (fun f => f.tenant == tenant && f.page == page), s.xlat.ring with
    | some f, some r =>
      match f.waiters.find? (fun w => w.cluster == cluster && w.index == index && w.context == context) with
      | some w =>
        if isReady s && decide (w.at_ + r.timeout ≤ s.svc.now) then timeoutWaiter tenant page w (dropWaiter tenant page w s) else s
      | none => s
    | _, _ => s)

/-! ### FAULT_RING_SET, FAULT_RESOLVE, DB_FAULT_HEAD -/

/-- FAULT_RING_SET (R330, R331): a new ring from FAULT_ID 0; every fault still pending is recorded afresh, DELAYED. -/
def execFaultRingSet (h : MHdr) (base vec timeout : Nat) (s : State) : Host.Outcome State Fault Refusal :=
  command (.faultRingSet h base vec timeout) h { boxes := boxH } never
    (fun _ => base % 4096 != 0 || 2047 < vec || timeout < 100000000 || 10000000000 < timeout)
    (fun s => reply h msOk [] (fillAll (s.onXlat (fun x =>
      { x with
        ring := some { base := base, vec := vec, timeout := timeout }
        faults := x.faults.map (fun f => { f with id := none, delayed := true }) })))) s

/-- FAULT_RESOLVE (R333): how many waiters were woken; the count is of this command alone, so no snapshot has it, and a confidential tenant's presence shifts it
(14 R404; DEDUCED, log entry 85). -/
def execFaultResolve (h : MHdr) (id : BitVec 32) (deny : Bool) (s : State) : Host.Outcome State Fault Refusal :=
  command (.faultResolve h id deny) h { boxes := boxH } never never
    (fun s =>
      match s.xlat.faults.find? (fun f => f.id == some id) with
      | none => reply h msOk (pack [.num 8 0]) s
      | some f =>
        let each := fun (w : Waiter) (s : State) =>
          if deny then failWaiter f.page w stNotMapped 2 3 s else wakeWaiter f.page w s
        reply h msOk (pack [.num 8 (coarseNow s f.waiters.length)]) (endFault f.tenant f.page each s)) s

/-- DB_FAULT_HEAD (17 R468): a head that moves backwards or past the records written is ignored; freed space takes waiting faults at once. -/
def execDbFaultHead (v : BitVec 32) (s : State) : Host.Outcome State Fault Refusal :=
  .next (
    match s.xlat.ring with
    | some r =>
      if isReady s && ioReaches s && decide ((v - r.head).toNat ≤ (r.next - r.head).toNat) then
        fillAll (s.onXlat (fun x => { x with ring := some { r with head := v } }))
      else s
    | none => s)

/-! ### Mirror space (R323) -/

/-- Bytes of the tables that some present entries take: L3 (source only), L2, L1 below it, L0. -/
def tableBytes (source : Bool) (l : List XEntry) : Nat :=
  let count := fun (shift : Nat) (l : List XEntry) => (l.map (fun e => (e.tenant, e.addr / 2 ^ shift))).eraseDups.length
  (if source then 4096 * count 48 l + 4096 * count 39 l else 2048 * count 38 l) +
  4096 * count 30 (l.filter (fun e => entSize e.entry != 2)) + 256 * count 21 (l.filter (fun e => entSize e.entry == 0))

/-- Free space of the mirror region. -/
def mirrorUsed (x : Xlat) : Nat := tableBytes true x.src + tableBytes false x.tgt
def mirrorSize (x : Xlat) : Nat := match x.region with | some r => r.2 | none => 0

/-- XLAT_REGION_SET: 64 MiB to 4 GiB, aligned to 2 MiB, outside firmware-owned HBM and retired frames; BUSY while any entry is present. -/
def execXlatRegionSet (h : MHdr) (base size : Nat) (s : State) : Host.Outcome State Fault Refusal :=
  command (.xlatRegionSet h base size) h { boxes := boxH } never
    (fun s => size < 2 ^ 26 || 2 ^ 32 < size || base % 2 ^ 21 != 0 || size % 2 ^ 21 != 0 || s.svc.fwBase < base + size ||
      (cfgNow s.flash).retired.any (fun f => decide (base ≤ f * 65536) && decide (f * 65536 < base + size)))
    (fun s =>
      if !s.xlat.src.isEmpty || !s.xlat.tgt.isEmpty then reply h msBusy [] s
      else reply h msOk [] (s.onXlat (fun x => { x with region := some (base, size) }))) s

/-- XLAT_INFO_READ: the region, its free space, and the firmware-owned ranges: the one at the top, and each retired frame. -/
def execXlatInfoRead (h : MHdr) (s : State) : Host.Outcome State Fault Refusal :=
  command (.xlatInfoRead h) h { boxes := boxH } never never
    (fun s =>
      let r := s.xlat.region.getD (0, 0)
      let owned := (s.svc.fwBase, 2 ^ 38 - s.svc.fwBase) :: (cfgNow s.flash).retired.map (fun f => (f * 65536, 65536))
      reply h msOk (pack ([.num 8 r.1, .num 8 r.2, .num 8 (mirrorSize s.xlat - mirrorUsed s.xlat), .num 2 owned.length] ++
        owned.flatMap (fun o => [PField.num 8 o.1, PField.num 8 o.2]))) s) s

/-! ### XLAT_UPDATE (R324 to R326) -/

def treeOf (kind : Nat) (x : Xlat) : List XEntry := if kind == 0 then x.src else x.tgt
def setTree (kind : Nat) (l : List XEntry) (x : Xlat) : Xlat := if kind == 0 then { x with src := l } else { x with tgt := l }

/-- Two pages of one tenant overlap. -/
def pagesMeet (t a n : Nat) (e : XEntry) : Bool :=
  e.tenant == t && decide (a < e.addr + pageBytes (entSize e.entry)) && decide (e.addr < a + n)

/-- No right is removed. -/
def rightsKept (old new : BitVec 64) : Bool := (!entR old || entR new) && (!entW old || entW new) && (!entA old || entA new)

/-- Condition 3: a source TARGET names a node of the part's own pair that 01 R13 accepts. -/
def sourceTargetOk (s : State) (e : BitVec 64) : Bool :=
  let n : Node := BitVec.ofNat 13 (entTarget e / 2 ^ 40)
  nodePair n == nodePair (selfNode s) && !(nodeInfra n && decide (64 ≤ nodeIndex n))

/-- Condition 4: a target frame lies in the exported HBM, outside the mirror region and the firmware-owned ranges. -/
def targetOk (s : State) (e : BitVec 64) : Bool :=
  let a := entTarget e
  let n := pageBytes (entSize e)
  let r := s.xlat.region.getD (0, 0)
  decide (a + n ≤ s.svc.fwBase) && (decide (a + n ≤ r.1) || decide (r.1 + r.2 ≤ a)) &&
  !(cfgNow s.flash).retired.any (fun f => decide (a ≤ f * 65536) && decide (f * 65536 < a + n))

/-- The five conditions on one update. -/
def updateOk (s : State) (kind : Nat) (u : XUpd) : Bool :=
  let n := pageBytes (entSize u.entry)
  let hit := (treeOf kind s.xlat).filter (pagesMeet u.tenant u.addr n)
  (s.tenant u.tenant).isSome && entP u.entry && entryWf u.entry && u.addr % n == 0 && decide (u.addr + n ≤ (if kind == 0 then 2 ^ 48 else 2 ^ 38)) &&
  (match hit with
   | [] => true
   | [e] => e.addr == u.addr && entSize e.entry == entSize u.entry && entTarget e.entry == entTarget u.entry && rightsKept e.entry u.entry
   | _ => false) &&
  (if kind == 0 then sourceTargetOk s u.entry else targetOk s u.entry)

/-- The trees after one update. -/
def afterUpdate (kind : Nat) (u : XUpd) (x : Xlat) : Xlat :=
  let l := treeOf kind x
  let e : XEntry := { tenant := u.tenant, addr := u.addr, entry := u.entry }
  setTree kind (if l.any (fun y => y.tenant == u.tenant && y.addr == u.addr) then
    l.map (fun y => if y.tenant == u.tenant && y.addr == u.addr then e else y) else l ++ [e]) x

/-- A page has been made present: every waiter on it wakes (R326). -/
def wakePages (u : XUpd) (s : State) : State :=
  let n := pageBytes (entSize u.entry)
  ((s.xlat.faults.filter (fun f => f.tenant == u.tenant && decide (u.addr ≤ f.page * 65536) && decide (f.page * 65536 < u.addr + n))).map
    (fun f => f.page)).foldl (fun s page => endFault u.tenant page (fun w s => wakeWaiter page w s) s) s

/-- Apply updates in order, up to the first that fails: its status, the number applied. -/
def applyUpdates (kind : Nat) : List XUpd → Nat → State → (Nat × Nat) × State
  | [], n, s => ((msOk, n), s)
  | u :: rest, n, s =>
    if !updateOk s kind u then ((msBadArg, n), s)
    else
      let x := afterUpdate kind u s.xlat
      if mirrorSize x < mirrorUsed x then ((msFailed, n), s)
      else
        let isNew := !(treeOf kind s.xlat).any (fun y => y.tenant == u.tenant && y.addr == u.addr)
        let caches := x.caches.each (fun _ l => l.filter (fun y => !((if kind == 0 then s.xlat.src else s.xlat.tgt).contains y &&
          y.tenant == u.tenant && y.addr == u.addr)))
        let s := s.onXlat (fun _ => { x with caches := caches })
        applyUpdates kind rest (n + 1) (if kind == 0 && isNew then wakePages u s else s)

def runUpdate (via : Via) (h : MHdr) (kind : Nat) (ups : List XUpd) (s : State) : State :=
  let r := applyUpdates kind ups 0 s
  finish via h 0x0603 r.1.1 (leBytes r.1.2 8) r.2

/-- The invalidations in progress that a range of a tenant's tree overlaps (R337). -/
def overlapKeys (s : State) (kind t a n : Nat) : List FnKey :=
  (s.mbx.trans.filter (fun x => match x.key with
    | .xlat k t' a' n' => k == kind && t' == t && decide (a < a' + n') && decide (a' < a + n)
    | _ => false)).map (fun x => x.key)

/-- Those that some of a list of updates overlap. -/
def overlapUpdates (s : State) (kind : Nat) (ups : List XUpd) : List FnKey :=
  (ups.flatMap (fun u => overlapKeys s kind u.tenant u.addr (pageBytes (entSize u.entry)))).eraseDups

/-- XLAT_UPDATE. Source updates need the part's own node number (01 R478). -/
def execXlatUpdate (h : MHdr) (kind : Nat) (ups : List XUpd) (s : State) : Host.Outcome State Fault Refusal :=
  command (.xlatUpdate h kind ups) h { boxes := boxH } never (fun _ => 1 < kind || ups.isEmpty || 240 < ups.length)
    (fun s =>
      if kind == 0 && s.svc.node.isNone then reply h msBusy [] s
      else transitions (overlapUpdates s kind ups) (.xlatUpdate h kind ups) h (runUpdate .buffer h kind ups) s) s

/-! ### XLAT_INVALIDATE (R336, R337) -/

/-- The range cuts a present page, is not of whole pages, or leaves the tree. -/
def rangeBad (s : State) (kind t a n : Nat) : Bool :=
  a % 65536 != 0 || n % 65536 != 0 || decide ((if kind == 0 then 2 ^ 48 else 2 ^ 38) < a + n) ||
  (treeOf kind s.xlat).any (fun e => pagesMeet t a n e && !(decide (a ≤ e.addr) && decide (e.addr + pageBytes (entSize e.entry) ≤ a + n)))

/-- Steps 1 and 2: the entries leave the mirror and every cache. -/
def removeRange (kind t a n : Nat) (s : State) : State :=
  s.onXlat (fun x =>
    let gone := (treeOf kind x).filter (pagesMeet t a n)
    { setTree kind ((treeOf kind x).filter (fun e => !pagesMeet t a n e)) x with
      caches := x.caches.each (fun k l => if (k == 48) == (kind == 1) then l.filter (fun e => !gone.contains e) else l) })

/-- A stream of a tenant that is under way keeps the entries of a range that it was issued under. -/
def pinStream (gone : List XEntry) (y : Stream) : Stream :=
  if y.faulting then y
  else { y with pinned := y.pinned ++ gone.filter (fun e => decide (e.addr < y.fva + y.len) && decide (y.fva < e.addr + pageBytes (entSize e.entry))) }

/-- A source invalidation remembers the entries it removes, with which what was issued under them still completes (step 4). -/
def pinRange (t a n : Nat) (s : State) : State :=
  let gone := s.xlat.src.filter (pagesMeet t a n)
  let s := s.onXlat (fun x => { x with invals := x.invals ++ [(t, a, n, gone)] })
  ((List.range 16).filter (fun c => clusterTenant s c == some t)).foldl (fun s c =>
    s.onCluster c (fun k => { k with ctxs := k.ctxs.each (fun _ x => { x with streams := x.streams.map (pinStream gone) }) })) s

def runInvalidate (via : Via) (h : MHdr) (kind t a n : Nat) (s : State) : State :=
  if rangeBad s kind t a n then finish via h 0x0604 msBadArg [] s
  else beginTrans (.xlat kind t a n) h 0x0604 (accept via h (removeRange kind t a n (if kind == 0 then pinRange t a n s else s)))

/-- XLAT_INVALIDATE. -/
def execXlatInvalidate (h : MHdr) (kind tenant addr len : Nat) (s : State) : Host.Outcome State Fault Refusal :=
  command (.xlatInvalidate h kind tenant addr len) h { boxes := boxH } never
    (fun s => 1 < kind || (s.tenant tenant).isNone || rangeBad s kind tenant addr len)
    (fun s => transitions (overlapKeys s kind tenant addr len) (.xlatInvalidate h kind tenant addr len) h
      (runInvalidate .buffer h kind tenant addr len) s) s

/-- A queued command of a range runs, once the last of the invalidations that it overlaps has ended. -/
def runQueuedXlat (i : Instr) (s : State) : State :=
  if s.mbx.trans.any (fun t => t.queued == some i) then s
  else match i with
  | .xlatUpdate h kind ups => runUpdate .event h kind ups s
  | .xlatInvalidate h kind t a n => runInvalidate .event h kind t a n s
  | _ => s

/-- A request that names memory by a virtual address, of a mover or for a program image, and that one of some entries may have translated. -/
def underEntries (t : Nat) (gone : List XEntry) (p : Packet) (u : Purpose) : Bool :=
  let a := p.dst.toNat * 2 ^ 40 + p.offset.toNat
  !isWindowUse u && p.tenant.toNat == t && gone.any (fun e => decide (entTarget e.entry ≤ a) && decide (a < entTarget e.entry + pageBytes (entSize e.entry)))

/-- Step 4: nothing issued under the entries of a range is outstanding or waits to be sent: no fabric request, re-sends included, and no stream. -/
def rangeQuiet (t a n : Nat) (s : State) : Bool :=
  let gone := (s.xlat.invals.filter (fun x => x.1 == t && x.2.1 == a && x.2.2.1 == n)).flatMap (fun x => x.2.2.2)
  !s.req.out.any (fun r => underEntries t gone r.2.pkt r.2.purpose) && !s.req.waiting.any (fun r => underEntries t gone r.1 r.2) &&
  !s.reed.clusters.any (fun k => clusterTenant s k.1 == some t && k.2.ctxs.any (fun c => c.2.streams.any (fun y => y.pinned.any (pagesMeet t a n))))

/-- The invalidation of a range is over. -/
def dropInval (t a n : Nat) (s : State) : State :=
  s.onXlat (fun x => { x with invals := x.invals.filter (fun i => !(i.1 == t && i.2.1 == a && i.2.2.1 == n)) })

/-- XLAT_INVALIDATE_COMPLETE: for a source range, nothing issued under its entries is outstanding. -/
def execXlatInvalidateComplete (kind tenant addr len : Nat) (s : State) : Host.Outcome State Fault Refusal :=
  .next (
    match findTrans (.xlat kind tenant addr len) s.mbx.trans with
    | some _ =>
      if firmwareRuns s && (kind != 0 || rangeQuiet tenant addr len s) then
        endTrans (.xlat kind tenant addr len) msOk [] runQueuedXlat (if kind == 0 then dropInval tenant addr len s else s)
      else s
    | none => s)

end Sys2Proof.Machine
end

