-- ==== Sys2Proof/Machine/Tenants.lean ====
section
/-! DEFINITION. Tenants (14 R395) and their revocation (14 R413 to R415), and the snapshots that coarsened counts are read from (R404). -/

namespace Sys2Proof.Machine

open Sys2Proof

/-! ### Snapshots (R404) -/

/-- COARSENING_SNAPSHOT: the start of a 10 ms window of local time, while a confidential tenant exists; the snapshot of a window is taken once. -/
def execCoarseningSnapshot (s : State) : Host.Outcome State Fault Refusal :=
  .next (if s.svc.now % 10000000 == 0 && s.snap.at_ != s.svc.now then settleSnapshot s else s)

/-! ### TENANT_CREATE (R395, R404) -/

/-- The debug port is disabled for a confidential tenant, until a cold reset; a change of its state advances the epoch (R404, R405). -/
def closeDebug (s : State) : State :=
  let s := if s.sec.debugOn then bumpEpoch s else s
  s.onSec (fun e => { e with debugOn := false, debugLatched := true })

/-- A new tenant: a fresh memory key, four EMPTY slots, no send slot. Until the next window begins, coarsened counts are read from a snapshot
taken when the first confidential tenant appears (DESIGN CHOICE, log entry 15). -/
def createTenant (t : Nat) (conf : Bool) (s : State) : State :=
  let s := if conf && !anyConf s then takeSnapshot s else s
  let s := if conf then closeDebug s else s
  let u := s.onSec (fun e => { e with
    tenants := e.tenants.put t { conf := conf, memKey := s.free + 1 }
    revoked := e.revoked.filter (fun r => r.1 != t) })
  bumpEpoch { newPeriod s u with free := s.free + 1 }

/-- TENANT_CREATE: BUSY while the ID exists on the part. -/
def execTenantCreate (h : MHdr) (tenant : Nat) (conf : Bool) (s : State) : Host.Outcome State Fault Refusal :=
  command (.tenantCreate h tenant conf) h { boxes := boxH } never (fun _ => 1023 < tenant)
    (fun s =>
      if (s.tenant tenant).isSome then reply h msBusy [] s
      else
        let s := createTenant tenant conf s
        reply h msOk (pack [epochField s]) s) s

/-! ### TENANT_REVOKE, steps 1 to 3 -/

/-- A PROGRAM_LOAD that still reads its image for the tenant fails (R413). -/
def failLoads (t : Nat) (s : State) : State :=
  (s.reed.loading.filter (fun l => (s.reed.parts.find l.2.partition).any (fun p => p.tenant == t))).foldl (fun s l =>
    reply l.2.hdr msFailed (failCause (Config.causeByte 6)) (s.onReed (fun r => { r with loading := r.loading.del l.1 }))) s

/-- Step 1: the tenant enters REVOKING, and the commands in progress for it fail (R413, R409). -/
def enterRevoking (t fence : Nat) (s : State) : State :=
  let s := bumpEpoch (s.onTenant t (fun x => { x with rev := some { t0 := s.svc.now, fence := fence } }))
  let s := (s.sec.exs.filter (fun e => e.tenant == t)).foldl (fun s e => refuseEx e 6 s) s
  let ds := s.sec.digests.filter (fun d => d.tenant == t)
  let s := s.onSec (fun e => { e with digests := e.digests.filter (fun d => d.tenant != t) })
  ds.foldl (fun s d => finishEvent d.hdr 0x0807 msFailed (failCause 0) s) (failLoads t s)

/-- Step 2: held RELEASE requests complete with TENANT_REVOKED; their SEQs stay accounted (05 R481). -/
def dropHeld (t : Nat) (s : State) : State :=
  s.home.wins.foldl (fun s w =>
    let mine := w.2.held.filter (fun x => x.pkt.tenant.toNat == t)
    let s := s.onWin w.1 (fun v => { v with held := v.held.filter (fun x => x.pkt.tenant.toNat != t) })
    mine.foldl (fun s x => answerCmpl x.pkt stTenantRevoked (noteEarly x.pkt s)) s) s

/-- Step 2: the tenant's operations on this plane originate aborts (08 R233). -/
def abortOps (t : Nat) (s : State) : State :=
  s.coll.ops.foldl (fun s o => if o.2.tenant == t then originate o.1 rsTenantRevoked none s else s) s

/-- Where a stream that is in progress stops: the next 64 KiB boundary after the bytes it has moved, a number the model leaves open
(09 R273). -/
def stopStream (t : Stream) (moved : Nat) : Stream := { t with len := min t.len (alignUp (t.fva + moved % (t.len + 1)) 65536 - t.fva), faulting := false }

/-- A stream waits, or would wait, on a fault. -/
def stalled (s : State) (t : Nat) (y : Stream) : Bool :=
  y.faulting || (match streamStop s y.pinned t y.fva y.len (b2n y.hst) with | some (.fault _) => true | _ => false)

/-- Step 3: HBM streams stop at the next boundary; a stream that waits on a fault has failed. -/
def stopStreams (t : Nat) (s : State) : State :=
  let cs := (List.range 16).filter (fun c => clusterTenant s c == some t)
  let n := s.free
  let s := { s with free := n + 1 }
  cs.foldl (fun s c => s.onCluster c (fun k => { k with ctxs := k.ctxs.each (fun _ x =>
    { x with streams := ((x.streams.filter (fun y => !stalled s t y)).map (fun y => stopStream y (Config.freeNat n))).filter (fun y => y.len != 0) }) })) s

/-- Step 2: fault waiters fail with TENANT_REVOKED; records already written stay in the ring (11 R335). Region digests have ended in step 1; streams end in
step 3. -/
def failFaults (t : Nat) (s : State) : State :=
  let s := (s.xlat.faults.filter (fun f => f.tenant == t)).foldl (fun s f => endFault t f.page (fun _ s => s) s) s
  ((s.queues.qps.filter (fun q => q.2.tenant == t)).flatMap (fun q => (q.2.jobs.filter (fun j => j.fault.isSome)).map (fun j => (q.1, j.index)))).foldl
    (fun s x => failWaiting x.1 x.2 stTenantRevoked 0 s) s

/-- Steps 2 and 3: queued descriptors are dropped, running ones stop at their boundary (11 R346). -/
def stopQueues (t : Nat) (s : State) : State :=
  (s.queues.qps.filter (fun q => q.2.tenant == t)).foldl (fun s q =>
    stopQueue q.1 stTenantRevoked 0 true (s.onQp q.1 (fun x => { x with sqHead := x.sqTail }))) s

/-- Step 3: bridge cache entries are invalidated (10 R317). -/
def dropCached (t : Nat) (s : State) : State := s.onHost (fun h => { h with cache := h.cache.filter (fun c => c.tenant != t) })

/-- The revocation starts; of a tenant that does not exist it is OK at once (R415). -/
def runRevoke (via : Via) (h : MHdr) (t fence : Nat) (s : State) : State :=
  if (s.tenant t).isNone || isRevoking s t then finish via h 0x0802 msOk [] s
  else
    let s := enterRevoking t fence (beginTrans (.tenant t) h 0x0802 (accept via h s))
    wakeComputes (dropCached t (stopQueues t (failFaults t (stopStreams t (abortOps t (dropHeld t s))))))

/-- TENANT_REVOKE (R413); the fence is in ns. -/
def execTenantRevoke (h : MHdr) (tenant fence : Nat) (s : State) : Host.Outcome State Fault Refusal :=
  command (.tenantRevoke h tenant fence) h { boxes := boxH } never (fun _ => 1023 < tenant || fence < 100000 || 100000000 < fence)
    (fun s => transition (.tenant tenant) (.tenantRevoke h tenant fence) h (runRevoke .buffer h tenant fence) s) s

/-- A queued TENANT_REVOKE runs. -/
def runQueuedTenant (i : Instr) (s : State) : State :=
  match i with
  | .tenantRevoke h t fence => runRevoke .event h t fence s
  | _ => s

/-! ### Steps 4 to 6 -/

/-- Step 6: queue pairs are freed, mirror entries and cached translations removed with the list of target frames kept, keys zeroized,
partitions emptied (R251); the epoch advances. -/
def eraseTenant (t : Nat) (s : State) : State :=
  let frames := (s.xlat.tgt.filter (fun x => x.tenant == t)).map (fun x => (entTarget x.entry, pageBytes (entSize x.entry)))
  let s := s.onQueues (fun q => { q with qps := q.qps.filter (fun x => x.2.tenant != t) })
  let s := s.onXlat (fun x => { x with
    src := x.src.filter (fun e => e.tenant != t)
    tgt := x.tgt.filter (fun e => e.tenant != t)
    caches := x.caches.each (fun _ l => l.filter (fun e => e.tenant != t)) })
  let parts := s.reed.parts.filter (fun p => p.2.tenant == t)
  let s := parts.foldl (fun s p => (clustersOf p.2.mask).foldl (fun s c => zeroCluster c s) s) s
  let s := s.onReed (fun r => { r with images := r.images.filter (fun i => !parts.any (fun p => p.1 == i.1 % 16)) })
  bumpEpoch ((retireKeys t s).onTenant t (fun x => { x with
    slots := []
    sendSlot := none
    memKey := 0
    regions := []
    rev := x.rev.map (fun r => { r with stage := .erasing, frames := frames }) }))

/-- Step 5: requests still outstanding complete locally with TENANT_REVOKED; their queues are gone, so they leave no record. -/
def endRequests (t : Nat) (s : State) : State :=
  let s := (s.req.out.filter (fun r => r.2.pkt.tenant.toNat == t)).foldl (fun s r => endRequest r.1 r.2 false stTenantRevoked [] false s) s
  let mine := s.req.waiting.filter (fun w => w.1.tenant.toNat == t)
  let s := s.onReq (fun r => { r with waiting := r.waiting.filter (fun w => w.1.tenant.toNat != t) })
  mine.foldl (fun s w => afterRequest { pkt := w.1, purpose := w.2 } stTenantRevoked [] false s) s

/-- DRAIN_FENCE_END: exactly t0 + F has come. -/
def execDrainFenceEnd (tenant : Nat) (s : State) : Host.Outcome State Fault Refusal :=
  .next (match s.tenant tenant with
    | some x => match x.rev with
      | some r => if r.stage == .fencing && decide (r.t0 + r.fence ≤ s.svc.now) then endRequests tenant (eraseTenant tenant s) else s
      | none => s
    | none => s)

/-! ### Step 7 -/

/-- Is a line in one of the frames? -/
def lineIn (frames : List (Nat × Nat)) (line : Nat) : Bool :=
  frames.any (fun f => decide (f.1 ≤ 128 * line) && decide (128 * line < f.1 + f.2))

/-- Overwrite frames with zero bytes: no key covers them afterwards, and lost-line marks end (15 R437). -/
def zeroFrames (frames : List (Nat × Nat)) (s : State) : State :=
  s.onHome (fun h => { h with
    hbm := frames.foldl (fun m f => memZero m f.1 (f.1 + f.2)) h.hbm
    owner := h.owner.each (fun l k => if lineIn frames l then 0 else k)
    lost := h.lost.filter (fun l => !lineIn frames l) })

/-- REVOCATION_COMPLETE: the frames are zeroed, the ID is free, the epoch advances and the event is posted. -/
def execRevocationComplete (tenant : Nat) (s : State) : Host.Outcome State Fault Refusal :=
  .next (match s.tenant tenant with
    | some x => match x.rev with
      | some r =>
        if r.stage != .erasing then s
        else
          let u := (zeroFrames r.frames s).onSec (fun e => { e with
            tenants := e.tenants.del tenant
            revoked := e.revoked.filter (fun v => v.1 != tenant) ++ [(tenant, x.conf)] })
          endTrans (.tenant tenant) msOk [] runQueuedTenant (bumpEpoch (newPeriod s u))
      | none => s
    | none => s)

end Sys2Proof.Machine
end

