-- ==== Sys2Proof/Machine/Attest.lean ====
section
/-! DEFINITION. Attestation reports (14 R406 to R412), the certificate chain (R394) and region digests (R409). -/

namespace Sys2Proof.Machine

open Sys2Proof

/-! ### The common head of both reports (R407) -/

/-- Does a slot's image pass the checks of the boot chain (R391): its signature, and its SVN against the fuses? -/
def slotVerifies (s : State) (f : FwSlot) : Bool := f.sigOk && decide (s.flash.fusedSvn ≤ f.svn)

/-- Is some unit in reset (R412)? -/
def unitInReset (s : State) : Bool := s.mbx.trans.any (fun t => t.opcode == 0x0902)

/-- FLAGS. -/
def reportFlags (s : State) : Nat :=
  b2n s.svc.pending + 2 * b2n s.svc.activateFailed + 4 * b2n (unitInReset s) + 8 * b2n s.svc.held + 16 * b2n (s.svc.mod == .recovery) +
  32 * b2n s.svc.node.isSome

/-- The first 256 B. -/
def reportHead (kind bodyLen : Nat) (nonce : BitVec 256) (s : State) : List Byte :=
  leBytes 0x54525645 4 ++ leBytes kind 1 ++ leBytes 1 1 ++ leBytes (reportFlags s) 2 ++ leBytes bodyLen 4 ++ leBytes (nodeField s) 2 ++
  leBytes (b2n s.svc.bridge) 1 ++ [0] ++ leBytes s.sec.epoch 8 ++ leBytes s.svc.now 8 ++ leBytes nonce.toNat 32 ++
  padTo 32 Config.identityPk ++ padTo 32 (Config.aliasPk s.sec.alias_) ++ sha256 (padTo 1184 (Config.kemPublic s.sec.nodeKem)) ++
  runDigest s ++ pendDigest s ++ leBytes (if s.svc.mod == .recovery then 0 else (runSlot s).svn) 4 ++
  leBytes (if s.svc.pending then (idleSlot s).svn else 0) 4 ++ leBytes s.flash.fusedSvn 4 ++ leBytes s.sec.aliasSeq 4 ++ padTo 16 Config.romDigest

/-- The reset bitmaps (R408): clusters, movers, HBM channels. -/
def resetClusters (s : State) : Nat := (clustersOf 0xFFFF).foldl (fun n c => n + b2n (s.cluster c).resetting * 2 ^ c) 0
def resetHbm (s : State) : Nat := ((List.range 64).filter (fun c => s.svc.hbmResetting.contains c)).foldl (fun n c => n + 2 ^ c) 0
/-- The reset bitmaps as bytes [279:264] of the service report lay them out: clusters, movers, zeros, HBM channels. -/
def bitmaps (s : State) : List Byte := leBytes (resetClusters s) 2 ++ leBytes s.queues.resetting.toNat 4 ++ [0, 0] ++ leBytes (resetHbm s) 8

/-! ### The service report (R408) -/

/-- A partition record with its program records; a RESETTING partition has none (R412). -/
def partRecord (s : State) (p : Nat × Partition) : List Byte :=
  let busy := partReloading s p.2.mask
  let progs := if busy then [] else imagesOf s p.1
  leBytes p.1 1 ++ leBytes (b2n busy) 1 ++ leBytes p.2.mask 2 ++ leBytes progs.length 1 ++ padTo 11 [] ++
  progs.flatMap (fun i => leBytes (i.1 + 256 * i.2.loadCount) 2 ++ padTo 6 [] ++ leBytes i.2.epoch 8 ++ leBytes i.2.digest.toNat 32)

/-- A region record. -/
def regionRecord (r : RegionRec) : List Byte := leBytes r.fva 8 ++ leBytes r.len 8 ++ leBytes r.epoch 8 ++ leBytes r.time 8 ++ leBytes r.digest.toNat 32

/-- What follows the head of a service report. -/
def serviceTail (s : State) (t : Nat) : List Byte :=
  let parts := s.reed.parts.filter (fun p => p.2.tenant == t)
  let regions := match s.tenant t with
    | some x => x.regions
    | none => []
  leBytes t 2 ++ leBytes (b2n (isConf s t) + 2 * b2n (isRevoking s t)) 1 ++ leBytes parts.length 1 ++ leBytes regions.length 1 ++ [0, 0, 0] ++
  bitmaps s ++ padTo 8 [] ++ parts.flatMap (partRecord s) ++ regions.flatMap regionRecord

/-! ### The foundation report (R410) -/

/-- One record of the partition layout. -/
def layoutRecord (s : State) (k : Nat) : List Byte :=
  match s.reed.parts.find k with
  | some p => leBytes p.mask 2 ++ leBytes p.tenant 2 ++ leBytes (b2n (isConf s p.tenant)) 1 ++ leBytes (b2n (partReloading s p.mask)) 1 ++ [0, 0]
  | none => padTo 8 []

/-- What follows the head of a foundation report. -/
def foundationTail (s : State) : List Byte :=
  let digest := fun (f : FwSlot) => if slotVerifies s f then slotDigest f else padTo 32 []
  leBytes (b2n s.flash.debugBlown + 2 * b2n s.flash.production) 1 ++ leBytes (b2n s.sec.debugOn + 2 * b2n (anyConf s)) 1 ++
  leBytes (b2n s.svc.runB) 1 ++ [0] ++ digest s.flash.slotA ++ digest s.flash.slotB ++ leBytes s.flash.slotA.svn 4 ++ leBytes s.flash.slotB.svn 4 ++
  padTo 36 [] ++ bitmaps s ++ (List.range 16).flatMap (layoutRecord s)

/-! ### The commands (R406) -/

/-- Body and signature of a report. -/
def signReport (kind : Nat) (nonce : BitVec 256) (tail : List Byte) (s : State) : List Byte :=
  let body := reportHead kind (256 + tail.length) nonce s ++ tail
  body ++ padTo 17088 (Config.signature s.sec.alias_ body)

/-- TOTAL, the echoed OFFSET and up to 4,072 B from it. -/
def reportPart (offset : Nat) (r : List Byte) : List Byte := leBytes r.length 4 ++ leBytes offset 4 ++ (r.drop offset).take 4072

/-- The report last built on the mailbox, where the nonce is its own and the offset lies in it. -/
def lastReport (h : MHdr) (nonce : BitVec 256) (offset : Nat) (s : State) : Option (List Byte) :=
  match (s.box h.mbx).report with
  | some r => if r.1 == nonce && decide (offset ≤ r.2.length) then some r.2 else none
  | none => none

/-- OFFSET is not 0 and names no part of a report of this mailbox. -/
def offsetBad (h : MHdr) (nonce : BitVec 256) (offset : Nat) (s : State) : Bool := offset != 0 && (lastReport h nonce offset s).isNone

/-- Build and sign a report, or return part of the last one. -/
def runReport (h : MHdr) (kind : Nat) (nonce : BitVec 256) (offset : Nat) (tail : State → List Byte) (s : State) : State :=
  if offset == 0 then
    let r := signReport kind nonce (tail s) s
    reply h msOk (reportPart 0 r) (s.onBox h.mbx (fun b => { b with report := some (nonce, r) }))
  else
    match lastReport h nonce offset s with
    | some r => reply h msOk (reportPart offset r) s
    | none => s

/-- ATTEST_SERVICE: from mailboxes 4 to 7 only for a tenant assigned to the mailbox. -/
def execAttestService (h : MHdr) (nonce : BitVec 256) (tenant offset : Nat) (s : State) : Host.Outcome State Fault Refusal :=
  command (.attestService h nonce tenant offset) h { boxes := boxS ++ boxT } (fun s => !tenantOk h tenant s)
    (fun s => (s.tenant tenant).isNone || offsetBad h nonce offset s)
    (runReport h 1 nonce offset (fun s => serviceTail s tenant)) s

/-- ATTEST_FOUNDATION, served by mailbox 2 in RECOVERY too (R393). -/
def execAttestFoundation (h : MHdr) (nonce : BitVec 256) (offset : Nat) (s : State) : Host.Outcome State Fault Refusal :=
  command (.attestFoundation h nonce offset) h { boxes := boxS ++ boxB, recovery := true } never (offsetBad h nonce offset)
    (runReport h 2 nonce offset foundationTail) s

/-- What the current alias certificate records (R394), each field as in a report: ALIAS_PK, ALIAS_SEQ, RUN_DIGEST and RUN_SVN, which in RECOVERY name no image
(R393), and ROM_DIGEST. -/
def aliasFields (s : State) : List Byte :=
  padTo 32 (Config.aliasPk s.sec.alias_) ++ leBytes s.sec.aliasSeq 4 ++ runDigest s ++
  leBytes (if s.svc.mod == .recovery then 0 else (runSlot s).svn) 4 ++ padTo 16 Config.romDigest

/-- The three certificates, of which the spec gives the encoding's name alone. -/
def certChain (s : State) : List Byte := Config.certIntermediate ++ Config.certIdentity ++ Config.certAlias (aliasFields s)

/-- CERT_CHAIN_READ (R394): a 2 B count and the bytes from the offset, as far as the buffer holds them. -/
def execCertChainRead (h : MHdr) (offset : Nat) (s : State) : Host.Outcome State Fault Refusal :=
  command (.certChainRead h offset) h { boxes := boxS ++ boxB, recovery := true } never
    (fun s => (certChain s).length < offset)
    (fun s =>
      let part := ((certChain s).drop offset).take 4072
      reply h msOk (pack [.num 2 part.length, .bytes part]) s) s

/-! ### Region digests (R409) -/

/-- REGION_DIGEST. -/
def execRegionDigest (h : MHdr) (tenant fva len : Nat) (s : State) : Host.Outcome State Fault Refusal :=
  command (.regionDigest h tenant fva len) h { boxes := boxS ++ boxT } (fun s => !tenantOk h tenant s || isRevoking s tenant)
    (fun s => (s.tenant tenant).isNone || len % 128 != 0 || 2 ^ 40 < len || 2 ^ 64 ≤ fva)
    (fun s => accept .buffer h (s.onSec (fun e =>
      { e with digests := e.digests ++ [{ tenant := tenant, fva := fva, len := len, hdr := h }] }))) s

/-- How the reading of a region goes: its bytes with the lines that are to be read from other nodes, a translation fault at an FVA, or a failure. -/
inductive RegionRead where
  | bytes (b : List Byte) (far : List (Nat × Node × Nat))
  | waits (fva : Nat)
  | fails
  deriving DecidableEq, Repr

/-- Read one line of a digest's region through source translation with the read right; a line of another node is one already read, or is still to be. -/
def regionLine (d : DigestJob) (i fva : Nat) (s : State) : RegionRead × State :=
  let t := d.tenant
  match srcTranslate s t fva 0 with
  | .fault => (.waits fva, s)
  | .malformed => (.fails, s)
  | .denied => (.fails, s)
  | .ok node off =>
    if node != selfNode s then
      (match d.far.find i with | some b => .bytes (padTo 128 b) [] | none => .bytes (padTo 128 []) [(i, node, off)], s)
    else match tgtTranslate s t off 0 with
      | .inr _ => (.fails, s)
      | .inl a =>
        let c := eccCheck .clean a s
        if !c.1 then (.fails, c.2)
        else
          let r := hbmLine (memKeyOf c.2 t) (a / 128) c.2
          (.bytes r.1 [], r.2)

/-- Read a digest's region, in address order. -/
def regionRead (d : DigestJob) (s : State) : RegionRead × State :=
  (linesIn d.fva d.len).zipIdx.foldl (fun (x : RegionRead × State) l =>
    match x.1 with
    | .bytes b far =>
      let r := regionLine d l.2 (128 * l.1.1) x.2
      match r.1 with
      | .bytes c more => (.bytes (b ++ bytesAt c l.1.2.1 l.1.2.2.1) (far ++ more), r.2)
      | _ => r
    | _ => x) (.bytes [] [], s)

/-- Ask other nodes for lines of a digest's region. -/
def readFar (d : DigestJob) (far : List (Nat × Node × Nat)) (s : State) : State :=
  far.foldl (fun s y => issue (readRequest s y.2.1 d.tenant y.2.2 false) (.digest d.tenant y.1) s)
    (s.onSec (fun e => { e with digests := e.digests.map (fun x => if x == d then { d with left := far.length } else x) }))

/-- The record is kept among the tenant's latest 32. -/
def keepRegion (t : Nat) (r : RegionRec) (s : State) : State :=
  s.onTenant t (fun x => { x with regions := (x.regions ++ [r]).drop (x.regions.length + 1 - 32) })

/-- REGION_DIGEST_COMPLETE: the oldest digest of the tenant ends; where it meets a not-present page it waits on the fault of that page, as R328 to
R335 state, and where lines of it lie on other nodes it asks for them; the row comes again then. -/
def execRegionDigestComplete (tenant : Nat) (s : State) : Host.Outcome State Fault Refusal :=
  .next (match s.sec.digests.find? (fun d => d.tenant == tenant) with
    | none => s
    | some d =>
      if !isReady s || d.left != 0 then s
      else
        let r := if d.bad then (.fails, s) else regionRead d s
        let done := fun (s : State) => s.onSec (fun e => { e with digests := e.digests.erase d })
        match r.1 with
        | .waits a => enterFault tenant (a / 65536) { cluster := false, index := digestIndex, context := tenant, access := 0, at_ := s.svc.now } s
        | .fails => finishEvent d.hdr 0x0807 msFailed (failCause (Config.causeByte 1)) (done r.2)
        | .bytes b far =>
          if !far.isEmpty then readFar d far s
          else
          let g := sha256Bits b
          let s := keepRegion tenant { fva := d.fva, len := d.len, epoch := s.sec.epoch, time := s.svc.now, digest := g } (done r.2)
          finishEvent d.hdr 0x0807 msOk (leBytes g.toNat 32) s)

end Sys2Proof.Machine
end

