-- ==== Sys2Proof/Machine/CxlHost.lean ====
section
/-! DEFINITION. The CXL host link (13 R369 to R374, R377): the memory-device mailbox, HDM decoders, the requests that make no fabric request,
resets of the link, IDE and its secure session (14 R402). -/

namespace Sys2Proof.Machine

open Sys2Proof

/-! ### The memory-device mailbox (R377). A command's output is listed as the values it carries. -/

/-- The mailbox raises vector 8 as a command completes, where the host has enabled its interrupt in the CXL device registers (R376, R377; log entry 16). -/
def deviceSignal (s : State) : State := if bitOf (leNat (memGetN s.host.cxlRegs Config.deviceIrqAt 4)) 1 then raiseVec 8 s else s

/-- A command of this mailbox reaches the part once it is READY, over the host link (R372). -/
def deviceCommand (out : State → List Nat) (f : HostSide → HostSide) (s : State) : Host.Outcome State Fault Refusal :=
  .next (if isReady s && ioReaches s then deviceSignal (s.onHost (fun h => { f h with cxlOut := out s, cxlUnsupported := false })) else s)

/-- Every opcode that R377 does not list completes with Unsupported. -/
def deviceUnsupported (s : State) : State := deviceSignal (s.onHost (fun h => { h with cxlOut := [], cxlUnsupported := true }))

/-- The four values of an event record: handle, severity, unit, code. -/
def eventValues (e : CxlEvent) : List Nat := [e.handle, e.severity, e.unit, e.code]

/-- GET_EVENT_RECORDS: the records of a severity, oldest first. -/
def execGetEventRecords (severity : Nat) (s : State) : Host.Outcome State Fault Refusal :=
  deviceCommand (fun s => (s.host.events.filter (fun e => e.severity == severity)).flatMap eventValues) id s

/-- CLEAR_EVENT_RECORDS: the named records are freed; the part's own log is unaffected. -/
def execClearEventRecords (severity : Nat) (handles : List Nat) (s : State) : Host.Outcome State Fault Refusal :=
  deviceCommand (fun _ => []) (fun h =>
    { h with events := h.events.filter (fun e => !(e.severity == severity && handles.contains e.handle)) }) s

/-- GET_EVENT_INTERRUPT_POLICY. -/
def execGetEventInterruptPolicy (s : State) : Host.Outcome State Fault Refusal := deviceCommand (fun s => s.host.evtPolicy) id s

/-- SET_EVENT_INTERRUPT_POLICY. -/
def execSetEventInterruptPolicy (settings : List Nat) (s : State) : Host.Outcome State Fault Refusal :=
  deviceCommand (fun _ => []) (fun h => { h with evtPolicy := settings }) s

/-- Bytes that the CXL 2.0 specification fixes: open here (log entry 16). -/
def cxlBytes (opcode from_ n : Nat) : List Nat := (List.range n).map (fun k => (Config.cxlPayload opcode (from_ + k)).toNat)

/-- GET_SUPPORTED_LOGS: one log, the Command Effects Log, by its 16 B identifier. -/
def execGetSupportedLogs (s : State) : Host.Outcome State Fault Refusal := deviceCommand (fun _ => 1 :: cxlBytes 0x0400 0 16) id s

/-- GET_LOG: bytes of the Command Effects Log. -/
def execGetLog (offset len : Nat) (s : State) : Host.Outcome State Fault Refusal := deviceCommand (fun _ => cxlBytes 0x0401 offset len) id s

/-- IDENTIFY_MEMORY_DEVICE: volatile capacity (R370), persistent capacity, poison list entries. -/
def execIdentifyMemoryDevice (s : State) : Host.Outcome State Fault Refusal :=
  deviceCommand (fun s => [if s.svc.bridge then 2 ^ 44 else 0, 0, 0]) id s

/-- GET_HEALTH_INFO: health status, whose value is open, device temperature in two's complement, HBM pages retired. -/
def execGetHealthInfo (s : State) : Host.Outcome State Fault Refusal :=
  let d := s.drawNat
  deviceCommand (fun s => [d.1, (BitVec.ofInt 16 s.pwr.temps.junction).toNat, (cfgNow s.flash).retired.length]) id d.2

/-- The doorbell of the mailbox: the command that its registers hold runs. -/
def deviceSubmit (s : State) : State :=
  let regs := fun (o n : Nat) => memGetN s.host.cxlRegs o n
  let args := regs Config.devicePayloadAt 512
  let arg := Config.deviceArg args
  let run := fun (o : Host.Outcome State Fault Refusal) => match o with | .next t => t | _ => s
  match leNat (regs Config.deviceCommandAt 2) with
  | 0x0100 => run (execGetEventRecords (arg 0) s)
  | 0x0101 => run (execClearEventRecords (arg 0) ((List.range (arg 1 % 256)).map (fun k => arg (2 + k))) s)
  | 0x0102 => run (execGetEventInterruptPolicy s)
  | 0x0103 => run (execSetEventInterruptPolicy ((List.range (arg 0 % 256)).map (fun k => arg (1 + k))) s)
  | 0x0400 => run (execGetSupportedLogs s)
  | 0x0401 => run (execGetLog (arg 0) (arg 1) s)
  | 0x4000 => run (execIdentifyMemoryDevice s)
  | 0x4200 => run (execGetHealthInfo s)
  | _ => deviceUnsupported s

/-- A write to the registers of BAR0 0x00_0000 to 0x01_FFFF (17 R464). -/
def cxlWrite (o : Nat) (v : BitVec 32) (s : State) : State :=
  let s := s.onHost (fun h => { h with cxlRegs := memSetN h.cxlRegs o (leBytes v.toNat 4) })
  if o == Config.deviceDoorbellAt && v.getLsbD 0 then deviceSubmit s else s

/-! ### Configuration space before READY (R372) -/

/-- Does a configuration request complete with Configuration Request Retry Status? -/
def configRetry (s : State) : Bool := isLive s && !isReady s

/-- Memory_Info_Valid and Memory_Active of the DVSEC. -/
def memoryInfoValid (s : State) : Bool := isReady s
def memoryActive (s : State) : Bool := isReady s

/-! ### HDM decoders (R370 to R372) -/

def mib256 : Nat := 2 ^ 28

/-- May the decoder be committed? -/
def hdmOk (s : State) (base size ways : Nat) : Bool :=
  isReady s && s.svc.bridge && base % mib256 == 0 && size % mib256 == 0 && decide (base + size ≤ 2 ^ 44) && decide (ways ≤ 1)

/-- HDM_DECODER_COMMIT: committed, or Error Not Committed. A committed decoder that is locked stays as it is until a reset clears it. -/
def execHdmDecoderCommit (dec base size ways : Nat) (lock : Bool) (s : State) : Host.Outcome State Fault Refusal :=
  if 4 ≤ dec then .fault .noSuchUnit
  else .next (
    if !ioReaches s then s
    else
      let old := s.host.hdm.look dec {}
      if old.committed && old.lock then s
      else
        let new : Hdm := { base := base, size := size, committed := hdmOk s base size ways, lock := lock && hdmOk s base size ways,
                           err := !hdmOk s base size ways }
        s.onHost (fun h => { h with hdm := h.hdm.put dec new }))

/-! ### Requests that make no fabric request (R370) -/

/-- MemSpecRd: accepted and discarded, without a response. -/
def execMemSpecRd (_dpa : Nat) (s : State) : Host.Outcome State Fault Refusal := .next s

/-- MemInv: answered with Cmp. -/
def execMemInv (dpa : Nat) (s : State) : Host.Outcome State Fault Refusal := .next (if memReaches s dpa then hostAnswer dpa true [] s else s)
/-- MemInvNT: answered with Cmp. -/
def execMemInvNt (dpa : Nat) (s : State) : Host.Outcome State Fault Refusal := .next (if memReaches s dpa then hostAnswer dpa true [] s else s)

/-! ### Resets of the link (R373) -/

/-- The host no longer waits for a request's completion. -/
def forgetHost (u : Purpose) : Purpose :=
  match u with
  | .window w dpa write _ => .window w dpa write false
  | u => u

/-- What the host link loses: decoders, MSI-X enables, IDE streams, keys and session, and the completions of outstanding requests, whose
fabric requests go on. The fault ring must be set again. -/
def resetLink (s : State) : State :=
  let s := s.onHost (fun h => { h with
    linkUp := false
    hdm := []
    msixEn := []
    msixTable := []
    ide := []
    ideKeys := []
    ideSession := none
    ideSecret := none
    waiting := [] })
  let s := s.onReq (fun r => { r with
    out := r.out.each (fun _ x => { x with purpose := forgetHost x.purpose })
    waiting := r.waiting.map (fun x => (x.1, forgetHost x.2)) })
  s.onXlat (fun x => { x with ring := x.ring.map (fun r => { r with dead := true }) })

/-- CXL_HOT_RESET. -/
def execCxlHotReset (s : State) : Host.Outcome State Fault Refusal := .next (if isLive s then resetLink s else s)

/-- Assertion of PERST#. -/
def execPerstAssert (s : State) : Host.Outcome State Fault Refusal :=
  .next (let s := s.onHost (fun h => { h with perst := true })
         if isLive s then resetLink s else s)

/-- Release of PERST# (R372). -/
def execPerstRelease (s : State) : Host.Outcome State Fault Refusal := .next (s.onHost (fun h => { h with perst := false }))

/-- CXL_LINK_UP: the link has trained, which it does from power-good on while PERST# is released. To which width and rate, of those that R369 supports, is open. -/
def execCxlLinkUp (s : State) : Host.Outcome State Fault Refusal :=
  .next (
    if isLive s && !s.host.perst then
      let w := s.drawNat
      let r := w.2.drawNat
      r.2.onHost (fun h => { h with linkUp := true, linkWidth := w.1 % 3, linkRate := r.1 % 5 })
    else s)

/-! ### IDE (R374, 14 R402) -/

/-- IDE_FAIL: a MAC failure puts a keyed stream into Insecure, counts, and raises the error summary. -/
def execIdeFail (stream : Nat) (s : State) : Host.Outcome State Fault Refusal :=
  .next (
    if s.host.ide.find stream == some .secure && s.host.linkUp then
      let s := s.onHost (fun h => { h with ide := h.ide.put stream .insecure, ideFails := h.ideFails + 1 })
      setSummary 12 (recordErr kHost 1 0x40 2 (leBytes stream 1) s)
    else s)

/-- What waited for the host link goes: enabled vectors that are pending are sent (R376). -/
def sendPending (s : State) : State :=
  if !ioReaches s then s
  else s.onHost (fun h =>
    { h with msixSent := h.msixSent ++ h.msixPend.filter (fun v => h.msixEn.contains v), msixPend := h.msixPend.filter (fun v => !h.msixEn.contains v) })

/-- A stream takes a new key, named by the next free number, and is secure; or it ends, where it is not Insecure: that state only a new key ends (R374). -/
def keyStream (stream : Nat) (s : State) : State :=
  fillAll (sendPending (State.onHost { s with free := s.free + 1 } (fun h =>
    { h with ide := h.ide.put stream .secure, ideKeys := h.ideKeys.put stream s.free })))
def endStream (stream : Nat) (s : State) : State :=
  if ideBlocks s stream then s else s.onHost (fun h => { h with ide := h.ide.put stream .unkeyed, ideKeys := h.ideKeys.del stream })

/-- IDE_KM_MESSAGE: the host keys a stream, or ends it, under the secure session in force alone. -/
def execIdeKmMessage (stream session : Nat) (start : Bool) (s : State) : Host.Outcome State Fault Refusal :=
  .next (
    if isReady s && s.host.linkUp && s.host.ideSession == some session && decide (stream < 2) then
      if start then keyStream stream s else endStream stream s
    else s)

/-- IDE_SESSION_OPEN: the host's encapsulation key and ciphertext; one exchange runs at a time. -/
def execIdeSessionOpen (h : MHdr) (hostEk ct : List Byte) (s : State) : Host.Outcome State Fault Refusal :=
  command (.ideSessionOpen h hostEk ct) h { boxes := boxS } never (fun _ => hostEk.length != 1184 || ct.length != 1088)
    (fun s =>
      if s.host.ideOpening.isSome then reply h msBusy [] s
      else accept .buffer h (s.onHost (fun x => { x with ideOpening := some (h, hostEk, ct) }))) s

/-- The 64 B derived for a session and the hash H, from the part's ciphertext and secret, and the host's key and ciphertext: as in R399, with the host as the
higher-numbered end, node number 0xFFFF. There are no fragments, so H runs over the keys and ciphertexts themselves (DEDUCED, log entry 16). -/
def ideKeysOf (s : State) (mine : List Byte × List Byte) (hostEk ct : List Byte) : List Byte × List Byte :=
  let h := sha256 (padTo 1184 (Config.kemPublic s.sec.nodeKem) ++ hostEk ++ padTo 1088 mine.1 ++ ct)
  (hkdf64 Config.ideSalt (mine.2 ++ Config.decapsulate s.sec.nodeKem ct) (leBytes (selfNode s).toNat 2 ++ [0xFF, 0xFF] ++ h), h)

/-- IDE_SESSION_COMPLETE: the result is the part's ciphertext to the host key and the confirm tag; the session replaces an earlier one. TENANT, SLOT and XID of
the derivation and the byte before H in the tag are open (Config.ideSalt, ideLabel; log entry 16). -/
def execIdeSessionComplete (s : State) : Host.Outcome State Fault Refusal :=
  .next (
    match s.host.ideOpening with
    | none => s
    | some x =>
      if !isReady s then s
      else
        let n := s.free
        let mine := Config.encapsulate x.2.1 n
        let d := ideKeysOf s mine x.2.1 x.2.2
        let s := State.onHost { s with free := n + 1 } (fun h => { h with ideOpening := none, ideSession := some n, ideSecret := some d.1 })
        finishEvent x.1 0x0804 msOk (padTo 1088 mine.1 ++ (hmac (d.1.drop 32) (Config.ideLabel :: d.2)).take 16) s)

end Sys2Proof.Machine
end

