-- ==== Sys2Proof/Machine/InstrWords.lean ====
section
/-! DEFINITION. The 64-bit words of the cluster instructions (09 R261, R263): the row that a word spells, and the word a context comes to next.
A command of one of these rows stands for the context's issue of the word at its counter (log entry 10). -/

namespace Sys2Proof.Machine

open Sys2Proof

/-- Format SR. -/
def srOf (w : BitVec 64) : SR :=
  { d := w.extractLsb' 8 5, a := w.extractLsb' 13 5, b := w.extractLsb' 18 5, rsv := w.toNat / 2 ^ 23 != 0 }
/-- Format SI. -/
def siOf (w : BitVec 64) : SI := { d := w.extractLsb' 8 5, a := w.extractLsb' 13 5, imm := w.extractLsb' 18 46 }
/-- Format VR. -/
def vrOf (w : BitVec 64) : VR :=
  { vd := w.extractLsb' 8 4, va := w.extractLsb' 12 4, vb := w.extractLsb' 16 4, vc := w.extractLsb' 20 4, fmt := w.extractLsb' 24 4,
    rnd := w.getLsbD 28, ovf := w.getLsbD 29, rsv := w.toNat / 2 ^ 30 != 0 }
/-- Format ST. -/
def stOf (w : BitVec 64) : ST :=
  { addr := w.extractLsb' 8 5, ext := w.extractLsb' 13 5, len := w.extractLsb' 18 5, tag := w.extractLsb' 23 5, rsv := w.toNat / 2 ^ 28 != 0 }
/-- Format MX. -/
def mxOf (w : BitVec 64) : MX :=
  { ta := w.extractLsb' 8 5, tb := w.extractLsb' 13 5, tc := w.extractLsb' 18 5, dtype := w.extractLsb' 23 4, acc := w.getLsbD 27,
    tbT := w.getLsbD 28, rsv := w.toNat / 2 ^ 29 != 0 }

/-- The instruction of a word (R263): an opcode absent from the table is reserved. `ecc` is the check of the words that LD, VLD and HLD read. -/
def instrOfWord (x : Issue) (ecc : Ecc) (w : BitVec 64) : Option Instr :=
  match w.toNat % 256 with
  | 0x01 => some (.add x (srOf w))
  | 0x02 => some (.sub x (srOf w))
  | 0x03 => some (.mul x (srOf w))
  | 0x04 => some (.and x (srOf w))
  | 0x05 => some (.or x (srOf w))
  | 0x06 => some (.xor x (srOf w))
  | 0x07 => some (.shl x (srOf w))
  | 0x08 => some (.shr x (srOf w))
  | 0x09 => some (.sra x (srOf w))
  | 0x0A => some (.addi x (siOf w))
  | 0x0B => some (.ld x (siOf w) ecc)
  | 0x0C => some (.st x (siOf w))
  | 0x0D => some (.beq x (siOf w))
  | 0x0E => some (.bne x (siOf w))
  | 0x0F => some (.blt x (siOf w))
  | 0x10 => some (.loop x (siOf w))
  | 0x11 => some (.halt x (siOf w))
  | 0x12 => some (.fault x (siOf w))
  | 0x20 => some (.vld x (siOf w) ecc)
  | 0x21 => some (.vst x (siOf w))
  | 0x22 => some (.vadd x (vrOf w))
  | 0x23 => some (.vsub x (vrOf w))
  | 0x24 => some (.vmul x (vrOf w))
  | 0x25 => some (.vmax x (vrOf w))
  | 0x26 => some (.vmin x (vrOf w))
  | 0x27 => some (.vfma x (vrOf w))
  | 0x28 => some (.vdiv x (vrOf w))
  | 0x29 => some (.vsqrt x (vrOf w))
  | 0x2A => some (.vsgn x (vrOf w))
  | 0x2B => some (.vsel x (vrOf w))
  | 0x2C => some (.vcvt x (vrOf w))
  | 0x2D => some (.vblk x (vrOf w))
  | 0x40 => some (.xclr x (siOf w))
  | 0x41 => some (.xadd x (vrOf w))
  | 0x42 => some (.xrnd x (vrOf w))
  | 0x43 => some (.xhad x (siOf w))
  | 0x50 => some (.mmul x (mxOf w))
  | 0x51 => some (.mscl x (mxOf w))
  | 0x52 => some (.hrot x (mxOf w))
  | 0x60 => some (.hld x (stOf w) ecc)
  | 0x61 => some (.hst x (stOf w))
  | 0x62 => some (.waitt x (stOf w))
  | 0x63 => some (.waitc x (srOf w))
  | 0x64 => some (.emit x (stOf w))
  | 0x65 => some (.idle x (siOf w))
  | 0x66 => some (.fence x (srOf w))
  | _ => none

/-- The word at a context's counter; a counter outside the text has none. -/
def textWord (s : State) (c : Ctx) : Option (BitVec 64) := (imageOfCtx s c).bind (fun i => i.text[c.pc / 8]?)

/-- The instruction at a context's counter. -/
def nextInstr (x : Issue) (ecc : Ecc) (s : State) : Option Instr := (textWord s (s.ctx x.id)).bind (instrOfWord x ecc)

end Sys2Proof.Machine
end

