-- ==== Sys2Proof/Machine/Instrs.lean ====
section
/-! DEFINITION. The cluster instructions (09 R260 to R272): scalar, control, vector, exact-lane, matrix and stream instructions, and the
completion of a stream. A command is the issue of the instruction at a running context's counter (log entry 10). -/

namespace Sys2Proof.Machine

open Sys2Proof

/-! ### Registers and the program counter (R260, R263 LOOP) -/

/-- A scalar register; S0 reads 0. -/
def sreg (c : Ctx) (r : BitVec 5) : BitVec 64 := if r == 0 then 0 else c.sregs.look r.toNat 0
/-- A vector register: 96 lanes. -/
def vreg (c : Ctx) (r : Nat) : List (BitVec 32) := c.vregs.look r (List.replicate 96 0)
/-- Write a vector register. -/
def setV (x : CtxId) (r : Nat) (v : List (BitVec 32)) (s : State) : State := s.onCtx x (fun c => { c with vregs := c.vregs.put r v })

/-- Where the program goes on from a counter: a loop whose end is reached starts again or ends; a loop whose body is left is over. -/
def settleLoops : List (Nat × Nat × Nat) → Nat → Nat × List (Nat × Nat × Nat)
  | [], pc => (pc, [])
  | (first, last, left) :: r, pc =>
    if pc == last then (if 1 < left then (first, (first, last, left - 1) :: r) else settleLoops r pc)
    else if first ≤ pc && pc < last then (pc, (first, last, left) :: r)
    else settleLoops r pc

/-- Go to a byte offset of the text; a context that has lost its job stays. -/
def goto (x : CtxId) (pc : Nat) (s : State) : State :=
  s.onCtx x (fun c => if c.job.isNone then c else let r := settleLoops c.loops pc; { c with pc := r.1, loops := r.2 })
/-- Go to the next instruction. -/
def nextPc (x : CtxId) (s : State) : State := goto x ((s.ctx x).pc + 8) s

/-! ### Idle marks (R284 to R286) -/

/-- The marks of a context end: each that does so more than 100 us before its stated end is counted as missed. -/
def endMark (x : CtxId) (s : State) : State :=
  let l := (s.ctx x).marks
  if l.isEmpty then s
  else
    let s := s.onPwr (fun p => { p with rampMiss := p.rampMiss + (l.filter (fun t => s.svc.now + 100000 < t)).length })
    settlePhase (s.onCtx x (fun c => { c with marks := [] }))

/-! ### One instruction -/

/-- FCAUSE of R266. -/
def fcReserved : Nat := 0x01
def fcScratch : Nat := 0x02
def fcRange : Nat := 0x05
def fcInstr : Nat := 0x07
def fcParity : Nat := 0x09

/-- A class 1 job that has been stopped issues no further instruction (11 R345). -/
def jobStopped (s : State) (j : CtxJob) : Bool :=
  match j with
  | .job qpn index => match jobOf s qpn index with | some (_, j) => j.limit.isSome | none => false
  | .op _ => false

/-- Does a context issue instructions: it has a job that has not been stopped, has not halted, waits for nothing, on no translation fault of a stream (11 R328),
and its cluster is neither in reset nor clock-gated by the limiter (16 R445)? -/
def issues (s : State) (x : CtxId) : Bool :=
  let c := s.ctx x
  isReady s && c.job.isSome && !c.job.any (jobStopped s) && !c.halted && c.wait == .none && !c.streams.any (fun t => t.faulting) && !(s.cluster x.cluster).resetting && decide (s.pwr.actIssue < 16)

/-- A word of the instruction memory is read: a corrected error counts (15 R425). -/
def fetched (x : Issue) (s : State) : State := if x.fixed then recordCorrected kCluster x.cluster s else s

/-- A context issues the instruction `row`: a parity error and a reserved word are program faults, and so is a counter outside the text, of which the spec
does not speak (log entry 10); a row that is not the word at the counter changes nothing. `ends`: it ends an IDLE mark; `ecc`: the check of what LD, VLD and
HLD read. -/
def instruction (row : Instr) (x : Issue) (ecc : Ecc) (ends : Bool) (run : Ctx → State → State) (s : State) : Host.Outcome State Fault Refusal :=
  if !isCtx x.id then .fault .noSuchUnit
  else .next (
    if !issues s x.id then s
    else if x.parity then programFault x.id fcParity 0 s
    else match nextInstr x ecc s with
      | none => programFault x.id fcReserved 0 (fetched x s)
      | some r => if r == row then run (s.ctx x.id) (if ends then endMark x.id (fetched x s) else fetched x s) else s)

/-- A reserved bit is set: a program fault, nothing else. -/
def checked (x : CtxId) (bad : Bool) (run : State → State) (s : State) : State := if bad then programFault x fcReserved 0 s else run s

/-- Format SR: D takes an operation on A and B. -/
def scalar (row : Issue → SR → Instr) (op : BitVec 64 → BitVec 64 → BitVec 64) (x : Issue) (f : SR) (s : State) : Host.Outcome State Fault Refusal :=
  instruction (row x f) x .clean true (fun c s =>
    checked x.id f.rsv (fun s => nextPc x.id (setS x.id f.d.toNat (op (sreg c f.a) (sreg c f.b)) s)) s) s

def execAdd (x : Issue) (f : SR) (s : State) : Host.Outcome State Fault Refusal := scalar .add (· + ·) x f s
def execSub (x : Issue) (f : SR) (s : State) : Host.Outcome State Fault Refusal := scalar .sub (· - ·) x f s
/-- MUL: the low 64 bits of the product. -/
def execMul (x : Issue) (f : SR) (s : State) : Host.Outcome State Fault Refusal := scalar .mul (· * ·) x f s
def execAnd (x : Issue) (f : SR) (s : State) : Host.Outcome State Fault Refusal := scalar .and (· &&& ·) x f s
def execOr (x : Issue) (f : SR) (s : State) : Host.Outcome State Fault Refusal := scalar .or (· ||| ·) x f s
def execXor (x : Issue) (f : SR) (s : State) : Host.Outcome State Fault Refusal := scalar .xor (· ^^^ ·) x f s

/-- A shift; the spec states no result for an amount of 64 or more, so that value is open. -/
def shift (row : Issue → SR → Instr) (op : BitVec 64 → Nat → BitVec 64) (x : Issue) (f : SR) (s : State) : Host.Outcome State Fault Refusal :=
  instruction (row x f) x .clean true (fun c s => checked x.id f.rsv (fun s =>
    if (sreg c f.b).toNat < 64 then nextPc x.id (setS x.id f.d.toNat (op (sreg c f.a) (sreg c f.b).toNat) s)
    else
      let d := s.drawNat
      nextPc x.id (setS x.id f.d.toNat (BitVec.ofNat 64 d.1) d.2)) s) s

def execShl (x : Issue) (f : SR) (s : State) : Host.Outcome State Fault Refusal := shift .shl (fun a n => a <<< n) x f s
def execShr (x : Issue) (f : SR) (s : State) : Host.Outcome State Fault Refusal := shift .shr (fun a n => a >>> n) x f s
def execSra (x : Issue) (f : SR) (s : State) : Host.Outcome State Fault Refusal := shift .sra (fun a n => a.sshiftRight n) x f s

/-- A + IMM. -/
def aImm (c : Ctx) (f : SI) : BitVec 64 := sreg c f.a + f.imm.signExtend 64

def execAddi (x : Issue) (f : SI) (s : State) : Host.Outcome State Fault Refusal :=
  instruction (.addi x f) x .clean true (fun c s => nextPc x.id (setS x.id f.d.toNat (aImm c f) s)) s

/-! ### Scratch (R271, R266) -/

/-- Do the pages cover the bytes at an address, within the cluster's 8 MiB? -/
def inPages (pages : List Nat) (a n : Nat) : Bool :=
  n == 0 || (decide (a + n ≤ 2 ^ 23) && (List.range ((a + n - 1) / 4096 + 1 - a / 4096)).all (fun k => pages.contains (a / 4096 + k)))

/-- The work region, which a program's own accesses reach. -/
def inWork (s : State) (c : Ctx) (a n : Nat) : Bool :=
  match imageOfCtx s c with
  | some i => inPages (workPages i c) a n
  | none => false

/-- Scratch bytes of the context's cluster. -/
def scratchGet (s : State) (x : CtxId) (a n : Nat) : List Byte := memGetN (s.cluster x.cluster).scratch a n
def scratchPut (x : CtxId) (a : Nat) (b : List Byte) (s : State) : State :=
  s.onCluster x.cluster (fun k => { k with scratch := memSetN k.scratch a b })

/-- Use the work region at an address, or fault. -/
def work (x : CtxId) (c : Ctx) (a n : Nat) (run : State → State) (s : State) : State :=
  if inWork s c a n then run s else programFault x fcScratch 0 s

/-- The check of the scratch words read at an address: an uncorrectable one ends the operation with DATA_LOST (07 R208, 15 R425). -/
def scanned (x : CtxId) (ecc : Ecc) (a : Nat) (run : State → State) (s : State) : State :=
  match ecc with
  | .uncorrectable => dataLost x (recordErr kCluster x.cluster 0x29 2 (leBytes a 4) s)
  | .corrected => run (recordCorrected kCluster x.cluster s)
  | .clean | .mirror => run s

/-- Read the work region. -/
def workRead (x : CtxId) (c : Ctx) (a n : Nat) (ecc : Ecc) (run : List Byte → State → State) (s : State) : State :=
  work x c a n (scanned x ecc a (fun s => run (scratchGet s x a n) s)) s

def execLd (x : Issue) (f : SI) (ecc : Ecc) (s : State) : Host.Outcome State Fault Refusal :=
  instruction (.ld x f ecc) x ecc true (fun c s =>
    workRead x.id c (aImm c f).toNat 8 ecc (fun b s => nextPc x.id (setS x.id f.d.toNat (BitVec.ofNat 64 (leNat b)) s)) s) s

def execSt (x : Issue) (f : SI) (s : State) : Host.Outcome State Fault Refusal :=
  instruction (.st x f) x .clean true (fun c s =>
    work x.id c (aImm c f).toNat 8 (fun s => nextPc x.id (scratchPut x.id (aImm c f).toNat (leBytes (sreg c f.d).toNat 8) s)) s) s

/-! ### Control (R263) -/

/-- IMM instructions from here; before the start of the text the counter wraps, out of any text. -/
def branchTo (c : Ctx) (f : SI) : Nat := (((c.pc : Int) + 8 * f.imm.toInt) % 2 ^ 64).toNat

/-- A branch, which leaves an IDLE mark standing (R284). -/
def branch (row : Issue → SI → Instr) (test : BitVec 64 → BitVec 64 → Bool) (x : Issue) (f : SI) (s : State) : Host.Outcome State Fault Refusal :=
  instruction (row x f) x .clean false (fun c s =>
    if test (sreg c f.d) (sreg c f.a) then goto x.id (branchTo c f) s else nextPc x.id s) s

def execBeq (x : Issue) (f : SI) (s : State) : Host.Outcome State Fault Refusal := branch .beq (fun a b => a == b) x f s
def execBne (x : Issue) (f : SI) (s : State) : Host.Outcome State Fault Refusal := branch .bne (fun a b => a != b) x f s
/-- BLT compares two's-complement numbers. -/
def execBlt (x : Issue) (f : SI) (s : State) : Host.Outcome State Fault Refusal := branch .blt (fun a b => decide (a.toInt < b.toInt)) x f s

/-- LOOP: with a count of 0 the instructions are passed over. -/
def execLoop (x : Issue) (f : SI) (s : State) : Host.Outcome State Fault Refusal :=
  instruction (.loop x f) x .clean true (fun c s =>
    let n := f.imm.toNat % 2 ^ 16
    let times := (sreg c f.d).toNat
    if times == 0 || n == 0 then goto x.id (c.pc + 8 + 8 * n) s
    else s.onCtx x.id (fun k => { k with pc := c.pc + 8, loops := (c.pc + 8, c.pc + 8 + 8 * n, times) :: k.loops })) s

/-- The end of a context's part: the context stays with its operation until that ends (R252); a class 1 job whose contexts have all ended completes with OK
(R282). -/
def haltCtx (x : CtxId) (c : Ctx) (s : State) : State :=
  let s := settlePhase (s.onCtx x (fun c => { c with halted := true, marks := [] }))
  match c.job with
  | some (.job qpn index) =>
    if (contextsOf s (.job qpn index)).all (fun y => (s.ctx y).halted) then endCompute qpn index stOk 0 s else s
  | _ => s

def execHalt (x : Issue) (f : SI) (s : State) : Host.Outcome State Fault Refusal := instruction (.halt x f) x .clean true (haltCtx x.id) s

/-- FAULT: a program fault with the code IMM[7:0]. -/
def execFault (x : Issue) (f : SI) (s : State) : Host.Outcome State Fault Refusal :=
  instruction (.fault x f) x .clean true (fun _ s => programFault x.id fcInstr (f.imm.toNat % 256) s) s

/-! ### Vectors (R262, R263) -/

/-- Bytes of lanes and lanes of bytes. -/
def laneBytes (l : List (BitVec 32)) : List Byte := l.flatMap (fun v => leBytes v.toNat 4)
def lanesOfBytes : Nat → List Byte → List (BitVec 32)
  | 0, _ => []
  | n + 1, l => BitVec.ofNat 32 (leAt l 0 4) :: lanesOfBytes n (l.drop 4)

/-- VLD and VST name one of 16 vector registers in D; a higher number is a reserved field. -/
def execVld (x : Issue) (f : SI) (ecc : Ecc) (s : State) : Host.Outcome State Fault Refusal :=
  instruction (.vld x f ecc) x ecc true (fun c s => checked x.id (decide (16 ≤ f.d.toNat)) (fun s =>
    workRead x.id c (aImm c f).toNat 384 ecc (fun b s => nextPc x.id (setV x.id f.d.toNat (lanesOfBytes 96 b) s)) s) s) s

def execVst (x : Issue) (f : SI) (s : State) : Host.Outcome State Fault Refusal :=
  instruction (.vst x f) x .clean true (fun c s => checked x.id (decide (16 ≤ f.d.toNat)) (fun s =>
    work x.id c (aImm c f).toNat 384 (fun s => nextPc x.id (scratchPut x.id (aImm c f).toNat (laneBytes (vreg c f.d.toNat)) s)) s) s) s

/-- A lane-wise operation on VA, VB and VC. -/
def vector (row : Issue → VR → Instr) (op : Nat → Nat → Nat → Nat) (x : Issue) (f : VR) (s : State) : Host.Outcome State Fault Refusal :=
  instruction (row x f) x .clean true (fun c s => checked x.id f.rsv (fun s =>
    let r := (List.range 96).map (fun k =>
      BitVec.ofNat 32 (op ((vreg c f.va.toNat).getD k 0).toNat ((vreg c f.vb.toNat).getD k 0).toNat ((vreg c f.vc.toNat).getD k 0).toNat))
    nextPc x.id (setV x.id f.vd.toNat r s)) s) s

def execVadd (x : Issue) (f : VR) (s : State) : Host.Outcome State Fault Refusal := vector .vadd (fun a b _ => f32Add a b) x f s
def execVsub (x : Issue) (f : VR) (s : State) : Host.Outcome State Fault Refusal := vector .vsub (fun a b _ => f32Sub a b) x f s
def execVmul (x : Issue) (f : VR) (s : State) : Host.Outcome State Fault Refusal := vector .vmul (fun a b _ => f32Mul a b) x f s
def execVmax (x : Issue) (f : VR) (s : State) : Host.Outcome State Fault Refusal := vector .vmax (fun a b _ => f32Max a b) x f s
def execVmin (x : Issue) (f : VR) (s : State) : Host.Outcome State Fault Refusal := vector .vmin (fun a b _ => f32Min a b) x f s
def execVfma (x : Issue) (f : VR) (s : State) : Host.Outcome State Fault Refusal := vector .vfma (fun a b c => f32Fma a b c) x f s
def execVdiv (x : Issue) (f : VR) (s : State) : Host.Outcome State Fault Refusal := vector .vdiv (fun a b _ => f32Div a b) x f s
def execVsqrt (x : Issue) (f : VR) (s : State) : Host.Outcome State Fault Refusal := vector .vsqrt (fun a _ _ => f32Sqrt a) x f s
def execVsgn (x : Issue) (f : VR) (s : State) : Host.Outcome State Fault Refusal := vector .vsgn (fun a _ _ => f32Sign a) x f s
/-- VSEL: a lane of VC is an FP32 value, so a zero of either sign selects VB. -/
def execVsel (x : Issue) (f : VR) (s : State) : Host.Outcome State Fault Refusal :=
  vector .vsel (fun a b c => if c % 2 ^ 31 == 0 then b else a) x f s

/-- OPID and SEED of the context's stochastic rounding: of the operation, or of the argument block and the image (R282). -/
def srIds (s : State) (c : Ctx) : Nat × Nat :=
  let seed := match imageOfCtx s c with | some i => i.prog.seed.toNat | none => 0
  match c.job with
  | some (.op g) => (match s.op g with | some o => o.opid.toNat | none => 0, seed)
  | some (.job q i) => (match jobOf s q i with | some y => leNat ((((operandOf y.2).getD []).drop 32).take 4) | none => 0, seed)
  | none => (0, seed)

/-- The random value of lane k: element S30 + k (R260). -/
def laneKey (s : State) (c : Ctx) (rnd : Bool) (k : Nat) : Option Nat :=
  srKey rnd (srIds s c).1 (((sreg c 30).toNat + k) % 2 ^ 64) (srIds s c).2

/-- The classes of lanes that a program has converted to results, lane k being element S30 + k, enter its operation's counts (07 R209). A fused program
counts where it rounds its gradients, by XRND, and nowhere else (R273 stage 2). -/
def countLanes (c : Ctx) (gradient : Bool) (cls : List Nat) (s : State) : State :=
  match c.job with
  | some (.op g) => s.onOp g (fun o => if o.prog.kind == kindFused && !gradient then o else takeClasses (sreg c 30).toNat cls o)
  | _ => s

/-- VCVT: FP32 lanes converted to FMT; the code stands in the low bits of the lane. A block format or a reserved code is a reserved field. -/
def execVcvt (x : Issue) (f : VR) (s : State) : Host.Outcome State Fault Refusal :=
  instruction (.vcvt x f) x .clean true (fun c s => checked x.id (f.rsv || decide (7 ≤ f.fmt.toNat)) (fun s =>
    let vs := (List.range 96).map (fun k => f32Val ((vreg c f.va.toNat).getD k 0).toNat)
    let rs := vs.zipIdx.map (fun v => (v.1, encode f.fmt.toNat (laneKey s c f.rnd v.2) f.ovf v.1 160))
    countLanes c false (rs.map (fun r => classOf r.1 0 r.2.cls))
      (nextPc x.id (setV x.id f.vd.toNat (rs.map (fun r => BitVec.ofNat 32 r.2.code)) s))) s) s

/-- VBLK: three blocks to FMT 7 or 8; the scales to lanes 0 to 2 of VB. -/
def execVblk (x : Issue) (f : VR) (s : State) : Host.Outcome State Fault Refusal :=
  instruction (.vblk x f) x .clean true (fun c s => checked x.id (f.rsv || !isBlkFmt f.fmt.toNat) (fun s =>
    let qs := (List.range 3).map (fun b =>
      quantBlock f.fmt.toNat f.ovf ((List.range 32).map (fun i => laneKey s c f.rnd (32 * b + i)))
        ((List.range 32).map (fun i => f32Val ((vreg c f.va.toNat).getD (32 * b + i) 0).toNat)))
    let s := setV x.id f.vd.toNat (qs.flatMap (fun q => q.2.map (fun r => BitVec.ofNat 32 r.code))) s
    countLanes c false (qs.flatMap (fun q => q.2.map (fun r => r.cls)))
      (nextPc x.id (setV x.id f.vb.toNat (qs.map (fun q => BitVec.ofNat 32 q.1) ++ (vreg (s.ctx x.id) f.vb.toNat).drop 3) s))) s) s

/-! ### Exact lanes (07 R182, R192, 09 R263, R265) -/

/-- The operation that a context runs. -/
def opOfCtx (s : State) (c : Ctx) : Option Op :=
  match c.job with
  | some (.op g) => s.op g
  | _ => none

/-- The slots that a context's accumulators stand in: those of its operation; wide ones in a class 1 job (07 R192). -/
def ctxSlots (s : State) (c : Ctx) : SlotKind := match opOfCtx s c with | some o => slotKind o.prog | none => .wide
/-- Accumulators that XCLR, XADD, XHAD and MSCL act on: narrow ones in an operation that uses narrow lanes, wide ones otherwise. -/
def isNarrow (s : State) (c : Ctx) : Bool := ctxSlots s c == .narrow

/-- Use slots anywhere in the declared regions, or fault (R271). -/
def slots (x : CtxId) (c : Ctx) (a n : Nat) (run : State → State) (s : State) : State :=
  if inPages c.pages a n then run s else programFault x fcScratch 0 s

/-- The accumulators at an address. -/
def accsAt (s : State) (x : CtxId) (c : Ctx) (a n : Nat) : List Acc :=
  let nw := isNarrow s c
  (List.range n).map (fun k => slotAcc nw (scratchGet s x (a + k * accSize nw) (accSize nw)))

/-- Accumulators take their slots; one that has left the range of A keeps its value, with its flag, and the program ends (07 R184). -/
def putAccs (x : CtxId) (c : Ctx) (a : Nat) (l : List Acc) (s : State) : State :=
  let s' := scratchPut x a (l.flatMap (accSlot (isNarrow s c))) s
  if l.any (fun v => v.range) then programFault x fcRange 0 s' else nextPc x s'

/-- XCLR: S[D] accumulators from the slot at A + IMM. -/
def execXclr (x : Issue) (f : SI) (s : State) : Host.Outcome State Fault Refusal :=
  instruction (.xclr x f) x .clean true (fun c s =>
    let n := (sreg c f.d).toNat
    slots x.id c (aImm c f).toNat (n * accSize (isNarrow s c)) (putAccs x.id c (aImm c f).toNat (List.replicate n {})) s) s

/-- Add values to the accumulators at an address (07 R184). -/
def addSlots (x : CtxId) (ecc : Ecc) (c : Ctx) (a : Nat) (vs : List FVal) (s : State) : State :=
  slots x c a (vs.length * accSize (isNarrow s c)) (scanned x ecc a (fun s =>
    putAccs x c a (List.zipWith accAdd (accsAt s x c a vs.length) vs) s)) s

/-- XADD: the FP32 lanes of VA into the accumulators at S[VD]. -/
def execXadd (x : Issue) (f : VR) (s : State) : Host.Outcome State Fault Refusal :=
  instruction (.xadd x f) x .clean true (fun c s => checked x.id f.rsv (fun s =>
    addSlots x.id x.ecc c (sreg c (BitVec.ofNat 5 f.vd.toNat)).toNat ((vreg c f.va.toNat).map (fun v => f32Val v.toNat)) s) s) s

/-- The value a slot resolves to: an accumulator by R195 or R200, an ORDERED slot its running sum, a bitwise slot its integer. -/
def slotVal (s : State) (c : Ctx) (b : List Byte) : FVal :=
  let op := match opOfCtx s c with | some o => o.prog.op | none => 0
  match ctxSlots s c with
  | .ordered => f32Val (leAt b 0 4)
  | .bitwise => convertElem (match opOfCtx s c with | some o => inFmt o.prog | none => 6) (leAt b 0 4) 127
  | k => if op == 2 || op == 3 then resolveExtreme (op == 2) (slotAcc (k == .narrow) b) else resolveSum (slotAcc (k == .narrow) b)

/-- XRND: 96 accumulators at S[VA] resolved and rounded to FMT. -/
def execXrnd (x : Issue) (f : VR) (s : State) : Host.Outcome State Fault Refusal :=
  instruction (.xrnd x f) x .clean true (fun c s => checked x.id (f.rsv || decide (7 ≤ f.fmt.toNat)) (fun s =>
    let a := (sreg c (BitVec.ofNat 5 f.va.toNat)).toNat
    let size := slotSize (ctxSlots s c)
    slots x.id c a (96 * size) (scanned x.id x.ecc a (fun s =>
      let vs := (List.range 96).map (fun k => slotVal s c (scratchGet s x.id (a + k * size) size))
      let rs := vs.zipIdx.map (fun v => (v.1, encode f.fmt.toNat (laneKey s c f.rnd v.2) f.ovf v.1 160))
      countLanes c true (rs.map (fun r => classOf r.1 0 r.2.cls))
        (nextPc x.id (setV x.id f.vd.toNat (rs.map (fun r => BitVec.ofNat 32 r.2.code)) s)))) s) s) s

/-- XHAD: the exact inverse rotation of 32 accumulators at A + IMM. -/
def execXhad (x : Issue) (f : SI) (s : State) : Host.Outcome State Fault Refusal :=
  instruction (.xhad x f) x .clean true (fun c s =>
    let a := (aImm c f).toNat
    slots x.id c a (32 * accSize (isNarrow s c)) (scanned x.id x.ecc a (fun s =>
      putAccs x.id c a (rotAccs (accsAt s x.id c a 32)) s)) s) s

/-! ### Tiles (R264, R265, R270) -/

/-- Bytes of a 32 x 32 tile in a format. -/
def tileBytes (fmt : Nat) : Nat := 128 * elemBits fmt
/-- Element (i, j) of a tile, row by row. -/
def tileElem (fmt : Nat) (b : List Byte) (i j : Nat) : Nat := leAt b ((32 * i + j) * (elemBits fmt / 8)) (elemBits fmt / 8)

/-- MMUL of one output element: the products and the old value summed exactly, rounded once; INT8 saturates (R264). -/
def mmulElem (fmt : Nat) (ta tb tc : List Byte) (tr acc : Bool) (i j : Nat) : Nat :=
  let b := fun (k : Nat) => if tr then tileElem fmt tb j k else tileElem fmt tb k j
  if fmt == 5 then
    let sum := (List.range 32).foldl (fun t k => t + toSigned 8 (tileElem fmt ta i k) * toSigned 8 (b k)) (if acc then toSigned 32 (tileElem 6 tc i j) else 0)
    ofSigned 32 (max (-(2 ^ 31)) (min (2 ^ 31 - 1) sum))
  else
    let old : FVal := if acc then widen (f32Val (tileElem 0 tc i j)) else .fin true 0
    f32Of ((List.range 32).foldl (fun t k => addVal t (mulVal (convertElem fmt (tileElem fmt ta i k) 127) (convertElem fmt (b k) 127))) old) 320

/-- Positions of a tile. -/
def tileCells : List (Nat × Nat) := (List.range 1024).map (fun k => (k / 32, k % 32))

/-- MMUL: TC = TA x TB, plus TC where ACC is set. -/
def execMmul (x : Issue) (f : MX) (s : State) : Host.Outcome State Fault Refusal :=
  instruction (.mmul x f) x .clean true (fun c s => checked x.id (f.rsv || f.dtype.toNat == 0 || decide (5 < f.dtype.toNat)) (fun s =>
    let d := f.dtype.toNat
    let n := tileBytes d
    let a := (sreg c f.ta).toNat
    let b := (sreg c f.tb).toNat
    let o := (sreg c f.tc).toNat
    work x.id c a n (work x.id c b n (work x.id c o 4096 (scanned x.id x.ecc a (fun s =>
      let ta := scratchGet s x.id a n
      let tb := scratchGet s x.id b n
      let tc := scratchGet s x.id o 4096
      nextPc x.id (scratchPut x.id o (tileCells.flatMap (fun p => leBytes (mmulElem d ta tb tc f.tbT f.acc p.1 p.2) 4)) s))))) s) s) s

/-- MSCL: row i of TA times the FP32 weight TB[i], rounded to FP32, added exactly into the accumulators at TC. DTYPE is TA's format. -/
def execMscl (x : Issue) (f : MX) (s : State) : Host.Outcome State Fault Refusal :=
  instruction (.mscl x f) x .clean true (fun c s => checked x.id (f.rsv || decide (6 < f.dtype.toNat)) (fun s =>
    let d := f.dtype.toNat
    let a := (sreg c f.ta).toNat
    let b := (sreg c f.tb).toNat
    work x.id c a (tileBytes d) (work x.id c b 128 (fun s =>
      let ta := scratchGet s x.id a (tileBytes d)
      let tb := scratchGet s x.id b 128
      addSlots x.id x.ecc c (sreg c f.tc).toNat (tileCells.map (fun p =>
        f32Val (f32Of (mulVal (convertElem d (tileElem d ta p.1 p.2) 127) (f32Val (leAt tb (4 * p.1) 4))) 320))) s)) s) s) s

/-- HROT: the rows of TA, FP32, rotated into TC; ACC 1 for the inverse. -/
def execHrot (x : Issue) (f : MX) (s : State) : Host.Outcome State Fault Refusal :=
  instruction (.hrot x f) x .clean true (fun c s => checked x.id f.rsv (fun s =>
    let a := (sreg c f.ta).toNat
    let o := (sreg c f.tc).toNat
    work x.id c a 4096 (work x.id c o 4096 (scanned x.id x.ecc a (fun s =>
      let ta := scratchGet s x.id a 4096
      let rows := (List.range 32).map (fun i => (List.range 32).map (fun j => tileElem 0 ta i j))
      nextPc x.id (scratchPut x.id o ((rows.flatMap (fun r => if f.acc then rotInverse r else rotForward r)).flatMap (fun v => leBytes v 4)) s)))) s) s) s

/-! ### Streams (R272) -/

/-- The tenant whose memory a context reaches, and whether an access of it can go on. -/
def streamTenant (s : State) (x : CtxId) : Nat := (clusterTenant s x.cluster).getD 0

/-- Start a stream: the scratch range lies in the work region; a page that denies the access or is not this part's is a program fault. -/
def startStream (x : CtxId) (f : ST) (hst : Bool) (c : Ctx) (s : State) : State :=
  let a := (sreg c f.addr).toNat
  let fva := (sreg c f.ext).toNat
  let n := (sreg c f.len).toNat
  work x c a n (fun s =>
    match streamStop s [] (streamTenant s x) fva n (b2n hst) with
    | some (.cause k) => programFault x k 0 s
    | some .malformed => streamMalformed x s
    | _ => nextPc x (s.onCtx x (fun k => { k with
        streams := k.streams ++ [{ tag := f.tag.toNat, hst := hst, scratch := a, fva := fva, len := n }] }))) s

/-- The HBM words that a load reads: an uncorrectable one damages the stream (15 R425, R438). -/
def streamEcc (x : CtxId) (fva : Nat) (ecc : Ecc) (s : State) : Bool × State :=
  match streamAt s [] (streamTenant s x) (fva / 128 * 128) 0 with
  | .ok a => eccCheck ecc a s
  | _ => (true, s)

/-- HLD. -/
def execHld (x : Issue) (f : ST) (ecc : Ecc) (s : State) : Host.Outcome State Fault Refusal :=
  instruction (.hld x f ecc) x ecc true (fun c s => checked x.id f.rsv (fun s =>
    let r := streamEcc x.id (sreg c f.ext).toNat ecc s
    if r.1 then startStream x.id f false c r.2 else dataLost x.id r.2) s) s

/-- HST. -/
def execHst (x : Issue) (f : ST) (s : State) : Host.Outcome State Fault Refusal :=
  instruction (.hst x f) x .clean true (fun c s => checked x.id f.rsv
    (scanned x.id x.ecc (sreg c f.addr).toNat (startStream x.id f true c)) s) s

/-- Wait while a condition holds. -/
def waitWhile (x : CtxId) (busy : Bool) (w : CtxWait) (s : State) : State :=
  nextPc x (if busy then s.onCtx x (fun c => { c with wait := w }) else s)

/-- WAITT: until no stream of the tag is in progress. -/
def execWaitt (x : Issue) (f : ST) (s : State) : Host.Outcome State Fault Refusal :=
  instruction (.waitt x f) x .clean true (fun c s => checked x.id f.rsv
    (waitWhile x.id (c.streams.any (fun t => t.tag == f.tag.toNat)) (.stream f.tag.toNat)) s) s

/-- FENCE: until every earlier HST has completed. -/
def execFence (x : Issue) (f : SR) (s : State) : Host.Outcome State Fault Refusal :=
  instruction (.fence x f) x .clean true (fun c s => checked x.id f.rsv (waitWhile x.id (c.streams.any (fun t => t.hst)) .fence) s) s

/-- WAITC: D takes the next owned chunk once its contributions are complete and the state it reads is good; a program fault in a class 1 job (R282). -/
def execWaitc (x : Issue) (f : SR) (s : State) : Host.Outcome State Fault Refusal :=
  instruction (.waitc x f) x .clean true (fun c s => checked x.id f.rsv (fun s =>
    match c.job with
    | some (.op g) =>
      match takeChunk x.id g f.d.toNat s with
      | none => nextPc x.id ((chunkStall x.id g s).onCtx x.id (fun c => { c with wait := .chunk f.d.toNat }))
      | some t =>
        let r := scratchCheck x.id.cluster (takenWords x.id g s) x.ecc t
        if r.1 then nextPc x.id r.2 else dataLost x.id r.2
    | _ => programFault x.id fcReserved 0 s) s) s

/-- Payloads of EMIT: 128 B each, from the first PIDX its descriptor names. -/
def emitPays (op : Op) (desc : Nat) (b : List Byte) : List (Nat × List Byte × List Byte) :=
  (List.range (ceilDiv b.length 128)).map (fun k =>
    let i := Config.emitPidx desc % 2 ^ 16 + k
    (i, padTo 128 (b.drop (128 * k)), if isBlkFmt (outFmt op.prog) then (List.range 16).map (fun j => Config.emitSide desc i j) else []))

/-- The program's payloads join what its chunk has ready; with the last of them the chunk's results are complete. -/
def emitInto (g c : Nat) (op : Op) (pays : List (Nat × List Byte × List Byte)) (s : State) : State :=
  onChunk g c (fun k =>
    let done := k.emitted ++ pays.map Prod.fst
    { k with ready := k.ready ++ pays, emitted := done,
             formed := (List.range (outPayloads op.prog c)).all (fun i => done.contains i) }) s

/-- EMIT: the results of the chunk the context took last, unless they are formed already; it waits where the stores lack room. -/
def execEmit (x : Issue) (f : ST) (s : State) : Host.Outcome State Fault Refusal :=
  instruction (.emit x f) x .clean true (fun c s => checked x.id f.rsv (fun s =>
    match c.job with
    | some (.op g) =>
      let a := (sreg c f.addr).toNat
      let n := (sreg c f.len).toNat
      workRead x.id c a n x.ecc (fun b s =>
        match (s.op g).bind (fun op => (ctxChunk s x.id op).bind (chunkOf op)), s.op g with
        | some y, some op =>
          if y.formed then nextPc x.id s
          else
            let s := injectChunk g y.idx (emitInto g y.idx op (emitPays op (sreg c f.ext).toNat b) s)
            waitWhile x.id (match (s.op g).bind (fun o => chunkOf o y.idx) with | some z => !z.ready.isEmpty | none => false) (.store g y.idx) s
        | _, _ => nextPc x.id s) s
    | _ => programFault x.id fcReserved 0 s) s) s

/-- IDLE: a mark of IMM us begins; one that the context is in goes on beside it (R284). -/
def execIdle (x : Issue) (f : SI) (s : State) : Host.Outcome State Fault Refusal :=
  instruction (.idle x f) x .clean false (fun _ s =>
    settlePhase (nextPc x.id (s.onCtx x.id (fun c => { c with marks := c.marks ++ [s.svc.now + f.imm.toInt.toNat * 1000] })))) s

/-- IDLE_MARK_END (R284): the marks whose IMM us have passed end. -/
def execIdleMarkEnd (x : CtxId) (s : State) : Host.Outcome State Fault Refusal :=
  if !isCtx x then .fault .noSuchUnit
  else .next (
    if isReady s && (s.ctx x).marks.any (fun t => decide (t ≤ s.svc.now)) then
      settlePhase (s.onCtx x (fun c => { c with marks := c.marks.filter (fun t => !decide (t ≤ s.svc.now)) }))
    else s)

/-! ### STREAM_COMPLETE (R272, R273) -/

/-- What a context waited for may have happened. -/
def wakeStream (x : CtxId) (s : State) : State :=
  s.onCtx x (fun c => { c with wait := match c.wait with
    | .stream t => if c.streams.any (fun y => y.tag == t) then .stream t else .none
    | .fence => if c.streams.any (fun y => y.hst) then .fence else .none
    | w => w })

/-- The oldest stream of a tag has moved its data: a load's bytes stand in scratch, a store has landed. -/
def finishStream (x : CtxId) (t : Stream) (s : State) : State :=
  let tn := streamTenant s x
  let s := touchCluster x.cluster tn t.fva (s.onCtx x (fun c => { c with streams := c.streams.erase t }))
  if t.hst then
    let r := streamWrite t.pinned tn t.fva (scratchGet s x t.scratch t.len) s
    if r.1 then wakeStream x r.2 else dataLost x r.2
  else
    let r := streamRead t.pinned tn t.fva t.len s
    if r.1.2 && !t.damaged then wakeStream x (scratchPut x t.scratch r.1.1 r.2) else dataLost x r.2

/-- The class 1 job of a context, if it has been stopped, ends with its last stream (11 R345). -/
def settleStopped (x : CtxId) (s : State) : State :=
  match (s.ctx x).job with
  | some (.job qpn index) => advanceJob qpn index (endStopped qpn index s)
  | _ => s

/-- STREAM_COMPLETE. -/
def execStreamComplete (x : CtxId) (tag : Nat) (s : State) : Host.Outcome State Fault Refusal :=
  if !isCtx x then .fault .noSuchUnit
  else .next (
    match (s.ctx x).streams.find? (fun t => t.tag == tag) with
    | none => s
    | some t =>
      if !isReady s || t.faulting then s
      else match streamStop s t.pinned (streamTenant s x) t.fva t.len (b2n t.hst) with
        | some (.cause k) => programFault x k 0 (s.onCtx x (fun c => { c with streams := c.streams.erase t }))
        | some .malformed => streamMalformed x (s.onCtx x (fun c => { c with streams := c.streams.erase t }))
        | some _ => s
        | none => settleStopped x (finishStream x t s))

end Sys2Proof.Machine
end

