-- ==== Sys2Proof/Machine/Service.lean ====
section
/-! DEFINITION. Service of units (15 R430, R431, 09 R256, 14 R412): UNIT_RESET and its end, CLUSTER_RELOAD, and the retirement of HBM frames
(15 R436 to R439). -/

namespace Sys2Proof.Machine

open Sys2Proof

/-! ### UNIT_RESET (15 R430): unit kinds 0 port, 1 cluster, 2 mover, 3 HBM channel -/

/-- Does the part have the unit? -/
def unitInRange (kind index : Nat) : Bool :=
  if kind == 0 then isPort index
  else if kind == 1 then decide (index < 16)
  else if kind == 2 then decide (index < 32)
  else if kind == 3 then decide (index < 64)
  else false

/-- A cluster's reset begins: the operations and jobs on it end with FCAUSE 0x08, and its memories are zeroed (09 R256). -/
def clusterReset (c : Nat) (s : State) : State :=
  let s := (List.range 4).foldl (fun s k => programFault { cluster := c, ctx := k } 0x08 0 s) s
  wakeComputes ((zeroCluster c s).onCluster c (fun k => { k with resetting := true, reloading := true }))

/-- A running descriptor at its mover's reset: it issues nothing more and ends with OP_ABORTED and ECAUSE QP_STOPPED (11 R343). -/
def abortJob (j : Job) : Job :=
  if j.complete then j
  else
    let k := stopJob stOpAborted 3 true j
    if k.failed.isSome then { k with fault := none } else { k with fault := none, failed := some stOpAborted, ecause := 3 }

/-- Started descriptors of a mover, by queue and index. -/
def moverJobs (m : Nat) (s : State) : List (Nat × BitVec 32) :=
  (s.queues.qps.filter (fun q => q.2.mover == m)).flatMap (fun q => q.2.jobs.map (fun j => (q.1, j.index)))

/-- A mover's reset begins: it starts nothing new, and its running descriptors end once their requests have. -/
def moverReset (m : Nat) (s : State) : State :=
  let s := s.onQueues (fun q => { q with
    resetting := q.resetting ||| BitVec.ofNat 32 (2 ^ m)
    qps := q.qps.each (fun _ p => if p.mover == m then { p with jobs := p.jobs.map abortJob } else p) })
  settleWaiters ((moverJobs m s).foldl (fun s x => advanceJob x.1 x.2 (endStopped x.1 x.2 s)) s)

/-- Every request of the mover has ended and its running descriptors with them. -/
def moverQuiet (m : Nat) (s : State) : Bool :=
  s.queues.qps.all (fun q => q.2.mover != m || q.2.jobs.all (fun j => j.complete && !j.recording && j.pending == 0))

/-- UNIT_RESET of a cluster, mover or HBM channel as it runs. -/
def runUnitReset (via : Via) (h : MHdr) (kind index : Nat) (s : State) : State :=
  let s := beginTrans (.unit kind index) h 0x0902 (accept via h (bumpEpoch s))
  if kind == 1 then clusterReset index s
  else if kind == 2 then moverReset index s
  else s.onSvc (fun v => { v with hbmResetting := v.hbmResetting ++ [index] })

/-- A queued UNIT_RESET runs a full second reset (15 R431). -/
def runQueuedUnit (i : Instr) (s : State) : State :=
  match i with
  | .unitReset h kind index => runUnitReset .event h kind index s
  | _ => s

/-- UNIT_RESET. A port's resets and its enables form one function (15 R431). -/
def execUnitReset (h : MHdr) (kind index : Nat) (s : State) : Host.Outcome State Fault Refusal :=
  command (.unitReset h kind index) h { boxes := boxH ++ boxF } (fun s => kind == 0 && portAbsent s index)
    (fun _ => !unitInRange kind index)
    (fun s =>
      if kind == 0 then transition (.port index) (.unitReset h kind index) h (runPortReset .buffer h index) s
      else transition (.unit kind index) (.unitReset h kind index) h (runUnitReset .buffer h kind index) s) s

/-! ### UNIT_RESET_END -/

/-- A port's reset ends: as the port comes up, or FAILED where it has not within 100 ms after its flush; it stays enabled and trains on. -/
def portResetEnd (p : Nat) (ok : Bool) (s : State) : State :=
  match findTrans (.port p) s.mbx.trans with
  | none => s
  | some t =>
    if t.opcode != 0x0902 || (s.port p).flushing || ok != linkUp (s.port p) || (!ok && decide (s.svc.now < t.at_ + 100000000)) then s
    else endTrans (.port p) (if ok then msOk else msFailed) (if ok then [] else failCause (Config.causeByte 9)) runQueuedPort (bumpEpoch s)

/-- The end of another unit's reset. A cluster serves at once, but its images are still to be reloaded, which is the end that the epoch
counts (14 R405); a channel whose retraining failed stays failed. -/
def otherResetEnd (kind index : Nat) (ok : Bool) (s : State) : State :=
  match findTrans (.unit kind index) s.mbx.trans with
  | none => s
  | some _ =>
    let done := fun (status : Nat) (s : State) =>
      endTrans (.unit kind index) status (if status == msOk then [] else failCause (Config.causeByte 9)) runQueuedUnit s
    if kind == 1 then done msOk (s.onCluster index (fun k => { k with resetting := false }))
    else if kind == 2 then
      if moverQuiet index s then
        advanceMover index (done msOk (bumpEpoch (s.onQueues (fun q => { q with resetting := q.resetting &&& ~~~(BitVec.ofNat 32 (2 ^ index)) }))))
      else s
    else
      let s := bumpEpoch (s.onSvc (fun v => { v with hbmResetting := v.hbmResetting.filter (fun c => c != index) }))
      if ok then done msOk s
      else done msFailed (recordErr kHbm index 0x3A 3 [] (s.onHome (fun m =>
        { m with failedChannels := if m.failedChannels.contains index then m.failedChannels else m.failedChannels ++ [index] })))

/-- UNIT_RESET_END: `ok` says that a port is up, or that a channel's interface has retrained. -/
def execUnitResetEnd (kind index : Nat) (ok : Bool) (s : State) : Host.Outcome State Fault Refusal :=
  if !unitInRange kind index then .fault .noSuchUnit
  else .next (if !isReady s then s else if kind == 0 then portResetEnd index ok s else otherResetEnd kind index ok s)

/-- CLUSTER_RELOAD: the images are back and the epoch counts the end of the reset (09 R256, 14 R405). -/
def execClusterReload (cluster : Nat) (s : State) : Host.Outcome State Fault Refusal :=
  if !decide (cluster < 16) then .fault .noSuchUnit
  else .next (
    let k := s.cluster cluster
    if !isReady s || !k.reloading || k.resetting then s
    else wakeComputes (bumpEpoch (s.onCluster cluster (fun k => { k with reloading := false }))))

/-! ### Retirement of HBM frames (15 R436 to R439) -/

/-- An entry with another target and the size of one frame. -/
def entryFor (e : BitVec 64) (a : Nat) : BitVec 64 := BitVec.ofNat 64 (e.toNat % 16 + a)

/-- A page split into frame-sized entries, the one of the frame redirected; a frame-sized entry is redirected itself. -/
def splitEntry (f spare : Nat) (x : XEntry) : List XEntry :=
  (List.range (pageBytes (entSize x.entry) / 65536)).map (fun i =>
    let g := entTarget x.entry / 65536 + i
    { tenant := x.tenant, addr := x.addr + 65536 * i, entry := entryFor x.entry (65536 * (if g == f then spare else g)) })

/-- Every mirror entry that maps the frame is redirected, and cached translations are dropped. -/
def redirect (f spare : Nat) (s : State) : State :=
  s.onXlat (fun x => { x with
    tgt := x.tgt.flatMap (fun e => if mapsFrame f e then splitEntry f spare e else [e])
    caches := x.caches.adj 48 (fun l => l.filter (fun e => !mapsFrame f e)) })

/-- Copy one line under a key: a line that cannot be read, or that the copy finds uncorrectable, is marked lost in the replacement. -/
def copyLine (key f spare : Nat) (bad : List Nat) (i : Nat) (s : State) : State :=
  let a := 128 * (512 * f + i)
  copyChecked key f spare i
    (if !readable s a then (false, s) else if bad.contains i then (false, damagedAt a s) else (true, s))

/-- Copy a frame. -/
def copyFrame (key f spare : Nat) (bad : List Nat) (s : State) : State :=
  (List.range 512).foldl (fun s i => copyLine key f spare bad i s) s

/-- The lost-line map of a frame: bit i is its line i. -/
def lostMap (f : Nat) (s : State) : Nat :=
  (List.range 512).foldl (fun n i => if s.home.lost.contains (512 * f + i) then n + 2 ^ i else n) 0

/-- The result of a retirement: the frame, its replacement and the lost-line map of that; where it has none, both are open. -/
def retiredResult (f : Nat) (s : State) : List Byte × State :=
  match s.home.moved.find f with
  | some g => (pack [.num 8 (65536 * f), .num 8 (65536 * g), .bytes (leBytes (lostMap g s) 64)], s)
  | none =>
    let a := s.drawNat
    let m := a.2.drawBytes 64
    (pack [.num 8 (65536 * f), .num 8 (a.1 % 2 ^ 38), .bytes m.1], m.2)

/-- OK, with the result of a retirement. -/
def replyRetired (h : MHdr) (f : Nat) (s : State) : State :=
  let r := retiredResult f s
  reply h msOk r.1 r.2

/-- Retire a frame that holds a tenant's or the firmware's data: it moves to a spare frame. The command `i` waits while lines of one of the two lie on a channel that
retrains (15 R430). -/
def moveFrame (i : Instr) (h : MHdr) (key f : Nat) (bad : List Nat) (s : State) : State :=
  match spareFrames f s with
  | [] => reply h msFailed (failCause 1) s
  | spare :: _ =>
    if frameWaits s f || frameWaits s spare then awaitHbm i h.mbx s
    else replyRetired h f (listRetired f (redirect f spare (takeSpare f spare (copyFrame key f spare bad s))))

/-- HBM_PAGE_RETIRE past its checks: the outcomes of R436, with causes 0 SHARED, 1 NO_SPARE and 2 LIST_FULL. -/
def runRetire (i : Instr) (h : MHdr) (f : Nat) (bad : List Nat) (s : State) : State :=
  if (cfgNow s.flash).retired.contains f then replyRetired h f s
  else if flashHeld s then reply h msUnavailable [] s
  else if 1024 ≤ (cfgNow s.flash).retired.length then reply h msFailed (failCause 2) s
  else match frameTenants f s with
    | [t] => moveFrame i h (memKeyOf s t) f bad s
    | [] => if decide (s.svc.fwBase ≤ 65536 * f) then moveFrame i h s.sec.fwKey f bad s else replyRetired h f (listRetired f s)
    | _ => reply h msFailed (failCause 0) s

/-- HBM_PAGE_RETIRE; `bad` are the lines of the frame that the copy finds uncorrectable. -/
def execHbmPageRetire (h : MHdr) (addr : Nat) (bad : List Nat) (s : State) : Host.Outcome State Fault Refusal :=
  command (.hbmPageRetire h addr bad) h { boxes := boxH ++ boxF } never (fun _ => 2 ^ 38 ≤ addr) (runRetire (.hbmPageRetire h addr bad) h (addr / 65536) bad) s

end Sys2Proof.Machine
end

