-- ==== Sys2Proof/Machine/Firmware.lean ====
section
/-! DEFINITION. Resets (15 R428, R429, R440, 16 R443), the boot chain and READY (14 R390, R391, R393, 15 R435), and the staging and activation
of firmware (14 R392, R411, 15 R432). -/

namespace Sys2Proof.Machine

open Sys2Proof

/-! ### What a reset keeps (15 R429, R440) -/

/-- The sticky registers of a window (17 R469). -/
def stickyWindow (w : Window) : Window := { failRd := w.failRd, failWr := w.failWr, logAddr := w.logAddr, logInfo := w.logInfo }

/-- The service state that a warm reset keeps: TIME_NOW, the PERSONALITY sample, what the part is made of, and a presence pin that is still
deasserted. -/
def warmService (m : ModState) (v : Service) : Service :=
  { mod := m, now := v.now, bridge := v.bridge, strap := v.strap, stepping := v.stepping, fwBase := v.fwBase, removedAt := v.removedAt }

/-- The conversion stage and the pins do not take part in a warm reset. -/
def warmPower (p : Power) : Power :=
  { inputMv := p.inputMv, inputOk := p.inputOk, railsOn := p.railsOn, powerGood := p.powerGood, eoff := p.eoff, brakePin := p.brakePin,
    modReset := p.modReset, pin := p.pin, temps := p.temps, tripped := p.tripped, tripTemp := p.tripTemp, tripReport := p.tripReport,
    tripReady := p.tripReady, tripHeld := p.tripHeld }

/-- A warm reset: everything goes to its reset value but the retained state of R429: unit records, log, sticky bits, TIME_NOW, PERSONALITY,
flash and fuses. Keys, tenants and the HBM's contents are lost. -/
def warmReset (s : State) : State :=
  { State.reset with
    svc := warmService (if s.pwr.modReset then .reset else .boot) s.svc
    err := s.err
    ports := Map.each (s.ports.filter (fun q => q.2.narrowed)) (fun _ _ => { narrowed := true })
    host := {
      perst := s.host.perst
      windows := s.host.windows.each (fun _ w => stickyWindow w)
      irqPend := s.host.irqPend
      ideFails := s.host.ideFails }
    sec := { debugLatched := s.sec.debugLatched }
    flash := s.flash
    pwr := warmPower s.pwr
    free := s.free
    pending := s.pending }

/-- Power is gone from the die: flash, fuses and what the sequencer and the pins hold stay. -/
def powerOff (m : ModState) (s : State) : State :=
  { State.reset with
    svc := { mod := m, strap := s.svc.strap, stepping := s.svc.stepping, fwBase := s.svc.fwBase }
    host := { perst := s.host.perst }
    flash := s.flash
    pwr := {
      inputMv := s.pwr.inputMv
      inputOk := s.pwr.inputOk
      railsOn := false
      powerGood := false
      eoff := s.pwr.eoff
      brakePin := s.pwr.brakePin
      modReset := s.pwr.modReset
      tripped := s.pwr.tripped
      tripTemp := s.pwr.tripTemp
      tripReport := s.pwr.tripReport
      tripHeld := s.pwr.tripHeld }
    free := s.free
    pending := s.pending }

/-- The sequencer starts the rails where its three conditions hold: input, EOFF_N released, no trip latched (16 R442). -/
def sequence (s : State) : State :=
  if s.pwr.inputOk && !s.pwr.eoff && !s.pwr.tripped then
    (s.onSvc (fun v => { v with mod := .sequencing })).onPwr (fun p => { p with railsOn := true })
  else s

/-! ### Boot (14 R391, R393) -/

/-- The slot the boot chain starts: the one the configuration names, or the other where that one does not verify; true for B. -/
def bootSlot (s : State) : Option Bool :=
  let b := (cfgNow s.flash).slotB
  if slotVerifies s (if b then s.flash.slotB else s.flash.slotA) then some b
  else if slotVerifies s (if b then s.flash.slotA else s.flash.slotB) then some (!b)
  else none

/-- The number a part serves at READY: a plane's from flash (01 R17); a bridge takes its own in training (01 R15). -/
def bootNode (s : State) : Option Node :=
  if s.svc.bridge then none
  else match (cfgNow s.flash).node with
    | some n => some (mkNode n.1 true (32 * n.2.1 + n.2.2))
    | none => none

/-- Keys that each boot makes (14 R389): the node KEM key, the firmware memory key and the first alias key. The debug port is enabled unless its
fuse is blown or it is held disabled (14 R404). -/
def bootKeys (s : State) : State :=
  { s.onSec (fun e => { e with
      nodeKem := s.free + 1
      fwKey := s.free + 2
      alias_ := s.free + 3
      aliasSeq := 1
      epoch := 1
      debugOn := !s.flash.debugBlown && !e.debugLatched }) with free := s.free + 3 }

/-- A trip that preceded this boot is recorded after READY (16 R455). -/
def reportTrip (s : State) : State :=
  if s.pwr.tripReport then
    (recordErr kPower 0 0x52 3 [BitVec.ofInt 8 s.pwr.tripTemp] s).onPwr (fun p => { p with tripReport := false, tripReady := some s.svc.now })
  else s

/-- READY: bring-up completes, or RECOVERY is entered where neither slot verifies; `idMatch` says that the identity public key is the
certificate's. -/
def execReady (idMatch : Bool) (s : State) : Host.Outcome State Fault Refusal :=
  .next (
    if s.svc.mod != .boot then s
    else match bootSlot s with
      | none => reportTrip ((bootKeys s).onSvc (fun v => { v with mod := .recovery }))
      | some b =>
        let s := (bootKeys s).onSvc (fun v => { v with mod := .ready, runB := b, node := bootNode s })
        reportTrip (if idMatch then s else recordErr kEvrix 0 0x4B 3 [] s))

/-! ### The watchdog (15 R428) -/

/-- FW_WATCHDOG: the record, which the warm reset keeps, and the reset. -/
def execFwWatchdog (pc : BitVec 32) (s : State) : Host.Outcome State Fault Refusal :=
  .next (if isLive s then warmReset (recordErr kPart 0 0x49 3 (leBytes pc.toNat 4) s) else s)

/-! ### Firmware staging (14 R392) -/

/-- Change the inactive slot. -/
def onIdleSlot (f : FwSlot → FwSlot) (s : State) : State :=
  s.onFlash (fun x => if s.svc.runB then { x with slotA := f x.slotA } else { x with slotB := f x.slotB })

/-- A fragment is written; the first one, at offset 0, begins a new image. -/
def writeFragment (offset : Nat) (fragment : List Byte) (f : FwSlot) : FwSlot :=
  let g : FwSlot := if offset == 0 then {} else { f with sigOk := false }
  { g with bytes := memSetN g.bytes offset fragment, len := max g.len (offset + fragment.length) }

/-- FW_STAGE: the last fragment starts the verification, whose end completes the command. -/
def execFwStage (h : MHdr) (offset : Nat) (fragment : List Byte) (last : Bool) (s : State) : Host.Outcome State Fault Refusal :=
  command (.fwStage h offset fragment last) h { boxes := boxH ++ boxB, recovery := true } never (fun _ => 4032 < fragment.length)
    (fun s =>
      if s.svc.staging.isSome then reply h msBusy [] s
      else if flashHeld s then reply h msUnavailable [] s
      else
        let s := onIdleSlot (writeFragment offset fragment) (s.onSvc (fun v => { v with pending := false, activateFailed := false }))
        let s := accept .buffer h s
        if last then s.onSvc (fun v => { v with staging := some h }) else finishEvent h 0x0904 msOk [] s) s

/-- FW_VERIFY_END: PENDING, or FAILED with cause 0 SIGNATURE or 1 ROLLBACK; the epoch advances. An image's SVN is at most 63 and its
ROLLBACK_FLOOR no greater. -/
def execFwVerifyEnd (sigOk : Bool) (svn floor : Nat) (s : State) : Host.Outcome State Fault Refusal :=
  .next (
    match s.svc.staging with
    | none => s
    | some h =>
      if 63 < svn || svn < floor then s
      else
        let s := bumpEpoch (s.onSvc (fun v => { v with staging := none }))
        let s := onIdleSlot (fun f => { f with sigOk := sigOk, svn := svn, floor := floor }) s
        if !sigOk then finishEvent h 0x0904 msFailed (failCause 0) s
        else if svn < s.flash.fusedSvn then finishEvent h 0x0904 msFailed (failCause 1) s
        else
          let s := s.onSvc (fun v => { v with pending := true })
          finishEvent h 0x0904 msOk (pendDigest s) s)

/-! ### Activation (15 R432) -/

/-- FW_ACTIVATE past its checks. In RECOVERY the part performs a warm reset; otherwise the handover begins and the mailboxes stall. -/
def runActivate (via : Via) (h : MHdr) (s : State) : State :=
  if !s.svc.pending then finish via h 0x0905 msBusy [] s
  else if flashHeld s then finish via h 0x0905 msUnavailable [] s
  else if s.svc.mod == .recovery then warmReset (accept via h s)
  else (beginTrans .firmware h 0x0905 (accept via h s)).onSvc (fun v => { v with handover := true, activateFailed := false })

/-- FW_ACTIVATE. -/
def execFwActivate (h : MHdr) (s : State) : Host.Outcome State Fault Refusal :=
  command (.fwActivate h) h { boxes := boxH ++ boxB, recovery := true } never never
    (fun s => transition .firmware (.fwActivate h) h (runActivate .buffer h) s) s

/-- The new image runs (14 R392, R411): a fresh alias key, the epoch, the fuses and the configuration. -/
def switchImage (s : State) : State :=
  let b := !s.svc.runB
  let floor := (idleSlot s).floor
  let s := bumpEpoch (s.onSec (fun e => { e with alias_ := s.free + 1, aliasSeq := (e.aliasSeq + 1) % 2 ^ 32 }))
  let s := { s with free := s.free + 1 }
  let s := s.onFlash (fun f => { f with fusedSvn := max f.fusedSvn floor })
  let s := if flashHeld s then s else s.onFlash (cfgWrite (fun c => { c with slotB := b }))
  s.onSvc (fun v => { v with runB := b, pending := false })

/-- The old image resumes (15 R433). -/
def resumeImage (step : Nat) (s : State) : State :=
  bumpEpoch (recordErr kPart 0 0x4A 2 [BitVec.ofNat 8 step] (s.onSvc (fun v => { v with activateFailed := true })))

end Sys2Proof.Machine
end

