-- ==== Sys2Proof/Machine/Members.lean ====
section
/-! DEFINITION. The collective agent of a bridge (10 R301, R302, 08 R220, R222, R227, R230, R234, R237) and the rows that planes and members share: OP_ABORT,
OP_DONE and ABORT_SETTLE_END. -/

namespace Sys2Proof.Machine

open Sys2Proof

/-! ### MEMBER_ARM (R301) -/

/-- The arguments are in range and name an existing tenant. -/
def armBad (a : MemberArmArgs) (s : State) : Bool :=
  4095 < a.group || 15 < a.gen || (s.tenant a.tenant).isNone || a.members.length == 0 || 512 < a.members.length ||
  a.members.length ≤ a.position || !progOk a.prog || a.prog.group != a.group || (a.timeout != 0 && (a.timeout < 1000000 || 600000000000 < a.timeout))

/-- An operation of the group is still at work at this member. -/
def memberBusy (s : State) (g : Nat) : Bool := match s.member g with | some m => m.phase != .reported | none => false

/-- MEMBER_ARM past the checks of 13 R387: the agent computes DIGEST and refuses to arm where it differs. -/
def runArm (h : MHdr) (a : MemberArmArgs) (s : State) : State :=
  if s.svc.node.isNone || memberBusy s a.group then reply h msBusy [] s
  else if entryDigest a.group a.gen a.tenant a.members != a.digest then
    reply h msBadArg [] (s.onSvc (fun v => { v with armRefusals := v.armRefusals + 1 }))
  else
    let m : MemberOp :=
      { opid := a.opid, gen := a.gen, tenant := a.tenant, members := a.members, position := a.position, prog := a.prog, timeout := a.timeout,
        armedAt := s.svc.now }
    reply h msOk [] (s.onColl (fun c => { c with members := c.members.put a.group m }))

/-- MEMBER_ARM. -/
def execMemberArm (h : MHdr) (a : MemberArmArgs) (s : State) : Host.Outcome State Fault Refusal :=
  command (.memberArm h a) h { boxes := boxH ++ boxT } (fun s => !s.svc.bridge || !tenantOk h a.tenant s || isRevoking s a.tenant) (armBad a) (runArm h a) s

/-! ### Packets at the member -/

/-- The infrastructure index of the plane a packet comes from, where it is one of PLANES in this pair. -/
def planeOf (s : State) (m : MemberOp) (p : Packet) : Option Nat :=
  if nodeInfra p.src && nodePair p.src == nodePair (selfNode s) && m.prog.planes.contains (nodeIndex p.src) then some (nodeIndex p.src) else none

/-- The armed operation that a packet names, and the plane it comes from (R302 point 4); a reported one is over (R227). -/
def memberFor (s : State) (p : Packet) : Option (MemberOp × Nat) :=
  match s.member p.group with
  | some m =>
    if m.gen == p.gen && m.opid.toNat % 2 ^ 16 == p.opseq && m.phase != .reported then (planeOf s m p).map (fun r => (m, r)) else none
  | none => none

/-- A packet of no armed operation is discarded and counted (R227, R302). -/
def memberStale (port : Nat) (p : Packet) (s : State) : State :=
  countCollStale port (s.onMember p.group (fun m => { m with stale := m.stale + 1 }))

/-- Every payload the member is due has come from a plane. -/
def planeServed (s : State) (m : MemberOp) (r : Nat) : Bool := (missingChunks s m r).isEmpty

/-- The conditions of R227 for OK: no abort; every result received is placed; OP_DONE from every plane, or its port went down after all its results had come and
the settle interval is over. A member that could not place a result never reports OK (log entry 57). -/
def memberOk (s : State) (m : MemberOp) : Bool :=
  m.record.isNone && !m.unplaced && (resultsComing s m).isEmpty && m.prog.planes.all (fun r =>
    m.dones.contains r || m.lostPlanes.any (fun x => x.1 == r && planeServed s m r && decide (x.2 + settleNs ≤ s.svc.now)))

/-- Report OK once the conditions hold. -/
def memberDone (g : Nat) (s : State) : State :=
  match s.member g with
  | some m =>
    if (m.phase == .running || m.phase == .armed) && memberOk s m then
      s.onMember g (fun x => { x with phase := .reported, report := some (stOk, none) })
    else s
  | none => s

/-- Chunks that a credit names: COUNT of them, P apart (R221). -/
def creditedChunks (m : MemberOp) (c count : Nat) : List Nat := (List.range count).map (fun k => c + k * m.prog.p)

/-- RED_CREDIT (R221, R230): the chunks are credited, an armed operation runs, and the payloads of the chunks new to it go out (R222). OPARG [15:8], which R218
gives as 0, is ignored, and so is [15:0] of OP_DONE (DESIGN CHOICE, log entry 77). -/
def creditArrives (port : Nat) (p : Packet) (s : State) : State :=
  match memberFor s p with
  | none => memberStale port p s
  | some x =>
    let new := (creditedChunks x.1 p.chunk (p.arg 0 8)).filter (fun c => !x.1.credits.contains c)
    let pays := creditedPayloads x.1 x.2 new
    contribute p.group (x.1.toSend.length + pays.length) (s.onMember p.group (fun m => { m with
      credits := m.credits ++ new, toSend := m.toSend ++ pays, phase := if m.phase == .armed then .running else m.phase }))

/-- RED_CREDIT. -/
def execRedCredit (port : Nat) (p : Packet) (s : State) : Host.Outcome State Fault Refusal :=
  agentRow opRedCredit port p (fun p => mgtChecked port p (flagsBad p || p.arg 0 8 == 0)
    (fun s => if s.svc.bridge then creditArrives port p s else countCollStale port s)) s

/-- Store bytes at an offset of the member's own memory: whether all of them could be stored, as its pages and channels let it. -/
def placeBytes_ (t off : Nat) (data : List Byte) (s : State) : Bool × State :=
  (linesIn off data.length).foldl (fun (x : Bool × State) l =>
    match tgtTranslate x.2 t (128 * l.1) 1 with
    | .inl a =>
      let y := storePart t (128 * l.1) a l.2.1 (bytesAt data l.2.2.2 l.2.2.1) x.2
      (x.1 && y.1, y.2)
    | .inr _ => (false, x.2)) (true, s)

/-- The byte that the member's memory holds at an offset. -/
def byteThere (t off : Nat) (s : State) : Byte × State :=
  match tgtTranslate s t off 0 with
  | .inl a => let r := hbmLine (memKeyOf s t) (a / 128) s; (r.1.getD (a % 128) 0, r.2)
  | .inr _ => (0, s)

/-- Store within a result buffer: nothing past RESULT_LEN (R302 point 3); `half` keeps the upper half of the last byte, which is no element's below LEN
(R219). -/
def placeIn (m : MemberOp) (off : Nat) (data : List Byte) (half : Bool) (s : State) : State :=
  let r := m.members.getD m.position { member := 0, resultLen := 0, resultBase := 0 }
  let last := r.resultBase + off + (data.length - 1)
  let old := if half then byteThere m.tenant last s else (0, s)
  let data := if half then data.dropLast ++ [(data.getLastD 0 &&& 0x0F) ||| (old.1 &&& 0xF0)] else data
  let y := placeBytes_ m.tenant (r.resultBase + off) (data.take (r.resultLen - off)) old.2
  if y.1 then y.2 else y.2.onMember m.prog.group (fun m => { m with unplaced := true })

/-- Place a payload (R219): its elements below LEN, and for a block format each scale byte. A summary payload goes to 128 c (09 R279). -/
def placeResult (m : MemberOp) (c i : Nat) (data side : List Byte) (s : State) : State :=
  let p := m.prog
  if isSummary p then placeIn m (128 * c) data false s
  else
    let e := elemStart p c i (perPayload p.fout)
    let cnt := min (perPayload p.fout) (p.len - e)
    let s := placeIn m (elemBytes p.fout e) (data.take (elemBytes p.fout cnt)) (elemBits p.fout == 4 && cnt % 2 == 1) s
    if isBlkFmt p.fout then placeIn m (scaleOffset p e) (side.take (ceilDiv cnt 32)) false s else s

/-- RED_RES at the member, of a chunk the plane owns and the member is due; placed once. -/
def resultArrives (port : Nat) (p : Packet) (s : State) : State :=
  match memberFor s p with
  | none => memberStale port p s
  | some x =>
    if ownerOf x.1.prog p.chunk != x.2 || chunkCount x.1.prog ≤ p.chunk || !receives x.1.prog x.1.members.length p.chunk x.1.position ||
        outPayloads x.1.prog p.chunk ≤ p.pidx then memberStale port p s
    else if x.1.record.isSome then memberStale port p s
    else ((placeResult x.1 p.chunk p.pidx (padTo 128 p.data) (padTo 16 p.side) s).onMember p.group (fun m =>
      { m with got := if m.got.contains (p.chunk, p.pidx) then m.got else m.got ++ [(p.chunk, p.pidx)] }))

/-- RED_RES (R219). Once no result is left to place, the member may report. It waits at a bridge while a channel of its HBM retrains (15 R430). -/
def execRedRes (port : Nat) (p : Packet) (s : State) : Host.Outcome State Fault Refusal :=
  if s.svc.bridge && !s.svc.hbmResetting.isEmpty && (isPort port || port == outLocal) then .next s
  else agentRow opRedRes port p (fun p s => memberDone p.group (pktChecked port p (flagsBad p)
    (fun s => if s.svc.bridge then resultArrives port p s else countCollStale port s) s)) s

/-- OP_DONE at the member (R227). Its OPARG [15:0] is ignored (DESIGN CHOICE, log entry 77). -/
def doneArrives (port : Nat) (p : Packet) (s : State) : State :=
  match memberFor s p with
  | none => memberStale port p s
  | some x => memberDone p.group (s.onMember p.group (fun m => { m with dones := if m.dones.contains x.2 then m.dones else m.dones ++ [x.2] }))

/-- OP_DONE. -/
def execOpDone (port : Nat) (p : Packet) (s : State) : Host.Outcome State Fault Refusal :=
  agentRow opOpDone port p (fun p => mgtChecked port p (flagsBad p)
    (fun s => if s.svc.bridge then doneArrives port p s else countCollStale port s)) s

/-! ### OP_ABORT (R232, R235 to R237) -/

/-- The record an OP_ABORT carries (R218). -/
def recordOf (p : Packet) : AbortRec := { origin := p.arg 8 6, reason := p.arg 0 8, chunk := p.chunk }

/-- OP_ABORT is malformed where its reason is none of R117, or a flag is set (04 R90 check 7). With OPARG [15], which R218 gives as 0, it is malformed too
(DESIGN CHOICE, log entry 77). -/
def abortBad (p : Packet) : Bool := flagsBad p || !reasonKnown (p.arg 0 8) || p.arg 15 1 != 0

/-- An abort that reaches a plane: kept where it lowers the record of an operation that is not CLOSED. -/
def abortAtPlane (port : Nat) (p : Packet) (s : State) : State :=
  if (namedOp s p).isSome then wakeComputes (keepRecord p.group (recordOf p) s) else countCollStale port s

/-- An abort that reaches a member: kept and forwarded where it lowers its record. -/
def abortAtMember (port : Nat) (p : Packet) (s : State) : State :=
  match memberFor s p with
  | none => memberStale port p s
  | some x => memberRecord p.group (recordOf p) (some x.2) s

/-- Does an OP_ABORT name an operation that is still to settle here? -/
def settlesHere (s : State) (p : Packet) : Bool := if s.svc.bridge then (memberFor s p).isSome else (namedOp s p).isSome

/-- OP_ABORT, whose checks come before its operation is looked for. One past the fence is discarded (04 R112), unless its operation has still to settle here:
a collective abort settles after the tenant's keys are gone (14 R414; DEDUCED, log entry 60). -/
def execOpAbort (port : Nat) (p : Packet) (s : State) : Host.Outcome State Fault Refusal :=
  agentRow opOpAbort port p (fun p s =>
    if pastFence p.tenant.toNat s && !settlesHere s p then discardStale port s
    else if abortBad p then discardMalformed port 7 p s
    else if s.svc.bridge then abortAtMember port p s else abortAtPlane port p s) s

/-! ### Timers of the member -/

/-- The lowest plane whose OP_DONE a member lacks. -/
def lackingPlane (m : MemberOp) : Option Nat :=
  m.prog.planes.foldl (fun (a : Option Nat) r => if m.dones.contains r then a else match a with | some x => some (min x r) | none => some r) none

/-- MEMBER_OPERATION_TIMEOUT (R231, R234): the operation timeout plus 20 ms, while the member is RUNNING. -/
def execMemberOperationTimeout (group : Nat) (s : State) : Host.Outcome State Fault Refusal :=
  .next (
    match s.member group with
    | none => s
    | some m =>
      if !isReady s || m.phase != .running || m.record.isSome || m.timeout == 0 || s.svc.now < m.armedAt + m.timeout + 20000000 then s
      else match lackingPlane m with
        | none => s
        | some r => memberRecord group { origin := r, reason := rsTimeout, chunk := (missingChunks s m r).headD noChunk } none s)

/-- A member's settle interval ends: OP_ABORTED with its record, or OK where only the port-down wait was left (R227, R230, R238). -/
def memberSettled (g : Nat) (s : State) : State :=
  match s.member g with
  | none => s
  | some m =>
    if m.phase == .aborting then
      (if s.svc.now < m.settleAt + settleNs then s
       else s.onMember g (fun x => { x with phase := .reported, report := some (stOpAborted, m.record) }))
    else memberDone g s

/-- ABORT_SETTLE_END, at a plane or at a member. -/
def execAbortSettleEnd (group : Nat) (member : Bool) (s : State) : Host.Outcome State Fault Refusal :=
  .next (whenReady s (if member then memberSettled group else planeSettled group))

end Sys2Proof.Machine
end

