-- ==== Sys2Proof/Machine/PowerModule.lean ====
section
/-! DEFINITION. Power and the module (16, 09 R283 to R286): input and sequencing, EOFF_N, the brake, caps and the limiter, ballast, temperatures
and trips, the reset pin, and early removal (15 R434). -/

namespace Sys2Proof.Machine

open Sys2Proof

/-! ### Input and sequencing (16 R441, R442, R452) -/

/-- The operating range, in mV. -/
def inRange (mv : Nat) : Bool := decide (60000 ≤ mv) && decide (mv ≤ 80000)

/-- INPUT_APPLIED: the input has risen into its range; the sequencer starts the rails where the other two conditions hold. -/
def execInputApplied (mv : Nat) (s : State) : Host.Outcome State Fault Refusal :=
  .next (if s.pwr.inputOk || !inRange mv then s else sequence (s.onPwr (fun p => { p with inputMv := mv, inputOk := true })))

/-- INPUT_LOSS: the rails are cut. With the input removed altogether the sequencer holds no trip either (15 R440). -/
def execInputLoss (mv : Nat) (s : State) : Host.Outcome State Fault Refusal :=
  .next (
    if inRange mv then s
    else
      let s := s.onPwr (fun p => { p with inputMv := mv, inputOk := false })
      let s := if mv == 0 then s.onPwr (fun p => { p with tripped := false, tripTemp := 0, tripReport := false, tripHeld := false }) else s
      powerOff (if s.pwr.tripped then .tripped else .off) s)

/-- The base of the firmware-owned HBM (11 R323), by personality: the sluice region of 05 R127 or 10 R305 and the spare frames of 15 R438 end the HBM; what
the firmware keeps beside them has no size in the spec (DESIGN CHOICE, log entry 9). -/
def fwBaseOf (bridge : Bool) : Nat := 2 ^ 38 - ((if bridge then 575 else 512) * 4096 * 176 + 2 ^ 20) / 65536 * 65536

/-- POWER_GOOD: a cold reset's boot begins; local time starts from 0 and PERSONALITY is sampled, which fixes the base of the firmware-owned HBM. -/
def execPowerGood (s : State) : Host.Outcome State Fault Refusal :=
  .next (
    if !s.pwr.railsOn || s.pwr.powerGood then s
    else
      let s := powerOff (if s.pwr.modReset then .reset else .boot) s
      (s.onPwr (fun p => { p with railsOn := true, powerGood := true })).onSvc (fun v => { v with now := 0, bridge := v.strap, fwBase := fwBaseOf v.strap }))

/-- POWER_GOOD_WITHDRAWN: a rail has left tolerance. -/
def execPowerGoodWithdrawn (s : State) : Host.Outcome State Fault Refusal := .next (s.onPwr (fun p => { p with powerGood := false }))

/-- EOFF_N_ASSERT: every rail is cut, whatever else holds; a latched trip is overridden. -/
def execEoffAssert (s : State) : Host.Outcome State Fault Refusal :=
  .next (powerOff .off (s.onPwr (fun p => { p with eoff := true, tripped := false, tripHeld := false })))

/-- EOFF_N_RELEASE: a cold reset starts. -/
def execEoffRelease (s : State) : Host.Outcome State Fault Refusal :=
  .next (if s.pwr.eoff then sequence (s.onPwr (fun p => { p with eoff := false })) else s)

/-! ### MOD_RESET_N (15 R429, 16 R455, R457) -/

/-- MOD_RESET_N_ASSERT: a warm reset, held while the pin is low; a latched trip is restarted. -/
def execModResetAssert (s : State) : Host.Outcome State Fault Refusal :=
  .next (
    let s := s.onPwr (fun p => { p with modReset := true })
    if s.svc.mod == .tripped then sequence (s.onPwr (fun p => { p with tripped := false, tripHeld := false }))
    else if s.svc.mod == .off || s.svc.mod == .sequencing then s
    else warmReset s)

/-- MOD_RESET_N_RELEASE: the boot starts. -/
def execModResetRelease (s : State) : Host.Outcome State Fault Refusal :=
  .next (
    let s := s.onPwr (fun p => { p with modReset := false })
    if s.svc.mod == .reset then s.onSvc (fun v => { v with mod := .boot }) else s)

/-! ### Early removal (15 R434) -/

/-- DOWN flits on a port, which never resumes without a reset. -/
def removePort (p : Nat) (s : State) : State :=
  if !(s.port p).enabled then s
  else if linkUp (s.port p) then linkDown p causeLocal 0 s
  else s.onPort p (fun q => { q with phase := .disabled })

/-- PRSNT_EARLY_N_DEASSERT. A second one, after the pin was asserted for less than 100 ms, begins that time anew. -/
def execPrsntEarlyDeassert (s : State) : Host.Outcome State Fault Refusal :=
  .next (
    if !isLive s then s
    else if s.svc.removedAt.isSome then s.onSvc (fun v => { v with removedAt := some v.now })
    else
      let s := recordErr kPart 0 0x4C 3 [] (s.onSvc (fun v => { v with removedAt := some v.now }))
      (s.ports.map Prod.fst).foldl (fun s p => removePort p s) s)

/-- PRSNT_EARLY_N_REASSERT: the pin has been asserted again and held for 100 ms, which is over no sooner than 100 ms after the latest deassertion. -/
def execPrsntEarlyReassert (s : State) : Host.Outcome State Fault Refusal :=
  .next (
    match s.svc.removedAt with
    | none => s
    | some t => if s.svc.now < t + 100000000 then s else warmReset (s.onSvc (fun v => { v with removedAt := none })))

/-! ### Limits (16 R445, R449) -/

/-- The limiting conditions apply to READY and RECOVERY. -/
def limiting (s : State) : Bool := s.svc.mod == .ready || s.svc.mod == .recovery

/-- The brake level of the ports enabled now. -/
def brakeNow (s : State) : Nat := brakeMw (enabledLanes s)

/-- The limit L: the lowest of the cap target, the thermal limit while THROTTLED, and the brake level while BRAKED. -/
def limitNow (s : State) : Nat :=
  let l := if s.pwr.throttled then min s.pwr.target s.pwr.thermalLimit else s.pwr.target
  if s.pwr.brakePin then min l (brakeNow s) else l

/-- How far the limiter's actions have gone, in steps: ballast 1, issue 16, HBM 12 (to 25 %), admission 8 (to 50 %). -/
def actionLevel (p : Power) : Nat := p.actBallast + p.actIssue + p.actHbm + p.actAdmit
/-- The actions of a level, in their order. -/
def withActions (n : Nat) (p : Power) : Power :=
  { p with actBallast := min n 1, actIssue := min (n - 1) 16, actHbm := min (n - 17) 12, actAdmit := min (n - 29) 8 }

/-- LIMITED: the cap target is the lowest limit and actions are taken for it. -/
def limited (s : State) : Bool := limiting s && decide (0 < actionLevel s.pwr) && limitNow s == s.pwr.target

/-- ALERT_N is asserted (16 R458). -/
def alertN (s : State) : Bool :=
  (limiting s && (s.pwr.brakePin || s.pwr.throttled || s.pwr.stepClimb || (s.svc.mod == .recovery))) ||
  ((limiting s || s.svc.mod == .reset) && (s.err.summary.getLsbD 7 || s.err.summary.getLsbD 6 || s.err.summary.getLsbD 10))

/-! ### Caps (16 R447, R448, R450) -/

/-- A climb from the brake level at 50 W/ms begins; ballast is off until the cap is met again. -/
def climbFromBrake (step : Bool) (s : State) : State :=
  s.onPwr (fun p => { p with target := brakeNow s, following := false, climbing := true, stepClimb := step, ballast := 0, ballastOff := true })

/-- A decrease to `c` mW is judged against the input power. -/
def decreaseCap (c slew : Nat) (s : State) : State :=
  if s.pwr.pin ≤ c then s.onPwr (fun p => { p with target := c, following := false, climbing := false, stepClimb := false })
  else if s.pwr.pin - c ≤ 50000 * slew then
    s.onPwr (fun p => { p with target := p.pin, following := true, climbing := false, stepClimb := false })
  else
    recordErr kPower 0 0x53 1 [1] (recordErr kPower 0 0x50 1 (leBytes (c / 1000) 2) (setSummary 10 (climbFromBrake true s)))

/-- A cap is set or removed. -/
def setCap (mbx cap slew : Nat) (s : State) : State :=
  let old := 1000 * capW s
  let s := s.onPwr (fun p => { p with caps := if cap == 0 then p.caps.del mbx else p.caps.put mbx cap })
  let c := 1000 * capW s
  if s.pwr.brakePin || c == old then s
  else if s.pwr.climbing then (if c < s.pwr.target then decreaseCap c slew s else s)
  else if c < old then decreaseCap c slew s
  else if s.pwr.following then s.onPwr (fun p => { p with target := c, following := false })
  else s

/-- PWR_CAP_SET. -/
def execPwrCapSet (h : MHdr) (cap slew : Nat) (s : State) : Host.Outcome State Fault Refusal :=
  command (.pwrCapSet h cap slew) h { boxes := boxF ++ boxB } never
    (fun s => 800 < cap || (cap != 0 && decide (1000 * cap < brakeNow s)) || 1000 < slew)
    (fun s => reply h msOk [] (setCap h.mbx cap slew s)) s

/-! ### The brake (16 R451) -/

/-- PWR_BRAKE_N_ASSERT: ballast stops, and the brake is recorded once. -/
def execBrakeAssert (s : State) : Host.Outcome State Fault Refusal :=
  .next (
    if s.pwr.brakePin then s
    else
      let s := s.onPwr (fun p => { p with brakePin := true })
      if !isLive s then s
      else recordErr kPower 0 0x53 1 [0] (s.onPwr (fun p => { p with ballast := 0, ballastOff := true })))

/-- PWR_BRAKE_N_RELEASE: the limit rises from the brake level to the cap in force. -/
def execBrakeRelease (s : State) : Host.Outcome State Fault Refusal :=
  .next (
    if !s.pwr.brakePin then s
    else
      let s := s.onPwr (fun p => { p with brakePin := false })
      if isLive s then climbFromBrake s.pwr.stepClimb s else s)

/-! ### Ballast (09 R283 to R286) -/

/-- BALLAST_SET: the values wait for the next control interval. -/
def execBallastSet (h : MHdr) (floor down up : Nat) (s : State) : Host.Outcome State Fault Refusal :=
  command (.ballastSet h floor down up) h { boxes := boxF } never
    (fun _ => (floor != 0 && (floor < 200 || 650 < floor)) || 50 < down || 50 < up)
    (fun s => reply h msOk [] (s.onPwr (fun p => { p with ballastNext := some (floor, down, up) }))) s

/-- BALLAST_READ returns the counts and clears them; the energy is held in units of 10 nJ and returned in joules. -/
def execBallastRead (h : MHdr) (s : State) : Host.Outcome State Fault Refusal :=
  command (.ballastRead h) h { boxes := boxF ++ boxH } never never
    (fun s =>
      let r := pack [.num 8 (coarse s s.pwr.short s.snap.short), .num 8 (coarse s s.pwr.rampMiss s.snap.rampMiss),
        .num 8 (coarse s (s.pwr.energy / 10 ^ 8) (s.snap.energy / 10 ^ 8))]
      reply h msOk r (s.onPwr (fun p => { p with short := 0, rampMiss := 0, energy := 0 }))) s

/-- The earliest moment at which a context leaves its marks (log entry 83). -/
def earliestEnd (s : State) : Nat :=
  let l := (runningCtxs s).map (fun c => c.marks.foldl max 0)
  l.foldl min (l.headD 0)

/-- T of R285, for the power `pw` that the part draws without ballast. -/
def ballastTarget (s : State) (pw : Nat) : Nat :=
  let p := s.pwr
  let t := max (1000 * p.floor) (max pw (if p.downRate == 0 then 0 else p.tPrev - 10 * p.downRate))
  if allIdle s && decide (0 < p.upRate) then max t (p.pRef.getD 0 - p.upRate * (earliestEnd s - s.svc.now) / 1000) else t

/-- The ballast of one interval. What the clusters can draw is open above 6 W for each eligible one. -/
def ballastStep (s : State) : State :=
  let d := s.drawNat
  let s := d.2
  let pw := s.pwr.pin - s.pwr.ballast
  let t := ballastTarget s pw
  let each := 6000 + d.1
  let avail := eligible s * each
  let off := s.pwr.ballastOff || s.pwr.brakePin
  let b := if off || s.pwr.actBallast == 1 then 0 else min (t - pw) (min avail (1000 * capW s - pw))
  s.onPwr (fun p => { p with tPrev := t, ballast := b, perCluster := each, energy := p.energy + b, short := if !off && b < t - pw then p.short + 1 else p.short })

/-! ### The control interval (16 R445) -/

/-- The cap target moves: down at 50 W/ms while a decrease is followed, up at 50 W/ms while it climbs, once the draw is at the brake level, and
otherwise to the cap in force. -/
def moveTarget (s : State) : State :=
  let c := 1000 * capW s
  let p := s.pwr
  if p.brakePin then s
  else if p.following then
    let t := max c (p.target - 500)
    s.onPwr (fun p => { p with target := t, following := t != c })
  else if p.climbing then
    if p.target ≤ brakeNow s && decide (p.target < p.pin) then s
    else
      let t := min c (p.target + 500)
      s.onPwr (fun p => { p with target := t, climbing := t != c, stepClimb := p.stepClimb && t != c })
  else s.onPwr (fun p => { p with target := c, ballastOff := p.ballastOff && decide (c < p.pin) })

/-- Sum of two sets of readings. -/
def addTemps (a b : Temps) : Temps :=
  { junction := a.junction + b.junction, hbm := List.zipWith (· + ·) a.hbm b.hbm, inlet := a.inlet + b.inlet }
/-- Mean of a sum, rounded down to 1 degree C (14 R404). -/
def meanTemps (a : Temps) (n : Nat) : Temps := { junction := a.junction / n, hbm := a.hbm.map (· / (n : Int)), inlet := a.inlet / n }
def zeroTemps : Temps := { junction := 0, hbm := [0, 0, 0, 0], inlet := 0 }

/-- A sample of the input power enters the means; 10,000 intervals make a 100 ms window. -/
def sample (pin : Nat) (p : Power) : Power :=
  let q := { p with
    pin := pin
    history := (pin :: p.history).take 1000
    sumNow := p.sumNow + pin
    cntNow := p.cntNow + 1
    tempSum := addTemps p.tempSum p.temps
    tempCnt := p.tempCnt + 1 }
  if 10000 ≤ q.cntNow then
    { q with mean100 := q.sumNow / q.cntNow, sumNow := 0, cntNow := 0, tempMean := meanTemps q.tempSum q.tempCnt, tempSum := zeroTemps, tempCnt := 0 }
  else q

/-- The limiter takes further actions above the limit and undoes them below it. How many steps one interval needs is open. -/
def limiter (s : State) : State :=
  let l := limitNow s
  let n := actionLevel s.pwr
  if l < s.pwr.pin then
    let d := s.drawNat
    d.2.onPwr (withActions (min 37 (n + 1 + d.1 % 37)))
  else if s.pwr.pin < l then
    let d := s.drawNat
    d.2.onPwr (withActions (n - d.1 % 38))
  else s

/-- BALLAST_SET's values take effect. -/
def takeBallast (p : Power) : Power :=
  match p.ballastNext with
  | some v => { p with floor := v.1, downRate := v.2.1, upRate := v.2.2, ballastNext := none }
  | none => p

/-- CONTROL_INTERVAL: the next interval of 10 us, whose measured input power is `pin` mW. -/
def execControlInterval (pin : Nat) (s : State) : Host.Outcome State Fault Refusal :=
  .next (if limiting s then ballastStep (limiter (moveTarget ((s.onPwr takeBallast).onPwr (sample pin)))) else s)

/-! ### PWR_READ and THERMAL_READ (16 R446, R453) -/

/-- Mean input power over 1 ms, in mW. -/
def meanOf1ms (p : Power) : Nat :=
  let l := p.history.take 100
  if l.isEmpty then p.pin else l.foldl (· + ·) 0 / l.length

/-- Input power in W as it is returned. -/
def shownPower (s : State) : Nat := if anyConf s then s.pwr.mean100 / 5000 * 5 else meanOf1ms s.pwr / 1000

/-- PWR_READ: input power, cap in force, and the conditions as bits 0 LIMITED, 1 BRAKED, 2 THROTTLED. -/
def execPwrRead (h : MHdr) (s : State) : Host.Outcome State Fault Refusal :=
  command (.pwrRead h) h { boxes := boxA } never never
    (fun s => reply h msOk (pack [.num 2 (shownPower s), .num 2 (capW s),
      .num 8 (b2n (limited s) + 2 * b2n s.pwr.brakePin + 4 * b2n s.pwr.throttled)]) s) s

/-- A temperature as a result field. -/
def tempField (t : Int) : PField := .num 2 (BitVec.ofInt 16 t).toNat

/-- THERMAL_READ. -/
def execThermalRead (h : MHdr) (s : State) : Host.Outcome State Fault Refusal :=
  command (.thermalRead h) h { boxes := boxA } never never
    (fun s =>
      let t := if anyConf s then s.pwr.tempMean else s.pwr.temps
      reply h msOk (pack ([tempField t.junction] ++ ((List.range 4).map (fun k => tempField (t.hbm.getD k 0))) ++
        [tempField t.inlet, .num 1 (b2n s.pwr.throttled)])) s) s

/-! ### Thermal limits (16 R454, R455) -/

/-- Some reading is at or above its threshold. -/
def hotAt (j h : Int) (t : Temps) : Bool := decide (j ≤ t.junction) || t.hbm.any (fun x => decide (h ≤ x))

/-- THERMAL_THROTTLE. -/
def execThermalThrottle (t : Temps) (s : State) : Host.Outcome State Fault Refusal :=
  .next (
    if !limiting s || s.pwr.throttled || !hotAt 100 95 t then s
    else recordErr kPower 0 0x51 1 [BitVec.ofInt 8 t.junction]
      (s.onPwr (fun p => { p with throttled := true, thermalLimit := p.pin, thermalAt := s.svc.now, temps := t })))

/-- THERMAL_LIMIT_TICK: down 25 W each ms while hot, up 10 W each 10 ms once cool, until the cap is reached. -/
def execThermalLimitTick (t : Temps) (s : State) : Host.Outcome State Fault Refusal :=
  .next (
    let p := s.pwr
    if !limiting s || !p.throttled then s
    else if hotAt 100 95 t then
      if s.svc.now < p.thermalAt + 1000000 then s
      else s.onPwr (fun p => { p with thermalLimit := max (brakeNow s) (p.thermalLimit - 25000), thermalAt := s.svc.now, temps := t })
    else if !hotAt 99 94 t then
      if s.svc.now < p.thermalAt + 10000000 then s
      else
        let l := p.thermalLimit + 10000
        s.onPwr (fun p => { p with thermalLimit := l, thermalAt := s.svc.now, temps := t, throttled := decide (l < 1000 * capW s) })
    else s.onPwr (fun p => { p with temps := t }))

/-- THERMAL_TRIP: the rails are cut and the temperature is latched; a second trip within 60 s of the READY after the first holds the module. -/
def execThermalTrip (t : Temps) (s : State) : Host.Outcome State Fault Refusal :=
  .next (
    if !s.pwr.railsOn || !hotAt 105 105 t then s
    else
      let again := match s.pwr.tripReady with
        | some r => decide (s.svc.now < r + 60000000000)
        | none => false
      let temp := if 105 ≤ t.junction then t.junction else t.hbm.foldl max t.junction
      powerOff .tripped (s.onPwr (fun p => { p with tripped := true, tripTemp := temp, tripReport := true, tripHeld := again })))

/-- TRIP_RESTART: ten seconds after a trip the sequencer starts a cold reset. -/
def execTripRestart (s : State) : Host.Outcome State Fault Refusal :=
  .next (
    if s.svc.mod != .tripped || s.pwr.tripHeld || !s.pwr.inputOk then s
    else sequence (s.onPwr (fun p => { p with tripped := false })))

end Sys2Proof.Machine
end

