-- ==== Sys2Proof/Machine/MailboxGo.lean ====
section
/-! DEFINITION. The command buffer (13 R380, R381, R476, R477): how a GO becomes a command, and the end of a live handover, at which the stalled
commands run (13 R386, 14 R411, 15 R432, R433). -/

namespace Sys2Proof.Machine

open Sys2Proof

/-! ### Payloads (13 R476) -/

/-- A command read from a buffer, and whether its reserved bytes are 0 and its choices exist. -/
abbrev Parsed := Option (Instr × Bool)

/-- The fields of a payload packed under R476. -/
def fieldsOf (sizes vals : List Nat) : List PField :=
  List.zipWith (fun n v => if n == 0 then PField.bytes (leBytes v 32) else PField.num n v) sizes vals

/-- A payload of numbers in order (0 stands for 32 B): none where LENGTH is not the opcode's. -/
def packed (sizes : List Nat) (len : Nat) (p : List Byte) (mk : List Nat → Instr × Bool) : Parsed :=
  let r := unpackGo p sizes 0 []
  if alignUp r.2 8 != len then none
  else
    let x := mk r.1
    some (x.1, x.2 && pack (fieldsOf sizes r.1) == bytesAt p 0 len)

/-- Argument k of a list of numbers. -/
def arg (l : List Nat) (k : Nat) : Nat := l.getD k 0
/-- A flag: 0 or 1. -/
def flagOk (l : List Nat) (k : Nat) : Bool := decide (arg l k ≤ 1)
/-- Bytes of a range are 0. -/
def zeroAt (p : List Byte) (off n : Nat) : Bool := (bytesAt p off n).all (· == 0)

/-- A command without arguments. -/
def bare (len : Nat) (i : Instr) : Parsed := if len == 0 then some (i, true) else none

/-- Member records of 16 B (13 R477), and whether their reserved bits are 0. -/
def recordsAt (p : List Byte) (off : Nat) : Nat → List MemberRec
  | 0 => []
  | n + 1 => { member := leAt p off 2, resultLen := leAt p (off + 2) 5, resultBase := leAt p (off + 8) 8 % 2 ^ 40 } :: recordsAt p (off + 16) n
def recordsOk (p : List Byte) (off : Nat) : Nat → Bool
  | 0 => true
  | n + 1 => zeroAt p (off + 7) 1 && zeroAt p (off + 13) 3 && recordsOk p (off + 16) n

/-- GROUP_INSTALL. -/
def parseInstall (h : MHdr) (len : Nat) (p : List Byte) : Parsed :=
  let n := leAt p 10 2
  if len != 16 + 16 * n || n == 0 then none
  else some (.groupInstall h {
    group := leAt p 0 2, gen := leAt p 2 1, last := leAt p 3 1 % 2 == 1, tenant := leAt p 4 2, n := leAt p 6 2,
    first := leAt p 8 2, recs := recordsAt p 16 n }, decide (leAt p 3 1 ≤ 1) && zeroAt p 12 4 && recordsOk p 16 n)

/-- OP_START. -/
def parseStart (h : MHdr) (len : Nat) (p : List Byte) : Parsed :=
  if len != 128 then none
  else some (.opStart h {
    opid := BitVec.ofNat 32 (leAt p 0 4), group := leAt p 4 2, digest := BitVec.ofNat 32 (leAt p 8 4), progId := leAt p 12 2,
    imageDigest := BitVec.ofNat 256 (leAt p 16 32), timeout := leAt p 48 8, args := bytesAt p 64 64 }, zeroAt p 6 2 && zeroAt p 14 2 && zeroAt p 56 8)

/-- MEMBER_ARM: the entry as GROUP_INSTALL lays it out, the position, the parameter block, OPID, DIGEST and the timeout (log entry 18). -/
def parseArm (h : MHdr) (len : Nat) (p : List Byte) : Parsed :=
  let n := leAt p 10 2
  let o := 16 + 16 * n
  if len != o + 280 then none
  else some (.memberArm h {
    group := leAt p 0 2, gen := leAt p 2 1, tenant := leAt p 4 2, members := recordsAt p 16 n, position := leAt p o 8,
    prog := paramsOf (bytesAt p (o + 8) 256), opid := BitVec.ofNat 32 (leAt p (o + 264) 4), digest := BitVec.ofNat 32 (leAt p (o + 268) 4),
    timeout := leAt p (o + 272) 8 },
    leAt p 3 1 == 1 && leAt p 6 2 == n && zeroAt p 8 2 && zeroAt p 12 4 && recordsOk p 16 n && paramBytesOk (bytesAt p (o + 8) 256))

/-- XLAT_UPDATE. -/
def updatesAt (p : List Byte) (off : Nat) : Nat → List XUpd
  | 0 => []
  | n + 1 => { tenant := leAt p off 2, addr := 65536 * leAt p (off + 2) 6, entry := BitVec.ofNat 64 (leAt p (off + 8) 8) } :: updatesAt p (off + 16) n
def parseUpdate (h : MHdr) (len : Nat) (p : List Byte) : Parsed :=
  let n := leAt p 2 2
  if len != 16 + 16 * n then none
  else some (.xlatUpdate h (leAt p 0 1) (updatesAt p 16 n), zeroAt p 1 1 && zeroAt p 4 12 && decide (1 ≤ n) && decide (n ≤ 240))

/-- A list whose length varies carries its count just before it: codes of 1 B. -/
def parseRoutes (h : MHdr) (len : Nat) (p : List Byte) : Parsed :=
  let n := leAt p 8 2
  if len != alignUp (10 + n) 8 then none
  else some (.ringRouteSet h (BitVec.ofNat 8 (leAt p 0 8)) ((bytesAt p 10 n).map BitVec.toNat),
    decide (leAt p 0 8 < 256) && zeroAt p (10 + n) (len - (10 + n)))

/-- Gate entries of 4 B. -/
def entriesAt (p : List Byte) (off : Nat) : Nat → List (BitVec 32)
  | 0 => []
  | n + 1 => BitVec.ofNat 32 (leAt p off 4) :: entriesAt p (off + 4) n
def parseGates (h : MHdr) (len : Nat) (p : List Byte) : Parsed :=
  let n := leAt p 2 2
  let o := alignUp (4 + 4 * n) 8
  if len != o + 8 then none
  else some (.gateListSet h (leAt p 0 2) (entriesAt p 4 n) (leAt p o 8), zeroAt p (4 + 4 * n) (o - (4 + 4 * n)))

/-- WINDOW_SET: the window and the descriptor. -/
def parseWindow (h : MHdr) (len : Nat) (p : List Byte) : Parsed :=
  let d := winOfBytes (p.drop 8)
  let n := (winBytes d).length
  if len != alignUp (8 + n) 8 then none
  else some (.windowSet h (leAt p 0 1) d, zeroAt p 1 7 && winBytes d == bytesAt p 8 n)

/-- FW_STAGE, in the order of R388: the fragment behind its count, the offset, and the flag that names the last fragment (log entry 18). -/
def parseStage (h : MHdr) (len : Nat) (p : List Byte) : Parsed :=
  let n := leAt p 0 2
  let o := alignUp (2 + n) 8
  if len != o + 16 then none
  else some (.fwStage h (leAt p o 8) (bytesAt p 2 n) (leAt p (o + 8) 1 == 1),
    decide (leAt p (o + 8) 1 ≤ 1) && zeroAt p (2 + n) (o - (2 + n)) && zeroAt p (o + 9) 7)

/-- AGENT_TENANTS_SET. -/
def parseAgents (h : MHdr) (len : Nat) (p : List Byte) : Parsed :=
  if len != 136 then none
  else some (.agentTenantsSet h (leAt p 0 1) (BitVec.ofNat 1024 (leAt p 8 128)), zeroAt p 1 7)

/-- IDE_SESSION_OPEN. -/
def parseIde (h : MHdr) (len : Nat) (p : List Byte) : Parsed :=
  if len != 2272 then none else some (.ideSessionOpen h (bytesAt p 0 1184) (bytesAt p 1184 1088), true)

/-- ERR_LOG_READ (15 R424). -/
def parseErrLog (h : MHdr) (len : Nat) (p : List Byte) : Parsed :=
  if len != 8 then none
  else some (.errLogRead h (leAt p 0 2) (bitOf (leAt p 2 1) 0) (bitOf (leAt p 2 1) 1) (leAt p 4 2),
    decide (leAt p 2 1 ≤ 3) && zeroAt p 3 1 && zeroAt p 6 2)

/-- PWR_CAP_SET (16 R447). -/
def parseCap (h : MHdr) (len : Nat) (p : List Byte) : Parsed :=
  if len != 8 then none else some (.pwrCapSet h (leAt p 0 2) (leAt p 2 2), zeroAt p 4 4)

/-! ### Opcodes (13 R388) -/

/-- General commands, ports, node and core. -/
def parse02 (h : MHdr) (op len : Nat) (p : List Byte) (trained : Bool) (line : List (BitVec 2)) : Parsed :=
  let a := packed (len := len) (p := p)
  match op with
  | 0x0001 => bare len (.deviceInfo h)
  | 0x0002 => bare len (.timeExchange h)
  | 0x0003 => a [4] (fun l => (.cmdResultRead h (BitVec.ofNat 32 (arg l 0)), true))
  | 0x0004 => parseAgents h len p
  | 0x0005 => bare len (.fmHeartbeat h)
  | 0x0101 => a [2, 1, 1] (fun l => (.portEnable h (arg l 0) (arg l 1) (arg l 2 == 1), flagOk l 2))
  | 0x0102 => a [2] (fun l => (.portDisable h (arg l 0), true))
  | 0x0103 => a [2] (fun l => (.portStatusRead h (arg l 0), true))
  | 0x0104 => a [2, 1, 1] (fun l => (.laneTestStart h (arg l 0) (arg l 1) (arg l 2 == 1), flagOk l 2))
  | 0x0105 => a [2, 1] (fun l => (.laneTestRead h (arg l 0) { clear := arg l 1 == 1, line := line }, flagOk l 1))
  | 0x0106 => a [2, 1] (fun l => (.laneLoopbackSet h (arg l 0) (arg l 1) trained, true))
  | 0x0107 => a [2, 8] (fun l => (.sprayMaskSet h (arg l 0) (BitVec.ofNat 32 (arg l 1)), decide (arg l 1 < 2 ^ 32)))
  | 0x0201 => a [8, 8, 8] (fun l => (.nodeAssign h (arg l 0) (arg l 1) (arg l 2), true))
  | 0x0202 => a [8] (fun l => (.reqTimeoutSet h (arg l 0), true))
  | 0x0203 => a [1] (fun l => (.hbmExportSet h (arg l 0 == 1), flagOk l 0))
  | 0x0204 => bare len (.hotLineRead h)
  | 0x0205 => a [2, 1] (fun l => (.arbModeSet h (arg l 0) (arg l 1), true))
  | 0x0206 => a [2, 1] (fun l => (.arbCountersRead h (arg l 0) (arg l 1 == 1), flagOk l 1))
  | 0x0207 => a [2, 1, 4, 4, 2, 8] (fun l => (.redProfileSet h (arg l 0) (arg l 1) (arg l 2) (arg l 3) (arg l 4) (arg l 5), true))
  | _ => none

/-- Collectives, programs, ballast, windows, translation and queues. -/
def parse36 (h : MHdr) (op len : Nat) (p : List Byte) : Parsed :=
  let a := packed (len := len) (p := p)
  match op with
  | 0x0301 => parseInstall h len p
  | 0x0302 => a [2] (fun l => (.groupRemove h (arg l 0), true))
  | 0x0303 => a [2, 8, 1] (fun l => (.groupMemberRemove h (arg l 0) (arg l 1) (arg l 2), true))
  | 0x0304 => parseStart h len p
  | 0x0305 => a [2] (fun l => (.opStatusRead h (arg l 0), true))
  | 0x0306 => bare len (.redSummaryRead h)
  | 0x0307 => parseArm h len p
  | 0x0401 => a [1, 8, 2] (fun l => (.partitionSet h (arg l 0) (arg l 1) (arg l 2), true))
  | 0x0402 => a [1, 1, 8, 8] (fun l => (.programLoad h (arg l 0) (arg l 1) (arg l 2) { len := arg l 3, ecc := .clean }, true))
  | 0x0403 => a [2] (fun l => (.programUnload h (arg l 0), true))
  | 0x0404 => a [2, 2, 2] (fun l => (.ballastSet h (arg l 0) (arg l 1) (arg l 2), true))
  | 0x0405 => bare len (.ballastRead h)
  | 0x0501 => parseWindow h len p
  | 0x0502 => a [1] (fun l => (.windowDisable h (arg l 0), true))
  | 0x0503 => a [1] (fun l => (.windowRead h (arg l 0), true))
  | 0x0601 => a [8, 8] (fun l => (.xlatRegionSet h (arg l 0) (arg l 1), true))
  | 0x0602 => bare len (.xlatInfoRead h)
  | 0x0603 => parseUpdate h len p
  | 0x0604 => a [1, 2, 8, 8] (fun l => (.xlatInvalidate h (arg l 0) (arg l 1) (arg l 2) (arg l 3), true))
  | 0x0605 => a [8, 4, 8] (fun l => (.faultRingSet h (arg l 0) (arg l 1) (arg l 2), true))
  | 0x0606 => a [4, 1] (fun l => (.faultResolve h (BitVec.ofNat 32 (arg l 0)) (arg l 1 == 1), flagOk l 1))
  | 0x0607 => a [2, 2, 8, 8, 8, 8, 1, 8, 8, 4] (fun l => (.qpCreate h {
      qpn := arg l 0, tenant := arg l 1, sqFva := arg l 2, sqLog := arg l 3,
      cqFva := arg l 4, cqLog := arg l 5, lineMode := arg l 6 == 1, dbFva := arg l 7, mover := arg l 8, vec := arg l 9 }, flagOk l 6))
  | 0x0608 => a [2] (fun l => (.qpReset h (arg l 0), true))
  | 0x0609 => a [2] (fun l => (.qpDestroy h (arg l 0), true))
  | _ => none

/-- Trunks, tenants, attestation, service, firmware and power. -/
def parse7A (h : MHdr) (op len : Nat) (p : List Byte) : Parsed :=
  let a := packed (len := len) (p := p)
  match op with
  | 0x0701 => parseRoutes h len p
  | 0x0702 => a [2, 4, 8, 8, 1] (fun l => (.markerSet h (arg l 0) (arg l 4 == 1) (arg l 1) (arg l 2) (arg l 3), flagOk l 4))
  | 0x0703 => a [2, 8, 4, 8] (fun l => (.policerSet h (arg l 0) (arg l 1) (arg l 2) (arg l 3), true))
  | 0x0704 => parseGates h len p
  | 0x0705 => a [2, 8, 4, 8, 8] (fun l => (.shaperSet h (arg l 0) (arg l 1) (arg l 2) (arg l 3) (arg l 4), true))
  | 0x0706 => a [8] (fun l => (.queueSampleSet h (arg l 0), true))
  | 0x0707 => a [2, 8, 1] (fun l => (.queueSamplesRead h (arg l 0) (arg l 1) (arg l 2 == 1), flagOk l 2))
  | 0x0801 => a [2, 1] (fun l => (.tenantCreate h (arg l 0) (arg l 1 == 1), flagOk l 1))
  | 0x0802 => a [2, 8] (fun l => (.tenantRevoke h (arg l 0) (arg l 1), true))
  | 0x0803 => a [2, 2, 1, 0] (fun l => (.keyAgree h (arg l 0) (arg l 1) (arg l 2) (BitVec.ofNat 256 (arg l 3)), true))
  | 0x0804 => parseIde h len p
  | 0x0805 => a [0, 2, 4] (fun l => (.attestService h (BitVec.ofNat 256 (arg l 0)) (arg l 1) (arg l 2), true))
  | 0x0806 => a [0, 4] (fun l => (.attestFoundation h (BitVec.ofNat 256 (arg l 0)) (arg l 1), true))
  | 0x0807 => a [2, 8, 8] (fun l => (.regionDigest h (arg l 0) (arg l 1) (arg l 2), true))
  | 0x0808 => a [8] (fun l => (.certChainRead h (arg l 0), true))
  | 0x0901 => parseErrLog h len p
  | 0x0902 => a [1, 8] (fun l => (.unitReset h (arg l 0) (arg l 1), true))
  | 0x0903 => a [8] (fun l => (.hbmPageRetire h (arg l 0) [], true))
  | 0x0904 => parseStage h len p
  | 0x0905 => bare len (.fwActivate h)
  | 0x0A01 => parseCap h len p
  | 0x0A02 => bare len (.pwrRead h)
  | 0x0A03 => bare len (.thermalRead h)
  | _ => none

/-- The command of a buffer: none for an unknown opcode or a LENGTH that is not its own or more than the payload (R380). -/
def parse (h : MHdr) (op len : Nat) (p : List Byte) (trained : Bool) (line : List (BitVec 2)) : Parsed :=
  if 4080 < len then none
  else if op < 0x0300 then parse02 h op len p trained line else if op < 0x0700 then parse36 h op len p else parse7A h op len p

/-! ### Running a command -/

/-- The next state of an outcome, or the old one. -/
def orSame (s : State) (o : Host.Outcome State Fault Refusal) : State :=
  match o with
  | .next t => t
  | _ => s

/-- A mailbox command runs. -/
def runCommand (i : Instr) (s : State) : State :=
  match i with
  | .deviceInfo h => orSame s (execDeviceInfo h s)
  | .timeExchange h => orSame s (execTimeExchange h s)
  | .cmdResultRead h q => orSame s (execCmdResultRead h q s)
  | .agentTenantsSet h m b => orSame s (execAgentTenantsSet h m b s)
  | .fmHeartbeat h => orSame s (execFmHeartbeat h s)
  | .portEnable h p w b => orSame s (execPortEnable h p w b s)
  | .portDisable h p => orSame s (execPortDisable h p s)
  | .portStatusRead h p => orSame s (execPortStatusRead h p s)
  | .laneTestStart h l p a => orSame s (execLaneTestStart h l p a s)
  | .laneTestRead h l r => orSame s (execLaneTestRead h l r s)
  | .laneLoopbackSet h l m t => orSame s (execLaneLoopbackSet h l m t s)
  | .sprayMaskSet h e b => orSame s (execSprayMaskSet h e b s)
  | .nodeAssign h a b c => orSame s (execNodeAssign h a b c s)
  | .reqTimeoutSet h t => orSame s (execReqTimeoutSet h t s)
  | .hbmExportSet h o => orSame s (execHbmExportSet h o s)
  | .hotLineRead h => orSame s (execHotLineRead h s)
  | .arbModeSet h i m => orSame s (execArbModeSet h i m s)
  | .arbCountersRead h i c => orSame s (execArbCountersRead h i c s)
  | .redProfileSet h o c a b p w => orSame s (execRedProfileSet h o c a b p w s)
  | .groupInstall h p => orSame s (execGroupInstall h p s)
  | .groupRemove h g => orSame s (execGroupRemove h g s)
  | .groupMemberRemove h g p n => orSame s (execGroupMemberRemove h g p n s)
  | .opStart h a => orSame s (execOpStart h a s)
  | .opStatusRead h g => orSame s (execOpStatusRead h g s)
  | .redSummaryRead h => orSame s (execRedSummaryRead h s)
  | .memberArm h a => orSame s (execMemberArm h a s)
  | .partitionSet h p m t => orSame s (execPartitionSet h p m t s)
  | .programLoad h p l a n => orSame s (execProgramLoad h p l a n s)
  | .programUnload h p => orSame s (execProgramUnload h p s)
  | .ballastSet h f d u => orSame s (execBallastSet h f d u s)
  | .ballastRead h => orSame s (execBallastRead h s)
  | .windowSet h w d => orSame s (execWindowSet h w d s)
  | .windowDisable h w => orSame s (execWindowDisable h w s)
  | .windowRead h w => orSame s (execWindowRead h w s)
  | .xlatRegionSet h b z => orSame s (execXlatRegionSet h b z s)
  | .xlatInfoRead h => orSame s (execXlatInfoRead h s)
  | .xlatUpdate h k u => orSame s (execXlatUpdate h k u s)
  | .xlatInvalidate h k t a n => orSame s (execXlatInvalidate h k t a n s)
  | .faultRingSet h b v t => orSame s (execFaultRingSet h b v t s)
  | .faultResolve h i d => orSame s (execFaultResolve h i d s)
  | .qpCreate h a => orSame s (execQpCreate h a s)
  | .qpReset h n => orSame s (execQpReset h n s)
  | .qpDestroy h n => orSame s (execQpDestroy h n s)
  | .ringRouteSet h m r => orSame s (execRingRouteSet h m r s)
  | .markerSet h p o c b e => orSame s (execMarkerSet h p o c b e s)
  | .policerSet h p q r b => orSame s (execPolicerSet h p q r b s)
  | .gateListSet h p e b => orSame s (execGateListSet h p e b s)
  | .shaperSet h p q r b t => orSame s (execShaperSet h p q r b t s)
  | .queueSampleSet h p => orSame s (execQueueSampleSet h p s)
  | .queueSamplesRead h p q c => orSame s (execQueueSamplesRead h p q c s)
  | .tenantCreate h t c => orSame s (execTenantCreate h t c s)
  | .tenantRevoke h t f => orSame s (execTenantRevoke h t f s)
  | .keyAgree h t p l d => orSame s (execKeyAgree h t p l d s)
  | .ideSessionOpen h e c => orSame s (execIdeSessionOpen h e c s)
  | .attestService h n t o => orSame s (execAttestService h n t o s)
  | .attestFoundation h n o => orSame s (execAttestFoundation h n o s)
  | .regionDigest h t a n => orSame s (execRegionDigest h t a n s)
  | .certChainRead h o => orSame s (execCertChainRead h o s)
  | .errLogRead h n c m u => orSame s (execErrLogRead h n c m u s)
  | .unitReset h k i => orSame s (execUnitReset h k i s)
  | .hbmPageRetire h a b => orSame s (execHbmPageRetire h a b s)
  | .fwStage h o f l => orSame s (execFwStage h o f l s)
  | .fwActivate h => orSame s (execFwActivate h s)
  | .pwrCapSet h c w => orSame s (execPwrCapSet h c w s)
  | .pwrRead h => orSame s (execPwrRead h s)
  | .thermalRead h => orSame s (execThermalRead h s)
  | _ => s

/-- The header of the buffer; a reserved bit of FLAGS or of bytes [15:14], or an unclean payload, stands as a flag no command allows. -/
def bufferHdr (m : Nat) (b : List Host.Cell) (clean : Bool) : MHdr :=
  let f := memGetN b 0 16
  let ok := clean && decide (leAt f 2 1 ≤ 1) && zeroAt f 14 2
  { mbx := m, seq := BitVec.ofNat 32 (leAt f 4 4), notify := leAt f 2 1 % 2 == 1,
    flags := if ok then BitVec.ofNat 8 (leAt f 3 1) else BitVec.ofNat 8 (leAt f 3 1) ||| 0x80#8 }

/-- What a lane's receiver has sliced since LANE_TEST_READ last looked, where the command comes through GO: open levels, as many as there are. -/
def drawLine (s : State) : List (BitVec 2) × State :=
  ((List.range (Config.freeNat s.free)).map (fun i => BitVec.ofNat 2 (Config.freeNat (s.free + 1 + i))),
   { s with free := s.free + 1 + Config.freeNat s.free })

/-- Execute the command in the buffer of a mailbox whose BUSY is set. An unknown opcode and a wrong LENGTH are found before everything but
NOT_READY (13 R387). -/
def runBuffer (m : Nat) (s : State) : State :=
  let b := (s.box m).buf
  let op := leNat (memGetN b 0 2)
  let d := if op == 0x0106 then s.drawNat else (0, s)
  let x := if op == 0x0105 then drawLine s else ([], d.2)
  let p := memGetN b 16 4080
  let read := fun (clean : Bool) => parse (bufferHdr m b clean) op (leNat (memGetN b 8 4)) p (d.1 % 2 == 1) x.1
  match read true with
  | none =>
    let serves := s.svc.mod == .ready || (s.svc.mod == .recovery && [0x0001, 0x0806, 0x0808, 0x0901, 0x0904, 0x0905].contains op)
    reply (bufferHdr m b true) (if serves then msBadArg else msNotReady) [] s
  | some (i, clean) =>
    if clean then runCommand i x.2
    else match read false with
      | some (j, _) => runCommand j x.2
      | none => s

/-- Does a GO reach the mailbox: over I3C for mailbox 2, over CXL.io for the others (13 R372, R378)? -/
def boxReached (m : Nat) (s : State) : Bool := if m == 2 then isLive s else isReady s && ioReaches s

/-- A GO at a mailbox: ignored and counted while BUSY is set, held while the mailbox stalls, and otherwise taken. -/
def submit (m : Nat) (s : State) : State :=
  if !boxReached m s then s
  else if (s.box m).busy then overrun m s
  else if s.svc.handover then stallCommand (.go m) m s
  else runBuffer m (s.onBox m (fun b => { b with busy := true, go := false }))

/-- GO. -/
def execGo (mailbox : Nat) (s : State) : Host.Outcome State Fault Refusal :=
  if 8 ≤ mailbox then .fault .noSuchUnit else .next (submit mailbox s)

/-! ### The end of a live handover (15 R432, R433) -/

/-- The mailbox has held an attestation request for 500 ms, so it is answered UNAVAILABLE (14 R411). -/
def heldTooLong (m : Nat) (i : Instr) (s : State) : Option MHdr :=
  if s.svc.now < (s.box m).stalledAt + 500000000 then none
  else match i with
    | .attestService h _ _ _ => some h
    | .attestFoundation h _ _ => some h
    | .go _ =>
      if [0x0805, 0x0806].contains (leNat (memGetN (s.box m).buf 0 2)) then some (bufferHdr m (s.box m).buf true) else none
    | _ => none

/-- At 500 ms after its arrival a held attestation request is answered, though the switch-over has not finished (14 R411). -/
def expireHeld (s : State) : State :=
  if !s.svc.handover then s
  else (List.range 8).foldl (fun s m =>
    match (s.box m).stalled with
    | none => s
    | some i => match heldTooLong m i s with
      | some h => reply h msUnavailable [] (s.onBox m (fun b => { b with stalled := none }))
      | none => s) s

/-- A GO that software has written is taken: the part sets BUSY and reads the buffer (R381). -/
def takeGos (s : State) : State := (List.range 8).foldl (fun s m => if (s.box m).go then submit m s else s) s

/-- The stalled command of a mailbox runs. -/
def runStalled (m : Nat) (s : State) : State :=
  match (s.box m).stalled with
  | none => s
  | some i =>
    let s := s.onBox m (fun b => { b with stalled := none })
    match heldTooLong m i s, i with
    | some h, _ => reply h msUnavailable [] s
    | none, .go _ => runBuffer m s
    | none, _ => runCommand i s

/-- Commands that waited for a channel in reset go on as they can (15 R430). -/
def resumeHbm (s : State) : State := if s.svc.handover then s else (List.range 8).foldl (fun s m => runStalled m s) s

/-- What the block does by itself in 1 ns of local time: held requests expire, commands that waited for a channel
go on, and the mailboxes take what has been submitted, the lower-numbered one first
(13 R384). -/
def idle (s : State) : State := takeGos (resumeHbm (expireHeld (tick s)))

/-- A queued FW_ACTIVATE runs. -/
def runQueuedFw (i : Instr) (s : State) : State :=
  match i with
  | .fwActivate h => runActivate .event h s
  | _ => s

/-- The command queued behind a transition runs. -/
def runQueued (k : FnKey) (i : Instr) : State → State :=
  match k with
  | .port _ => runQueuedPort i
  | .unit _ _ => runQueuedUnit i
  | .export_ => runQueuedExport i
  | .window _ => runQueuedWindow i
  | .xlat _ _ _ _ => runQueuedXlat i
  | .qp _ => runQueuedQp i
  | .tenant _ => runQueuedTenant i
  | .firmware => runQueuedFw i

/-- What ended during the handover is completed, under its own SEQUENCE: long commands, then transitions (13 R386). -/
def thaw (s : State) : State :=
  let s := s.mbx.frozen.foldl (fun s e => postFinish e s) (s.onMbx (fun b => { b with frozen := [] }))
  (s.mbx.trans.filter (fun t => t.ended.isSome)).foldl (fun s t =>
    match t.ended with
    | some e => endTrans t.key e.1 e.2 (runQueued t.key)
        (s.onMbx (fun b => { b with trans := b.trans.map (fun u => if u == t then { u with ended := none } else u) }))
    | none => s) s

/-- HANDOVER_END: `failedStep` 0 is success, 2 or 3 the step that failed. -/
def execHandoverEnd (failedStep : Nat) (s : State) : Host.Outcome State Fault Refusal :=
  .next (
    if !s.svc.handover || (failedStep != 0 && failedStep != 2 && failedStep != 3) then s
    else
      let s := if failedStep == 0 then switchImage s else resumeImage failedStep s
      let s := s.onSvc (fun v => { v with handover := false, held := failedStep == 0 })
      let s := (List.range 8).foldl (fun s m => runStalled m s) (thaw s)
      endTrans .firmware (if failedStep == 0 then msOk else msFailed) (if failedStep == 0 then [] else failCause (Config.causeByte (2 + failedStep))) runQueuedFw (s.onSvc (fun v => { v with held := false })))

end Sys2Proof.Machine
end

