-- ==== Sys2Proof/Machine/Registers.lean ====
section
/-! DEFINITION. The directly addressed registers (17, 00 R6, R7): what each of them reads, writes to them, the event-ring head, and the two halves
of TIME_NOW. An access names a BAR, 0, 2 or 4, or 3 for the page of mailbox 2 that the BMC reaches over I3C (13 R378; log entry 19). -/

namespace Sys2Proof.Machine

open Sys2Proof

/-! ### Reading (17 R464 to R473) -/

/-- HOST_ID. -/
def hostId (s : State) : Nat :=
  0x5846 + 0x01 * 2 ^ 16 + s.svc.stepping % 16 * 2 ^ 24 + b2n s.svc.bridge * 2 ^ 28 + b2n s.svc.handover * 2 ^ 29 +
  (selfNode s).toNat * 2 ^ 32 + b2n s.svc.node.isSome * 2 ^ 45

/-- SEC_STATE. -/
def secState (s : State) : Nat := b2n (anyConf s) + 2 * b2n s.sec.debugOn + 4 * b2n s.svc.pending + 8 * b2n s.svc.activateFailed

/-- The window block (17 R469); in the SWITCH personality it reads 0 (R463). -/
def windowReg (s : State) (o : Nat) : Nat :=
  if !s.svc.bridge then 0
  else if o == 0x200 then s.host.irqPend.toNat
  else if o < 0x200 then
    let w := s.window (o / 32)
    let r := o % 32
    if r == 0 then w.failRd.toNat
    else if r == 4 then w.failWr.toNat
    else if r == 8 then w.logAddr % 2 ^ 32
    else if r == 12 then w.logAddr / 2 ^ 32
    else if r == 16 then w.logInfo.toNat
    else 0
  else 0

/-- The word of the MSI-X pending-bit array at an offset. -/
def pendWord (s : State) (o : Nat) : Nat :=
  (List.range 32).foldl (fun n k => if s.host.msixPend.contains (8 * o + k) then n + 2 ^ k else n) 0

/-- A word of the MSI-X table: bit 0 of an entry's last word is its mask bit, set until software clears it (log entry 66). -/
def tableRead (s : State) (o : Nat) : Nat :=
  let v := leNat (memGetN s.host.msixTable o 4)
  if o % 16 == 12 then v / 2 * 2 + b2n (!s.host.msixEn.contains (o / 16)) else v

/-- A 32-bit read of BAR0. -/
def bar0Read (s : State) (o : Nat) : Nat :=
  if o < 0x20000 then Config.cxlRead o (leNat (memGetN s.host.cxlRegs o 4)) % 2 ^ 32
  else if 0x20000 ≤ o && o < 0x28000 then tableRead s (o - 0x20000)
  else if 0x28000 ≤ o && o < 0x28100 then pendWord s (o - 0x28000)
  else if o == 0x30000 then hostId s % 2 ^ 32
  else if o == 0x30004 then hostId s / 2 ^ 32
  else if o == 0x30008 then s.host.irqCause.toNat
  else if o == 0x30010 then s.err.summary.toNat
  else if o == 0x30018 then secState s
  else if o == 0x30020 then s.svc.now % 2 ^ 32
  else if o == 0x30024 then s.svc.now / 2 ^ 32
  else if o == 0x30028 then (match s.xlat.ring with | some r => r.head.toNat | none => 0)
  else if o == 0x3002C then (match s.xlat.ring with | some r => r.next.toNat | none => 0)
  else if 0x40000 ≤ o && o < 0x40204 then windowReg s (o - 0x40000)
  else 0

/-- The 32 B of an event record (13 R383). -/
def evtBytes (r : EvtRec) : List Byte :=
  leBytes r.opcode 2 ++ leBytes r.status 2 ++ leBytes r.seq.toNat 4 ++ padTo 16 r.data ++ padTo 7 [] ++ [BitVec.ofNat 8 (b2n r.phase)]

/-- MBX_CTRL. -/
def mbxCtrl (s : State) (m : Nat) : Nat :=
  let b := s.box m
  b2n b.go + 2 * b2n b.busy + 4 * b2n s.svc.handover + b.overrun * 2 ^ 16

/-- A 32-bit read of a mailbox page (17 R471). -/
def pageRead (s : State) (m o : Nat) : Nat :=
  let b := s.box m
  if o < 0x1000 then leNat (memGetN b.buf o 4)
  else if o == 0x1000 then mbxCtrl s m
  else if o == 0x1008 then b.head.toNat
  else if o == 0x100C then b.tail.toNat
  else if 0x1800 ≤ o && o < 0x2000 then
    (match b.ring.find ((o - 0x1800) / 32) with
     | some r => leAt (evtBytes r) (o % 32) 4
     | none => 0)
  else 0

/-- A 32-bit read of a doorbell page (17 R473). -/
def doorbellRead (s : State) (n o : Nat) : Nat :=
  match s.qp n with
  | some q => if q.lineMode then 0 else if o == 0 then q.sqTail.toNat else if o == 8 then q.cqHead.toNat else 0
  | none => 0

/-- A 32-bit register read. -/
def regRead (s : State) (bar o : Nat) : Nat :=
  if bar == 0 then bar0Read s o
  else if bar == 2 then (if o / 8192 == 2 || 8 ≤ o / 8192 then 0 else pageRead s (o / 8192) (o % 8192))
  else if bar == 3 then pageRead s 2 o
  else if bar == 4 then doorbellRead s (o / 4096) (o % 4096)
  else 0

/-! ### Writing -/

/-- A write of one clears (00 R6). -/
def clearBits (r v : BitVec 32) : BitVec 32 := r &&& ~~~v

/-- The MSI-X table as written; the mask bit of an entry's last word enables or disables its vector, and an enabled vector that is pending is
sent (13 R376). -/
def tableWrite (o : Nat) (v : BitVec 32) (s : State) : State :=
  let s := s.onHost (fun h => { h with msixTable := memSetN h.msixTable o (leBytes v.toNat 4) })
  let k := o / 16
  if o % 16 != 12 then s
  else if v.getLsbD 0 then s.onHost (fun h => { h with msixEn := h.msixEn.filter (fun x => x != k) })
  else s.onHost (fun h => { h with
    msixEn := if h.msixEn.contains k then h.msixEn else h.msixEn ++ [k]
    msixSent := if h.msixPend.contains k then h.msixSent ++ [k] else h.msixSent
    msixPend := h.msixPend.filter (fun x => x != k) })

/-- The window block: counters and pending bits are W1C, and a 1 to VALID clears the log (17 R469, R470). -/
def windowWrite (o : Nat) (v : BitVec 32) (s : State) : State :=
  if !s.svc.bridge then s
  else if o == 0x200 then s.onHost (fun h => { h with irqPend := clearBits h.irqPend v })
  else if o % 32 == 0 then s.onWindow (o / 32) (fun w => { w with failRd := clearBits w.failRd v })
  else if o % 32 == 4 then s.onWindow (o / 32) (fun w => { w with failWr := clearBits w.failWr v })
  else if o % 32 == 16 && v.getLsbD 9 then s.onWindow (o / 32) (fun w => { w with logAddr := 0, logInfo := 0 })
  else s

/-- A 32-bit write to BAR0. -/
def bar0Write (o : Nat) (v : BitVec 32) (s : State) : State :=
  if o < 0x20000 then cxlWrite o v s
  else if 0x20000 ≤ o && o < 0x28000 then tableWrite (o - 0x20000) v s
  else if o == 0x30008 then s.onHost (fun h => { h with irqCause := clearBits h.irqCause v })
  else if o == 0x30010 then s.onErr (fun e => { e with summary := clearBits e.summary v })
  else if o == 0x30028 then orSame s (execDbFaultHead v s)
  else if 0x40000 ≤ o && o < 0x40204 then windowWrite (o - 0x40000) v s
  else s

/-- MBX_EVT_HEAD: a head that moves backwards or beyond TAIL is ignored; held records take the space (17 R472, 13 R383). -/
def setEvtHead (m : Nat) (v : BitVec 32) (s : State) : State :=
  let b := s.box m
  if (v - b.head).toNat ≤ (b.tail - b.head).toNat then drainEvents m b.waiting.length (s.onBox m (fun b => { b with head := v })) else s

/-- A write of GO (13 R381): counted while BUSY is set; otherwise GO reads 1 until the part takes the command, and a second one in between has no effect. -/
def writeGo (m : Nat) (s : State) : State :=
  if !boxReached m s then s else if (s.box m).busy then overrun m s else s.onBox m (fun b => { b with go := true })

/-- A write to the buffer while GO reads 1 is taken whole, in part or not at all: which of its bytes is open. -/
def writeUnderGo (m o : Nat) (v : BitVec 32) (s : State) : State :=
  let d := s.drawNat
  (List.range 4).foldl (fun s k => if bitOf d.1 k then s.onBox m (fun b => { b with buf := memSet b.buf (o + k) ((leBytes v.toNat 4).getD k 0) }) else s) d.2

/-- A 32-bit write to a mailbox page: the buffer is writable while BUSY is clear. -/
def pageWrite (m o : Nat) (v : BitVec 32) (s : State) : State :=
  if o < 0x1000 then
    (if (s.box m).busy then s
     else if (s.box m).go then writeUnderGo m o v s
     else s.onBox m (fun b => { b with buf := memSetN b.buf o (leBytes v.toNat 4) }))
  else if o == 0x1000 then (if v.getLsbD 0 then writeGo m s else s)
  else if o == 0x1008 then setEvtHead m v s
  else s

/-- A 32-bit write. -/
def regWrite (bar o : Nat) (v : BitVec 32) (s : State) : State :=
  if bar == 0 then bar0Write o v s
  else if bar == 2 then (if o / 8192 == 2 || 8 ≤ o / 8192 then s else pageWrite (o / 8192) (o % 8192) v s)
  else if bar == 3 then pageWrite 2 o v s
  else if bar == 4 then
    (if o % 4096 == 0 then orSame s (execDbSqTail (o / 4096) v s)
     else if o % 4096 == 8 then orSame s (execDbCqHead (o / 4096) v s)
     else s)
  else s

/-- Does a register access reach the part: over CXL.io after READY (17 R462), over I3C while the target answers (13 R372)? -/
def regReached (s : State) (bar : Nat) : Bool := if bar == 3 then isLive s else isReady s && ioReaches s

/-- REGISTER_WRITE: naturally aligned 32-bit and 64-bit writes; any other is ignored (17 R463). -/
def execRegisterWrite (bar offset width : Nat) (value : BitVec 64) (s : State) : Host.Outcome State Fault Refusal :=
  .next (
    if !regReached s bar then s
    else if width == 32 && offset % 4 == 0 then regWrite bar offset (value.setWidth 32) s
    else if width == 64 && offset % 8 == 0 then
      regWrite bar (offset + 4) (value.extractLsb' 32 32) (regWrite bar offset (value.setWidth 32) s)
    else s)

/-- MBX_EVT_HEAD. -/
def execMbxEvtHead (mailbox : Nat) (v : BitVec 32) (s : State) : Host.Outcome State Fault Refusal :=
  if 8 ≤ mailbox then .fault .noSuchUnit else .next (if boxReached mailbox s then setEvtHead mailbox v s else s)

/-! ### TIME_NOW (17 R467) -/

/-- The value a requester's read returns. -/
def returnRead (requester v : Nat) (s : State) : State :=
  s.onHost (fun h => { h with readOut := h.readOut.put requester (BitVec.ofNat 64 v) })

/-- A memory request of the host before READY reads all ones (R462); one that does not reach the part reads nothing. -/
def registerRead (requester : Nat) (run : State → State) (s : State) : Host.Outcome State Fault Refusal :=
  .next (
    if !isLive s || !ioReaches s then s
    else if !isReady s then returnRead requester (2 ^ 32 - 1) s
    else run s)

/-- TIME_NOW_LOW_READ: the high half is latched for this requester's next high read. -/
def execTimeNowLowRead (requester : Nat) (s : State) : Host.Outcome State Fault Refusal :=
  registerRead requester (fun s =>
    returnRead requester (s.svc.now % 2 ^ 32)
      (s.onHost (fun h => { h with shadows := h.shadows.put requester (BitVec.ofNat 32 (s.svc.now / 2 ^ 32)) }))) s

/-- TIME_NOW_HIGH_READ: the shadow of the preceding low read, once; the live value without one. -/
def execTimeNowHighRead (requester : Nat) (s : State) : Host.Outcome State Fault Refusal :=
  registerRead requester (fun s =>
    match s.host.shadows.find requester with
    | some v => returnRead requester v.toNat (s.onHost (fun h => { h with shadows := h.shadows.del requester }))
    | none => returnRead requester (s.svc.now / 2 ^ 32) s) s

end Sys2Proof.Machine
end

