-- ==== Sys2Proof/Machine/Dispatch.lean ====
section
/-! DEFINITION. The dispatch: one arm for each command, each a direct call of that command's meaning. -/

namespace Sys2Proof.Machine

open Sys2Proof

/-- The effect of one command on everything but the queue. -/
def exec (i : Instr) (s : State) : Host.Outcome State Fault Refusal :=
  match i with
  | .deviceInfo h => Sys2Proof.Machine.execDeviceInfo h s
  | .timeExchange h => Sys2Proof.Machine.execTimeExchange h s
  | .cmdResultRead h sequence => Sys2Proof.Machine.execCmdResultRead h sequence s
  | .agentTenantsSet h mailbox bitmap => Sys2Proof.Machine.execAgentTenantsSet h mailbox bitmap s
  | .fmHeartbeat h => Sys2Proof.Machine.execFmHeartbeat h s
  | .portEnable h port width bridge => Sys2Proof.Machine.execPortEnable h port width bridge s
  | .portDisable h port => Sys2Proof.Machine.execPortDisable h port s
  | .portStatusRead h port => Sys2Proof.Machine.execPortStatusRead h port s
  | .laneTestStart h lane pattern afterPrecoder => Sys2Proof.Machine.execLaneTestStart h lane pattern afterPrecoder s
  | .laneTestRead h lane read => Sys2Proof.Machine.execLaneTestRead h lane read s
  | .laneLoopbackSet h lane mode trained => Sys2Proof.Machine.execLaneLoopbackSet h lane mode trained s
  | .sprayMaskSet h endpoint bits => Sys2Proof.Machine.execSprayMaskSet h endpoint bits s
  | .nodeAssign h pair domain plane => Sys2Proof.Machine.execNodeAssign h pair domain plane s
  | .reqTimeoutSet h timeout => Sys2Proof.Machine.execReqTimeoutSet h timeout s
  | .hbmExportSet h on => Sys2Proof.Machine.execHbmExportSet h on s
  | .hotLineRead h => Sys2Proof.Machine.execHotLineRead h s
  | .arbModeSet h inst mode => Sys2Proof.Machine.execArbModeSet h inst mode s
  | .arbCountersRead h inst clear => Sys2Proof.Machine.execArbCountersRead h inst clear s
  | .redProfileSet h output colour minTh maxTh maxP w => Sys2Proof.Machine.execRedProfileSet h output colour minTh maxTh maxP w s
  | .groupInstall h part => Sys2Proof.Machine.execGroupInstall h part s
  | .groupRemove h group => Sys2Proof.Machine.execGroupRemove h group s
  | .groupMemberRemove h group position gen => Sys2Proof.Machine.execGroupMemberRemove h group position gen s
  | .opStart h a => Sys2Proof.Machine.execOpStart h a s
  | .opStatusRead h group => Sys2Proof.Machine.execOpStatusRead h group s
  | .redSummaryRead h => Sys2Proof.Machine.execRedSummaryRead h s
  | .memberArm h a => Sys2Proof.Machine.execMemberArm h a s
  | .partitionSet h partition mask tenant => Sys2Proof.Machine.execPartitionSet h partition mask tenant s
  | .programLoad h partition slot addr len => Sys2Proof.Machine.execProgramLoad h partition slot addr len s
  | .programUnload h progId => Sys2Proof.Machine.execProgramUnload h progId s
  | .ballastSet h floor down up => Sys2Proof.Machine.execBallastSet h floor down up s
  | .ballastRead h => Sys2Proof.Machine.execBallastRead h s
  | .windowSet h w d => Sys2Proof.Machine.execWindowSet h w d s
  | .windowDisable h w => Sys2Proof.Machine.execWindowDisable h w s
  | .windowRead h w => Sys2Proof.Machine.execWindowRead h w s
  | .xlatRegionSet h base size => Sys2Proof.Machine.execXlatRegionSet h base size s
  | .xlatInfoRead h => Sys2Proof.Machine.execXlatInfoRead h s
  | .xlatUpdate h kind ups => Sys2Proof.Machine.execXlatUpdate h kind ups s
  | .xlatInvalidate h kind tenant addr len => Sys2Proof.Machine.execXlatInvalidate h kind tenant addr len s
  | .faultRingSet h base vec timeout => Sys2Proof.Machine.execFaultRingSet h base vec timeout s
  | .faultResolve h id deny => Sys2Proof.Machine.execFaultResolve h id deny s
  | .qpCreate h a => Sys2Proof.Machine.execQpCreate h a s
  | .qpReset h qpn => Sys2Proof.Machine.execQpReset h qpn s
  | .qpDestroy h qpn => Sys2Proof.Machine.execQpDestroy h qpn s
  | .ringRouteSet h mask routes => Sys2Proof.Machine.execRingRouteSet h mask routes s
  | .markerSet h port off cir cbs ebs => Sys2Proof.Machine.execMarkerSet h port off cir cbs ebs s
  | .policerSet h port queue pr pb => Sys2Proof.Machine.execPolicerSet h port queue pr pb s
  | .gateListSet h port entries base => Sys2Proof.Machine.execGateListSet h port entries base s
  | .shaperSet h port queue rq burst tokens => Sys2Proof.Machine.execShaperSet h port queue rq burst tokens s
  | .queueSampleSet h period => Sys2Proof.Machine.execQueueSampleSet h period s
  | .queueSamplesRead h port queue clear => Sys2Proof.Machine.execQueueSamplesRead h port queue clear s
  | .tenantCreate h tenant conf => Sys2Proof.Machine.execTenantCreate h tenant conf s
  | .tenantRevoke h tenant fence => Sys2Proof.Machine.execTenantRevoke h tenant fence s
  | .keyAgree h tenant peer slot ekDigest => Sys2Proof.Machine.execKeyAgree h tenant peer slot ekDigest s
  | .ideSessionOpen h hostEk ct => Sys2Proof.Machine.execIdeSessionOpen h hostEk ct s
  | .attestService h nonce tenant offset => Sys2Proof.Machine.execAttestService h nonce tenant offset s
  | .attestFoundation h nonce offset => Sys2Proof.Machine.execAttestFoundation h nonce offset s
  | .regionDigest h tenant fva len => Sys2Proof.Machine.execRegionDigest h tenant fva len s
  | .certChainRead h offset => Sys2Proof.Machine.execCertChainRead h offset s
  | .errLogRead h count clear unitMode unit => Sys2Proof.Machine.execErrLogRead h count clear unitMode unit s
  | .unitReset h kind index => Sys2Proof.Machine.execUnitReset h kind index s
  | .hbmPageRetire h addr bad => Sys2Proof.Machine.execHbmPageRetire h addr bad s
  | .fwStage h offset fragment last => Sys2Proof.Machine.execFwStage h offset fragment last s
  | .fwActivate h => Sys2Proof.Machine.execFwActivate h s
  | .pwrCapSet h cap slew => Sys2Proof.Machine.execPwrCapSet h cap slew s
  | .pwrRead h => Sys2Proof.Machine.execPwrRead h s
  | .thermalRead h => Sys2Proof.Machine.execThermalRead h s
  | .getEventRecords severity => Sys2Proof.Machine.execGetEventRecords severity s
  | .clearEventRecords severity handles => Sys2Proof.Machine.execClearEventRecords severity handles s
  | .getEventInterruptPolicy => Sys2Proof.Machine.execGetEventInterruptPolicy s
  | .setEventInterruptPolicy settings => Sys2Proof.Machine.execSetEventInterruptPolicy settings s
  | .getSupportedLogs => Sys2Proof.Machine.execGetSupportedLogs s
  | .getLog offset len => Sys2Proof.Machine.execGetLog offset len s
  | .identifyMemoryDevice => Sys2Proof.Machine.execIdentifyMemoryDevice s
  | .getHealthInfo => Sys2Proof.Machine.execGetHealthInfo s
  | .hdmDecoderCommit dec base size ways lock => Sys2Proof.Machine.execHdmDecoderCommit dec base size ways lock s
  | .memRd dpa => Sys2Proof.Machine.execMemRd dpa s
  | .memRdData dpa => Sys2Proof.Machine.execMemRdData dpa s
  | .memWr dpa data => Sys2Proof.Machine.execMemWr dpa data s
  | .memWrPtl dpa data be => Sys2Proof.Machine.execMemWrPtl dpa data be s
  | .memSpecRd dpa => Sys2Proof.Machine.execMemSpecRd dpa s
  | .memInv dpa => Sys2Proof.Machine.execMemInv dpa s
  | .memInvNt dpa => Sys2Proof.Machine.execMemInvNt dpa s
  | .cxlHotReset => Sys2Proof.Machine.execCxlHotReset s
  | .perstAssert => Sys2Proof.Machine.execPerstAssert s
  | .ideFail stream => Sys2Proof.Machine.execIdeFail stream s
  | .ideKmMessage stream session start => Sys2Proof.Machine.execIdeKmMessage stream session start s
  | .go mailbox => Sys2Proof.Machine.execGo mailbox s
  | .mbxEvtHead mailbox v => Sys2Proof.Machine.execMbxEvtHead mailbox v s
  | .dbFaultHead v => Sys2Proof.Machine.execDbFaultHead v s
  | .dbSqTail qpn v => Sys2Proof.Machine.execDbSqTail qpn v s
  | .dbCqHead qpn v => Sys2Proof.Machine.execDbCqHead qpn v s
  | .timeNowLowRead requester => Sys2Proof.Machine.execTimeNowLowRead requester s
  | .registerWrite bar offset width value => Sys2Proof.Machine.execRegisterWrite bar offset width value s
  | .signalDetect port lane => Sys2Proof.Machine.execSignalDetect port lane s
  | .trainingFrame port lane frame rx => Sys2Proof.Machine.execTrainingFrame port lane frame rx s
  | .trainingBoundExpiry port => Sys2Proof.Machine.execTrainingBoundExpiry port s
  | .qualificationEnd port res => Sys2Proof.Machine.execQualificationEnd port res s
  | .alignmentMarker lane block payload => Sys2Proof.Machine.execAlignmentMarker lane block payload s
  | .markerLockLoss lane => Sys2Proof.Machine.execMarkerLockLoss lane s
  | .backgroundAdaptation lane heights widths ber setting up => Sys2Proof.Machine.execBackgroundAdaptation lane heights widths ber setting up s
  | .spareSubstitution port => Sys2Proof.Machine.execSpareSubstitution port s
  | .los port lane => Sys2Proof.Machine.execLos port lane s
  | .flushComplete port => Sys2Proof.Machine.execFlushComplete port s
  | .dataFlit port f => Sys2Proof.Machine.execDataFlit port f s
  | .crcFailedFlit flit => Sys2Proof.Machine.execCrcFailedFlit flit s
  | .idleControlFlit port f => Sys2Proof.Machine.execIdleControlFlit port f s
  | .init port f => Sys2Proof.Machine.execInit port f s
  | .initAck port f => Sys2Proof.Machine.execInitAck port f s
  | .loopPing port f => Sys2Proof.Machine.execLoopPing port f s
  | .loopEcho port f => Sys2Proof.Machine.execLoopEcho port f s
  | .widthChange port f => Sys2Proof.Machine.execWidthChange port f s
  | .narrowComplete port res => Sys2Proof.Machine.execNarrowComplete port res s
  | .down port f => Sys2Proof.Machine.execDown port f s
  | .portUp port => Sys2Proof.Machine.execPortUp port s
  | .linkRetryTimer port => Sys2Proof.Machine.execLinkRetryTimer port s
  | .retryBufferTimer port => Sys2Proof.Machine.execRetryBufferTimer port s
  | .xoffWatchdog port channel => Sys2Proof.Machine.execXoffWatchdog port channel s
  | .packetAdmission port vc => Sys2Proof.Machine.execPacketAdmission port vc s
  | .coreCycle hit => Sys2Proof.Machine.execCoreCycle hit s
  | .egressDecision port => Sys2Proof.Machine.execEgressDecision port s
  | .residueService line port => Sys2Proof.Machine.execResidueService line port s
  | .deliveryNotice group chunk pidx => Sys2Proof.Machine.execDeliveryNotice group chunk pidx s
  | .rdLine port p ecc => Sys2Proof.Machine.execRdLine port p ecc s
  | .wrLine port p => Sys2Proof.Machine.execWrLine port p s
  | .wrMasked port p ecc => Sys2Proof.Machine.execWrMasked port p ecc s
  | .atomic port p ecc => Sys2Proof.Machine.execAtomic port p ecc s
  | .rdData port p => Sys2Proof.Machine.execRdData port p s
  | .atomicData port p => Sys2Proof.Machine.execAtomicData port p s
  | .cmpl port p => Sys2Proof.Machine.execCmpl port p s
  | .releaseLand src seq ecc => Sys2Proof.Machine.execReleaseLand src seq ecc s
  | .holeWriteOff src => Sys2Proof.Machine.execHoleWriteOff src s
  | .windowStateDrop src => Sys2Proof.Machine.execWindowStateDrop src s
  | .requestTimeout tag => Sys2Proof.Machine.execRequestTimeout tag s
  | .hotLineWindow => Sys2Proof.Machine.execHotLineWindow s
  | .redPut port p ecc => Sys2Proof.Machine.execRedPut port p ecc s
  | .redResInjection group chunk ecc => Sys2Proof.Machine.execRedResInjection group chunk ecc s
  | .redCredit port p => Sys2Proof.Machine.execRedCredit port p s
  | .redRes port p => Sys2Proof.Machine.execRedRes port p s
  | .opDone port p => Sys2Proof.Machine.execOpDone port p s
  | .opAbort port p => Sys2Proof.Machine.execOpAbort port p s
  | .ringPart port p => Sys2Proof.Machine.execRingPart port p s
  | .ringRes port p => Sys2Proof.Machine.execRingRes port p s
  | .chunkStall group chunk => Sys2Proof.Machine.execChunkStall group chunk s
  | .operationTimeout group => Sys2Proof.Machine.execOperationTimeout group s
  | .memberOperationTimeout group => Sys2Proof.Machine.execMemberOperationTimeout group s
  | .abortSettleEnd group member => Sys2Proof.Machine.execAbortSettleEnd group member s
  | .msgSend port p ecc => Sys2Proof.Machine.execMsgSend port p ecc s
  | .msgAck port p => Sys2Proof.Machine.execMsgAck port p s
  | .trunkMessageArrival port p => Sys2Proof.Machine.execTrunkMessageArrival port p s
  | .msgRto peer seq => Sys2Proof.Machine.execMsgRto peer seq s
  | .msgLifetime peer seq => Sys2Proof.Machine.execMsgLifetime peer seq s
  | .maskSet port p => Sys2Proof.Machine.execMaskSet port p s
  | .maskAck port p => Sys2Proof.Machine.execMaskAck port p s
  | .maskTimeout endpoint => Sys2Proof.Machine.execMaskTimeout endpoint s
  | .keyMsg port p => Sys2Proof.Machine.execKeyMsg port p s
  | .keyNotArmed tenant peer slot => Sys2Proof.Machine.execKeyNotArmed tenant peer slot s
  | .keyTimeout tenant peer slot => Sys2Proof.Machine.execKeyTimeout tenant peer slot s
  | .translationFault cluster index context tenant fva access => Sys2Proof.Machine.execTranslationFault cluster index context tenant fva access s
  | .faultTimeout cluster index context tenant fva => Sys2Proof.Machine.execFaultTimeout cluster index context tenant fva s
  | .xlatInvalidateComplete kind tenant addr len => Sys2Proof.Machine.execXlatInvalidateComplete kind tenant addr len s
  | .nop qpn d => Sys2Proof.Machine.execNop qpn d s
  | .copy qpn d => Sys2Proof.Machine.execCopy qpn d s
  | .fill qpn d => Sys2Proof.Machine.execFill qpn d s
  | .atomicDescriptor qpn d => Sys2Proof.Machine.execAtomicDescriptor qpn d s
  | .compute qpn d => Sys2Proof.Machine.execCompute qpn d s
  | .completionRecord qpn index => Sys2Proof.Machine.execCompletionRecord qpn index s
  | .qpStopComplete qpn => Sys2Proof.Machine.execQpStopComplete qpn s
  | .add x f => Sys2Proof.Machine.execAdd x f s
  | .sub x f => Sys2Proof.Machine.execSub x f s
  | .mul x f => Sys2Proof.Machine.execMul x f s
  | .and x f => Sys2Proof.Machine.execAnd x f s
  | .or x f => Sys2Proof.Machine.execOr x f s
  | .xor x f => Sys2Proof.Machine.execXor x f s
  | .shl x f => Sys2Proof.Machine.execShl x f s
  | .shr x f => Sys2Proof.Machine.execShr x f s
  | .sra x f => Sys2Proof.Machine.execSra x f s
  | .addi x f => Sys2Proof.Machine.execAddi x f s
  | .ld x f ecc => Sys2Proof.Machine.execLd x f ecc s
  | .st x f => Sys2Proof.Machine.execSt x f s
  | .beq x f => Sys2Proof.Machine.execBeq x f s
  | .bne x f => Sys2Proof.Machine.execBne x f s
  | .blt x f => Sys2Proof.Machine.execBlt x f s
  | .loop x f => Sys2Proof.Machine.execLoop x f s
  | .halt x f => Sys2Proof.Machine.execHalt x f s
  | .fault x f => Sys2Proof.Machine.execFault x f s
  | .vld x f ecc => Sys2Proof.Machine.execVld x f ecc s
  | .vst x f => Sys2Proof.Machine.execVst x f s
  | .vadd x f => Sys2Proof.Machine.execVadd x f s
  | .vsub x f => Sys2Proof.Machine.execVsub x f s
  | .vmul x f => Sys2Proof.Machine.execVmul x f s
  | .vmax x f => Sys2Proof.Machine.execVmax x f s
  | .vmin x f => Sys2Proof.Machine.execVmin x f s
  | .vfma x f => Sys2Proof.Machine.execVfma x f s
  | .vdiv x f => Sys2Proof.Machine.execVdiv x f s
  | .vsqrt x f => Sys2Proof.Machine.execVsqrt x f s
  | .vsgn x f => Sys2Proof.Machine.execVsgn x f s
  | .vsel x f => Sys2Proof.Machine.execVsel x f s
  | .vcvt x f => Sys2Proof.Machine.execVcvt x f s
  | .vblk x f => Sys2Proof.Machine.execVblk x f s
  | .xclr x f => Sys2Proof.Machine.execXclr x f s
  | .xadd x f => Sys2Proof.Machine.execXadd x f s
  | .xrnd x f => Sys2Proof.Machine.execXrnd x f s
  | .xhad x f => Sys2Proof.Machine.execXhad x f s
  | .mmul x f => Sys2Proof.Machine.execMmul x f s
  | .mscl x f => Sys2Proof.Machine.execMscl x f s
  | .hrot x f => Sys2Proof.Machine.execHrot x f s
  | .hld x f ecc => Sys2Proof.Machine.execHld x f ecc s
  | .hst x f => Sys2Proof.Machine.execHst x f s
  | .waitt x f => Sys2Proof.Machine.execWaitt x f s
  | .waitc x f => Sys2Proof.Machine.execWaitc x f s
  | .emit x f => Sys2Proof.Machine.execEmit x f s
  | .idle x f => Sys2Proof.Machine.execIdle x f s
  | .fence x f => Sys2Proof.Machine.execFence x f s
  | .streamComplete x tag => Sys2Proof.Machine.execStreamComplete x tag s
  | .clusterReload cluster => Sys2Proof.Machine.execClusterReload cluster s
  | .unitResetEnd kind index ok => Sys2Proof.Machine.execUnitResetEnd kind index ok s
  | .exportTransitionEnd => Sys2Proof.Machine.execExportTransitionEnd s
  | .windowDisableComplete w => Sys2Proof.Machine.execWindowDisableComplete w s
  | .regionDigestComplete tenant => Sys2Proof.Machine.execRegionDigestComplete tenant s
  | .ideSessionComplete => Sys2Proof.Machine.execIdeSessionComplete s
  | .fwVerifyEnd sigOk svn floor => Sys2Proof.Machine.execFwVerifyEnd sigOk svn floor s
  | .handoverEnd failedStep => Sys2Proof.Machine.execHandoverEnd failedStep s
  | .drainFenceEnd tenant => Sys2Proof.Machine.execDrainFenceEnd tenant s
  | .revocationComplete tenant => Sys2Proof.Machine.execRevocationComplete tenant s
  | .gateEntryChange port => Sys2Proof.Machine.execGateEntryChange port s
  | .gateListTakeover port => Sys2Proof.Machine.execGateListTakeover port s
  | .queueSampleWindow port queue => Sys2Proof.Machine.execQueueSampleWindow port queue s
  | .controlInterval pin => Sys2Proof.Machine.execControlInterval pin s
  | .heartbeatMiss => Sys2Proof.Machine.execHeartbeatMiss s
  | .fwWatchdog pc => Sys2Proof.Machine.execFwWatchdog pc s
  | .inputApplied mv => Sys2Proof.Machine.execInputApplied mv s
  | .inputLoss mv => Sys2Proof.Machine.execInputLoss mv s
  | .powerGood => Sys2Proof.Machine.execPowerGood s
  | .ready idMatch => Sys2Proof.Machine.execReady idMatch s
  | .eoffAssert => Sys2Proof.Machine.execEoffAssert s
  | .eoffRelease => Sys2Proof.Machine.execEoffRelease s
  | .brakeAssert => Sys2Proof.Machine.execBrakeAssert s
  | .brakeRelease => Sys2Proof.Machine.execBrakeRelease s
  | .modResetAssert => Sys2Proof.Machine.execModResetAssert s
  | .modResetRelease => Sys2Proof.Machine.execModResetRelease s
  | .prsntEarlyDeassert => Sys2Proof.Machine.execPrsntEarlyDeassert s
  | .prsntEarlyReassert => Sys2Proof.Machine.execPrsntEarlyReassert s
  | .thermalThrottle t => Sys2Proof.Machine.execThermalThrottle t s
  | .thermalLimitTick t => Sys2Proof.Machine.execThermalLimitTick t s
  | .thermalTrip t => Sys2Proof.Machine.execThermalTrip t s
  | .tripRestart => Sys2Proof.Machine.execTripRestart s
  | .causewayOpen => Sys2Proof.Machine.execCausewayOpen s
  | .perstRelease => Sys2Proof.Machine.execPerstRelease s
  | .cxlLinkUp => Sys2Proof.Machine.execCxlLinkUp s
  | .powerGoodWithdrawn => Sys2Proof.Machine.execPowerGoodWithdrawn s
  | .coarseningSnapshot => Sys2Proof.Machine.execCoarseningSnapshot s
  | .idleMarkEnd x => Sys2Proof.Machine.execIdleMarkEnd x s
  | .timeNowHighRead requester => Sys2Proof.Machine.execTimeNowHighRead requester s

end Sys2Proof.Machine
end

