-- ==== Sys2Proof/Safety.lean ====
section
/-! DEFINITION. What the statements about this model are said in: when a mailbox command is served, how a command completes, and the invariants
that every step keeps. -/

namespace Sys2Proof.Machine

open Sys2Proof

/-- The part is READY, the mailbox is reached over I3C or CXL.io (13 R378), no handover stalls its mailboxes, and no command of the mailbox still reads its
image or waits for a channel (13 R381, R386, 15 R430). -/
def Listens (h : MHdr) (s : State) : Prop :=
  s.svc.mod = .ready ∧ s.svc.handover = false ∧ ((s.reed.loading.find h.mbx).isSome || (s.box h.mbx).stalled.isSome) = false ∧ h.mbx < 8 ∧ (h.mbx = 2 ∨ ioReaches s = true)

/-- The part listens, and the command comes from one of the mailboxes that its row names, with no reserved flag set (13 R387, R388). -/
def Serves (h : MHdr) (boxes : List Nat) (s : State) : Prop := Listens h s ∧ h.mbx ∈ boxes ∧ h.flags = 0

/-- The command completes: the next state is this one. -/
def Completes (c : Instr) (s t : State) : Prop := exec c s = .next t

/-- The HBM is a canonical list of cells: addresses strictly rising, no zero byte listed. -/
def HbmCanonical (s : State) : Prop := memWf s.home.hbm = true

/-- So is the command buffer of every mailbox. -/
def BoxesCanonical (s : State) : Prop := ∀ m, memWf (s.box m).buf = true

/-- A context issues the instruction `row`: it has a job, waits for nothing and is not stopped (09 R252, R263; 16 R445), the word at its counter spells
this row, and its parity is right. -/
def Runs (row : Instr) (x : Issue) (ecc : Ecc) (s : State) : Prop :=
  isCtx x.id = true ∧ issues s x.id = true ∧ x.parity = false ∧ nextInstr x ecc s = some row

/-- FUSED_SVN has reached a value (14 R392). -/
def FusedAtLeast (n : Nat) (s : State) : Prop := n ≤ s.flash.fusedSvn

end Sys2Proof.Machine
end

