-- ==== Sys2Proof/Certificates/Slice0/Obligations.lean ====
section
/-! DEFINITION. The statements about this model, each the formal content of rules of spec/. A completion is written as the next state itself, so
that it says the result and the frame at once: what the expression does not update is unchanged. -/

open Sys2Proof Sys2Proof.Machine

/-! ### The machine as a whole -/

/-- One step runs the command at the front of the queue on the state with the rest of the queue; on an empty queue it is one nanosecond of local time, with what
the block does by itself then (log entry 3): where no GO waits to be taken and no mailbox holds a command, the clock alone advances, but for the snapshot of 14 R404. -/
def Obligations.StepRunsFrontCommand : Prop :=
  (∀ (c : Instr) (rest : List Instr) (s : State), s.pending = c :: rest → step s = exec c { s with pending := rest }) ∧
  (∀ s : State, s.pending = [] → step s = .next (idle s)) ∧
  (∀ s : State, (∀ m, (s.box m).go = false ∧ (s.box m).stalled = none) →
    let t : State := { s with svc := { s.svc with now := (s.svc.now + 1) % 2 ^ 64 } }
    idle s = if s.pwr.powerGood = false then s else if anyConf s = true ∧ (s.svc.now + 1) % 2 ^ 64 % 10000000 = 0 then takeSnapshot t else t)

/-- What the spec says of the state right after reset (00 R2, 02 R51, 03 R75, 05 R126, 06 R166, 10 R305, R310, 12 R355, R367, 13 R371, R379, 14 R390, 15 R419, R422,
16 R447, 17 R465 to R471). -/
def Obligations.ResetLeavesSpecifiedValues : Prop :=
  let s := State.reset
  s.svc.mod = .boot ∧ s.svc.now = 0 ∧ s.svc.node = none ∧ s.svc.causewayClosed = true ∧ s.svc.handover = false ∧ s.svc.pending = false ∧
  s.svc.ring = none ∧ s.svc.samplePeriod = 100000 ∧ s.home.exported = false ∧ s.home.reqTimeout = 100000 ∧ s.sec.tenants = [] ∧
  s.err.summary = 0 ∧ s.err.log = [] ∧ s.err.nextId = 0 ∧ s.pwr.caps = [] ∧ s.pwr.target = 800000 ∧ s.host.irqCause = 0 ∧ s.host.irqPend = 0 ∧
  (∀ p, (s.port p).enabled = false) ∧ (∀ w, (s.window w).desc.en = false ∧ (s.window w).failRd = 0 ∧ (s.window w).failWr = 0) ∧
  (∀ m, (s.box m).busy = false ∧ (s.box m).overrun = 0 ∧ (s.box m).head = 0 ∧ (s.box m).tail = 0) ∧ s.coll.groups = [] ∧ s.reed.parts = [] ∧
  s.xlat.src = [] ∧ s.xlat.tgt = [] ∧ s.xlat.region = none ∧ s.queues.qps = [] ∧ s.pending = []

/-- The HBM and the command buffers after reset are canonical lists of bytes. -/
def Obligations.ResetMemoriesCanonical : Prop := HbmCanonical State.reset ∧ BoxesCanonical State.reset

/-- Every step keeps them canonical: whatever command runs, equal contents stay equal data. -/
def Obligations.StepKeepsMemoriesCanonical : Prop :=
  ∀ s t : State, HbmCanonical s → BoxesCanonical s → step s = .next t → HbmCanonical t ∧ BoxesCanonical t

/-- "FUSED_SVN is a thermometer of 64 fuses and never decreases" (14 R392): no step lowers it, a reset included. -/
def Obligations.StepNeverLowersFusedSvn : Prop :=
  ∀ (n : Nat) (s t : State), FusedAtLeast n s → step s = .next t → FusedAtLeast n t

/-! ### Completions, events and records -/

/-- A completion in the buffer (13 R380, R381): STATUS in bytes [13:12], LENGTH in [11:8], the results from byte 16, BUSY cleared; other mailboxes are
untouched, and the completion signal is raised exactly where NOTIFY is set. The buffer is a canonical list of bytes, as every step keeps it. -/
def Obligations.ReplyWritesStatusLengthAndResult : Prop :=
  ∀ (h : MHdr) (status : Nat) (result : List Byte) (s : State), status < 2 ^ 16 → result.length ≤ 4080 →
    memWf (s.box h.mbx).buf = true →
    let t := reply h status result s
    leNat (memGetN (t.box h.mbx).buf 12 2) = status ∧
    leNat (memGetN (t.box h.mbx).buf 8 4) = result.length ∧
    memGetN (t.box h.mbx).buf 16 result.length = result ∧
    (∀ a, (a < 8 ∨ a = 14 ∨ a = 15 ∨ 16 + result.length ≤ a) → memGet (t.box h.mbx).buf a = memGet (s.box h.mbx).buf a) ∧
    (t.box h.mbx).busy = false ∧ (t.box h.mbx).ring = (s.box h.mbx).ring ∧ (t.box h.mbx).tail = (s.box h.mbx).tail ∧
    (t.box h.mbx).overrun = (s.box h.mbx).overrun ∧ (∀ m, m ≠ h.mbx → t.box m = s.box m) ∧
    (h.notify = false → t.host = s.host ∧ t.mbx.ibis = s.mbx.ibis) ∧
    (h.notify = true → h.mbx = 2 → t.host = s.host ∧ t.mbx.ibis = s.mbx.ibis + 1) ∧
    (h.notify = true → h.mbx ≠ 2 → t.host = (raiseVec h.mbx s).host ∧ t.mbx.ibis = s.mbx.ibis) ∧
    t.svc = s.svc ∧ t.err = s.err ∧ t.ports = s.ports ∧ t.lanes = s.lanes ∧ t.core = s.core ∧ t.home = s.home ∧ t.req = s.req ∧ t.coll = s.coll ∧
    t.reed = s.reed ∧ t.xlat = s.xlat ∧ t.queues = s.queues ∧ t.sec = s.sec ∧ t.flash = s.flash ∧ t.pwr = s.pwr ∧ t.free = s.free

/-- Where an error goes (15 R418 to R422): the unit's COUNT advances without passing 2^32 - 1, FIRST keeps the first record, and with all 4,096
records held no record is written or overwritten, LOST advances and LOG_OVERFLOW is set; the unit's class bit is set in every case. -/
def Obligations.ErrorRecordsUnderFirstErrorRule : Prop :=
  ∀ (kind index code sev : Nat) (detail : List Byte) (s : State),
    let t := recordErr kind index code sev detail s
    let u := s.err.units.look (unitOf kind index) {}
    let v := t.err.units.look (unitOf kind index) {}
    v.count = min (u.count + 1) (2 ^ 32 - 1) ∧
    (∀ r, u.first = some r → v.first = some r) ∧
    (u.first = none → ∃ r, v.first = some r ∧ r.code = code ∧ r.sev = sev ∧ r.count = 1 ∧ r.first = s.svc.now ∧ r.last = s.svc.now) ∧
    (∀ x, x ≠ unitOf kind index → Map.find t.err.units x = Map.find s.err.units x) ∧
    t.err.summary.getLsbD (summaryBit kind) = true ∧
    (joinLog (unitOf kind index) code s.svc.now s.err.log = none → s.err.log.length < 4096 →
      ∃ r, t.err.log = s.err.log ++ [r] ∧ r.id = s.err.nextId ∧ r.entry.code = code ∧ r.entry.count = 1 ∧ r.returned = false) ∧
    (joinLog (unitOf kind index) code s.svc.now s.err.log = none → 4096 ≤ s.err.log.length →
      t.err.log = s.err.log ∧ v.lost = min (u.lost + 1) (2 ^ 32 - 1) ∧ t.err.summary.getLsbD 9 = true) ∧
    t.svc = s.svc ∧ t.mbx = s.mbx ∧ t.ports = s.ports ∧ t.lanes = s.lanes ∧ t.core = s.core ∧ t.home = s.home ∧ t.coll = s.coll ∧ t.reed = s.reed ∧
    t.queues = s.queues ∧ t.sec = s.sec ∧ t.flash = s.flash ∧ t.pwr = s.pwr

/-- The order of the checks (13 R387): a command from a mailbox that its row does not name is DENIED whatever else holds; one with a reserved flag
is then BAD_ARG; while a part is in BOOT mailbox 2 answers NOT_READY. Said of BALLAST_SET (F) and of NODE_ASSIGN (F). -/
def Obligations.ChecksRunInOrder : Prop :=
  (∀ (h : MHdr) (f d u : Nat) (s : State), Listens h s → h.mbx ≠ 1 → exec (.ballastSet h f d u) s = .next (reply h 0x0003 [] s)) ∧
  (∀ (h : MHdr) (f d u : Nat) (s : State), Listens h s → h.mbx = 1 → h.flags ≠ 0 →
    exec (.ballastSet h f d u) s = .next (reply h 0x0004 [] s)) ∧
  (∀ (h : MHdr) (a b c : Nat) (s : State), s.svc.mod = .boot → h.mbx = 2 → exec (.nodeAssign h a b c) s = .next (reply h 0x0005 [] s)) ∧
  (∀ (h : MHdr) (a b c : Nat) (s : State), Serves h [1] s → s.svc.bridge = true → exec (.nodeAssign h a b c) s = .next (reply h 0x0003 [] s)) ∧
  (∀ (h : MHdr) (a b c : Nat) (s : State), Serves h [1] s → s.svc.bridge = false → (7 < a ∨ 1 < b ∨ 31 < c) →
    exec (.nodeAssign h a b c) s = .next (reply h 0x0004 [] s))

/-- Commands that only read the identity, the clock and kept results (13 R388, R383). T2 of TIME_EXCHANGE is open within the immediate class's
bound (log entry 27).
Commands that set part-wide state: AGENT_TENANTS_SET advances the epoch and returns it (13 R379, 14 R405), FM_HEARTBEAT restarts the timer (15 R427),
NODE_ASSIGN writes both configuration copies and starts the sequences at 0 (01 R17, 04 R94, 15 R439), REQ_TIMEOUT_SET sets the time and writes off at
once the holes whose new limit has passed (05 R124). -/
def Obligations.PartCommandsComplete : Prop :=
  (
  (∀ (h : MHdr) (s : State), Serves h [0, 1, 2, 3, 4, 5, 6, 7] s →
    exec (.deviceInfo h) s = .next (reply h 0 (pack [.num 1 (if s.svc.bridge then 1 else 0), .bytes (padTo 8 (Config.ident 0)), .num 2 (selfNode s).toNat,
      .num 8 (Config.fwVersion (slotDigest (runSlot s))), .num 8 (if s.svc.pending then Config.fwVersion (pendDigest s) else 0), .bytes (slotDigest (runSlot s)),
      .bytes (pendDigest s), .num 8 s.sec.epoch]) s)) ∧
  (∀ (h : MHdr) (s : State), Serves h [0, 1, 2, 3, 4, 5, 6, 7] s → ∃ d, d ≤ 100000 ∧
    exec (.timeExchange h) s = .next (reply h 0 (pack [.num 8 s.svc.now, .num 8 ((s.svc.now + d) % 2 ^ 64)]) { s with free := s.free + 1 })) ∧
  (∀ (h : MHdr) (q : BitVec 32) (r : LongResult) (s : State), Serves h [0, 1, 2, 3, 4, 5, 6, 7] s → keptResult h.mbx q s = some r →
    exec (.cmdResultRead h q) s = .next (reply h 0 r.result s)) ∧
  (∀ (h : MHdr) (q : BitVec 32) (s : State), Serves h [0, 1, 2, 3, 4, 5, 6, 7] s → keptResult h.mbx q s = none →
    exec (.cmdResultRead h q) s = .next (reply h 4 [] s))) ∧
  (
  (∀ (h : MHdr) (m : Nat) (b : BitVec 1024) (s : State), Serves h [0] s → 4 ≤ m → m ≤ 7 →
    let t := bumpEpoch (s.onBox m (fun x => { x with tenants := b }))
    exec (.agentTenantsSet h m b) s = .next (reply h 0 (pack [.num 8 ((s.sec.epoch + 1) % 2 ^ 64)]) t)) ∧
  (∀ (h : MHdr) (s : State), Serves h [1] s →
    exec (.fmHeartbeat h) s = .next (reply h 0 (pack [.num 8 s.svc.now])
      { s with svc := { s.svc with heartbeat := some s.svc.now, beatBase := s.svc.now, misses := 0 } })) ∧
  (∀ (h : MHdr) (pair domain plane : Nat) (s : State), Serves h [1] s → s.svc.bridge = false → pair ≤ 7 → domain ≤ 1 → plane ≤ 31 →
    s.svc.removedAt = none → s.ports.any (fun p => p.2.enabled) = false →
    ∃ t, exec (.nodeAssign h pair domain plane) s = .next (reply h 0 [] t) ∧
      (cfgNow t.flash).node = some (pair, domain, plane) ∧ t.flash.copyA = t.flash.copyB ∧ t.flash.copyA.valid = true ∧
      t.svc.node = some (mkNode pair true (32 * domain + plane)) ∧ t.req.seqs = [] ∧ t.sec.epoch = (s.sec.epoch + 1) % 2 ^ 64 ∧
      t.ports = s.ports ∧ t.core = s.core ∧ t.home = s.home ∧ t.err = s.err ∧ t.mbx = s.mbx ∧ t.flash.slotA = s.flash.slotA ∧ t.flash.slotB = s.flash.slotB ∧
      t.flash.fusedSvn = s.flash.fusedSvn) ∧
  (∀ (h : MHdr) (t : Nat) (s : State), Serves h [1] s → 10000 ≤ t → t ≤ 10000000 →
    exec (.reqTimeoutSet h t) s = .next (reply h 0 [] ((s.home.wins.map Prod.fst).foldl (fun s src => writeOff src s)
      { s with home := { s.home with reqTimeout := t } }))))

/-! ### Lanes and training (02) -/

/-- The lane commands (02 R49, R50): a test starts only on a lane of no enabled port; a read takes what the checker has seen up to now, returns the 48-bit
counts and clears them where asked; a near-end loopback replaces the one before, a far-end one begins with the lane's training, and one whose lane sees no signal leaves the
lane out of loopback. That a loopback is not compared with the port's state, that a start keeps the counts, and how the checker synchronizes, are the model's choices (log
entries 37 and 33). -/
def Obligations.LaneCommandsComplete : Prop :=
  (∀ (h : MHdr) (lane pattern : Nat) (after : Bool) (s : State), Serves h [1] s → lane < 560 → pattern ≤ 6 → laneBusy s lane = false →
    exec (.laneTestStart h lane pattern after) s = .next (reply h 0 [] (s.onLane lane (fun l =>
      { l with test := { l.test with on := true, pattern := pattern, afterPrecoder := after, gen := patternStart pattern, seen := [], run := 0, synced := false } })))) ∧
  (∀ (h : MHdr) (lane pattern : Nat) (after : Bool) (s : State), Serves h [1] s → lane < 560 → pattern ≤ 6 → laneBusy s lane = true →
    exec (.laneTestStart h lane pattern after) s = .next (reply h 2 [] s)) ∧
  (∀ (h : MHdr) (lane : Nat) (r : TestRead) (s : State), Serves h [1] s → lane < 560 →
    let t := s.onLane lane (fun l => runTest r.line (echoLine (.pattern r.line) l))
    let z := t.snap.lanes.look lane (0, 0)
    exec (.laneTestRead h lane r) s = .next (reply h 0 (pack [.num 8 (coarse t (t.lane lane).test.errors z.1), .num 8 (coarse t (t.lane lane).test.compared z.2)])
      (if r.clear then t.onLane lane (fun l => { l with test := { l.test with errors := 0, compared := 0 } }) else t))) ∧
  (∀ (h : MHdr) (lane mode : Nat) (trained : Bool) (s : State), Serves h [1] s → lane < 560 → mode ≤ 3 → mode ≠ 2 →
    let t := enterLoop lane mode h (dropLoop lane (reply h 7 [] s))
    exec (.laneLoopbackSet h lane mode trained) s = .next (finishEvent h 0x0106 0 [] t) ∧
      (t.lane lane).loopback = (if mode = 3 then 0 else mode + 1) ∧ (∀ k, k ≠ lane → t.lane k = s.lane k)) ∧
  (∀ (h : MHdr) (lane : Nat) (s : State), Serves h [1] s → lane < 560 →
    let t := enterLoop lane 2 h (dropLoop lane (reply h 7 [] s))
    exec (.laneLoopbackSet h lane 2 true) s = .next t ∧ (t.lane lane).loopStep = 1 ∧ (t.lane lane).loopHdr = some h ∧ (t.lane lane).loopback = 0 ∧
      (∀ k, k ≠ lane → t.lane k = s.lane k)) ∧
  (∀ (h : MHdr) (lane : Nat) (s : State), Serves h [1] s → lane < 560 →
    exec (.laneLoopbackSet h lane 2 false) s = .next (finishEvent h 0x0106 8 (failCause (Config.causeByte 7)) ((dropLoop lane (reply h 7 [] s)).onLane lane (fun l =>
      { l with loopback := 0, loopStep := 0, loopHdr := none }))))

/-- Transmit taps never leave the limits of 02 R38, whatever a request asks: a at most 16, b at most 24, a + b at most 24. -/
def Obligations.TapsStayWithinLimits : Prop :=
  ∀ (pre post : Nat) (l : Lane), l.tapA ≤ 16 → l.tapB ≤ 24 → l.tapA + l.tapB ≤ 24 →
    let m := takeRequest pre post l
    m.tapA ≤ 16 ∧ m.tapB ≤ 24 ∧ m.tapA + m.tapB ≤ 24

/-- Events of training (02 R44 to R47): the first signal starts step 1 and t0, and every lane that sees signal joins and sends frames; a spare joins in standby
where it may stand in for the port, and is recorded as SPARE_MISMATCH otherwise (which spares but a foreign one or one of an x1 port are so recorded is the
model's choice, log entry 35); a valid frame is heard, the partner's number is learned in step 2, and the port goes on once every lane has finished; RESTART
restarts; a missed bound restarts at step 1 with a new t0, and the third failure ends training; clean qualification leads to step 8, a lane that fails it
to a restart without it.
Lanes in service (02 R34 to R36, R41 to R43, R48, 03 R80): a valid marker at its place counts, and the fourth period without one loses lock; a measurement
adapts the receiver, and three with EFOM below 16 or too many errors take the lane out; a pending spare takes the failed lane's number; loss of signal takes
a port that is up down with LOS. -/
def Obligations.TrainingAndLaneEventsComplete : Prop :=
  (
  (∀ (p lane n : Nat) (s : State), isPort p = true → isLane lane = true → mayTrain s p = true → ((s.port p).phase = .waiting ∨ (s.port p).phase = .training n) →
    laneOf p 0 ≤ lane → lane < laneOf p (lanesOf (s.port p).width) → lane % 140 < 136 → (s.lane lane).port ≠ some p →
    exec (.signalDetect p lane) s = .next (sendFrame p lane (startTraining p (s.onLane lane (fun l =>
      { idleLane l with test := { l.test with on := false }, signal := true, port := some p, logical := lane - laneOf p 0, sendAs := lane - laneOf p 0, leftOut := !gathers (s.port p) }))))) ∧
  (∀ (p lane n : Nat) (s : State), isPort p = true → isLane lane = true → mayTrain s p = true → ((s.port p).phase = .waiting ∨ (s.port p).phase = .training n) →
    136 ≤ lane % 140 → spareFits s p lane = true →
    exec (.signalDetect p lane) s = .next (sendFrame p lane (s.onLane lane (fun l =>
      { idleLane l with test := { l.test with on := false }, signal := true, port := some p, leftOut := !gathers (s.port p), standby := true })))) ∧
  (∀ (p lane n : Nat) (s : State), isPort p = true → isLane lane = true → mayTrain s p = true → ((s.port p).phase = .waiting ∨ (s.port p).phase = .training n) →
    136 ≤ lane % 140 → spareFits s p lane = false →
    exec (.signalDetect p lane) s = .next (recordErr kLane lane 0x11 1 [] (s.onLane lane (fun l => { l with signal := true })))) ∧
  (∀ (p lane n : Nat) (f : BitVec 5440) (r : RxView) (s : State), isPort p = true → isLane lane = true → (s.port p).phase = .training n → 1 ≤ n → n ≤ 5 →
    (s.lane lane).port = some p → (s.lane lane).failed = false → (s.lane lane).standby = false → (s.lane lane).leftOut = false →
    (s.lane lane).loopback ≠ 1 → (s.lane lane).loopback ≠ 3 → (s.lane lane).loopStep = 0 → frameValid (f.setWidth 256) = true →
    (f.getLsbD 73 = false ∨ n = 1) → (n = 2 → frameNodeOk s p (BitVec.ofNat 13 (fld (f.setWidth 256) 80 13)) = true) →
    let t := s.onLane lane (hearStep s.svc.now n (f.setWidth 256) r)
    exec (.trainingFrame p lane f r) s = .next (advance p (sendFrame p lane (if n = 2 then learnPartner p (f.setWidth 256) t else t)))) ∧
  (∀ (p lane n : Nat) (f : BitVec 5440) (r : RxView) (s : State), isPort p = true → isLane lane = true → (s.port p).phase = .training n → 2 ≤ n →
    (s.lane lane).port = some p → (s.lane lane).failed = false → (s.lane lane).loopback ≠ 1 → (s.lane lane).loopback ≠ 3 → (s.lane lane).loopStep = 0 →
    frameValid (f.setWidth 256) = true → f.getLsbD 73 = true →
    exec (.trainingFrame p lane f r) s = .next (failAttempt p n false s)) ∧
  (∀ (p lane n : Nat) (f : BitVec 5440) (r : RxView) (x : Node) (s : State), isPort p = true → isLane lane = true → (s.port p).phase = .training n → 1 ≤ n → n ≤ 5 →
    (s.lane lane).port = some p → (s.lane lane).failed = false → (s.lane lane).standby = true → (s.lane lane).leftOut = false →
    (s.lane lane).loopback ≠ 1 → (s.lane lane).loopback ≠ 3 → (s.lane lane).loopStep = 0 → frameValid (f.setWidth 256) = true →
    (f.getLsbD 73 = false ∨ n = 1) → (s.port p).partner = some x →
    let t := s.onLane lane (hearStep s.svc.now n (f.setWidth 256) r)
    exec (.trainingFrame p lane f r) s = .next (
      if x = BitVec.ofNat 13 (fld (f.setWidth 256) 80 13) then
        advance p (sendFrame p lane (if 2 ≤ n ∧ f.getLsbD 108 = false then followInTraining p lane (fld (f.setWidth 256) 93 4) t else t))
      else spareMismatch lane s)) ∧
  (∀ (p lane n : Nat) (f : BitVec 5440) (r : RxView) (s : State), isPort p = true → isLane lane = true → (s.lane lane).loopback ≠ 3 → (s.lane lane).loopStep = n →
    1 ≤ n → p = homePort s lane → frameValid (f.setWidth 256) = true →
    let l := hearStep s.svc.now n (f.setWidth 256) r (s.lane lane)
    ∃ t, exec (.trainingFrame p lane f r) s = .next t ∧ (∀ k, k ≠ lane → t.lane k = s.lane k) ∧
      (n ≤ 4 → stepDone n l = true → l.partnerReady = true → (t.lane lane).loopStep = n + 1 ∧ (t.lane lane).loopback = (s.lane lane).loopback) ∧
      (n = 5 → stepDone 5 l = true → l.partnerReady = true → (t.lane lane).loopback = 3 ∧ (t.lane lane).loopStep = 0) ∧
      (stepDone n l = false → (t.lane lane).loopStep = n)) ∧
  (∀ (p n : Nat) (s : State), isPort p = true → (s.port p).phase = .training n → n ≠ 1 → (s.port p).t0 + stepBound n ≤ s.svc.now → (s.port p).attempts < 2 →
    exec (.trainingBoundExpiry p) s = .next (sendFrames p (onLanesOf p (fun l => { restartLane l with restartDue := true })
      (s.onPort p (fun q => { q with
        attempts := (s.port p).attempts + 1, phase := .training 1, t0 := s.svc.now, stepAt := s.svc.now, link := freshLink q,
        widthNow := q.width, partner := none, pendingSpare := none }))))) ∧
  (∀ (p n : Nat) (s : State), isPort p = true → (s.port p).phase = .training n → n ≠ 1 → (s.port p).t0 + stepBound n ≤ s.svc.now → 2 ≤ (s.port p).attempts →
    ∃ t, exec (.trainingBoundExpiry p) s = .next t ∧ (t.port p).phase = .failed ∧ (∀ x, x ≠ p → t.port x = s.port x)) ∧
  (∀ (p : Nat) (s : State), isPort p = true → (s.port p).phase = .training 1 → (s.port p).t0 + 2000000 ≤ s.svc.now → bothDone (leaveOut p s) p 1 = true →
    exec (.trainingBoundExpiry p) s = .next (goOn p 2 (leaveOut p s))) ∧
  (∀ (p : Nat) (res : List QualRes) (s : State), isPort p = true → (s.port p).phase = .training 7 →
    (s.port p).stepAt + 10000000 ≤ s.svc.now → qualMask (sendDue p s) p res = 0 →
    exec (.qualificationEnd p res) s = .next (startInit p (qualDrop p 0 (sendDue p s)))) ∧
  (∀ (p : Nat) (res : List QualRes) (s : State), isPort p = true → (s.port p).phase = .training 7 →
    (s.port p).stepAt + 10000000 ≤ s.svc.now → qualMask (sendDue p s) p res % 2 ^ 16 ≠ 0 →
    exec (.qualificationEnd p res) s = .next (failAttempt p 7 true (qualDrop p (qualMask (sendDue p s) p res) (sendDue p s))))) ∧
  (
  (∀ (lane p : Nat) (b : BlockHead) (w : BitVec 256) (s : State), isLane lane = true → (s.lane lane).port = some p → markerValid b.bit w = true →
    ((s.lane lane).locked = true → b.pos = (s.lane lane).markPos) →
    let e := s.onLane lane (echoLine (.block b.bit w))
    let t := (e.onLane lane (goodMarker s.svc.now b.pos w)).onLane lane (fun l =>
      if (s.port p).phase == .training 6 && !l.standby then { l with logical := fld w 72 4 } else l)
    let u := sendDue p t
    exec (.alignmentMarker lane b w) s = .next (advance p (if fld w 64 8 = 1 then followSpare p lane (fld w 72 4) u else u))) ∧
  (∀ (now pos : Nat) (w : BitVec 256) (l : Lane),
    let m := goodMarker now pos w l
    m.badMarkers = 0 ∧ m.markPos = pos ∧ m.markerAt = now ∧ m.markerCount = BitVec.ofNat 16 (fld w 112 16) ∧
    (BitVec.ofNat 31 (fld w 80 31) ≠ 0 → m.scrambler = BitVec.ofNat 31 (fld w 80 31)) ∧ (l.locked = true → m.locked = true) ∧
    (l.locked = false → (m.locked = true ↔ ∃ n at_, l.places.find pos = some (n, at_) ∧ 2 ≤ n ∧ now ≤ at_ + 491520))) ∧
  (∀ (lane p : Nat) (b : BlockHead) (w : BitVec 256) (s : State), isLane lane = true → (s.lane lane).port = some p → markerValid b.bit w = false →
    (s.lane lane).locked = true → b.pos = (s.lane lane).markPos →
    let e := s.onLane lane (echoLine (.block b.bit w))
    exec (.alignmentMarker lane b w) s = .next (if (s.lane lane).badMarkers < 3 then e.onLane lane (fun l => { l with badMarkers := l.badMarkers + 1 })
      else loseLock lane e)) ∧
  (∀ (lane p : Nat) (b : BlockHead) (w : BitVec 256) (s : State), isLane lane = true → (s.lane lane).port = some p → markerValid b.bit w = false →
    (s.lane lane).locked = false →
    exec (.alignmentMarker lane b w) s = .next ((s.onLane lane (echoLine (.block b.bit w))).onLane lane (fun l => { l with places := l.places.del b.pos }))) ∧
  (∀ (lane p : Nat) (s : State), isLane lane = true → (s.lane lane).port = some p → (s.lane lane).locked = true → (s.lane lane).markerAt + 1310720 ≤ s.svc.now →
    let t := s.onLane lane (fun l => { l with locked := false, goodMarkers := 0, badMarkers := 0, places := [] })
    exec (.markerLockLoss lane) s = .next (if linkUp (s.port p) ∧ sends p (s.lane lane) then laneOut p lane t
      else if (s.port p).phase = .training 8 ∧ inUse p (s.lane lane) then failAttempt p 8 true t else t)) ∧
  (∀ (lane p : Nat) (s : State), (s.port p).phase = .up → (s.port p).widthNow = 0 → (s.port p).pendingSpare = none → standbyOf s p = none →
    (s.lane lane).standby = false →
    laneOut p lane s = linkDown p 6 0 ((s.onLane lane (fun l => { l with failed := true, standby := false, locked := false })).onPort p
      (fun q => { q with pendingSpare := none }))) ∧
  (∀ (lane p : Nat) (hs ws : List Nat) (e : BitErrors) (k : Nat) (up : Bool) (s : State), isLane lane = true → (s.lane lane).port = some p →
    inData (s.port p) = true → (s.lane lane).failed = false → (s.lane lane).leftOut = false →
    let t := s.onLane lane (adapt s.svc.now (efomFrom hs ws) k up)
    exec (.backgroundAdaptation lane hs ws e k up) s = .next (if 3 ≤ (t.lane lane).lowEfom ∨ e.bits < 10000 * e.errors then
        laneFails p lane (recordErr kLane lane 0x10 1 (leBytes (efomFrom hs ws) 2 ++ [if 3 ≤ (t.lane lane).lowEfom then 0 else 1]) t)
      else t)) ∧
  (∀ (p k x : Nat) (s : State), isPort p = true → (s.port p).pendingSpare = some k → standbyOf s p = some x → toMarker (s.lane x).tx = 0 →
    exec (.spareSubstitution p) s = .next ((s.onLane x (fun l => { l with standby := false, logical := k, sendAs := sendNumber s p k })).onPort p
      (fun q => { q with spareUsed := true, pendingSpare := none }))) ∧
  (∀ (p lane : Nat) (s : State), isPort p = true → isLane lane = true → (s.lane lane).port = some p → linkUp (s.port p) = true →
    exec (.los p lane) s = .next (linkDown p 0 0 (s.onLane lane (fun l => { restartLane l with signal := false })))) ∧
  (∀ (p lane n : Nat) (s : State), isPort p = true → isLane lane = true → (s.lane lane).port = some p → (s.port p).phase = .training n →
    let t := s.onLane lane (fun l => { restartLane l with signal := false })
    t.lanes.any (fun x => x.2.port == some p && x.2.signal) = true → exec (.los p lane) s = .next t))

/-! ### Ports and the link layer (01, 03) -/

/-- PORT_ENABLE, PORT_DISABLE and PORT_STATUS_READ (13 R385, R477, 16 R449, 02 R52): a port that may take the width is enabled and completes by event at once, a
trunk port whose causeway is closed when it has opened; one already in the state asked for completes with OK and changes nothing; another width in the quad,
another setting or too low a cap answers BUSY; a port goes down with LOCAL_DISABLE and completes when its flush has. Behind an unfinished transition of the port a
command is queued, behind a queued one it is BUSY.
The flush of a port disposes of its queues, and the opening of the causeway ends the trunk enables that wait for it (06 R161, 02 R52). -/
def Obligations.PortCommandsComplete : Prop :=
  (∀ (h : MHdr) (p w : Nat) (b : Bool) (s : State), Serves h [1] s → isPort p = true → portAbsent s p = false → w ≤ 3 → widthFits s p w = true →
    findTrans (.port p) s.mbx.trans = none → (s.port p).enabled = false → (isTrunk p = true ∨ quadConflict s p w = false) →
    s.svc.removedAt = none → brakeMw (enabledLanes s + lanesOf w) ≤ capW s * 1000 →
    let t := reply h 7 [] (enablePort p w b s)
    exec (.portEnable h p w b) s = .next (if isTrunk p = true ∧ s.svc.causewayClosed = true then beginTrans (.port p) h 0x0101 t
      else finishEvent h 0x0101 0 [] (useNumber p t)) ∧
    (t.port p).enabled = true ∧ (t.port p).width = w ∧ (t.port p).bridge = b ∧ (t.port p).phase = .waiting ∧ (∀ x, x ≠ p → t.port x = s.port x)) ∧
  (∀ (h : MHdr) (p w : Nat) (b : Bool) (s : State), Serves h [1] s → isPort p = true → portAbsent s p = false → w ≤ 3 → widthFits s p w = true →
    findTrans (.port p) s.mbx.trans = none → (s.port p).enabled = true → (s.port p).width = w → (s.port p).bridge = b →
    exec (.portEnable h p w b) s = .next (reply h 0 [] s)) ∧
  (∀ (h : MHdr) (p w : Nat) (b : Bool) (s : State), Serves h [1] s → isPort p = true → portAbsent s p = false → w ≤ 3 → widthFits s p w = true →
    findTrans (.port p) s.mbx.trans = none → ¬ ((s.port p).enabled = true ∧ (s.port p).width = w ∧ (s.port p).bridge = b) →
    ((s.port p).enabled = true ∨ (isTrunk p = false ∧ quadConflict s p w = true) ∨ capW s * 1000 < brakeMw (enabledLanes s + lanesOf w)) →
    exec (.portEnable h p w b) s = .next (reply h 2 [] s)) ∧
  (∀ (h : MHdr) (p w : Nat) (b : Bool) (t : Transition) (s : State), Serves h [1] s → isPort p = true → portAbsent s p = false → w ≤ 3 → widthFits s p w = true →
    findTrans (.port p) s.mbx.trans = some t →
    exec (.portEnable h p w b) s = .next (if t.queued.isSome then reply h 2 [] s else reply h 1 [] (s.onMbx (fun m =>
      { m with trans := m.trans.map (fun x => if x.key == .port p then { x with queued := some (.portEnable h p w b) } else x) })))) ∧
  (∀ (h : MHdr) (p : Nat) (s : State), Serves h [1] s → isPort p = true → portAbsent s p = false → findTrans (.port p) s.mbx.trans = none →
    (s.port p).enabled = true →
    let t := reply h 7 [] (stopPort p s)
    exec (.portDisable h p) s = .next (if (t.port p).flushing then beginTrans (.port p) h 0x0102 t else finishEvent h 0x0102 0 [] t) ∧
    (t.port p).enabled = false ∧ (t.port p).phase = .disabled ∧ (linkUp (s.port p) = true → (t.port p).flushing = true ∧ (t.port p).lastDown = some 2)) ∧
  (∀ (h : MHdr) (p : Nat) (s : State), Serves h [1] s → isPort p = true → portAbsent s p = false → findTrans (.port p) s.mbx.trans = none →
    (s.port p).enabled = false → exec (.portDisable h p) s = .next (reply h 0 [] s)) ∧
  (∀ (h : MHdr) (p : Nat) (t : Transition) (s : State), Serves h [1] s → isPort p = true → portAbsent s p = false →
    findTrans (.port p) s.mbx.trans = some t →
    exec (.portDisable h p) s = .next (if t.queued.isSome then reply h 2 [] s else reply h 1 [] (s.onMbx (fun m =>
      { m with trans := m.trans.map (fun x => if x.key == .port p then { x with queued := some (.portDisable h p) } else x) })))) ∧
  (∀ (h : MHdr) (p : Nat) (s : State), Serves h [0, 1, 2] s → isPort p = true → portAbsent s p = false →
    exec (.portStatusRead h p) s = .next (reply h 0 (portStatus s p) s)) ∧
  (∀ (p : Nat) (s : State), isPort p = true → s.svc.mod = .ready → (s.port p).flushing = true →
    let t := (flushPort p s).onPort p (fun q => { q with flushing := false })
    exec (.flushComplete p) s = .next (reenable p t) ∧
    (findTrans (.port p) t.mbx.trans = none → reenable p t = t) ∧
    (∀ x, findTrans (.port p) t.mbx.trans = some x → x.opcode ≠ 0x0902 → reenable p t = endTrans (.port p) 0 [] runQueuedPort t) ∧
    (∀ x, findTrans (.port p) t.mbx.trans = some x → x.opcode = 0x0902 → (t.port p).enabled = false →
      reenable p t = enablePort p (t.port p).width (t.port p).bridge (restartTrans (.port p) t))) ∧
  (∀ (s : State), s.svc.mod = .ready → s.svc.causewayOpening = true → s.svc.handover = false →
    ∃ t, exec .causewayOpen s = .next t ∧
      (findTrans (.port 512) s.mbx.trans = none → findTrans (.port 528) s.mbx.trans = none →
        t = { s with svc := { s.svc with causewayClosed := false, causewayOpening := false } }) ∧
      (∀ x, findTrans (.port 512) s.mbx.trans = some x → x.opcode = 0x0101 → x.queued = none → findTrans (.port 528) s.mbx.trans = none →
        t = finishEvent x.hdr 0x0101 0 [] (dropTrans (.port 512) { s with svc := { s.svc with causewayClosed := false, causewayOpening := false } })) ∧
      (∀ x, findTrans (.port 528) s.mbx.trans = some x → x.opcode = 0x0101 → x.queued = none → findTrans (.port 512) s.mbx.trans = none →
        t = finishEvent x.hdr 0x0101 0 [] (dropTrans (.port 528) { s with svc := { s.svc with causewayClosed := false, causewayOpening := false } })))

/-- The receiver (03 R64 to R66): a good data flit with the expected number is accepted and advances E; any other, and any flit that fails its CRC or overlaps a
codeword that cannot be corrected, asks once for a retry and changes nothing else of the receiver; one that overlaps a correctable codeword does not fail (02 R33,
R37); the eighth expiry takes the link down. -/
def Obligations.ReceiverFollowsRetryTable : Prop :=
  (∀ (p : Nat) (f : Flit) (s : State), isPort p = true → f.crcOk = true → linkUp (s.port p) = true → f.isCtl = false →
    f.fseq = ((takeLctl p f s).port p).link.expected →
    exec (.dataFlit p f) s = .next (acceptPayload p f ((takeLctl p f (hearFlit p s)).onLink p (fun l =>
      { l with expected := l.expected + 1, retryWait := false, retryCount := 0 })))) ∧
  (∀ (p : Nat) (f : Flit) (s : State), isPort p = true → f.crcOk = true → linkUp (s.port p) = true → f.isCtl = false →
    f.fseq ≠ ((takeLctl p f s).port p).link.expected → ((takeLctl p f s).port p).link.retryWait = false →
    exec (.dataFlit p f) s = .next ((takeLctl p f (hearFlit p s)).onLink p (fun l => { l with nakDue := true, retryWait := true, retryAt := s.svc.now, retryCount := 0 }))) ∧
  (∀ (p : Nat) (f : Flit) (s : State), isPort p = true → f.crcOk = false → linkUp (s.port p) = true → (s.port p).link.retryWait = false →
    exec (.dataFlit p f) s = .next ((hearFlit p s).onLink p (fun l => { l with nakDue := true, retryWait := true, retryAt := s.svc.now, retryCount := 0 }))) ∧
  (∀ (x : LostFlit) (s : State), isPort x.port = true → linkUp (s.port x.port) = true → wordFails s x.word = true → (s.port x.port).link.retryWait = false →
    exec (.crcFailedFlit x) s = .next ((hearFlit x.port (echoWord x.word s)).onLink x.port (fun l => { l with nakDue := true, retryWait := true, retryAt := s.svc.now, retryCount := 0 }))) ∧
  (∀ (x : LostFlit) (s : State), isPort x.port = true → linkUp (s.port x.port) = true → wordFails s x.word = true → (s.port x.port).link.retryWait = true →
    ∃ t, exec (.crcFailedFlit x) s = .next t ∧ (∀ k, t.port k = s.port k) ∧ { t with ports := s.ports, lanes := s.lanes } = s) ∧
  (∀ (x : LostFlit) (s : State), isPort x.port = true → wordFails s x.word = false → exec (.crcFailedFlit x) s = .next (hearFlit x.port (echoWord x.word s))) ∧
  (∀ (p k : Nat) (s : State),
    (hearFlit p s).lane k = (if carriesFlits p (s.port p) (s.lane k) then
      { s.lane k with scrambler := scrambleSkip (2048 / (txLanes s p).length) (s.lane k).scrambler } else s.lane k) ∧ { hearFlit p s with lanes := s.lanes } = s) ∧
  (∀ (p : Nat) (s : State), isPort p = true → (s.port p).phase = .up → (s.port p).link.retryWait = true → (s.port p).link.retryAt + 2000 ≤ s.svc.now →
    (s.port p).link.retryCount < 7 →
    exec (.linkRetryTimer p) s = .next (s.onLink p (fun l => { l with nakDue := true, retryAt := s.svc.now, retryCount := l.retryCount + 1 }))) ∧
  (∀ (p : Nat) (s : State), isPort p = true → (s.port p).phase = .up → (s.port p).link.retryWait = true → (s.port p).link.retryAt + 2000 ≤ s.svc.now →
    7 ≤ (s.port p).link.retryCount →
    exec (.linkRetryTimer p) s = .next (linkDown p 3 0
      (s.onLink p (fun l => { l with nakDue := true, retryAt := s.svc.now, retryCount := l.retryCount + 1 }))))

/-- A link that goes down (03 R69, R79 to R81): the cause is counted, the packets of the retry buffer and the one that is being sent wait for the flush, the
port is down in the core with its width of PORT_ENABLE again, trains again after any cause but LOCAL_DISABLE, its received packets keep their reservation until they have
been admitted, the sticky mark of narrowing stays, and the other ports keep their links. -/
def Obligations.LinkDownCountsAndHandsBack : Prop :=
  ∀ (p cause channel : Nat) (s : State),
    let q := (linkDown p cause channel s).port p
    q.lastDown = some cause ∧ q.coreDown = true ∧ q.flushing = true ∧ q.narrowed = (s.port p).narrowed ∧ q.widthNow = (s.port p).width ∧ q.partner = none ∧
    q.cnt.downs.look cause 0 = (s.port p).cnt.downs.look cause 0 + 1 ∧
    q.back = (s.port p).back ++ ((s.port p).link.sentPkts.map Prod.snd ++ (s.port p).link.txPkt.toList) ∧ q.rx = (s.port p).rx ∧
    q.link.retryBuf = [] ∧ q.link.openPkt = [] ∧ q.link.reserved = (if (s.port p).rx.isEmpty then [] else (s.port p).link.reserved) ∧
    (cause = 2 → q.phase = .disabled) ∧ (cause ≠ 2 → q.phase = .waiting ∨ q.phase = .training 1) ∧
    (∀ x, x ≠ p → (linkDown p cause channel s).port x = s.port x)

/-- The transmitter's timers (03 R67, R73): 2 us without progress resends the whole buffer, the eighth in a row takes the link down; a channel's XOFF held for
1 ms takes it down.
Control flits (03 R59, R75, R76, R78, R80). IDLE does no more than its link control; each of the others adds its own effect: the first INIT of a partner whose
number and channels are right is answered with the loop measurements, a wrong one restarts training; the sixteenth LOOP_ECHO reserves the buffers and is answered with
INIT_ACK. -/
def Obligations.TimersAndControlFlitsComplete : Prop :=
  (
  (∀ (p : Nat) (s : State), isPort p = true → (s.port p).phase = .up → (s.port p).link.retryBuf ≠ [] → (s.port p).link.txAt + 2000 ≤ s.svc.now →
    (s.port p).link.txExpiries < 7 →
    exec (.retryBufferTimer p) s = .next (s.onLink p (fun l => { l with resend := l.retryBuf.length, txAt := s.svc.now, txExpiries := l.txExpiries + 1 }))) ∧
  (∀ (p : Nat) (s : State), isPort p = true → (s.port p).phase = .up → (s.port p).link.retryBuf ≠ [] → (s.port p).link.txAt + 2000 ≤ s.svc.now →
    7 ≤ (s.port p).link.txExpiries →
    exec (.retryBufferTimer p) s = .next (linkDown p 3 0
      (s.onLink p (fun l => { l with resend := l.retryBuf.length, txAt := s.svc.now, txExpiries := l.txExpiries + 1 })))) ∧
  (∀ (p v t : Nat) (s : State), isPort p = true → v < 6 → (s.port p).phase = .up → (s.port p).link.xoffSince.find v = some t → t + 1000000 ≤ s.svc.now →
    exec (.xoffWatchdog p v) s = .next (linkDown p 4 v s))) ∧
  (
  (∀ (p : Nat) (f : Flit) (s : State), isPort p = true → f.crcOk = true → f.isCtl = true → f.ctype = 0 →
    exec (.idleControlFlit p f) s = .next (if linkUp (s.port p) then takeLctl p f (hearFlit p s) else hearFlit p s)) ∧
  (∀ (p : Nat) (f : Flit) (s : State), isPort p = true → f.crcOk = true → f.isCtl = true → f.ctype = 1 → (s.port p).phase = .training 8 →
    f.param / 2 ^ 13 % 64 = channelMask p → initNodeOk s p (BitVec.ofNat 13 (f.param % 2 ^ 13)) = true → s.svc.bridge = false →
    let t := (hearFlit p s).onPort p (fun q => { q with
      partner := some (BitVec.ofNat 13 (f.param % 2 ^ 13)), link := { q.link with initSeen := true, startCount := BitVec.ofNat 16 (f.param / 2 ^ 19) } })
    exec (.init p f) s = .next (if (s.port p).link.initSeen then t else sendCtls p 3 (s.svc.now % 2 ^ 64) 16 t)) ∧
  (∀ (p : Nat) (f : Flit) (s : State), isPort p = true → f.crcOk = true → f.isCtl = true → f.ctype = 1 → (s.port p).phase = .training 8 →
    f.param / 2 ^ 13 % 64 = channelMask p → initNodeOk s p (BitVec.ofNat 13 (f.param % 2 ^ 13)) = true → s.svc.bridge = true →
    ∃ t, exec (.init p f) s = .next t ∧ (t.port p).partner = some (BitVec.ofNat 13 (f.param % 2 ^ 13)) ∧ (t.port p).link.initSeen = true ∧
      t.svc.node = some ((s.svc.node).getD (BitVec.ofNat 13 (f.param % 2 ^ 13)))) ∧
  (∀ (p : Nat) (f : Flit) (s : State), isPort p = true → f.crcOk = true → f.isCtl = true → f.ctype = 1 → (s.port p).phase = .training 8 →
    f.param / 2 ^ 13 % 64 ≠ channelMask p → exec (.init p f) s = .next (failAttempt p 8 true (hearFlit p s))) ∧
  (∀ (p : Nat) (f : Flit) (s : State), isPort p = true → f.crcOk = true → f.isCtl = true → f.ctype = 2 → (s.port p).phase = .training 8 →
    exec (.initAck p f) s = .next ((hearFlit p s).onLink p (fun l =>
      { l with initAcked := true, expected := 0, nextSeq := 0, xoffIn := 0, xoffOut := 0, xoffSince := [] }))) ∧
  (∀ (p : Nat) (f : Flit) (s : State), isPort p = true → f.crcOk = true → f.isCtl = true → f.ctype = 3 → (s.port p).phase = .training 8 →
    exec (.loopPing p f) s = .next (sendCtl p 4 (f.param % 2 ^ 64) (hearFlit p s))) ∧
  (∀ (p : Nat) (f : Flit) (s : State), isPort p = true → f.crcOk = true → f.isCtl = true → f.ctype = 4 → (s.port p).phase = .training 8 →
    (s.port p).link.loops.length < 15 →
    exec (.loopEcho p f) s = .next ((hearFlit p s).onLink p (fun l => { l with loops := (s.port p).link.loops ++ [s.svc.now - f.param % 2 ^ 64] }))) ∧
  (∀ (p : Nat) (f : Flit) (s : State), isPort p = true → f.crcOk = true → f.isCtl = true → f.ctype = 4 → (s.port p).phase = .training 8 →
    (s.port p).link.loops.length = 15 →
    let l := (s.port p).link.loops ++ [s.svc.now - f.param % 2 ^ 64]
    let t := (hearFlit p s).onLink p (fun k => { k with loops := l })
    exec (.loopEcho p f) s = .next (if 400 < l.foldl max 0 then failAttempt p 8 true (recordErr kPort p 0x03 2 (leBytes (l.foldl max 0) 4) t)
      else sendCtl p 2 0 (t.onPort p (fun q => { q with link := { q.link with tMeas := l.foldl max 0, reserved := reserve p q (l.foldl max 0) } })))) ∧
  (∀ (p : Nat) (f : Flit) (s : State), isPort p = true → f.crcOk = true → f.isCtl = true → f.ctype = 5 → linkUp (s.port p) = true →
    exec (.widthChange p f) s = .next (takeMask p (BitVec.ofNat 16 (f.param % 2 ^ 16)) (takeLctl p f (hearFlit p s)))) ∧
  (∀ (p : Nat) (m : BitVec 16) (s : State),
    let t := s.onPort p (fun q => { q with partnerMask := some m })
    ((s.port p).phase = .up → takeMask p m s = startNarrowing p t) ∧
    ((s.port p).phase ≠ .up → (s.port p).narrowStep = 0 → takeMask p m s = narrowGo p t) ∧
    ((s.port p).phase ≠ .up → (s.port p).narrowStep ≠ 0 → (s.port p).partnerMask = some m → takeMask p m s = s)) ∧
  (∀ (p : Nat) (f : Flit) (s : State), isPort p = true → f.crcOk = true → f.isCtl = true → f.ctype = 6 → linkUp (s.port p) = true →
    exec (.down p f) s = .next (linkDown p 1 0 (takeLctl p f (hearFlit p s)))))

/-- The port comes up (03 R75 step 5) once initialization has run and its flush is over, with one PORT_UP event (13 R475); narrowing that passes leaves the
port up at the width that its lanes took, with the retry buffer to send again and LINK_NARROWED, and narrowing that fails takes the link down with NARROW_FAIL (03
R78, R79). That the timers then start anew is the model's choice (log entry 35). -/
def Obligations.PortUpAndNarrowingComplete : Prop :=
  (∀ (p : Nat) (s : State), isPort p = true → (s.port p).phase = .training 8 → initDone (s.port p).link = true → (s.port p).flushing = false →
    ∃ t, exec (.portUp p) s = .next (unsolicited 1 1 (leBytes p 2 ++ [BitVec.ofNat 8 (s.port p).widthNow]) t) ∧
      (t.port p).phase = .up ∧ (t.port p).coreDown = false ∧ (t.port p).attempts = 0 ∧ (t.port p).mgtAllow = 192 ∧
      (∀ x, x ≠ p → t.port x = s.port x) ∧ t.core = s.core ∧ t.mbx = s.mbx ∧ t.err = s.err) ∧
  (∀ (p : Nat) (res : List QualRes) (s : State), isPort p = true → (s.port p).phase = .narrowing → (s.port p).narrowStep = 7 →
    (s.port p).stepAt + 10000000 ≤ s.svc.now → qualMask s p res % 2 ^ 16 = 0 →
    ∃ t, exec (.narrowComplete p res) s = .next t ∧ (t.port p).phase = .up ∧ (t.port p).widthNow = (s.port p).widthNow ∧ (t.port p).narrowed = true ∧
      (t.port p).partnerMask = none ∧ (t.port p).link.resend = (s.port p).link.retryBuf.length ∧
      (t.port p).link.retryBuf = (s.port p).link.retryBuf ∧ (t.port p).link.expected = (s.port p).link.expected ∧ (t.port p).link.txAt = s.svc.now ∧
      (∀ x, x ≠ p → t.port x = s.port x)) ∧
  (∀ (p : Nat) (res : List QualRes) (s : State), isPort p = true → (s.port p).phase = .narrowing → (s.port p).narrowStep = 7 →
    (s.port p).stepAt + 10000000 ≤ s.svc.now → qualMask s p res % 2 ^ 16 ≠ 0 → exec (.narrowComplete p res) s = .next (linkDown p 7 0 s))

/-! ### The switch core (06) -/

/-- Settings of the core (06 R160, R166, R168, 14 R404): the arbiter's mode, refused as LAST_BEAT while a confidential tenant exists; its counters, read and
cleared in one cycle; and one colour's profile of one output; 0xFF keeps the output's W, and any other value above 15 is BAD_ARG.
The egress of a port (06 R165, 03 R59, R66 to R68): flits due again go first, each with the link control of the moment; then the next flit of the packet in
progress while the retry buffer has room; then the packet that the arbiter picks; else an IDLE flit. A residue port that is ready takes its copy (06 R157). -/
def Obligations.CoreSettingsAndEgressComplete : Prop :=
  (
  (∀ (h : MHdr) (inst mode : Nat) (s : State), Serves h [1] s → arbExists inst = true → mode ≤ 1 → (mode = 0 ∨ anyConf s = false) →
    exec (.arbModeSet h inst mode) s = .next (reply h 0 []
      { s with core := { s.core with arbs := s.core.arbs.upd inst {} (fun a => { a with lastBeat := mode == 1 }) } })) ∧
  (∀ (h : MHdr) (inst : Nat) (s : State), Serves h [1] s → anyConf s = true → exec (.arbModeSet h inst 1) s = .next (reply h 3 [] s)) ∧
  (∀ (h : MHdr) (inst : Nat) (clear : Bool) (s : State), Serves h [1, 0] s → arbExists inst = true →
    let a := s.core.arbs.look inst {}
    let z := s.snap.arbs.look inst {}
    let rs := (a.reqs.filter (arbCounted s z)).take 101
    exec (.arbCountersRead h inst clear) s = .next (reply h 0
      (pack [.num 8 (coarse s a.dead z.dead), .num 2 rs.length, .bytes (rs.flatMap (arbReqBytes s z))])
      (if clear then { s with core := { s.core with arbs := s.core.arbs.upd inst {} (fun a =>
        { a with reqs := a.reqs.each (fun k c => if rs.any (fun r => r.1 == k) then { current := c.current } else c), dead := 0 }) } } else s))) ∧
  (∀ (h : MHdr) (o colour lo hi p w : Nat) (s : State), Serves h [1] s → portAbsent s o = false → (isPort o = true ∨ o = 0xFFFF) → colour ≤ 2 →
    lo ≤ hi → p ≤ 65535 → (w ≤ 15 ∨ w = 0xFF) →
    exec (.redProfileSet h o colour lo hi p w) s = .next (reply h 0 [] { s with core := { s.core with
      redProf := s.core.redProf.put (o * 4 + colour) { minTh := lo, maxTh := hi, maxP := p }
      redW := if w = 0xFF then s.core.redW else s.core.redW.put o w } })) ∧
  (∀ (h : MHdr) (o colour lo hi p w : Nat) (s : State), Serves h [1] s → portAbsent s o = false → 15 < w → w ≠ 0xFF →
    exec (.redProfileSet h o colour lo hi p w) s = .next (reply h 4 [] s))) ∧
  (
  (∀ (p : Nat) (f : Flit) (r : List Flit) (s : State), isPort p = true → s.svc.mod = .ready → (s.port p).phase = .up → 0 < (s.port p).link.resend →
    (s.port p).link.retryBuf.drop ((s.port p).link.retryBuf.length - (s.port p).link.resend) = f :: r →
    exec (.egressDecision p) s = .next (putFlit p (flitNow (s.port p).link f.hdr f.pay f.fseq f.fin) (s.onLink p (fun l =>
      { l with resend := l.resend - 1, nakDue := false, txAt := if l.resend == l.retryBuf.length then s.svc.now else l.txAt })))) ∧
  (∀ (p : Nat) (s : State), isPort p = true → s.svc.mod = .ready → (s.port p).phase = .up → (s.port p).link.resend = 0 → (s.port p).link.txOpen ≠ [] →
    128 ≤ (s.port p).link.retryBuf.length → exec (.egressDecision p) s = .next (sendCtl p 0 0 s)) ∧
  (∀ (p : Nat) (s : State), isPort p = true → s.svc.mod = .ready → (s.port p).phase = .up → (s.port p).link.resend = 0 → (s.port p).link.txOpen ≠ [] →
    (s.port p).link.retryBuf.length < 128 →
    let f := (s.port p).link.txOpen.take 15
    ∃ t, exec (.egressDecision p) s = .next t ∧ (t.port p).link.txOpen = (s.port p).link.txOpen.drop 15 ∧
      (t.port p).link.nextSeq = (s.port p).link.nextSeq + 1 ∧ (t.port p).link.nakDue = false ∧
      (t.port p).link.retryBuf.map Flit.pay = (s.port p).link.retryBuf.map Flit.pay ++ [f ++ List.replicate (15 - f.length) 0]) ∧
  (∀ (p : Nat) (s : State), isPort p = true → isTrunk p = false → s.svc.mod = .ready → (s.port p).phase = .up → (s.port p).link.resend = 0 →
    (s.port p).link.txOpen = [] → egressAsks p s = [] → (arbOf s (arbKey arbEgress p)).chosen = none →
    exec (.egressDecision p) s = .next (sendCtl p 0 0 s)) ∧
  (∀ (p vc : Nat) (s : State), isPort p = true → s.svc.mod = .ready → (s.port p).phase = .up → (s.port p).link.resend = 0 → (s.port p).link.txOpen = [] →
    let u := if isTrunk p then advanceShapers p (now16 s) (gatesNow p s) else s
    egressAsks p u ≠ [] → (arbOf u (arbKey arbEgress p)).chosen = none → (arbOf u (arbKey arbEgress p)).lastBeat = false →
    egressPick p u (egressAsks p u) = some vc →
    let t := serveChannel p vc (onArb (arbKey arbEgress p) (fun a => { arbCount false (egressAsks p u) (some vc) a with chosen := none }) u)
    exec (.egressDecision p) s = .next (if (t.port p).link.txOpen.isEmpty then sendCtl p 0 0 t else beat p true t)) ∧
  (∀ (line p q : Nat) (x y : McEntry) (rest : List Nat) (s : State), line < 64 → isPort p = true → s.svc.mod = .ready →
    residueFor line p s = some x → residueReady s x = q :: rest →
    (arbOf s (arbKey arbResidue line)).chosen = none → (arbOf s (arbKey arbResidue line)).lastBeat = false → residueAsks line s ≠ [] →
    let t := onArb (arbKey arbResidue line) (fun a => { arbCount false (residueAsks line s) (some q) a with chosen := none }) s
    residueFor line q t = some y → exec (.residueService line p) s = .next (serveResidue line y q t)) ∧
  (∀ (line p : Nat) (s : State), line < 64 → isPort p = true → s.svc.mod = .ready → residueFor line p s = none →
    (arbOf s (arbKey arbResidue line)).chosen = none → exec (.residueService line p) s = .next s))

/-- Admission (06 R144, R146, R164): the packet at the head of a channel, of a port or of the local agents. One that fails a check goes at once; a class G packet
is admitted or dropped; for class M the round robin of the line grants one attachment, whose packet leaves its buffer for the virtual output queue of its line, output
and channel; with none that may enter every packet waits, and nothing changes. -/
def Obligations.AdmissionMovesOrWaits : Prop :=
  (∀ (p vc : Nat) (s : State), isPort p = true → vc < 6 → s.svc.mod = .ready → headOf p vc s = none → exec (.packetAdmission p vc) s = .next s) ∧
  (∀ (p vc : Nat) (k : Packet) (t u : State) (s : State), isPort p = true → vc < 6 → s.svc.mod = .ready → headOf p vc s = some (k, none) →
    checkPacket p none k s = .inl u → refusalWaits s k = false → checkPacket p none k (takeHead p (k, none) s) = .inl t →
    exec (.packetAdmission p vc) s = .next t) ∧
  (∀ (p vc o : Nat) (k : Packet) (s : State), isPort p = true → vc < 6 → s.svc.mod = .ready → headOf p vc s = some (k, none) →
    checkPacket p none k s = .inr o → isClassG s p o k = true → exec (.packetAdmission p vc) s = .next (admitG p o (k, none) s)) ∧
  (∀ (p vc o a : Nat) (k : Packet) (s : State), isPort p = true → vc < 6 → s.svc.mod = .ready → headOf p vc s = some (k, none) →
    checkPacket p none k s = .inr o → isClassG s p o k = false →
    let line := (takeInLine p s).1
    (arbOf s (arbKey arbAdmission line)).chosen = none → (arbOf s (arbKey arbAdmission line)).lastBeat = false →
    rrPick (arbOf s (arbKey arbAdmission line)).rr (admissionAsks line s) = some a →
    exec (.packetAdmission p vc) s = .next (admitOne p vc a
      (onArb (arbKey arbAdmission line) (fun x => { arbCount false (admissionAsks line s) (some a) x with chosen := none, rr := a }) s))) ∧
  (∀ (p vc o : Nat) (k : Packet) (s : State), isPort p = true → vc < 6 → s.svc.mod = .ready → headOf p vc s = some (k, none) →
    checkPacket p none k s = .inr o → isClassG s p o k = false → admissionAsks (takeInLine p s).1 s = [] →
    (arbOf s (arbKey arbAdmission (takeInLine p s).1)).chosen = none → exec (.packetAdmission p vc) s = .next s) ∧
  (∀ (vc : Nat) (s : State), vc < 6 → s.svc.mod = .ready → s.svc.node ≠ none →
    exec (.packetAdmission 0xFFFF vc) s = .next (contributeAll (pump (fillLocal (admission 0xFFFF vc s))))) ∧
  (∀ (p vc o : Nat) (k : Packet) (s : State), isPort p = true → isSpread p = false → isSpread o = false → o ≠ 0x10000 → k.mcast = false →
    headOf p vc s = some (k, none) → mayEnter p s vc = true → checkPacket p none k s = .inr o →
    let u := takeHead p (k, none) s
    admitOne p vc p s = voqPush (fixedLine p) o k.vc.toNat { pkt := k, eline := fixedLine o, g := false } u ∧
    (u.port p).rx = (s.port p).rx.erase k ∧ (∀ x, x ≠ p → u.port x = s.port x))

/-- One core cycle (06 R150 to R152, R168, 15 R425) always completes, with or without an error in the packet buffers; it advances the cycle number by one and
touches nothing outside the ports' egress queues, the core, the trunks' queues, and what a delivery or a drop there counts; only an error reaches further, to
its record and to the operation whose packet is lost. A corrected error changes nothing but the count. -/
def Obligations.CoreCycleAdvancesByOne : Prop :=
  ∀ (hit : Option SramHit) (s : State), s.svc.mod = .ready → ∃ t, exec (.coreCycle hit) s = .next t ∧ t.core.cycle = s.core.cycle + 1 ∧ t.svc.now = s.svc.now ∧
    t.svc.node = s.svc.node ∧ t.mbx = s.mbx ∧ t.lanes = s.lanes ∧ t.sec = s.sec ∧
    t.flash = s.flash ∧ t.pending = s.pending ∧ (hit = none → t.reed = s.reed ∧ t.pwr = s.pwr ∧ t.home = s.home ∧ t.xlat = s.xlat ∧ t.queues = s.queues ∧ t.err = s.err) ∧
    (∀ p, (t.port p).rx = (s.port p).rx ∧ (t.port p).link = (s.port p).link ∧ (t.port p).phase = (s.port p).phase) ∧
    (∀ h, hit = some h → h.corrected = true → exec (.coreCycle none) (recordCorrected kCore 0 s) = .next t)

/-- A stage 1 cell sent in cycle t from ingress line i enters intermediate queue (i + t) mod 64 with the flow's next sequence number, and no other
intermediate queue changes (06 R150, R152). -/
def Obligations.CellsFollowTheCyclicPattern : Prop :=
  ∀ (i r : Nat) (v : Voq) (q : QPkt) (rest : List QPkt) (s : State), (arbOf s (arbKey arbStage1 i)).chosen = none → (arbOf s (arbKey arbStage1 i)).lastBeat = false →
    s.core.voqs.any (fun v => v.line == i) = true →
    stage1Pick (arbOf s (arbKey arbStage1 i)).rr ((s.core.voqs.filter (fun v => v.line == i && voqReady s v)).map voqReq) = some r →
    s.core.voqs.find? (isVoq i (r / 8) (r % 8)) = some v → v.line = i → v.out = r / 8 → v.out ≠ 0x10000 → v.pkts = q :: rest →
    let t := stage1 s i
    (∀ j, j ≠ (i + s.core.cycle) % 64 → t.core.iqs.look j [] = s.core.iqs.look j []) ∧
    (∃ c, t.core.iqs.look ((i + s.core.cycle) % 64) [] = s.core.iqs.look ((i + s.core.cycle) % 64) [] ++ [c] ∧
      c.cycle = s.core.cycle ∧ c.line = i ∧ c.seq = s.core.flowTx.look (flowKey i v.out v.vc q.eline) 0) ∧
    t.core.flowTx.look (flowKey i v.out v.vc q.eline) 0 = s.core.flowTx.look (flowKey i v.out v.vc q.eline) 0 + 1

/-! ### The home of the exported memory (04, 05, 10) -/

/-- A request at the home (04 R90, R479, 05 R121, R122, R127): a fresh one is accounted; what fails a check is answered with that check's status, in the order
of the checks; a plain request that passes them is applied at once, whatever RELEASE waits below it; a RELEASE whose lower SEQs are not all accounted is held and
nothing else is done, and one that may land is judged by the sluice. A duplicate is executed again, but for an ATOMIC. A walk over a damaged mirror finds no page (log
entry 21). Said for each of the four rows. -/
def Obligations.HomeRequestsComplete : Prop :=
  ∀ (port : Nat) (k : Packet) (ecc : Ecc) (s : State), (isPort port = true ∨ port = 0xFFFF) → s.svc.mod = .ready → s.svc.node = some k.dst →
    s.svc.hbmResetting = [] → localRoom s 1 = true →
    let p := opened s k
    let e : Ecc := if k.op = opWrLine then .clean else ecc
    let run : State → Prop := fun t =>
      (k.op = opRdLine → exec (.rdLine port k ecc) s = .next t) ∧ (k.op = opWrLine → exec (.wrLine port k) s = .next t) ∧
      (k.op = opWrMasked → exec (.wrMasked port k ecc) s = .next t) ∧ (k.op = opAtomic → exec (.atomic port k ecc) s = .next t)
    let u := openWin p.src.toNat p.seq (takeLocal k s)
    let v := u.onWin p.src.toNat (accountSeq s.svc.now p.seq)
    (authCheck p u = .ok →
      (seqClass (u.win p.src.toNat) p.seq = .outside → run (answerCmpl p stBadRequest u)) ∧
      (seqClass (u.win p.src.toNat) p.seq = .duplicate → run (duplicate port p e u)) ∧
      (seqClass (u.win p.src.toNat) p.seq = .fresh →
        (check7Bad p = true → run (failRequest false p stBadRequest v)) ∧
        (check7Bad p = false → tenantGone p.tenant.toNat v = true → run (failRequest false p stTenantRevoked v)) ∧
        (check7Bad p = false → tenantGone p.tenant.toNat v = false → ∀ st, tgtWalk e v p.tenant.toNat p.offset.toNat (accessOf p) = .inr st →
          run (failRequest false p st (mirrorCheck e v))) ∧
        (check7Bad p = false → tenantGone p.tenant.toNat v = false → ∀ a x, tgtWalk e v p.tenant.toNat p.offset.toNat (accessOf p) = .inl a →
          findEntry v.xlat.tgt p.tenant.toNat p.offset.toNat = some x →
          let w := touchCache 48 x v
          (homeClosed w port = true → run (failRequest false p stNotReady w)) ∧
          (homeClosed w port = false → p.release = false → run (applyRequest false p a e w)) ∧
          (homeClosed w port = false → p.release = true → mayLand (w.win p.src.toNat) p = true → run (landRelease port p e w)) ∧
          (homeClosed w port = false → p.release = true → mayLand (w.win p.src.toNat) p = false →
            run (w.onWin p.src.toNat (fun y => { y with held := y.held ++ [{ pkt := p, port := port }] })))))) ∧
    (authCheck p u = .fail → seqClass (u.win p.src.toNat) p.seq = .fresh →
      run (sprayVia none (planeCmpl (selfNode s) p stAuthFail) (noteEarly p (noteFailure p (some stAuthFail) v)))) ∧
    (∀ (x : Ecc) (t off acc : Nat), tgtWalk x s t off acc = (if x = .mirror then .inr stNotMapped else tgtTranslate s t off acc) ∧
      (x ≠ .mirror → mirrorCheck x s = s))

/-- What a line operation does (04 R91 to R93, R102 to R107): a read answers with the line and changes no byte; a write stores exactly the bytes its mask
selects; a CAS that matches stores, and one that does not leaves the line; every byte outside the line is as before. -/
def Obligations.LineOperationsHitTheirLine : Prop :=
  ∀ (p : Packet) (a : Nat) (s : State), HbmCanonical s → a % 128 = 0 → s.home.failedChannels = [] → s.home.lost = [] → s.queues.qps = [] → p.data.length = 128 →
    (∀ k, s.home.owner.find (a / 128) = some k → k = memKeyOf s p.tenant.toNat) →
    let line := memGetN s.home.hbm a 128
    let t := (lineOp p a .clean s).2
    (∀ x, (x < a ∨ a + 128 ≤ x) → memGet t.home.hbm x = memGet s.home.hbm x) ∧
    (p.op = opRdLine → memGetN t.home.hbm a 128 = line ∧ ∃ u, (lineOp p a .clean s).1 = some (answer p opRdData 0 line 0 u)) ∧
    (p.op = opWrLine → memGetN t.home.hbm a 128 = p.data ∧ (lineOp p a .clean s).1 = some (answerCmpl p 0 t)) ∧
    (p.op = opWrMasked → p.mask < 2 ^ 128 → memGetN t.home.hbm a 128 = mergeMask p.mask line p.data ∧ (lineOp p a .clean s).1 = some (answerCmpl p 0 t)) ∧
    (p.op = opAtomic → memGetN t.home.hbm a 128 = (atomicLine p line).1)

/-- A WR_MASKED whose mask is all zero stores nothing and is answered with OK (04 R93); with RELEASE set it still passes the sluice: it is held while a lower SEQ is
not accounted, and lands once it may. -/
def Obligations.EmptyMaskStoresNothing : Prop :=
  (∀ (p : Packet) (a : Nat) (ecc : Ecc) (s : State), p.op = opWrMasked → p.mask = 0 →
    (lineOp p a ecc s).1 = some (answerCmpl p 0 (lineOp p a ecc s).2) ∧ (lineOp p a ecc s).2.home.hbm = s.home.hbm ∧
    (lineOp p a ecc s).2.home.owner = s.home.owner ∧ (lineOp p a ecc s).2.home.lost = s.home.lost) ∧
  (∀ (port a : Nat) (k : Packet) (ecc : Ecc) (x : XEntry) (s : State), (isPort port = true ∨ port = 0xFFFF) → s.svc.mod = .ready → s.svc.node = some k.dst →
    s.svc.hbmResetting = [] → localRoom s 1 = true → k.op = opWrMasked →
    (let p := opened s k
     let u := openWin p.src.toNat p.seq (takeLocal k s)
     let v := u.onWin p.src.toNat (accountSeq s.svc.now p.seq)
     ecc ≠ .mirror → p.mask = 0 → p.release = true → authCheck p u = .ok → seqClass (u.win p.src.toNat) p.seq = .fresh → check7Bad p = false → tenantGone p.tenant.toNat v = false →
     tgtTranslate v p.tenant.toNat p.offset.toNat (accessOf p) = .inl a → findEntry v.xlat.tgt p.tenant.toNat p.offset.toNat = some x →
     homeClosed (touchCache 48 x v) port = false → mayLand ((touchCache 48 x v).win p.src.toNat) p = false →
     exec (.wrMasked port k ecc) s = .next ((touchCache 48 x v).onWin p.src.toNat (fun y => { y with held := y.held ++ [{ pkt := p, port := port }] })))) ∧
  (∀ (src : Nat) (seq : BitVec 16) (ecc : Ecc) (x : Held) (s : State), s.svc.mod = .ready → s.svc.hbmResetting = [] →
    (s.win src).held.find? (fun h => h.pkt.seq == seq) = some x → x.pkt.op = opWrMasked → x.pkt.mask = 0 → mayLand (s.win src) x.pkt = true →
    exec (.releaseLand src seq ecc) s = .next (landHeld x.port x.pkt ecc
      (s.onWin src (fun w => { w with held := w.held.filter (fun h => h.pkt.seq != seq) }))))

/-- The timers and settings of the home (05 R122, R124, R128, R140, 10 R306): a held RELEASE whose conditions hold lands; holes are written off by the
hold limit; an idle window is dropped after 20 ms; a hot-line window ends; the export changes, and answers once the last admitted request has. -/
def Obligations.HomeEventsComplete : Prop :=
  (∀ (src : Nat) (seq : BitVec 16) (ecc : Ecc) (x : Held) (s : State), s.svc.mod = .ready → s.svc.hbmResetting = [] →
    (s.win src).held.find? (fun h => h.pkt.seq == seq) = some x → mayLand (s.win src) x.pkt = true →
    exec (.releaseLand src seq ecc) s = .next (landHeld x.port x.pkt ecc
      (s.onWin src (fun w => { w with held := w.held.filter (fun h => h.pkt.seq != seq) })))) ∧
  (∀ (src : Nat) (s : State), s.svc.mod = .ready → exec (.holeWriteOff src) s = .next (writeOff src s)) ∧
  (∀ (src : Nat) (w : SrcWin) (s : State), s.svc.mod = .ready → s.home.wins.find src = some w → w.held = [] → w.last + 20000000 ≤ s.svc.now →
    exec (.windowStateDrop src) s = .next { s with home := { s.home with wins := s.home.wins.del src } }) ∧
  (∀ s : State, s.home.hotWindow ≠ s.svc.now / 1000 → exec .hotLineWindow s = .next (closeHot s)) ∧
  (∀ (h : MHdr) (s : State), Serves h [1, 0] s →
    exec (.hotLineRead h) s = .next (reply h 0 (pack [.num 8 (coarse s s.home.hotCount s.snap.hot), .num 8 s.home.hotOffset, .num 2 s.home.hotTenant])
      { s with home := { s.home with hotCount := 0, hotOffset := 0, hotTenant := 0 } })) ∧
  (∀ (h : MHdr) (on : Bool) (s : State), Serves h [1] s → findTrans .export_ s.mbx.trans = none → s.home.exported ≠ on →
    exec (.hbmExportSet h on) s = .next (beginTrans .export_ h 0x0203 (reply h 7 [] { s with home := { s.home with exported := on } }))) ∧
  (∀ (h : MHdr) (on : Bool) (s : State), Serves h [1] s → findTrans .export_ s.mbx.trans = none → s.home.exported = on →
    exec (.hbmExportSet h on) s = .next (reply h 0 [] s)) ∧
  (∀ (h : MHdr) (on : Bool) (t : Transition) (s : State), Serves h [1] s → findTrans .export_ s.mbx.trans = some t →
    exec (.hbmExportSet h on) s = .next (if t.queued.isSome then reply h 2 [] s else reply h 1 [] (s.onMbx (fun m =>
      { m with trans := m.trans.map (fun x => if x.key == .export_ then { x with queued := some (.hbmExportSet h on) } else x) })))) ∧
  (∀ (t : Transition) (s : State), findTrans .export_ s.mbx.trans = some t → s.svc.handover = false →
    let u := finishEvent t.hdr t.opcode 0 [] (dropTrans .export_ { s with sec := { s.sec with epoch := (s.sec.epoch + 1) % 2 ^ 64 } })
    exec .exportTransitionEnd s = .next (match t.queued with | some i => runQueuedExport i u | none => u))

/-- A failed write spoils the next RELEASE of its tenant (05 R125): the RELEASE completes with the status of the lowest failure, is not applied, and
no later RELEASE answers for the failures below it again. A held RELEASE lands out of the sluice: where a word there is uncorrectable it completes with DATA_LOST, and
stores nothing (15 R425), whatever the part does with the damaged frame of its own (15 R438).
Writing off holes (05 R124): every RELEASE of the source held above the lowest expired hole is discarded and counted, and the other sources'
windows are untouched. -/
def Obligations.SluiceJudgesHeldReleases : Prop :=
  (
  (∀ (port st : Nat) (p : Packet) (f : Failure) (ecc : Ecc) (s : State), lowestFailure (s.win p.src.toNat).low (spoilers (s.win p.src.toNat) p) = some f →
    f.status = some st → p.release = true →
    let t := s.onWin p.src.toNat (fun w => { w with early := w.early ++ [(p.seq, p.tenant.toNat)] })
    landRelease port p ecc s = answerCmpl p st t ∧ (landRelease port p ecc s).home.hbm = s.home.hbm) ∧
  (∀ (w : SrcWin) (p : Packet) (f : Failure) (q : BitVec 16), (q, p.tenant.toNat) ∈ w.early → seqLt w.low f.seq q = true → seqLt w.low q p.seq = true →
    f ∉ spoilers w p) ∧
  (∀ (port : Nat) (p : Packet) (s : State), landHeld port p .clean s = landRelease port p .clean s ∧
    (readsLine p = false → ∃ t, landHeld port p .uncorrectable s = answerCmpl p stDataLost (noteEarly p t) ∧
      (∀ a, a < 2 ^ 38 - 2 ^ 20 → memGet t.home.hbm a = memGet s.home.hbm a) ∧ t.home.wins = s.home.wins))) ∧
  (
  ∀ (src : Nat) (q : BitVec 16) (rest : List (BitVec 16)) (s : State), expiredHoles s.svc.now s.home.reqTimeout (s.win src) = q :: rest →
    let t := writeOff src s
    (∀ h ∈ (t.win src).held, h ∈ (s.win src).held ∧ seqLt (s.win src).low q h.pkt.seq = false) ∧
    (t.win src).expiries = (s.win src).expiries + ((s.win src).held.filter (fun h => seqLt (s.win src).low q h.pkt.seq)).length ∧
    (∀ n, n ≠ src → t.win n = s.win n) ∧ t.home.hbm = s.home.hbm ∧ t.core = s.core)


/-! ### The requester and the bridge's windows (04, 10) -/

/-- What the end of an attempt means (10 R295, R296): only DEST_DOWN and TIMEOUT lead to another attempt, of an idempotent request alone and at most
four times; an ATOMIC that was sent then ends in PATH_LOST; every other status is final. -/
def Obligations.ReSendRuleHolds : Prop :=
  ∀ (r : Request) (st : Nat), r.attempts ≠ 0 →
    (st ≠ 0x01 → st ≠ 0x06 → verdict r st = some st) ∧
    (st = 0x01 ∨ st = 0x06 →
      (r.pkt.op = opAtomic → verdict r st = some stPathLost) ∧
      (idempotent r.pkt = true → r.attempts < 4 → verdict r st = none) ∧
      (idempotent r.pkt = true → 4 ≤ r.attempts → verdict r st = some st))

/-- Responses (04 R98, R112 to R116): one that is accepted ends the attempt of its request with its status or its data; one whose TAG is not outstanding is
counted as stale, by the requester and at the port that brought it, and changes nothing of the requests; one that fails its tag or its flags, or comes past the fence, is discarded and counted. A request timer that has
run ends the attempt with TIMEOUT (10 R294). -/
def Obligations.ResponsesComplete : Prop :=
  (∀ (port : Nat) (k : Packet) (s : State), (isPort port = true ∨ port = 0xFFFF) → s.svc.mod = .ready → k.dst = selfNode s →
    let p := opened (takeLocal k s) k
    let u := takeLocal k s
    let v := planeAnswered port u
    let run : State → Prop := fun t => (k.op = opRdData → exec (.rdData port k) s = .next t) ∧ (k.op = opAtomicData → exec (.atomicData port k) s = .next t) ∧
      (k.op = opCmpl → exec (.cmpl port k) s = .next t)
    (∀ tag r, acceptResponse port p u = .request tag r →
      run (attemptEnded tag r (p.src == r.pkt.dst) (if p.op = opCmpl then p.status.toNat else 0) (padTo 128 p.data) (p.arg 0 1 == 1) v)) ∧
    (acceptResponse port p u = .stale → run (discardStale port { v with req := { v.req with stale := v.req.stale + 1 } })) ∧
    (acceptResponse port p u = .staleKey → run (if isPort port then u.onCnt port (fun c => { c with stale := c.stale + 1 }) else u)) ∧
    (acceptResponse port p u = .badTag → run (if isPort port then u.onCnt port (fun c => { c with authFail := c.authFail + 1 }) else u)) ∧
    (acceptResponse port p u = .malformed → run (discardMalformed port 7 p u))) ∧
  (∀ (port : Nat) (p : Packet) (s : State), s.req.out.find p.tag.toNat = none → responseBad p = false → pastFence p.tenant.toNat s = false →
    authCheck p s = .ok → acceptResponse port p s = .stale) ∧
  (∀ (port tag : Nat) (r : Request) (p : Packet) (s : State), acceptResponse port p s = .request tag r →
    tag = p.tag.toNat ∧ s.req.out.find tag = some r ∧ responseBad p = false) ∧
  (∀ (tag : BitVec 16) (r : Request) (s : State), s.svc.mod = .ready → s.req.out.find tag.toNat = some r → r.due = false → r.timing = true →
    r.sentAt + s.home.reqTimeout ≤ s.svc.now →
    exec (.requestTimeout tag) s = .next (attemptEnded tag.toNat r false stTimeout [] false (lastPlaneTimedOut r s)))

/-- Window commands (10 R310, R311, 13 R385): a descriptor in range enters a disabled window and the epoch advances; an enabled window answers BUSY; the
descriptor in force changes nothing;
WINDOW_DISABLE of an enabled one is accepted and accesses fail from then on, of a disabled one it completes at once and changes nothing; with no request
of the window outstanding it ends, and the cache lines filled through it go. -/
def Obligations.WindowCommandsComplete : Prop :=
  (∀ (h : MHdr) (w : Nat) (d : WinDesc) (s : State), Serves h [0] s → s.svc.bridge = true → s.svc.node ≠ none → w ≤ 15 → winBad s d = false →
    findTrans (.window w) s.mbx.trans = none → (s.window w).desc.en = false → (s.window w).desc ≠ d →
    exec (.windowSet h w d) s = .next (reply h 0 [] (bumpEpoch (s.onWindow w (fun x => { x with desc := d }))))) ∧
  (∀ (h : MHdr) (w : Nat) (d : WinDesc) (s : State), Serves h [0] s → s.svc.bridge = true → s.svc.node ≠ none → w ≤ 15 → winBad s d = false →
    findTrans (.window w) s.mbx.trans = none → (s.window w).desc.en = true → (s.window w).desc ≠ d → exec (.windowSet h w d) s = .next (reply h 2 [] s)) ∧
  (∀ (h : MHdr) (w : Nat) (d : WinDesc) (s : State), Serves h [0] s → s.svc.bridge = true → s.svc.node ≠ none → w ≤ 15 → winBad s d = false →
    findTrans (.window w) s.mbx.trans = none → (s.window w).desc = d → exec (.windowSet h w d) s = .next (reply h 0 [] s)) ∧
  (∀ (h : MHdr) (w : Nat) (d : WinDesc) (s : State), Serves h [0] s → s.svc.bridge = true → s.svc.node = none → w ≤ 15 →
    exec (.windowSet h w d) s = .next (reply h 2 [] s)) ∧
  (∀ (h : MHdr) (w : Nat) (d : WinDesc) (t : Transition) (s : State), Serves h [0] s → s.svc.bridge = true → s.svc.node ≠ none → w ≤ 15 → winBad s d = false →
    findTrans (.window w) s.mbx.trans = some t →
    let queue := fun (i : Instr) => if t.queued.isSome then reply h 2 [] s else reply h 1 [] (s.onMbx (fun m =>
      { m with trans := m.trans.map (fun x => if x.key == .window w then { x with queued := some i } else x) }))
    exec (.windowSet h w d) s = .next (queue (.windowSet h w d)) ∧ exec (.windowDisable h w) s = .next (queue (.windowDisable h w))) ∧
  (∀ (h : MHdr) (w : Nat) (s : State), Serves h [0] s → s.svc.bridge = true → w ≤ 15 → findTrans (.window w) s.mbx.trans = none →
    (s.window w).desc.en = true →
    exec (.windowDisable h w) s = .next (beginTrans (.window w) h 0x0502 (reply h 7 [] (s.onWindow w (fun x => { x with disabling := true }))))) ∧
  (∀ (h : MHdr) (w : Nat) (s : State), Serves h [0] s → s.svc.bridge = true → w ≤ 15 → findTrans (.window w) s.mbx.trans = none →
    (s.window w).desc.en = false → exec (.windowDisable h w) s = .next (reply h 0 [] s)) ∧
  (∀ (h : MHdr) (w : Nat) (s : State), Serves h [0] s → s.svc.bridge = true → w ≤ 15 →
    exec (.windowRead h w) s = .next (reply h 0 (pack [.bytes (winBytes (s.window w).desc), .num 8 (s.window w).failRd.toNat, .num 8 (s.window w).failWr.toNat,
      .num 8 (s.window w).logAddr, .num 8 (s.window w).logInfo.toNat]) s)) ∧
  (∀ (w : Nat) (t : Transition) (s : State), s.svc.mod = .ready → s.svc.handover = false → findTrans (.window w) s.mbx.trans = some t → windowBusy s w = false →
    let u := finishEvent t.hdr t.opcode 0 [] (dropTrans (.window w) (bumpEpoch
      ((s.onHost (fun h => { h with cache := h.cache.filter (fun c => !c.wins.contains w) })).onWindow w
        (fun x => { x with disabling := false, desc := { x.desc with en := false } }))))
    exec (.windowDisableComplete w) s = .next (match t.queued with | some i => runQueuedWindow i u | none => u)) ∧
  (∀ (h : MHdr) (w : Nat) (s : State), Serves h [0] s → s.svc.bridge = false → exec (.windowDisable h w) s = .next (reply h 3 [] s) ∧
    exec (.windowRead h w) s = .next (reply h 3 [] s))

/-- Host accesses through a window (10 R309, R312, R313, R316, R318): each enters the order of delivery; one that nothing makes wait is served at once, and one
that must wait stays. A read that hits the cache is answered from it; one that the window does not map returns 64 B of 0xFF and is counted; MemInv and MemInvNT
are answered with Cmp, and MemSpecRd does nothing (13 R370). -/
def Obligations.HostAccessesComplete : Prop :=
  (∀ (dpa : Nat) (data : List Byte) (be : BitVec 64) (s : State), memReaches s dpa = true →
    let enter := fun (r : HostReq) => drainHost (s.onHost (fun h => { h with waiting := h.waiting ++ [r] }))
    exec (.memRd dpa) s = .next (enter { dpa := dpa, write := false, data := [], be := 0 }) ∧
    exec (.memRdData dpa) s = .next (enter { dpa := dpa, write := false, data := [], be := 0 }) ∧
    exec (.memWr dpa data) s = .next (enter { dpa := dpa, write := true, data := data, be := BitVec.allOnes 64 }) ∧
    exec (.memWrPtl dpa data be) s = .next (enter { dpa := dpa, write := true, data := data, be := be })) ∧
  (∀ (r : HostReq) (s : State), s.host.waiting = [] →
    let w := r.dpa / 2 ^ 40
    drainHost (s.onHost (fun h => { h with waiting := h.waiting ++ [r] })) =
      (if mustWait s w r then s.onHost (fun h => { h with waiting := [r] })
       else if r.write then hostWrite w r.dpa r.data r.be s else hostRead w r.dpa s)) ∧
  (∀ (w dpa : Nat) (line half : Nat) (c : CacheLine) (s : State), windowMap (s.window w) (dpa % 2 ^ 40) = some (line, half) →
    inSync (s.window w).desc (dpa % 2 ^ 40) = false → (s.window w).desc.uncached = false →
    s.host.cache.find? (sameLine (s.window w).desc.tenant (s.window w).desc.target line) = some c → ideBlocks s 1 = false →
    hostRead w dpa s = s.onHost (fun h => { h with cache := c :: h.cache.erase c,
                                                   resps := h.resps ++ [{ dpa := dpa, write := false, data := bytesAt c.data (64 * half) 64 }] })) ∧
  (∀ (w dpa : Nat) (s : State), windowMap (s.window w) (dpa % 2 ^ 40) = none → ideBlocks s 1 = false →
    (hostRead w dpa s).host.resps = s.host.resps ++ [{ dpa := dpa, write := false, data := List.replicate 64 0xFF#8 }] ∧
    ((hostRead w dpa s).window w).failRd = (if (s.window w).failRd = BitVec.allOnes 32 then (s.window w).failRd else (s.window w).failRd + 1) ∧
    (hostRead w dpa s).req = s.req ∧ (hostRead w dpa s).core = s.core) ∧
  (∀ (dpa : Nat) (s : State), memReaches s dpa = true →
    exec (.memInv dpa) s = .next (s.onHost (fun h => { h with resps := h.resps ++ [{ dpa := dpa, write := true, data := [], metaValue := false }] })) ∧
    exec (.memInvNt dpa) s = exec (.memInv dpa) s) ∧
  (∀ (dpa : Nat) (s : State), exec (.memSpecRd dpa) s = .next s)

/-- The memory-device mailbox (13 R377): each command answers with its values and changes nothing but its own event records and policy, and every other opcode completes with Unsupported.
The host link (13 R370 to R374): a decoder commits only at a bridge and within its rule; a hot reset or PERST# loses exactly the link's state; a MAC
failure makes a stream Insecure and counts; keying under the session in force makes it secure, and what waited for the link goes; only a new key ends Insecure. To which width
and rate the link trains is open. -/
def Obligations.HostLinkCommandsComplete : Prop :=
  (
  (∀ (sev : Nat) (l : List Nat) (s : State), s.svc.mod = .ready → ioReaches s = true →
    let answer := fun (f : HostSide → HostSide) (out : List Nat) => Host.Outcome.next (deviceSignal (s.onHost (fun h => { f h with cxlOut := out, cxlUnsupported := false })))
    (let out := (s.host.events.filter (fun e => e.severity == sev)).flatMap (fun e => [e.handle, e.severity, e.unit, e.code])
     exec (.getEventRecords sev) s = answer id out) ∧
    exec (.clearEventRecords sev l) s = answer (fun h => { h with events := h.events.filter (fun e => !(e.severity == sev && l.contains e.handle)) }) [] ∧
    exec .getEventInterruptPolicy s = answer id s.host.evtPolicy ∧
    exec (.setEventInterruptPolicy l) s = answer (fun h => { h with evtPolicy := l }) [] ∧
    (∃ o, exec .getSupportedLogs s = answer id (1 :: o) ∧ o.length = 16) ∧
    (∀ off len, ∃ o, exec (.getLog off len) s = answer id o ∧ o.length = len) ∧
    exec .identifyMemoryDevice s = answer id [if s.svc.bridge then 2 ^ 44 else 0, 0, 0] ∧
    (∃ x, exec .getHealthInfo s = .next (deviceSignal ({ s with free := s.free + 1 }.onHost (fun h =>
      { h with cxlOut := [x, (BitVec.ofInt 16 s.pwr.temps.junction).toNat, (cfgNow s.flash).retired.length], cxlUnsupported := false }))))) ∧
  (∀ (s : State), let op := leNat (memGetN s.host.cxlRegs Config.deviceCommandAt 2)
    op ∉ [0x0100, 0x0101, 0x0102, 0x0103, 0x0400, 0x0401, 0x4000, 0x4200] →
    deviceSubmit s = deviceSignal (s.onHost (fun h => { h with cxlOut := [], cxlUnsupported := true })))) ∧
  (
  (∀ (dec base size ways : Nat) (lock : Bool) (s : State), dec < 4 → ioReaches s = true → ((s.host.hdm.look dec {}).committed && (s.host.hdm.look dec {}).lock) = false →
    (let new : Hdm := if s.svc.mod = .ready ∧ s.svc.bridge = true ∧ base % 2 ^ 28 = 0 ∧ size % 2 ^ 28 = 0 ∧ base + size ≤ 2 ^ 44 ∧ ways ≤ 1 then
         { base := base, size := size, committed := true, lock := lock, err := false }
       else { base := base, size := size, committed := false, lock := false, err := true }
     exec (.hdmDecoderCommit dec base size ways lock) s = .next (s.onHost (fun h => { h with hdm := h.hdm.put dec new })))) ∧
  (∀ (s : State), s.svc.mod = .ready →
    ∃ t, exec .cxlHotReset s = .next t ∧ exec .perstAssert s = .next { t with host := { t.host with perst := true } } ∧
      t.host.hdm = [] ∧ t.host.msixEn = [] ∧ t.host.ide = [] ∧ t.host.linkUp = false ∧ t.host.waiting = [] ∧ t.host.windows = s.host.windows ∧
      t.host.cache = s.host.cache ∧ t.host.irqPend = s.host.irqPend ∧ t.host.msixPend = s.host.msixPend ∧ t.ports = s.ports ∧ t.core = s.core ∧
      t.coll = s.coll ∧ t.reed = s.reed ∧ t.queues = s.queues ∧ t.mbx = s.mbx ∧ t.svc = s.svc ∧ t.home = s.home ∧
      (t.req.out.map Prod.fst) = (s.req.out.map Prod.fst)) ∧
  (∀ (s : State), exec .perstRelease s = .next { s with host := { s.host with perst := false } }) ∧
  (∀ (s : State), s.svc.mod = .ready → s.host.perst = false → ∃ w r, w < 3 ∧ r < 5 ∧
    exec .cxlLinkUp s = .next { s with free := s.free + 2, host := { s.host with linkUp := true, linkWidth := w, linkRate := r } }) ∧
  (∀ (n : Nat) (s : State), s.host.ide.find n = some .secure → s.host.linkUp = true →
    exec (.ideFail n) s = .next (setSummary 12 (recordErr kHost 1 0x40 2 (leBytes n 1)
      (s.onHost (fun h => { h with ide := h.ide.put n .insecure, ideFails := h.ideFails + 1 }))))) ∧
  (∀ (n x : Nat) (start : Bool) (s : State), s.svc.mod = .ready → s.host.linkUp = true → s.host.ideSession = some x → n < 2 →
    exec (.ideKmMessage n x start) s = .next (
      if start = true then fillAll (sendPending { s with free := s.free + 1, host := { s.host with
        ide := s.host.ide.put n .secure, ideKeys := s.host.ideKeys.put n s.free } })
      else if s.host.ide.find n = some .insecure then s
      else s.onHost (fun h => { h with ide := h.ide.put n .unkeyed, ideKeys := h.ideKeys.del n }))))

/-- GO and the registers (13 R381, R386, 17 R463, R467, R472): a GO takes the buffer, is ignored and counted while BUSY is set, and is held during a
handover; a write of GO to the register is taken by the part, and until then changes nothing; a 64-bit write is its two halves; the event head moves only over written records; a low read of TIME_NOW latches the high half for one high read. -/
def Obligations.MailboxRegistersComplete : Prop :=
  (∀ (m : Nat) (s : State), m < 8 → boxReached m s = true → (s.box m).busy = false → s.svc.handover = false →
    exec (.go m) s = .next (runBuffer m (s.onBox m (fun b => { b with busy := true, go := false })))) ∧
  (∀ (m : Nat) (s : State), (let b := (s.box m).buf
    let op := leNat (memGetN b 0 2)
    op ≠ 0x0105 → op ≠ 0x0106 →
    let got := parse (bufferHdr m b true) op (leNat (memGetN b 8 4)) (memGetN b 16 4080) false []
    (∀ i, got = some (i, true) → runBuffer m s = runCommand i s) ∧
    (got = none → s.svc.mod = .ready → runBuffer m s = reply (bufferHdr m b true) 4 [] s))) ∧
  (∀ (m : Nat) (s : State), m < 8 → boxReached m s = true → (s.box m).busy = true →
    exec (.go m) s = .next (recordErr kHost (8 + m) 0x41 1 [] (s.onBox m (fun b => { b with overrun := min (b.overrun + 1) (2 ^ 16 - 1) })))) ∧
  (∀ (m : Nat) (s : State), m < 8 → boxReached m s = true → (s.box m).busy = false → s.svc.handover = true →
    exec (.go m) s = .next (s.onBox m (fun b => { b with busy := true, go := false, stalled := some (.go m), stalledAt := s.svc.now }))) ∧
  (∀ (m : Nat) (v : BitVec 32) (s : State), m < 8 → m ≠ 2 → boxReached m s = true → v.getLsbD 0 = true →
    exec (.registerWrite 2 (8192 * m + 0x1000) 32 (v.setWidth 64)) s = .next (
      if (s.box m).busy = true then recordErr kHost (8 + m) 0x41 1 [] (s.onBox m (fun b => { b with overrun := min (b.overrun + 1) (2 ^ 16 - 1) }))
      else s.onBox m (fun b => { b with go := true }))) ∧
  (∀ (m : Nat) (v : BitVec 32) (s : State), m < 8 → boxReached m s = true → (s.box m).waiting = [] →
    exec (.mbxEvtHead m v) s = .next (if (v - (s.box m).head).toNat ≤ ((s.box m).tail - (s.box m).head).toNat then s.onBox m (fun b => { b with head := v }) else s)) ∧
  (∀ (bar o : Nat) (v : BitVec 64) (s : State), regReached s bar = true →
    (o % 4 = 0 → exec (.registerWrite bar o 32 v) s = .next (regWrite bar o (v.setWidth 32) s)) ∧
    (o % 8 = 0 → exec (.registerWrite bar o 64 v) s = .next (regWrite bar (o + 4) (v.extractLsb' 32 32) (regWrite bar o (v.setWidth 32) s))) ∧
    (∀ w, w ≠ 32 → w ≠ 64 → exec (.registerWrite bar o w v) s = .next s)) ∧
  (∀ (r : Nat) (s : State), s.svc.mod = .ready → ioReaches s = true →
    exec (.timeNowLowRead r) s = .next (s.onHost (fun h => { h with shadows := h.shadows.put r (BitVec.ofNat 32 (s.svc.now / 2 ^ 32)),
                                                                    readOut := h.readOut.put r (BitVec.ofNat 64 (s.svc.now % 2 ^ 32)) }))) ∧
  (∀ (r : Nat) (v : BitVec 32) (s : State), s.svc.mod = .ready → ioReaches s = true → s.host.shadows.find r = some v →
    exec (.timeNowHighRead r) s = .next (s.onHost (fun h => { h with shadows := h.shadows.del r, readOut := h.readOut.put r (BitVec.ofNat 64 v.toNat) }))) ∧
  (∀ (r : Nat) (s : State), s.svc.mod = .ready → ioReaches s = true → s.host.shadows.find r = none →
    exec (.timeNowHighRead r) s = .next (s.onHost (fun h => { h with readOut := h.readOut.put r (BitVec.ofNat 64 (s.svc.now / 2 ^ 32)) })))

/-- Write-one-to-clear registers (00 R6, 17 R465, R470): exactly the bits written as 1 are cleared, and writing all ones to a failed-access counter
clears it; in the SWITCH personality the window block ignores writes. -/
def Obligations.WriteOneClearsExactlyThoseBits : Prop :=
  ∀ (v : BitVec 32) (s : State),
    (regWrite 0 0x30008 v s).host.irqCause = s.host.irqCause &&& ~~~v ∧
    (regWrite 0 0x30010 v s).err.summary = s.err.summary &&& ~~~v ∧
    (s.svc.bridge = true → ∀ w, w < 16 →
      ((regWrite 0 (0x40000 + 32 * w) v s).window w).failRd = (s.window w).failRd &&& ~~~v ∧
      ((regWrite 0 (0x40004 + 32 * w) v s).window w).failWr = (s.window w).failWr &&& ~~~v ∧
      ((regWrite 0 (0x40000 + 32 * w) 0xFFFFFFFF#32 s).window w).failRd = 0) ∧
    (s.svc.bridge = false → ∀ o, 0x40000 ≤ o → o < 0x40204 → regWrite 0 o v s = s)

/-! ### Translation, faults and queue pairs (11) -/

/-- The mirror's commands (11 R323, R324, R336, R337, 01 R478): the region is BUSY while any entry is present; updates that meet no invalidation run at once and
answer with their status and the number applied; an invalidation takes the entries out of the mirror and the caches when it is accepted, and ends once, for a
source range, nothing issued under its entries is outstanding. A command that meets invalidations in progress is queued behind
all of them and runs once the last has ended, or is BUSY behind a queued one; a
source update is BUSY until the part has its number. That requests are known by the fabric addresses of the removed entries is the model's choice (log entry 51). -/
def Obligations.TranslationCommandsComplete : Prop :=
  (∀ (h : MHdr) (base size : Nat) (s : State), Serves h [0] s → 2 ^ 26 ≤ size → size ≤ 2 ^ 32 → base % 2 ^ 21 = 0 → size % 2 ^ 21 = 0 →
    base + size ≤ s.svc.fwBase → (∀ f, f ∈ (cfgNow s.flash).retired → ¬ (base ≤ f * 65536 ∧ f * 65536 < base + size)) →
    exec (.xlatRegionSet h base size) s = .next (if s.xlat.src = [] ∧ s.xlat.tgt = [] then reply h 0 [] { s with xlat := { s.xlat with region := some (base, size) } }
      else reply h 2 [] s)) ∧
  (∀ (h : MHdr) (s : State), Serves h [0] s →
    let owned := (s.svc.fwBase, 2 ^ 38 - s.svc.fwBase) :: (cfgNow s.flash).retired.map (fun f => (f * 65536, 65536))
    exec (.xlatInfoRead h) s = .next (reply h 0 (pack ([.num 8 (s.xlat.region.getD (0, 0)).1, .num 8 (s.xlat.region.getD (0, 0)).2,
      .num 8 (mirrorSize s.xlat - mirrorUsed s.xlat), .num 2 owned.length] ++ owned.flatMap (fun o => [PField.num 8 o.1, PField.num 8 o.2]))) s)) ∧
  (∀ (h : MHdr) (kind : Nat) (ups : List XUpd) (s : State), Serves h [0] s → kind ≤ 1 → ups ≠ [] → ups.length ≤ 240 → (kind = 0 → s.svc.node ≠ none) →
    overlapUpdates s kind ups = [] →
    exec (.xlatUpdate h kind ups) s = .next (let r := applyUpdates kind ups 0 s
                                             reply h r.1.1 (leBytes r.1.2 8) r.2)) ∧
  (∀ (h : MHdr) (ups : List XUpd) (s : State), Serves h [0] s → ups ≠ [] → ups.length ≤ 240 → s.svc.node = none →
    exec (.xlatUpdate h 0 ups) s = .next (reply h 2 [] s)) ∧
  (∀ (h : MHdr) (kind t a n : Nat) (s : State), Serves h [0] s → kind ≤ 1 → (s.tenant t).isSome = true → rangeBad s kind t a n = false →
    overlapKeys s kind t a n = [] →
    exec (.xlatInvalidate h kind t a n) s = .next (beginTrans (.xlat kind t a n) h 0x0604
      (reply h 7 [] (removeRange kind t a n (if kind = 0 then pinRange t a n s else s))))) ∧
  (∀ (h : MHdr) (kind t a n : Nat) (ups : List XUpd) (s : State), Serves h [0] s → kind ≤ 1 → s.svc.node ≠ none →
    let queue := fun (ks : List FnKey) (i : Instr) => if s.mbx.trans.any (fun y => ks.contains y.key && y.queued.isSome) = true then reply h 2 [] s
      else reply h 1 [] (s.onMbx (fun m => { m with trans := m.trans.map (fun y => if ks.contains y.key then { y with queued := some i } else y) }))
    ((s.tenant t).isSome = true → rangeBad s kind t a n = false → overlapKeys s kind t a n ≠ [] →
      exec (.xlatInvalidate h kind t a n) s = .next (queue (overlapKeys s kind t a n) (.xlatInvalidate h kind t a n))) ∧
    (ups ≠ [] → ups.length ≤ 240 → overlapUpdates s kind ups ≠ [] →
      exec (.xlatUpdate h kind ups) s = .next (queue (overlapUpdates s kind ups) (.xlatUpdate h kind ups)))) ∧
  (∀ (kind t a n : Nat) (k : FnKey) (s : State), k ∈ overlapKeys s kind t a n ↔
    ∃ x ∈ s.mbx.trans, x.key = k ∧ ∃ b m, k = .xlat kind t b m ∧ a < b + m ∧ b < a + n) ∧
  (∀ (i : Instr) (s : State), (∃ x ∈ s.mbx.trans, x.queued = some i) → runQueuedXlat i s = s) ∧
  (∀ (kind t a n : Nat) (x : Transition) (s : State), s.svc.mod = .ready → s.svc.handover = false → findTrans (.xlat kind t a n) s.mbx.trans = some x →
    (kind ≠ 0 ∨ rangeQuiet t a n s = true) →
    let u := finishEvent x.hdr x.opcode 0 [] (dropTrans (.xlat kind t a n) (if kind = 0 then dropInval t a n s else s))
    exec (.xlatInvalidateComplete kind t a n) s = .next (match x.queued with | some i => runQueuedXlat i u | none => u))

/-- After an invalidation is accepted no entry of the range translates any more, and no cache of the tree's engines holds one (11 R336 steps 1 and 2). -/
def Obligations.InvalidationRemovesTheRange : Prop :=
  ∀ (kind t a n x : Nat) (s : State), a ≤ x → x < a + n →
    findEntry (treeOf kind (removeRange kind t a n s).xlat) t x = none ∧
    (∀ y, y ∈ treeOf kind (removeRange kind t a n s).xlat → y ∈ treeOf kind s.xlat) ∧
    (∀ y, y ∈ treeOf kind s.xlat → y.tenant ≠ t → y ∈ treeOf kind (removeRange kind t a n s).xlat)

/-- Faults (11 R328, R330 to R335, 17 R468): a new ring starts from FAULT_ID 0; a resolution wakes the waiters of a pending fault, and of none where the
FAULT_ID is not pending; a head is taken only over written records; a waiting engine's fault is entered, or, where the entry has become present, the engine
goes on without a record; a waiter's own timer ends it. That the count of waiters woken is shifted without a snapshot for a confidential tenant is the model's choice
(log entry 85). -/
def Obligations.FaultHandlingCompletes : Prop :=
  (∀ (h : MHdr) (base vec timeout : Nat) (s : State), Serves h [0] s → base % 4096 = 0 → vec ≤ 2047 → 100000000 ≤ timeout → timeout ≤ 10000000000 →
    exec (.faultRingSet h base vec timeout) s = .next (reply h 0 [] (fillAll
      { s with xlat := { s.xlat with
        ring := some { base := base, vec := vec, timeout := timeout, head := 0, next := 0, dead := false }
        faults := s.xlat.faults.map (fun f => { f with id := none, delayed := true }) } }))) ∧
  (∀ (h : MHdr) (id : BitVec 32) (deny : Bool) (f : PendFault) (s : State), Serves h [0] s → s.xlat.faults.find? (fun f => f.id == some id) = some f →
    exec (.faultResolve h id deny) s = .next (reply h 0 (pack [.num 8 (if anyConf s then f.waiters.length / 1024 else f.waiters.length)]) (endFault f.tenant f.page
      (fun w s => if deny then failWaiter f.page w stNotMapped 2 3 s else wakeWaiter f.page w s) s))) ∧
  (∀ (h : MHdr) (id : BitVec 32) (deny : Bool) (s : State), Serves h [0] s → s.xlat.faults.find? (fun f => f.id == some id) = none →
    exec (.faultResolve h id deny) s = .next (reply h 0 (pack [.num 8 0]) s)) ∧
  (∀ (v : BitVec 32) (r : FaultRing) (s : State), s.svc.mod = .ready → ioReaches s = true → s.xlat.ring = some r →
    exec (.dbFaultHead v) s = .next (if (v - r.head).toNat ≤ (r.next - r.head).toNat then
      fillAll { s with xlat := { s.xlat with ring := some { r with head := v } } } else s)) ∧
  (∀ (c : Bool) (index context t fva access : Nat) (w : Waiter) (s : State), (if c then index < 16 ∧ context < 4 else index < 32) → s.svc.mod = .ready →
    newWaiter s c index context t (fva / 65536) access = some w →
    (srcTranslate s t fva access ≠ .fault → exec (.translationFault c index context t fva access) s = .next (wakeWaiter (fva / 65536) w s)) ∧
    (srcTranslate s t fva access = .fault → isRevoking s t = true →
      exec (.translationFault c index context t fva access) s = .next (revokedFault w (fva / 65536) s)) ∧
    (srcTranslate s t fva access = .fault → isRevoking s t = false → exec (.translationFault c index context t fva access) s = .next (enterFault t (fva / 65536) w
      (if c then setFaulting { cluster := index, ctx := context } (fva / 65536) true s else s)))) ∧
  (∀ (t page : Nat) (w : Waiter) (s : State), s.xlat.ring = none → enterFault t page w s = timeoutWaiter t page w s) ∧
  (∀ (c : Bool) (index context t fva : Nat) (f : PendFault) (r : FaultRing) (w : Waiter) (s : State), s.svc.mod = .ready →
    s.xlat.faults.find? (fun f => f.tenant == t && f.page == fva / 65536) = some f → s.xlat.ring = some r →
    f.waiters.find? (fun w => w.cluster == c && w.index == index && w.context == context) = some w → w.at_ + r.timeout ≤ s.svc.now →
    exec (.faultTimeout c index context t fva) s = .next (timeoutWaiter t (fva / 65536) w (dropWaiter t (fva / 65536) w s)))

/-- Queue pairs (11 R338, R339, R344, R345, 17 R473): a queue is created in an unused number and BUSY in a used one; a reset or a destruction stops new starts
and drops what has not started, is queued behind a stop in progress, and ends when every started descriptor has its record; doorbells are taken within the ring, and a
tail that overtakes it moves the queue to ERROR. -/
def Obligations.QueuePairsComplete : Prop :=
  (∀ (h : MHdr) (a : QpArgs) (s : State), Serves h [0, 4, 5, 6, 7] s → tenantOk h a.tenant s = true → isRevoking s a.tenant = false → qpArgsBad a s = false →
    exec (.qpCreate h a) s = .next (if (s.qp a.qpn).isSome then reply h 2 [] s
      else reply h 0 [] { s with queues := { s.queues with qps := s.queues.qps.put a.qpn (newQp a) } })) ∧
  (∀ (h : MHdr) (n : Nat) (q : Qp) (s : State), Serves h [0, 4, 5, 6, 7] s → s.qp n = some q → tenantOk h q.tenant s = true →
    findTrans (.qp n) s.mbx.trans = none →
    exec (.qpReset h n) s = .next (stopQueue n stOpAborted 3 false ((beginTrans (.qp n) h 0x0608 (reply h 7 [] s)).onQp n
      (fun q => { q with stopping := true, sqHead := q.sqTail }))) ∧
    exec (.qpDestroy h n) s = .next (stopQueue n stOpAborted 3 false ((beginTrans (.qp n) h 0x0609 (reply h 7 [] s)).onQp n
      (fun q => { q with stopping := true, sqHead := q.sqTail })))) ∧
  (∀ (h : MHdr) (n : Nat) (q : Qp) (x : Transition) (s : State), Serves h [0, 4, 5, 6, 7] s → s.qp n = some q → tenantOk h q.tenant s = true →
    findTrans (.qp n) s.mbx.trans = some x →
    let queue := fun (i : Instr) => if x.queued.isSome then reply h 2 [] s else reply h 1 [] (s.onMbx (fun m =>
      { m with trans := m.trans.map (fun y => if y.key == .qp n then { y with queued := some i } else y) }))
    exec (.qpReset h n) s = .next (queue (.qpReset h n)) ∧ exec (.qpDestroy h n) s = .next (queue (.qpDestroy h n))) ∧
  (∀ (n : Nat) (q : Qp) (t : Transition) (s : State), s.svc.mod = .ready → s.svc.handover = false → findTrans (.qp n) s.mbx.trans = some t → s.qp n = some q → q.jobs = [] →
    let u := finishEvent t.hdr t.opcode 0 [] (dropTrans (.qp n)
      (if t.opcode = 0x0609 then { s with queues := { s.queues with qps := s.queues.qps.del n } }
       else s.onQp n (fun q => { q with error := false, stopping := false, sqTail := 0, sqHead := 0, cqTail := 0, cqHead := 0, jobs := [] })))
    exec (.qpStopComplete n) s = .next (match t.queued with | some i => runQueuedQp i u | none => u)) ∧
  (∀ (n : Nat) (v : BitVec 32) (q : Qp) (s : State), s.svc.mod = .ready → ioReaches s = true → s.qp n = some q → q.lineMode = false →
    exec (.dbSqTail n v) s = .next (s.onQp n (fun q => if 2 ^ q.sqLog < (v - q.sqHead).toNat then { q with error := true } else { q with sqTail := v })) ∧
    exec (.dbCqHead n v) s = .next (s.onQp n (fun q => if (q.cqTail - q.cqHead).toNat < (v - q.cqHead).toNat then q else { q with cqHead := v }))) ∧
  (∀ (n : Nat) (v : BitVec 32) (s : State), regMode s n = false → exec (.dbSqTail n v) s = .next s ∧ exec (.dbCqHead n v) s = .next s)

/-- Descriptors (11 R338 to R344): the next one of a queue that may start, as its ring holds it or as the row brings it from another node, takes its place among the
started ones and its mover goes on; a malformed one, of an OPCODE that is none of the five too, moves the queue to ERROR and fails with BAD_REQUEST; one that may not
start, or that the ring does not hold, changes nothing; a page of the ring that is not present is a fault that the queue waits on; a descriptor whose work has ended,
with room in its ring, has its record written. That a ring that cannot be read moves the queue to ERROR is the model's choice (log entry 50). -/
def Obligations.DescriptorsComplete : Prop :=
  (∀ (n : Nat) (d : Desc) (q : Qp) (s u : State), s.svc.mod = .ready → s.qp n = some q → mayStart s q d = true →
    d.rsv = false → d.badOp = false → d.scope ≠ 3#2 →
    (ringGives (ringRead q s) 0 d = some u → exec (.nop n d) s = .next (advanceMover q.mover (startJob n 0 d u))) ∧
    (ringGives (ringRead q s) 1 d = some u → exec (.copy n d) s = .next (advanceMover q.mover (startJob n 1 d u))) ∧
    (ringGives (ringRead q s) 2 d = some u → exec (.fill n d) s = .next (advanceMover q.mover (startJob n 2 d u))) ∧
    (ringGives (ringRead q s) 3 d = some u → exec (.atomicDescriptor n d) s = .next (advanceMover q.mover
      (if d.len = 128 then startJob n 3 d u else failJob n q.sqHead stBadRequest 0 (startJob n 3 d u)))) ∧
    (ringGives (ringRead q s) 4 d = some u → exec (.compute n d) s = .next (advanceMover q.mover (startJob n 4 d u)))) ∧
  (∀ (n : Nat) (d : Desc) (q : Qp) (s u : State), s.svc.mod = .ready → s.qp n = some q → mayStart s q d = true → (d.rsv = true ∨ d.badOp = true ∨ d.scope = 3#2) →
    let bad := fun (op : Nat) => advanceMover q.mover ((failJob n q.sqHead stBadRequest 0 (startJob n op d u)).onQp n (fun q => { q with error := true }))
    (ringGives (ringRead q s) 0 d = some u → exec (.nop n d) s = .next (bad 0)) ∧ (ringGives (ringRead q s) 1 d = some u → exec (.copy n d) s = .next (bad 1)) ∧
    (ringGives (ringRead q s) 2 d = some u → exec (.fill n d) s = .next (bad 2)) ∧
    (ringGives (ringRead q s) 3 d = some u → exec (.atomicDescriptor n d) s = .next (bad 3)) ∧
    (ringGives (ringRead q s) 4 d = some u → exec (.compute n d) s = .next (bad 4))) ∧
  (∀ (n op : Nat) (d : Desc) (row : Instr) (q : Qp) (s : State), s.svc.mod = .ready → s.qp n = some q → mayStart s q d = true →
    (op, row) ∈ [(0, Instr.nop n d), (1, .copy n d), (2, .fill n d), (3, .atomicDescriptor n d), (4, .compute n d)] →
    (∀ a, ringRead q s = .fault a → exec row s = .next (s.onQp n (fun q => { q with sqFault := some a }))) ∧
    (ringRead q s = .bad → exec row s = .next (s.onQp n (fun q => { q with error := true }))) ∧
    (ringRead q s = .waits → exec row s = .next s) ∧
    (∀ b t, ringRead q s = .here b t → descOf b ≠ (op, d) → exec row s = .next s)) ∧
  (∀ (n : Nat) (d : Desc) (q : Qp) (s : State), s.svc.mod = .ready → s.qp n = some q → mayStart s q d = false →
    exec (.nop n d) s = .next s ∧ exec (.copy n d) s = .next s ∧ exec (.fill n d) s = .next s ∧ exec (.atomicDescriptor n d) s = .next s ∧
    exec (.compute n d) s = .next s) ∧
  (∀ (n : Nat) (i : BitVec 32) (q : Qp) (j : Job) (s : State), s.svc.mod = .ready → jobOf s n i = some (q, j) →
    exec (.completionRecord n i) s = .next (if mayRecord s q j then writeRecord n q j s else s))

/-! ### Trunks, messages and masks (12, 04) -/

/-- The egress controls of a trunk port, the ring routes and the ingress marker (12 R355, R360 to R367): each setting takes effect as its rule says; a
policer and a marker start full; a shaper takes effect at once, or when the packet in progress ends; a gate list is pending until BASE_TIME; entries follow
one another without gaps; a sample window ends at the next multiple of P. That the window in progress is dropped and the first of a new P runs from now is the
model's choice (log entry 42). -/
def Obligations.TrunkCommandsComplete : Prop :=
  (∀ (h : MHdr) (mask : BitVec 8) (routes : List Nat) (s : State), Serves h [1] s → s.svc.bridge = false →
    routes.length = ((List.range 8).filter (fun k => mask.getLsbD k)).length → (∀ r ∈ routes, r ≤ 2) →
    exec (.ringRouteSet h mask routes) s = .next (match s.svc.node with
      | none => reply h 2 [] s
      | some n => if mask.getLsbD (nodePair n) then reply h 0 [] { s with svc := { s.svc with
          ring := some mask
          routes := (((List.range 8).filter (fun k => mask.getLsbD k)).zip routes).foldl (fun m r => Map.put m r.1 r.2) [] } }
        else reply h 4 [] s)) ∧
  (∀ (h : MHdr) (port : Nat) (off : Bool) (cir cbs ebs : Nat) (s : State), Serves h [1] s → isPort port = true → portAbsent s port = false →
    (off = false → 1 ≤ cir ∧ cir ≤ 256000 ∧ cbs ≤ 16777216 ∧ ebs ≤ 16777216) →
    exec (.markerSet h port off cir cbs ebs) s = .next (reply h 0 [] (s.onPort port (fun q => { q with
      marker := if off then none else some { cir := cir, cbs := cbs, ebs := ebs, tc := cbs * 1000, te := ebs * 1000, at_ := s.svc.now } })))) ∧
  (∀ (h : MHdr) (port queue pr pb : Nat) (s : State), Serves h [1] s → isTrunk port = true → portAbsent s port = false → 3 ≤ queue → queue ≤ 7 → 1 ≤ pr →
    pr ≤ 256000 → pb ≤ 16777216 →
    exec (.policerSet h port queue pr pb) s = .next (if pb < 2096 then reply h 4 [] s else reply h 0 [] (s.onTq port queue (fun x =>
      { x with policer := some { pr := pr, pb := pb, tokens := pb * 1000, at_ := s.svc.now } })))) ∧
  (∀ (h : MHdr) (port : Nat) (entries : List (BitVec 32)) (base : Nat) (s : State), Serves h [1] s → isTrunk port = true → portAbsent s port = false →
    entries ≠ [] → entries.length ≤ 64 → (∀ e ∈ entries, e.toNat % 8 = 7 ∧ 32 ≤ e.toNat / 256) →
    (base < s.svc.now + 100000 → exec (.gateListSet h port entries base) s = .next (reply h 4 [] s)) ∧
    (s.svc.now + 100000 ≤ base → (∀ g, (s.trunk port).pending = some g → s.svc.now + 100000 < g.base) →
      exec (.gateListSet h port entries base) s = .next (reply h 0 [] (s.onTrunk port (fun t => { t with pending := some { entries := entries, base := base } })))) ∧
    (s.svc.now + 100000 ≤ base → (∃ g, (s.trunk port).pending = some g ∧ g.base ≤ s.svc.now + 100000) →
      exec (.gateListSet h port entries base) s = .next (reply h 2 [] s))) ∧
  (∀ (h : MHdr) (port queue rq burst tokens : Nat) (s : State), Serves h [1] s → isTrunk port = true → portAbsent s port = false → 3 ≤ queue → queue ≤ 7 →
    rq ≤ 256000 → burst ≤ 1048576 → tokens ≤ 1 →
    let fresh := fun (t : Nat) => if rq = 0 then none else
      some ({ rq := rq, burst := burst, credit := if tokens = 0 then ((burst * 1024000 : Nat) : Int) else 0, at_ := t } : Shaper)
    exec (.shaperSet h port queue rq burst tokens) s = .next (reply h 0 [] (s.onTq port queue (fun x =>
      let y := settleShaper (16 * s.svc.now) x
      if y.sendingUntil ≤ 16 * s.svc.now then { y with shaper := fresh (16 * s.svc.now) } else { y with shaperNext := some (fresh y.sendingUntil) })))) ∧
  (∀ (now : Nat) (x : TrunkQueue), (x.shaperNext = none → settleShaper now x = x) ∧ (now < x.sendingUntil → settleShaper now x = x) ∧
    (∀ y, x.shaperNext = some y → x.sendingUntil ≤ now → settleShaper now x = { x with shaper := y, shaperNext := none })) ∧
  (∀ (h : MHdr) (period : Nat) (s : State), Serves h [1] s → s.svc.bridge = false → 1000 ≤ period → period ≤ 10000000 →
    exec (.queueSampleSet h period) s = .next (reply h 0 [] (newPeriod s { s with svc := { s.svc with samplePeriod := period } }))) ∧
  (∀ (old s : State) (port queue : Nat), (sampleP old = sampleP s → newPeriod old s = s) ∧
    (sampleP old ≠ sampleP s → s.svc.bridge = false → isTrunk port = true → queue < 8 →
      let x := tqTouch s.svc.now (rollSamples (sampleP old) s.svc.now (s.tq port queue))
      (newPeriod old s).tq port queue = { x with win := { start := s.svc.now, maxDepth := tqBytes x }, area := 0, depthAt := s.svc.now })) ∧
  (∀ (h : MHdr) (port queue : Nat) (clear : Bool) (s : State), Serves h [1] s → isTrunk port = true → portAbsent s port = false → queue ≤ 7 →
    let u := s.onTq port queue (rollSamples (if anyConf s then 10000000 else s.svc.samplePeriod) s.svc.now)
    exec (.queueSamplesRead h port queue clear) s = .next (reply h 0
      (pack [.num 2 ((u.tq port queue).samples.take 63).length, .bytes (((u.tq port queue).samples.take 63).flatMap (sampleBytes u))])
      (if clear then u.onTq port queue (fun x => { x with samples := x.samples.drop 63 }) else u))) ∧
  (∀ (port : Nat) (s : State), isTrunk port = true →
    let t := s.trunk port
    let e := t.entryAt + gateInterval (gateNow t)
    (e ≤ s.svc.now → (∀ g, t.pending = some g → e < g.base) → exec (.gateEntryChange port) s = .next ((advanceShapers port (16 * e) s).onTrunk port (fun t =>
      { t with entry := (t.entry + 1) % t.gates.entries.length, entryAt := e }))) ∧
    (s.svc.now < e → exec (.gateEntryChange port) s = .next s) ∧ (∀ g, t.pending = some g → g.base ≤ e → exec (.gateEntryChange port) s = .next s) ∧
    (t.pending = none → exec (.gateListTakeover port) s = .next s) ∧
    (∀ g, t.pending = some g → g.base ≤ s.svc.now → exec (.gateListTakeover port) s = .next ((advanceShapers port (16 * g.base) s).onTrunk port (fun t =>
      { t with gates := g, pending := none, entry := 0, entryAt := g.base }))) ∧
    (∀ g, t.pending = some g → s.svc.now < g.base → exec (.gateListTakeover port) s = .next s)) ∧
  (∀ (port queue : Nat) (s : State), isTrunk port = true → queue < 8 →
    exec (.queueSampleWindow port queue) s = .next (s.onTq port queue (rollSamples (if anyConf s then 10000000 else s.svc.samplePeriod) s.svc.now))) ∧
  (∀ (p now : Nat) (x : TrunkQueue), p ≠ 0 →
    let e := (x.win.start / p + 1) * p
    let y := rollSamples p now x
    (now < e → y = x) ∧
    (e ≤ now → y.pkts = x.pkts ∧ y.policer = x.policer ∧ y.shaper = x.shaper ∧ y.police = x.police ∧ y.full = x.full ∧ y.gateDrops = x.gateDrops ∧
      y.win = { start := e + (now - e) / p * p, maxDepth := tqBytes x } ∧ y.win.start ≤ now ∧ now < y.win.start + p ∧
      y.samples.length = min 256 (x.samples.length + 1 + (now - e) / p) ∧
      y.samplesLost = satAdd 32 x.samplesLost (x.samples.length + 1 + (now - e) / p - 256)))

/-- Messages at this node (12 R348 to R356): a MSG_SEND that passes checks 6 to 8 is answered with the status first given to its SEQ, or, unless it is stale,
with NOT_MAPPED, and enters its stream; a MSG_ACK with any status but BUSY ends the message it names; a message is sent again after MSG_RTO, and ends after
MSG_LIFETIME; a message from a trunk is delivered, passed on in its direction where its destination is nearer than its source, or counted RING_UNREACHABLE. That a
packet of a tenant that fails check 8 counts as stale, and that RESTART keeps a message from being stale, are the model's choices (log entries 76 and 12). -/
def Obligations.MessagesComplete : Prop :=
  (∀ (port : Nat) (p : Packet) (ecc : Ecc) (s : State), (isPort port = true ∨ port = outLocal) → s.svc.mod = .ready → (p.dst = selfNode s ∨ p.mcast = true) →
    p.op = opMsgSend →
    let k := opened s p
    let u := takeLocal p s
    let below := fun (high : BitVec 16) => (high - k.seq).toNat
    (authCheck k u = .ok → flagsBad k = false → k.offset.toNat % 128 = 0 → tenantGone k.tenant.toNat u = false →
      (s.svc.streams.find k.src.toNat = none → exec (.msgSend port p ecc) s = .next (sendPacket none (msgAckOf u k stNotMapped)
        (u.onSvc (fun v => { v with streams := v.streams.put k.src.toNat (k.seq, [(k.seq.toNat, stNotMapped)]) })))) ∧
      (∀ high m, s.svc.streams.find k.src.toNat = some (high, m) →
        (∀ st, below high < 4096 → m.find k.seq.toNat = some st → exec (.msgSend port p ecc) s = .next (sendPacket none (msgAckOf u k st) u)) ∧
        (4096 ≤ below high → below high < 8192 → msgRestart k = false →
          exec (.msgSend port p ecc) s = .next (discardStale port (u.onSvc (fun v => { v with staleMsgs := v.staleMsgs + 1 })))) ∧
        ((below high < 4096 → m.find k.seq.toNat = none) → (msgRestart k = true ∨ below high < 4096 ∨ 8192 ≤ below high) →
          exec (.msgSend port p ecc) s = .next (sendPacket none (msgAckOf u k stNotMapped) (u.onSvc (fun v =>
            let top := if (k.seq - high).toNat < 32768 then k.seq else high
            let stream := if msgRestart k then (k.seq, [(k.seq.toNat, stNotMapped)])
              else (top, (Map.put m k.seq.toNat stNotMapped).filter (fun e => decide ((top - BitVec.ofNat 16 e.1).toNat < 4096)))
            { v with streams := v.streams.put k.src.toNat stream }))))))) ∧
  (∀ (port : Nat) (p : Packet) (ecc : Ecc) (row : Instr) (s : State), (isPort port = true ∨ port = outLocal) → s.svc.mod = .ready →
    (p.dst = selfNode s ∨ p.mcast = true) → (row = .msgSend port p ecc ∧ p.op = opMsgSend ∨ row = .msgAck port p ∧ p.op = opMsgAck) →
    let k := opened s p
    let u := takeLocal p s
    (authCheck k u = .ok → (flagsBad k = true ∨ k.offset.toNat % 128 ≠ 0) → exec row s = .next (discardMalformed port 7 k u)) ∧
    (authCheck k u = .ok → flagsBad k = false → k.offset.toNat % 128 = 0 → tenantGone k.tenant.toNat u = true → exec row s = .next (discardStale port u)) ∧
    (authCheck k u = .stale → exec row s = .next (discardStale port u)) ∧
    (authCheck k u = .fail → exec row s = .next (if isPort port then countAuthFail port u else u))) ∧
  (∀ (port : Nat) (p : Packet) (s : State), (isPort port = true ∨ port = outLocal) → s.svc.mod = .ready → (p.dst = selfNode s ∨ p.mcast = true) → p.op = opMsgAck →
    let k := opened s p
    let u := takeLocal p s
    authCheck k u = .ok → flagsBad k = false → k.offset.toNat % 128 = 0 → tenantGone k.tenant.toNat u = false →
    exec (.msgAck port p) s = .next (if openSend s k.src.toNat k.seq = none then discardStale port u
      else if k.status.toNat = stBusy then restartSend k.src.toNat k.seq true u else endSend k.src.toNat k.seq k.status.toNat u)) ∧
  (∀ (peer : Nat) (seq : BitVec 16) (k : Packet) (first last : Nat) (busy : Bool) (s : State), s.svc.mod = .ready →
    openSend s peer seq = some (k, first, last, busy) →
    exec (.msgRto peer seq) s = .next (if last + 1000000 ≤ s.svc.now then restartSend peer seq false (sendFor none { k with conf := false, keySlot := 0 } s) else s) ∧
    exec (.msgLifetime peer seq) s = .next (if first + 100000000 ≤ s.svc.now then endSend peer seq (if busy then stBusy else stTimeout) s else s)) ∧
  (∀ (peer : Nat) (seq : BitVec 16) (s : State), openSend s peer seq = none → exec (.msgRto peer seq) s = .next s ∧ exec (.msgLifetime peer seq) s = .next s) ∧
  (∀ (port : Nat) (p : Packet) (s : State), isTrunk port = true → s.svc.mod = .ready → s.svc.node ≠ none → s.svc.bridge = false → p.isMsg = true →
    srcOk s port p = true → malformed2 p = false →
    let n := portSelf s port
    let east := port == 528
    let u := takeHead port (p, none) s
    let near := fun (a b : Nat) => ringDist s east (nodePair n) (nodePair p.dst) = some a ∧ ringDist s east (nodePair n) (nodePair p.src) = some b ∧ a < b
    (p.dst = n → unknownDst s (nodePair n) p = false → exec (.trunkMessageArrival port p) s = .next (admitG port outLocal (p, none) s)) ∧
    (nodePair p.dst = nodePair n → nodeInfra p.dst = false → p.dst ≠ n → (s.port (nodeIndex p.dst)).coreDown = false →
      exec (.trunkMessageArrival port p) s = .next (admitG port (nodeIndex p.dst) (p, none) s)) ∧
    (nodePair p.dst ≠ nodePair n → crossesTo n p.dst = true → (∃ a b, near a b) → (s.port (if east then 512 else 528)).coreDown = false →
      exec (.trunkMessageArrival port p) s = .next (admitG port (if east then 512 else 528) (p, none) s)) ∧
    (nodePair p.dst ≠ nodePair n → crossesTo n p.dst = true → (¬ ∃ a b, near a b) →
      exec (.trunkMessageArrival port p) s = .next (u.onCnt port (fun c => { c with ringUnreachable := c.ringUnreachable + 1 }))))

/-- The spray-mask handshake (04 R87, 10 R292): the plane sends MASK_SET and the command ends with the MASK_ACK that repeats its bits, or FAILED after
1 ms; a bridge applies the 32 bits of the sender's domain, and answers; anything else counts as stale. The command is BUSY before the part has its number. -/
def Obligations.MaskHandshakeCompletes : Prop :=
  (∀ (h : MHdr) (e : Nat) (bits : BitVec 32) (s : State), Serves h [1] s → s.svc.bridge = false → e < 8192 →
    exec (.sprayMaskSet h e bits) s = .next (match s.svc.node with
      | none => reply h 2 [] s
      | some n =>
        if nodeInfra (BitVec.ofNat 13 e) = true ∨ nodePair (BitVec.ofNat 13 e) ≠ nodePair n then reply h 4 [] s
        else sendPacket none (mgtPacket opMaskSet s (BitVec.ofNat 13 e) 0 bits [])
          (reply h 7 [] { s with svc := { s.svc with masks := s.svc.masks ++ [(e, bits, h, s.svc.now)] } }))) ∧
  (∀ (port : Nat) (p : Packet) (s : State), (isPort port = true ∨ port = outLocal) → s.svc.mod = .ready → (p.dst = selfNode s ∨ p.mcast = true) →
    let k := opened s p
    let u := takeLocal p s
    (p.op = opMaskSet → flagsBad k = false → k.offset.toNat % 128 = 0 → exec (.maskSet port p) s = .next
      (if s.svc.bridge = true ∧ nodeInfra k.src = true ∧ nodeIndex k.src < 64 then
        sendPacket none (mgtPacket opMaskAck u k.src k.tenant.toNat k.oparg []) { u with req := maskAfter (nodeIndex k.src) k.oparg u.req }
      else discardStale port u)) ∧
    (p.op = opMaskAck → flagsBad k = false → k.offset.toNat % 128 = 0 → exec (.maskAck port p) s = .next
      (match s.svc.masks.find? (fun m => m.1 == k.src.toNat && m.2.1 == k.oparg) with
       | some m => finishEvent m.2.2.1 0x0107 0 [] { u with svc := { u.svc with masks := u.svc.masks.erase m } }
       | none => discardStale port u)) ∧
    ((flagsBad k = true ∨ k.offset.toNat % 128 ≠ 0) → (p.op = opMaskSet → exec (.maskSet port p) s = .next (discardMalformed port 7 k u)) ∧
      (p.op = opMaskAck → exec (.maskAck port p) s = .next (discardMalformed port 7 k u)))) ∧
  (∀ (e : Nat) (s : State), exec (.maskTimeout e) s = .next (match s.svc.masks.find? (fun m => m.1 == e && decide (m.2.2.2 + 1000000 ≤ s.svc.now)) with
    | some m => finishEvent m.2.2.1 0x0107 8 (failCause 0) (recordErr kPort (e % 512) 0x09 2 (leBytes e 2)
        { s with svc := { s.svc with masks := s.svc.masks.erase m } })
    | none => s)) ∧
  (∀ (i : Nat) (bits : BitVec 32) (r : Requester) (k : Nat), k < 64 → i < 64 →
    (maskAfter i bits r).mask.getLsbD k = if k / 32 = i / 32 then bits.getLsbD (k % 32) && !(r.cleared.contains k && k != i) else r.mask.getLsbD k)

/-! ### Tenants, keys and attestation (14) -/

/-- Tenants (14 R395, R404, R413 to R415): a new tenant has a fresh memory key, four EMPTY slots and no send slot, a confidential one disables the debug port, and
the epoch advances; an ID that exists is BUSY. A revocation starts at once, is OK at once for an ID that does not exist, and one that meets its tenant's
revocation is queued, or BUSY behind a queued one; at t0 + F the drain fence ends; the last step zeroes the frames, frees the ID and posts the event, and the queued
one is then OK. A snapshot is taken at the start of a 10 ms window while a confidential tenant exists (that one is also taken when the first appears is the
model's choice, log entry 15).
What erasure leaves of a tenant (14 R413 step 6): no KEYED slot, no send slot, no entry of either mirror, no queue pair, while other tenants' are kept. -/
def Obligations.TenantLifeCycleCompletes : Prop :=
  (
  (∀ (h : MHdr) (t : Nat) (conf : Bool) (s : State), Serves h [0] s → t ≤ 1023 →
    exec (.tenantCreate h t conf) s = .next (
      let a := if conf && !anyConf s then { s with snap := snapshot s } else s
      let b := if conf && s.sec.debugOn then bumpEpoch a else a
      let w : State := { b with sec := { b.sec with
          debugOn := s.sec.debugOn && !conf
          debugLatched := s.sec.debugLatched || conf
          tenants := s.sec.tenants.put t { conf := conf, memKey := s.free + 1 }
          revoked := s.sec.revoked.filter (fun r => r.1 != t) } }
      let u := bumpEpoch { newPeriod b w with free := s.free + 1 }
      if (s.tenant t).isSome then reply h 2 [] s else reply h 0 (leBytes u.sec.epoch 8) u)) ∧
  (∀ (h : MHdr) (t fence : Nat) (s : State), Serves h [0] s → t ≤ 1023 → 100000 ≤ fence → fence ≤ 100000000 →
    (findTrans (.tenant t) s.mbx.trans = none → (s.tenant t = none ∨ isRevoking s t = true) →
      exec (.tenantRevoke h t fence) s = .next (reply h 0 [] s)) ∧
    (findTrans (.tenant t) s.mbx.trans = none → (s.tenant t).isSome = true → isRevoking s t = false →
      exec (.tenantRevoke h t fence) s = .next (wakeComputes (dropCached t (stopQueues t (failFaults t
        (stopStreams t (abortOps t (dropHeld t (enterRevoking t fence (beginTrans (.tenant t) h 0x0802 (reply h 7 [] s))))))))))) ∧
    (∀ x, findTrans (.tenant t) s.mbx.trans = some x → exec (.tenantRevoke h t fence) s = .next
      (if x.queued.isSome then reply h 2 [] s else reply h 1 [] (s.onMbx (fun m =>
        { m with trans := m.trans.map (fun y => if y.key == .tenant t then { y with queued := some (.tenantRevoke h t fence) } else y) }))))) ∧
  (∀ (t : Nat) (s : State),
    (∀ x r, s.tenant t = some x → x.rev = some r → r.stage = .fencing → r.t0 + r.fence ≤ s.svc.now →
      exec (.drainFenceEnd t) s = .next (endRequests t (eraseTenant t s))) ∧
    (∀ x r, s.tenant t = some x → x.rev = some r → (r.stage = .erasing ∨ s.svc.now < r.t0 + r.fence) → exec (.drainFenceEnd t) s = .next s) ∧
    (isRevoking s t = false → exec (.drainFenceEnd t) s = .next s ∧ exec (.revocationComplete t) s = .next s)) ∧
  (∀ (t : Nat) (x : Tenant) (r : Revocation) (s : State), s.tenant t = some x → x.rev = some r →
    (r.stage = .fencing → exec (.revocationComplete t) s = .next s) ∧
    (r.stage = .erasing →
      let z := zeroFrames r.frames s
      let u := bumpEpoch (newPeriod s { z with sec := { z.sec with
        tenants := s.sec.tenants.del t
        revoked := s.sec.revoked.filter (fun v => v.1 != t) ++ [(t, x.conf)] } })
      (findTrans (.tenant t) s.mbx.trans = none → exec (.revocationComplete t) s = .next u) ∧
      (∀ y, findTrans (.tenant t) s.mbx.trans = some y → s.svc.handover = false →
        let v := finishEvent y.hdr y.opcode 0 [] (dropTrans (.tenant t) u)
        (y.queued = none → exec (.revocationComplete t) s = .next v) ∧
        (∀ h f, y.queued = some (.tenantRevoke h t f) → exec (.revocationComplete t) s = .next (finishEvent h 0x0802 0 [] v))))) ∧
  (∀ s : State, exec .coarseningSnapshot s = .next (if anyConf s = true ∧ s.svc.now % 10000000 = 0 ∧ s.snap.at_ ≠ s.svc.now then { s with snap := snapshot s } else s))) ∧
  (
  ∀ (t : Nat) (x : Tenant) (s : State), s.tenant t = some x →
    (∃ y, (eraseTenant t s).tenant t = some y ∧ y.slots = [] ∧ y.sendSlot = none ∧ y.regions = [] ∧ y.conf = x.conf) ∧
    (∀ e ∈ (eraseTenant t s).xlat.src, e.tenant ≠ t) ∧ (∀ e ∈ (eraseTenant t s).xlat.tgt, e.tenant ≠ t) ∧
    (∀ q ∈ (eraseTenant t s).queues.qps, q.2.tenant ≠ t) ∧ (∀ e ∈ s.xlat.src, e.tenant ≠ t → e ∈ (eraseTenant t s).xlat.src) ∧
    (∀ q ∈ s.queues.qps, q.2.tenant ≠ t → q ∈ (eraseTenant t s).queues.qps) ∧ (∀ u, u ≠ t → (eraseTenant t s).tenant u = s.tenant u))

/-- Key agreement (14 R396 to R400): with PEER the node itself an EMPTY slot gets a fresh key and a KEYED one is BUSY; CLEAR empties a slot that is not the
send slot; SEND makes the slot the send slot; another node's exchange is armed and ends by event, and one already armed is BUSY; an unarmed exchange is refused 100 ms
after its first fragment and a command ends 200 ms after its own; a key message of an absent or REVOKING tenant is refused once, with its first fragment; a REFUSE
ends the command with the cause it names, and a CONFIRM with the right tag ends it OK. That a CTR once used under a key is not used again should the key come back
rests on check values kept (log entry 16 names what the spec leaves open of the derivation; which cause 200 ms gives is open too). -/
def Obligations.KeyAgreementCompletes : Prop :=
  (∀ (h : MHdr) (t peer slot : Nat) (d : BitVec 256) (s : State), Listens h s → h.mbx ∈ [3, 4, 5, 6, 7] → h.flags &&& ~~~ 3 = 0 →
    t < 1024 → peer < 8192 → slot < 4 → tenantOk h t s = true → isRevoking s t = false →
    let clear := h.flags.getLsbD 0
    let send := h.flags.getLsbD 1
    (s.tenant t = none → exec (.keyAgree h t peer slot d) s = .next (reply h 8 (failCause 6) s)) ∧
    (∀ x, s.tenant t = some x →
      (clear = true → exec (.keyAgree h t peer slot d) s = .next (if x.sendSlot = some slot then reply h 2 [] s
        else if (x.slots.find slot).isSome then
          reply h 0 [] (bumpEpoch ((retireKey t slot s).onTenant t (fun x => { x with slots := x.slots.del slot })))
        else reply h 0 [] s)) ∧
      (clear = false → s.svc.node ≠ none → peer = (selfNode s).toNat → exec (.keyAgree h t peer slot d) s = .next (
        let key := padTo 32 (Config.slotKey s.free)
        let u : State := { s with free := s.free + 1 }
        if (x.slots.find slot).isSome then reply h 2 [] s
        else reply h 0 [] (bumpEpoch (((retireKey t slot u).onReq (fun r => { r with ctrs := r.ctrs.put (ctrKey t slot) (firstCtr t slot key u) })).onTenant t
          (fun x => { x with
            slots := x.slots.put slot key
            worn := x.worn.filter (fun w => w != slot)
            sendSlot := if send then some slot else x.sendSlot }))))) ∧
      (clear = false → (s.svc.node = none ∨ peer ≠ (selfNode s).toNat) → exec (.keyAgree h t peer slot d) s = .next (
        if ∃ e, findEx s t peer slot = some e ∧ e.hdr ≠ none then reply h 2 [] s else armEx h t peer slot d send (reply h 7 [] s))))) ∧
  (∀ (t peer slot : Nat) (e : KeyEx) (s : State), s.svc.mod = .ready → findEx s t peer slot = some e →
    exec (.keyNotArmed t peer slot) s = .next (if e.hdr = none ∧ e.startAt + 100000000 ≤ s.svc.now then refuseEx e 1 s else s) ∧
    exec (.keyTimeout t peer slot) s = .next (if e.hdr ≠ none ∧ e.startAt + 200000000 ≤ s.svc.now then endEx e 8 (failCause (Config.causeByte 0)) s else s)) ∧
  (∀ (t peer slot : Nat) (s : State), findEx s t peer slot = none →
    exec (.keyNotArmed t peer slot) s = .next s ∧ exec (.keyTimeout t peer slot) s = .next s) ∧
  (∀ (port : Nat) (p : Packet) (s : State), (isPort port = true ∨ port = outLocal) → s.svc.mod = .ready → (p.dst = selfNode s ∨ p.mcast = true) →
    p.op = opKeyMsg →
    let k := opened s p
    let u := takeLocal p s
    let t := k.tenant.toNat
    (pastFence t u = true → exec (.keyMsg port p) s = .next (discardStale port u)) ∧
    (pastFence t u = false → (flagsBad k = true ∨ k.offset.toNat % 128 ≠ 0 ∨ keyBad k = true) →
      exec (.keyMsg port p) s = .next (discardMalformed port 7 k u)) ∧
    (pastFence t u = false → flagsBad k = false → k.offset.toNat % 128 = 0 → keyBad k = false →
      ((s.tenant t = none ∨ isRevoking s t = true) → exec (.keyMsg port p) s = .next (if k.arg 0 4 = 0 ∧ k.arg 4 4 = 0 then
        sendKey k.src.toNat t 4 0 (k.arg 8 2) (BitVec.ofNat 16 (k.arg 16 16)) [6] u else discardStale port u)) ∧
      ((s.tenant t).isSome = true → isRevoking s t = false → exec (.keyMsg port p) s = .next (keyArrives port k u)))) ∧
  (∀ (port : Nat) (k : Packet) (s : State),
    let ex := findEx s k.tenant.toNat k.src.toNat (k.arg 8 2)
    let xid := BitVec.ofNat 16 (k.arg 16 16)
    ((∃ e, ex = some e ∧ e.xid ≠ none ∧ e.xid ≠ some xid) → keyArrives port k s = discardStale port s) ∧
    (ex = none → k.arg 0 4 ≠ 0 → keyArrives port k s = discardStale port s) ∧
    ((ex = none ∧ k.arg 0 4 = 0 ∨ (∃ e, ex = some e ∧ (e.xid = none ∨ e.xid = some xid)) ∧ k.arg 0 4 ≤ 1) →
      keyArrives port k s = takeFrag k k.tenant.toNat k.src.toNat (k.arg 8 2) (k.arg 0 4) (k.arg 4 4) xid s) ∧
    (∀ e, ex = some e → (e.xid = none ∨ e.xid = some xid) →
      (k.arg 0 4 = 2 → keyArrives port k s = advanceEx e.tenant e.peer e.slot
        (onEx e.tenant e.peer e.slot (fun e => { e with deliver := some (k.data.take 64) }) s)) ∧
      (∀ d, k.arg 0 4 = 3 → derive_ s e = some d → e.delivered = true → keyArrives port k s =
        if k.data.take 16 = confirmTag d 2 then endEx e 0 [] (fillSlot e.tenant e.slot none e.send s) else refuseEx e 5 s) ∧
      (k.arg 0 4 = 4 → keyArrives port k s = endEx e 8 (failCause (k.data.getD 0 0)) s)))

/-- Attestation (14 R393, R394, R402, R406 to R409): with OFFSET 0 a report is built, signed and kept for the mailbox, with the epoch and the nonce of the moment; with
another offset the report last built under the same nonce is read on, and any other offset is BAD_ARG; mailbox 2 serves the foundation report and the chain in
RECOVERY too; a region digest is accepted and ends by event, asks other nodes for their lines first, or waits on the fault of a page; a secure session answers the host's key
with the part's ciphertext and confirm tag (its salt, the byte before the hash in the tag and the form the hash covers are the model's, log entry 16). -/
def Obligations.AttestationCompletes : Prop :=
  (∀ (h : MHdr) (nonce : BitVec 256) (offset : Nat) (s : State),
    (Serves h [3, 2] s ∨ s.svc.mod = .recovery ∧ s.svc.handover = false ∧ ((s.reed.loading.find 2).isSome || (s.box 2).stalled.isSome) = false ∧ h.mbx = 2 ∧ h.flags = 0) →
    (offset = 0 → exec (.attestFoundation h nonce offset) s = .next (let r := signReport 2 nonce (foundationTail s) s
      reply h 0 (leBytes r.length 4 ++ leBytes 0 4 ++ r.take 4072) (s.onBox h.mbx (fun b => { b with report := some (nonce, r) })))) ∧
    (∀ r, offset ≠ 0 → offset ≤ r.length → (s.box h.mbx).report = some (nonce, r) →
      exec (.attestFoundation h nonce offset) s = .next (reply h 0 (leBytes r.length 4 ++ leBytes offset 4 ++ (r.drop offset).take 4072) s)) ∧
    (offset ≠ 0 → (∀ x, (s.box h.mbx).report = some x → x.1 ≠ nonce ∨ x.2.length < offset) →
      exec (.attestFoundation h nonce offset) s = .next (reply h 4 [] s)) ∧
    exec (.certChainRead h offset) s = .next (let part := ((certChain s).drop offset).take 4072
      if (certChain s).length < offset then reply h 4 [] s else reply h 0 (pack [.num 2 part.length, .bytes part]) s)) ∧
  (∀ (h : MHdr) (nonce : BitVec 256) (t offset : Nat) (s : State), Serves h [3, 4, 5, 6, 7] s → tenantOk h t s = true → (s.tenant t).isSome = true →
    (offset = 0 → exec (.attestService h nonce t offset) s = .next (let r := signReport 1 nonce (serviceTail s t) s
      reply h 0 (leBytes r.length 4 ++ leBytes 0 4 ++ r.take 4072) (s.onBox h.mbx (fun b => { b with report := some (nonce, r) })))) ∧
    (∀ r, offset ≠ 0 → offset ≤ r.length → (s.box h.mbx).report = some (nonce, r) →
      exec (.attestService h nonce t offset) s = .next (reply h 0 (leBytes r.length 4 ++ leBytes offset 4 ++ (r.drop offset).take 4072) s)) ∧
    (offset ≠ 0 → (∀ x, (s.box h.mbx).report = some x → x.1 ≠ nonce ∨ x.2.length < offset) →
      exec (.attestService h nonce t offset) s = .next (reply h 4 [] s))) ∧
  (∀ (h : MHdr) (t fva len : Nat) (s : State), Serves h [3, 4, 5, 6, 7] s → tenantOk h t s = true → (s.tenant t).isSome = true → isRevoking s t = false →
    len % 128 = 0 → len ≤ 2 ^ 40 → fva < 2 ^ 64 →
    exec (.regionDigest h t fva len) s = .next (reply h 7 [] { s with
      sec := { s.sec with digests := s.sec.digests ++ [{ tenant := t, fva := fva, len := len, hdr := h }] } })) ∧
  (∀ (t : Nat) (d : DigestJob) (s : State), s.svc.mod = .ready → s.sec.digests.find? (fun d => d.tenant == t) = some d → d.left = 0 →
    let done := fun (u : State) => u.onSec (fun e => { e with digests := e.digests.erase d })
    (∀ b u, d.bad = false → regionRead d s = (.bytes b [], u) → exec (.regionDigestComplete t) s = .next (let g := sha256Bits b
      finishEvent d.hdr 0x0807 0 (leBytes g.toNat 32)
        (keepRegion t { fva := d.fva, len := d.len, epoch := s.sec.epoch, time := s.svc.now, digest := g } (done u)))) ∧
    (∀ b far u, d.bad = false → far ≠ [] → regionRead d s = (.bytes b far, u) → exec (.regionDigestComplete t) s = .next (readFar d far s)) ∧
    (∀ a u, d.bad = false → regionRead d s = (.waits a, u) → exec (.regionDigestComplete t) s = .next (enterFault t (a / 65536)
      { cluster := false, index := digestIndex, context := t, access := 0, at_ := s.svc.now } s)) ∧
    (∀ u, d.bad = false → regionRead d s = (.fails, u) →
      exec (.regionDigestComplete t) s = .next (finishEvent d.hdr 0x0807 8 (failCause (Config.causeByte 1)) (done u))) ∧
    (d.bad = true → exec (.regionDigestComplete t) s = .next (finishEvent d.hdr 0x0807 8 (failCause (Config.causeByte 1)) (done s)))) ∧
  (∀ (t : Nat) (s : State), (∀ d, s.sec.digests.find? (fun d => d.tenant == t) = some d → d.left ≠ 0) → exec (.regionDigestComplete t) s = .next s) ∧
  (∀ (h : MHdr) (ek ct : List Byte) (s : State), Serves h [3] s → ek.length = 1184 → ct.length = 1088 →
    exec (.ideSessionOpen h ek ct) s = .next (if s.host.ideOpening.isSome then reply h 2 [] s
      else reply h 7 [] { s with host := { s.host with ideOpening := some (h, ek, ct) } })) ∧
  (∀ s : State, s.svc.mod = .ready →
    (s.host.ideOpening = none → exec .ideSessionComplete s = .next s) ∧
    (∀ h ek ct, s.host.ideOpening = some (h, ek, ct) → exec .ideSessionComplete s = .next (
      let mine := Config.encapsulate ek s.free
      let hash := sha256 (padTo 1184 (Config.kemPublic s.sec.nodeKem) ++ ek ++ padTo 1088 mine.1 ++ ct)
      let d := hkdf64 Config.ideSalt (mine.2 ++ Config.decapsulate s.sec.nodeKem ct) (leBytes (selfNode s).toNat 2 ++ leBytes 0xFFFF 2 ++ hash)
      finishEvent h 0x0804 0 (padTo 1088 mine.1 ++ (hmac (d.drop 32) (Config.ideLabel :: hash)).take 16) { s with
        free := s.free + 1
        host := { s.host with ideOpening := none, ideSession := some s.free, ideSecret := some d } })))

/-! ### Service, firmware and power (15, 16, 09) -/

/-- Service (15 R424, R427, R430, R431, R436 to R439, 09 R256): the log and the unit records are read, in RECOVERY too; a unit reset is accepted, advances the
epoch, is queued behind one in progress and ends by event, with the epoch advanced again at its end; a frame's retirement is listed in both configuration copies
before it completes, and waits while one of the two frames lies on a channel that retrains; a missed heartbeat is counted, and the third in a row has its four effects. Which frames are spare, and the numbers of the causes, are the
model's choices (log entries 17 and 19). -/
def Obligations.ServiceCommandsComplete : Prop :=
  (∀ (h : MHdr) (count : Nat) (clear mode : Bool) (unit : Nat) (s : State),
    (Serves h [0, 1, 2] s ∨ s.svc.mod = .recovery ∧ s.svc.handover = false ∧ ((s.reed.loading.find 2).isSome || (s.box 2).stalled.isSome) = false ∧ h.mbx = 2 ∧ h.flags = 0) →
    count ≤ 127 → (mode = true → unitExists (unit / 4096) (unit % 4096) = true) →
    exec (.errLogRead h count clear mode unit) s = .next (if mode then unitRead h unit clear s else logRead h count clear s)) ∧
  (∀ (h : MHdr) (kind i : Nat) (s : State), Serves h [0, 1] s → (kind = 1 ∧ i < 16 ∨ kind = 2 ∧ i < 32 ∨ kind = 3 ∧ i < 64) →
    (findTrans (.unit kind i) s.mbx.trans = none → exec (.unitReset h kind i) s = .next (
      let t := beginTrans (.unit kind i) h 0x0902 (reply h 7 [] (bumpEpoch s))
      if kind = 1 then clusterReset i t else if kind = 2 then moverReset i t
      else { t with svc := { t.svc with hbmResetting := t.svc.hbmResetting ++ [i] } })) ∧
    (∀ x, findTrans (.unit kind i) s.mbx.trans = some x → exec (.unitReset h kind i) s = .next (if x.queued.isSome then reply h 2 [] s
      else reply h 1 [] (s.onMbx (fun m => { m with trans := m.trans.map (fun y =>
        if y.key == .unit kind i then { y with queued := some (.unitReset h kind i) } else y) }))))) ∧
  (∀ (h : MHdr) (p : Nat) (s : State), Serves h [0, 1] s → isPort p = true → portAbsent s p = false →
    (findTrans (.port p) s.mbx.trans = none → exec (.unitReset h 0 p) s = .next (if (s.port p).enabled = false then reply h 2 [] s else
      let t := beginTrans (.port p) h 0x0902 (reply h 7 [] (bumpEpoch (stopPort p s)))
      if (t.port p).flushing then t else enablePort p (s.port p).width (s.port p).bridge t)) ∧
    (∀ x, findTrans (.port p) s.mbx.trans = some x → exec (.unitReset h 0 p) s = .next (if x.queued.isSome then reply h 2 [] s
      else reply h 1 [] (s.onMbx (fun m => { m with trans := m.trans.map (fun y =>
        if y.key == .port p then { y with queued := some (.unitReset h 0 p) } else y) }))))) ∧
  (∀ (h : MHdr) (kind c : Nat) (s : State), Serves h [0, 1] s → 4 ≤ kind → exec (.unitReset h kind c) s = .next (reply h 4 [] s)) ∧
  (∀ (k : FnKey) (st : Nat) (r : List Byte) (run : Instr → State → State) (t : Transition) (s : State), findTrans k s.mbx.trans = some t →
    (s.svc.handover = false → endTrans k st r run s = (let u := finishEvent t.hdr t.opcode st r (dropTrans k s)
      match t.queued with | some i => run i u | none => u)) ∧
    (s.svc.handover = true → endTrans k st r run s = s.onMbx (fun m =>
      { m with trans := m.trans.map (fun y => if y.key == k then { y with ended := some (st, r) } else y) }))) ∧
  (∀ (c : Nat) (ok : Bool) (s : State), s.svc.mod = .ready →
    (c < 16 → exec (.unitResetEnd 1 c ok) s = .next (if findTrans (.unit 1 c) s.mbx.trans = none then s
      else endTrans (.unit 1 c) 0 [] runQueuedUnit (s.onCluster c (fun k => { k with resetting := false })))) ∧
    (c < 32 → exec (.unitResetEnd 2 c ok) s = .next (if findTrans (.unit 2 c) s.mbx.trans = none ∨ moverQuiet c s = false then s
      else advanceMover c (endTrans (.unit 2 c) 0 [] runQueuedUnit (bumpEpoch { s with queues := { s.queues with
        resetting := s.queues.resetting &&& ~~~ BitVec.ofNat 32 (2 ^ c) } })))) ∧
    (c < 64 → exec (.unitResetEnd 3 c ok) s = .next (
      let u := bumpEpoch { s with svc := { s.svc with hbmResetting := s.svc.hbmResetting.filter (fun x => x != c) } }
      if findTrans (.unit 3 c) s.mbx.trans = none then s
      else if ok then endTrans (.unit 3 c) 0 [] runQueuedUnit u
      else endTrans (.unit 3 c) 8 (failCause (Config.causeByte 9)) runQueuedUnit (recordErr kHbm c 0x3A 3 [] { u with home := { u.home with
        failedChannels := if u.home.failedChannels.contains c then u.home.failedChannels else u.home.failedChannels ++ [c] } }))) ∧
    (isPort c = true → findTrans (.port c) s.mbx.trans = none → exec (.unitResetEnd 0 c ok) s = .next s) ∧
    (∀ t, isPort c = true → findTrans (.port c) s.mbx.trans = some t → exec (.unitResetEnd 0 c ok) s = .next (
      if t.opcode = 0x0902 ∧ (s.port c).flushing = false ∧ ok = linkUp (s.port c) ∧ (ok = true ∨ t.at_ + 100000000 ≤ s.svc.now) then
        endTrans (.port c) (if ok then 0 else 8) (if ok then [] else failCause (Config.causeByte 9)) runQueuedPort (bumpEpoch s) else s))) ∧
  (∀ (c : Nat) (s : State), c < 16 → s.svc.mod = .ready → exec (.clusterReload c) s = .next (
    if (s.cluster c).reloading = true ∧ (s.cluster c).resetting = false then wakeComputes (bumpEpoch (s.onCluster c (fun k => { k with reloading := false })))
    else s)) ∧
  (∀ (h : MHdr) (addr : Nat) (bad : List Nat) (s : State), Serves h [0, 1] s → addr < 2 ^ 38 →
    let f := addr / 65536
    let i : Instr := .hbmPageRetire h addr bad
    ((cfgNow s.flash).retired.contains f = true → exec i s = .next (replyRetired h f s)) ∧
    ((cfgNow s.flash).retired.contains f = false →
      (s.svc.removedAt ≠ none → exec i s = .next (reply h 6 [] s)) ∧
      (s.svc.removedAt = none → 1024 ≤ (cfgNow s.flash).retired.length → exec i s = .next (reply h 8 (failCause 2) s)) ∧
      (s.svc.removedAt = none → (cfgNow s.flash).retired.length < 1024 →
        (∀ t u l, frameTenants f s = t :: u :: l → exec i s = .next (reply h 8 (failCause 0) s)) ∧
        (∀ t, frameTenants f s = [t] → exec i s = .next (moveFrame i h (memKeyOf s t) f bad s)) ∧
        (frameTenants f s = [] → exec i s = .next (if s.svc.fwBase ≤ 65536 * f then moveFrame i h s.sec.fwKey f bad s
          else replyRetired h f (listRetired f s)))))) ∧
  (∀ (i : Instr) (h : MHdr) (key f : Nat) (bad : List Nat) (s : State),
    (spareFrames f s = [] → moveFrame i h key f bad s = reply h 8 (failCause 1) s) ∧
    (∀ x l, spareFrames f s = x :: l →
      ((frameWaits s f = true ∨ frameWaits s x = true) → moveFrame i h key f bad s = s.onBox h.mbx (fun b =>
        { b with busy := true, go := false, stalled := some i, stalledAt := s.svc.now })) ∧
      (frameWaits s f = false → frameWaits s x = false → moveFrame i h key f bad s = (
        let c := copyFrame key f x bad s
        replyRetired h f (listRetired f (redirect f x { c with home := { c.home with spares := c.home.spares ++ [x], moved := c.home.moved.put f x } })))))) ∧
  (∀ (f : Nat) (s : State), f ∉ spareFrames f s ∧ ∀ g ∈ spareFrames f s, g ∉ (cfgNow s.flash).retired ∧ g ∉ s.home.spares) ∧
  (∀ (h : MHdr) (f : Nat) (s : State),
    (∀ g, s.home.moved.find f = some g → replyRetired h f s =
      reply h 0 (pack [.num 8 (65536 * f), .num 8 (65536 * g), .bytes (leBytes (lostMap g s) 64)]) s) ∧
    (s.home.moved.find f = none → ∃ (g : Nat) (m : List Byte) (n : Nat), replyRetired h f s =
      reply h 0 (pack [.num 8 (65536 * f), .num 8 g, .bytes m]) { s with free := n })) ∧
  (∀ s : State, (beatOver s = false → exec .heartbeatMiss s = .next s) ∧ (beatOver s = true →
    let late := { s with svc := { s.svc with beatBase := s.svc.beatBase + 10000000 } }
    let u := { late with svc := { late.svc with misses := s.svc.misses + 1 } }
    (s.svc.handover = true → exec .heartbeatMiss s = .next late) ∧
    (s.svc.handover = false → s.svc.misses ≠ 2 → exec .heartbeatMiss s = .next u) ∧
    (s.svc.handover = false → s.svc.misses = 2 → exec .heartbeatMiss s = .next ((unsolicited 0 0x00000006 (leBytes (s.svc.heartbeat.getD 0) 8)
      (setSummary 11 (recordErr kPart 0 0x48 2 [] u))).onMbx (fun b => { b with ibis := b.ibis + 1 })))))

/-- Firmware (14 R391 to R393, R411, 15 R428, R432, R433): READY starts the verified slot and assigns the node, or RECOVERY is entered, and a trip that preceded the
boot is reported; fragments go to the inactive slot only; verification ends with PENDING, SIGNATURE or ROLLBACK; an activation starts the handover, or a warm reset
in RECOVERY, whose end runs the new image or resumes the old one, executes the stalled commands and completes the activation; the watchdog records and resets. -/
def Obligations.FirmwareCompletes : Prop :=
  (∀ (idMatch : Bool) (s : State), exec (.ready idMatch) s = .next (
    let boots := fun (b : Bool) => let k := bootKeys s
                                   { k with svc := { k.svc with mod := .ready, runB := b, node := bootNode s } }
    let fails := let k := bootKeys s
                 { k with svc := { k.svc with mod := .recovery } }
    if s.svc.mod ≠ .boot then s
    else reportTrip (match bootSlot s with
      | some b => if idMatch then boots b else recordErr kEvrix 0 0x4B 3 [] (boots b)
      | none => fails))) ∧
  (∀ s : State, reportTrip s = if s.pwr.tripReport then
      let r := recordErr kPower 0 0x52 3 [BitVec.ofInt 8 s.pwr.tripTemp] s
      { r with pwr := { r.pwr with tripReport := false, tripReady := some s.svc.now } }
    else s) ∧
  (∀ (h : MHdr) (offset : Nat) (b : List Byte) (last : Bool) (s : State),
    (Serves h [0, 2] s ∨ s.svc.mod = .recovery ∧ s.svc.handover = false ∧ ((s.reed.loading.find 2).isSome || (s.box 2).stalled.isSome) = false ∧ h.mbx = 2 ∧ h.flags = 0) →
    b.length ≤ 4032 →
    exec (.fwStage h offset b last) s = .next (
      let t := reply h 7 [] (onIdleSlot (writeFragment offset b) { s with svc := { s.svc with pending := false, activateFailed := false } })
      if s.svc.staging.isSome then reply h 2 [] s else if s.svc.removedAt.isSome then reply h 6 [] s
      else if last then t.onSvc (fun v => { v with staging := some h }) else finishEvent h 0x0904 0 [] t)) ∧
  (∀ (sig : Bool) (svn floor : Nat) (s : State),
    (s.svc.staging = none ∨ 63 < svn ∨ svn < floor → exec (.fwVerifyEnd sig svn floor) s = .next s) ∧
    (∀ h, s.svc.staging = some h → svn ≤ 63 → floor ≤ svn →
      let u := onIdleSlot (fun f => { f with sigOk := sig, svn := svn, floor := floor }) (bumpEpoch (s.onSvc (fun v => { v with staging := none })))
      let t := u.onSvc (fun v => { v with pending := true })
      exec (.fwVerifyEnd sig svn floor) s = .next (if sig = false then finishEvent h 0x0904 8 (failCause 0) u
        else if svn < s.flash.fusedSvn then finishEvent h 0x0904 8 (failCause 1) u else finishEvent h 0x0904 0 (pendDigest t) t))) ∧
  (∀ (h : MHdr) (s : State),
    (Serves h [0, 2] s ∨ s.svc.mod = .recovery ∧ s.svc.handover = false ∧ ((s.reed.loading.find 2).isSome || (s.box 2).stalled.isSome) = false ∧ h.mbx = 2 ∧ h.flags = 0) →
    (findTrans .firmware s.mbx.trans = none → exec (.fwActivate h) s = .next (if s.svc.pending = false then reply h 2 [] s
      else if s.svc.removedAt.isSome then reply h 6 [] s
      else if s.svc.mod = .recovery then warmReset (reply h 7 [] s)
      else (beginTrans .firmware h 0x0905 (reply h 7 [] s)).onSvc (fun v => { v with handover := true, activateFailed := false }))) ∧
    (∀ x, findTrans .firmware s.mbx.trans = some x → exec (.fwActivate h) s = .next (if x.queued.isSome then reply h 2 [] s
      else reply h 1 [] (s.onMbx (fun m => { m with trans := m.trans.map (fun y =>
        if y.key == .firmware then { y with queued := some (.fwActivate h) } else y) }))))) ∧
  (∀ (k : Nat) (s : State), (s.svc.handover = false ∨ (k ≠ 0 ∧ k ≠ 2 ∧ k ≠ 3) → exec (.handoverEnd k) s = .next s) ∧
    (s.svc.handover = true → (k = 0 ∨ k = 2 ∨ k = 3) →
      let a := if k = 0 then switchImage s else resumeImage k s
      let u := (List.range 8).foldl (fun s m => runStalled m s) (thaw (a.onSvc (fun v => { v with handover := false, held := k == 0 })))
      exec (.handoverEnd k) s = .next (endTrans .firmware (if k = 0 then 0 else 8) (if k = 0 then [] else failCause (Config.causeByte (2 + k))) runQueuedFw (u.onSvc (fun v => { v with held := false }))))) ∧
  (∀ (m : Nat) (s : State), (s.box m).stalled = none → runStalled m s = s) ∧
  (∀ s : State, s.mbx.frozen = [] → (∀ t ∈ s.mbx.trans, t.ended = none) → thaw s = s) ∧
  (∀ (pc : BitVec 32) (s : State), exec (.fwWatchdog pc) s = .next (if isLive s then warmReset (recordErr kPart 0 0x49 3 (leBytes pc.toNat 4) s) else s))

/-- The active slot is never written (14 R392): staging and verification leave the running image as it is, and a warm reset keeps flash, the log, the unit
records, the sticky marks, TIME_NOW and PERSONALITY, and leaves no tenant, no key exchange, no held request, an empty HBM and no reservation of a window (15 R429,
R390). -/
def Obligations.WarmResetKeepsTheRetainedState : Prop :=
  (∀ (f : FwSlot → FwSlot) (s : State), runSlot (onIdleSlot f s) = runSlot s) ∧
  (∀ s : State, (warmReset s).flash = s.flash ∧ (warmReset s).err = s.err ∧ (warmReset s).svc.now = s.svc.now ∧ (warmReset s).svc.bridge = s.svc.bridge ∧
    (warmReset s).sec.tenants = [] ∧ (warmReset s).sec.exs = [] ∧ (warmReset s).home.hbm = [] ∧ (warmReset s).home.wins = [] ∧ (warmReset s).coll.ops = [] ∧
    (warmReset s).queues.qps = [] ∧ (warmReset s).pwr.caps = [] ∧ (warmReset s).svc.node = none ∧ (warmReset s).pending = s.pending ∧
    (∀ p, ((warmReset s).port p).enabled = false) ∧ ((warmReset s).svc.mod = .boot ∨ (warmReset s).svc.mod = .reset))

/-- Power commands (16 R446 to R450, R453, 09 R283, R286, 14 R404): a cap is stored and judged as a followed decrease or a cap step; ballast waits for the next
control interval; the readings are returned, as means while a confidential tenant exists; a control interval always completes. -/
def Obligations.PowerCommandsComplete : Prop :=
  (∀ (h : MHdr) (cap slew : Nat) (s : State), Serves h [1, 2] s → cap ≤ 800 → slew ≤ 1000 → (cap = 0 ∨ brakeNow s ≤ 1000 * cap) →
    exec (.pwrCapSet h cap slew) s = .next (reply h 0 [] (setCap h.mbx cap slew s))) ∧
  (∀ (h : MHdr) (cap slew : Nat) (s : State), Serves h [1, 2] s → (800 < cap ∨ 1000 < slew ∨ (cap ≠ 0 ∧ 1000 * cap < brakeNow s)) →
    exec (.pwrCapSet h cap slew) s = .next (reply h 4 [] s)) ∧
  (∀ (c slew : Nat) (s : State),
    (s.pwr.pin ≤ c → decreaseCap c slew s = s.onPwr (fun p => { p with target := c, following := false, climbing := false, stepClimb := false })) ∧
    (c < s.pwr.pin → s.pwr.pin - c ≤ 50000 * slew → decreaseCap c slew s = s.onPwr (fun p =>
      { p with target := p.pin, following := true, climbing := false, stepClimb := false })) ∧
    (c < s.pwr.pin → 50000 * slew < s.pwr.pin - c → (decreaseCap c slew s).pwr.target = brakeNow s ∧ (decreaseCap c slew s).pwr.climbing = true ∧
      (decreaseCap c slew s).pwr.ballast = 0 ∧ (decreaseCap c slew s).err.summary.getLsbD 10 = true)) ∧
  (∀ (h : MHdr) (floor down up : Nat) (s : State), Serves h [1] s → (floor = 0 ∨ (200 ≤ floor ∧ floor ≤ 650)) → down ≤ 50 → up ≤ 50 →
    exec (.ballastSet h floor down up) s = .next (reply h 0 [] { s with pwr := { s.pwr with ballastNext := some (floor, down, up) } })) ∧
  (∀ (h : MHdr) (s : State), Serves h [1, 0] s →
    let n := fun (now snap : Nat) => if anyConf s then snap / 1024 else now
    exec (.ballastRead h) s = .next (reply h 0 (pack [.num 8 (n s.pwr.short s.snap.short), .num 8 (n s.pwr.rampMiss s.snap.rampMiss),
      .num 8 (n (s.pwr.energy / 10 ^ 8) (s.snap.energy / 10 ^ 8))]) { s with pwr := { s.pwr with short := 0, rampMiss := 0, energy := 0 } })) ∧
  (∀ (h : MHdr) (s : State), Serves h [0, 1, 2, 3, 4, 5, 6, 7] s →
    exec (.pwrRead h) s = .next (reply h 0 (pack [.num 2 (if anyConf s then s.pwr.mean100 / 5000 * 5 else meanOf1ms s.pwr / 1000), .num 2 (capW s),
      .num 8 (b2n (limited s) + 2 * b2n s.pwr.brakePin + 4 * b2n s.pwr.throttled)]) s)) ∧
  (∀ (h : MHdr) (s : State), Serves h [0, 1, 2, 3, 4, 5, 6, 7] s →
    let t := if anyConf s then s.pwr.tempMean else s.pwr.temps
    exec (.thermalRead h) s = .next (reply h 0 (pack [tempField t.junction, tempField (t.hbm.getD 0 0), tempField (t.hbm.getD 1 0),
      tempField (t.hbm.getD 2 0), tempField (t.hbm.getD 3 0), tempField t.inlet, .num 1 (b2n s.pwr.throttled)]) s)) ∧
  (∀ (pin : Nat) (s : State), exec (.controlInterval pin) s = .next (if s.svc.mod = .ready ∨ s.svc.mod = .recovery then
    ballastStep (limiter (moveTarget ((s.onPwr takeBallast).onPwr (sample pin)))) else s)) ∧
  (∀ (pin : Nat) (s : State), ∃ (p : Power) (n : Nat), exec (.controlInterval pin) s = .next { s with pwr := p, free := n })

/-- Pins, input and temperatures (16 R441 to R443, R451 to R455, R457, 15 R429, R434, R440): each event drives the sequencer, the brake, a reset or a trip as its rule
says, and one whose condition does not hold leaves the part as it is but for the pin. -/
def Obligations.PinEventsComplete : Prop :=
  (∀ (mv : Nat) (s : State), exec (.inputApplied mv) s = .next (if s.pwr.inputOk = false ∧ 60000 ≤ mv ∧ mv ≤ 80000 then
    sequence { s with pwr := { s.pwr with inputMv := mv, inputOk := true } } else s)) ∧
  (∀ s : State, sequence s = if s.pwr.inputOk = true ∧ s.pwr.eoff = false ∧ s.pwr.tripped = false then
    { s with svc := { s.svc with mod := .sequencing }, pwr := { s.pwr with railsOn := true } } else s) ∧
  (∀ (mv : Nat) (s : State), (60000 ≤ mv → mv ≤ 80000 → exec (.inputLoss mv) s = .next s) ∧
    ((mv < 60000 ∨ 80000 < mv) → mv ≠ 0 →
      exec (.inputLoss mv) s = .next (powerOff (if s.pwr.tripped then .tripped else .off) { s with pwr := { s.pwr with inputMv := mv, inputOk := false } })) ∧
    (mv = 0 → exec (.inputLoss mv) s = .next (powerOff .off { s with pwr := { s.pwr with
      inputMv := 0, inputOk := false, tripped := false, tripTemp := 0, tripReport := false, tripHeld := false } }))) ∧
  (∀ s : State, s.pwr.railsOn = true → s.pwr.powerGood = false → ∃ t, exec .powerGood s = .next t ∧ t.svc.mod = (if s.pwr.modReset then .reset else .boot) ∧
    t.svc.now = 0 ∧ t.svc.bridge = s.svc.strap ∧ t.pwr.powerGood = true ∧ t.flash = s.flash ∧ t.err = State.reset.err) ∧
  (∀ s : State, (s.pwr.railsOn = false ∨ s.pwr.powerGood = true) → exec .powerGood s = .next s) ∧
  (∀ s : State, exec .powerGoodWithdrawn s = .next { s with pwr := { s.pwr with powerGood := false } }) ∧
  (∀ s : State, ∃ t, exec .eoffAssert s = .next t ∧ t.svc.mod = .off ∧ t.pwr.railsOn = false ∧ t.pwr.powerGood = false ∧ t.pwr.eoff = true ∧
    t.pwr.tripped = false ∧ t.flash = s.flash ∧ t.home.hbm = [] ∧ t.sec.tenants = []) ∧
  (∀ s : State, exec .eoffRelease s = .next (if s.pwr.eoff then sequence { s with pwr := { s.pwr with eoff := false } } else s)) ∧
  (∀ s : State, exec .modResetAssert s = .next (
    let u := { s with pwr := { s.pwr with modReset := true } }
    if s.svc.mod = .tripped then sequence { u with pwr := { u.pwr with tripped := false, tripHeld := false } }
    else if s.svc.mod = .off ∨ s.svc.mod = .sequencing then u else warmReset u)) ∧
  (∀ s : State, exec .modResetRelease s = .next (
    let u := { s with pwr := { s.pwr with modReset := false } }
    if s.svc.mod = .reset then { u with svc := { u.svc with mod := .boot } } else u)) ∧
  (∀ s : State, exec .brakeAssert s = .next (if s.pwr.brakePin then s else if isLive s then
    recordErr kPower 0 0x53 1 [0] { s with pwr := { s.pwr with brakePin := true, ballast := 0, ballastOff := true } }
    else { s with pwr := { s.pwr with brakePin := true } })) ∧
  (∀ s : State, exec .brakeRelease s = .next (if s.pwr.brakePin = false then s else if isLive s then
    climbFromBrake s.pwr.stepClimb { s with pwr := { s.pwr with brakePin := false } } else { s with pwr := { s.pwr with brakePin := false } })) ∧
  (∀ s : State, exec .prsntEarlyDeassert s = .next (if isLive s = false then s
    else if s.svc.removedAt ≠ none then { s with svc := { s.svc with removedAt := some s.svc.now } } else (s.ports.map Prod.fst).foldl (fun s p => removePort p s)
    (recordErr kPart 0 0x4C 3 [] { s with svc := { s.svc with removedAt := some s.svc.now } }))) ∧
  (∀ s : State, (s.svc.removedAt = none → exec .prsntEarlyReassert s = .next s) ∧ (∀ t, s.svc.removedAt = some t →
    exec .prsntEarlyReassert s = .next (if t + 100000000 ≤ s.svc.now then warmReset { s with svc := { s.svc with removedAt := none } } else s))) ∧
  (∀ (t : Temps) (s : State), exec (.thermalThrottle t) s = .next (if limiting s = true ∧ s.pwr.throttled = false ∧ hotAt 100 95 t = true then
    recordErr kPower 0 0x51 1 [BitVec.ofInt 8 t.junction]
      { s with pwr := { s.pwr with throttled := true, thermalLimit := s.pwr.pin, thermalAt := s.svc.now, temps := t } } else s)) ∧
  (∀ (t : Temps) (s : State), (limiting s = false ∨ s.pwr.throttled = false → exec (.thermalLimitTick t) s = .next s) ∧
    (limiting s = true → s.pwr.throttled = true →
      (hotAt 100 95 t = true → exec (.thermalLimitTick t) s = .next (if s.pwr.thermalAt + 1000000 ≤ s.svc.now then { s with pwr := { s.pwr with
        thermalLimit := max (brakeNow s) (s.pwr.thermalLimit - 25000), thermalAt := s.svc.now, temps := t } } else s)) ∧
      (hotAt 99 94 t = false → exec (.thermalLimitTick t) s = .next (if s.pwr.thermalAt + 10000000 ≤ s.svc.now then { s with pwr := { s.pwr with
        thermalLimit := s.pwr.thermalLimit + 10000, thermalAt := s.svc.now, temps := t
        throttled := decide (s.pwr.thermalLimit + 10000 < 1000 * capW s) } } else s)) ∧
      (hotAt 100 95 t = false → hotAt 99 94 t = true → exec (.thermalLimitTick t) s = .next { s with pwr := { s.pwr with temps := t } }))) ∧
  (∀ (t : Temps) (s : State), ((s.pwr.railsOn = false ∨ hotAt 105 105 t = false) → exec (.thermalTrip t) s = .next s) ∧
    (s.pwr.railsOn = true → hotAt 105 105 t = true → ∃ u, exec (.thermalTrip t) s = .next u ∧ u.svc.mod = .tripped ∧
      u.pwr.tripped = true ∧ u.pwr.railsOn = false ∧ u.pwr.tripReport = true ∧ u.flash = s.flash ∧
      u.pwr.tripTemp = (if 105 ≤ t.junction then t.junction else t.hbm.foldl max t.junction) ∧
      (u.pwr.tripHeld = true ↔ ∃ r, s.pwr.tripReady = some r ∧ s.svc.now < r + 60000000000))) ∧
  (∀ s : State, exec .tripRestart s = .next (if s.svc.mod = .tripped ∧ s.pwr.tripHeld = false ∧ s.pwr.inputOk = true then
    sequence { s with pwr := { s.pwr with tripped := false } } else s))

/-! ### Exact arithmetic (07) -/

/-- The exact sum (07 R183, R184, R187, R188, R191): for at most 2^31 contributions of any input format, with valid block scales, the accumulator and its four
flags depend on the multiset of contributions alone; no RANGE fault is ever set; and A is the sum of the finite contributions' exact values, in units
of 2^-160. -/
def Obligations.ExactSumIgnoresOrder : Prop :=
  ∀ (fmt : Nat) (l m : List (Nat × Nat)), fmt ≤ 8 → (∀ t ∈ l, t.2 ≤ 0xF6 ∨ t.2 = 0xFF) → l.length ≤ 2 ^ 31 → l.Perm m →
    let run := fun (l : List (Nat × Nat)) => l.foldl (fun a t => accAdd a (convertElem fmt t.1 t.2)) ({} : Acc)
    run l = run m ∧ (run l).range = false ∧
    (run l).a = (l.map (fun t => match convertElem fmt t.1 t.2 with | .fin neg mag => sgn neg mag | _ => 0)).sum ∧
    ((run l).nan = true ↔ ∃ t ∈ l, convertElem fmt t.1 t.2 = .nan)

/-! ### Groups, programs and operations (08, 09) -/

/-- Groups and programs (08 R210 to R213, R229, 09 R250, R251, R253, R255, R301 of 10): a part that continues the staged entry is staged, one that does not discards it,
and a whole valid entry is installed with its DIGEST and the epoch advances; what a part that is
refused leaves staged is the model's choice (log entry 87); an entry or a partition in use, and a part without its number, is BUSY; a load waits while a
line of its image lies on a channel that retrains, reads its image here, or asks other nodes for its lines, and then goes through the rows of R253 in order; a member is armed only under the digest it computes itself. -/
def Obligations.GroupAndProgramCommandsComplete : Prop :=
  (∀ (h : MHdr) (p : GroupPart) (s : State), Serves h [1] s → s.svc.bridge = false → isRevoking s p.tenant = false →
    let drop : State := { s with coll := { s.coll with staged := s.coll.staged.del p.group } }
    (partBad s p = true → exec (.groupInstall h p) s = .next (reply h 4 [] (if stagedFor s p = none then drop else s))) ∧
    (partBad s p = false → (s.svc.node = none ∨ opInFlight s p.group = true) → exec (.groupInstall h p) s = .next (reply h 2 [] s)) ∧
    (partBad s p = false → s.svc.node ≠ none → opInFlight s p.group = false →
      (stagedFor s p = none → exec (.groupInstall h p) s = .next (reply h 4 [] drop)) ∧
      (∀ l, stagedFor s p = some l → exec (.groupInstall h p) s = .next (
        let all := l ++ p.recs
        let t := installEntry p.group p.gen p.tenant all s
        if p.last = false then reply h 0 [] { s with coll := { s.coll with
          staged := s.coll.staged.put p.group { gen := p.gen, tenant := p.tenant, n := p.n, recs := all } } }
        else if all.length = p.n ∧ entryOk s p.group p.gen all = true then
          reply h 0 (pack [.num 4 (entryDigest p.group p.gen p.tenant all).toNat, .num 8 t.sec.epoch]) t
        else reply h 4 [] (if p.first = 0 then drop else s))))) ∧
  (∀ (p : GroupPart) (s : State), (p.first = 0 → stagedFor s p = some []) ∧ (p.first ≠ 0 → s.coll.staged.find p.group = none → stagedFor s p = none) ∧
    (∀ e, p.first ≠ 0 → s.coll.staged.find p.group = some e → stagedFor s p =
      if e.recs.length = p.first ∧ e.gen = p.gen ∧ e.tenant = p.tenant ∧ e.n = p.n then some e.recs else none)) ∧
  (∀ (h : MHdr) (g : Nat) (s : State), Serves h [1] s → s.svc.bridge = false → exec (.groupRemove h g) s = .next (
    if s.coll.groups.find g = none then reply h 4 [] s else if opInFlight s g then reply h 2 [] s
    else reply h 0 [] (bumpEpoch { s with coll := { s.coll with groups := s.coll.groups.del g, ops := s.coll.ops.del g } }))) ∧
  (∀ (h : MHdr) (g k gen : Nat) (s : State), Serves h [1] s → s.svc.bridge = false → removalOk s g k = true → gen ≤ 15 →
    (opInFlight s g = false → exec (.groupMemberRemove h g k gen) s = .next (applyRemoval g { position := k, gen := gen, hdr := h } (reply h 7 [] s))) ∧
    (opInFlight s g = true → exec (.groupMemberRemove h g k gen) s = .next (wakeComputes (originate g rsMemberLeft none
      ((reply h 7 [] s).onOp g (fun o => { o with removals := o.removals ++ [{ position := k, gen := gen, hdr := h }] })))))) ∧
  (∀ (h : MHdr) (p mask t : Nat) (s : State), Serves h [1] s → p ≤ 15 → mask ≤ 65535 → (mask = 0 ∨ (s.tenant t).isSome = true) →
    exec (.partitionSet h p mask t) s = .next (
      if (imagesOf s p ≠ [] ∧ (s.reed.parts.find p).isSome = true) ∨ (∃ c ∈ clustersOf mask, ∃ q, partitionOf s c = some q ∧ q.1 ≠ p) then reply h 2 [] s
      else reply h 0 [] (setPartition p mask t s))) ∧
  (∀ (h : MHdr) (p slot addr : Nat) (len : ImageRef) (q : Partition) (s : State), Serves h [1, 4, 5, 6, 7] s → slot ≤ 15 → s.reed.parts.find p = some q →
    tenantOk h q.tenant s = true → isRevoking s q.tenant = false →
    let r := readHere q.tenant len.ecc { hdr := h, partition := p, slot := slot, addr := addr, len := len.len } s
    let far := farLines r.2 q.tenant r.1
    ((s.reed.images.find (16 * slot + p)).isSome = true → exec (.programLoad h p slot addr len) s = .next (reply h 2 [] s)) ∧
    (s.reed.images.find (16 * slot + p) = none →
      (loadWaits s q.tenant addr len.len = true → exec (.programLoad h p slot addr len) s = .next (s.onBox h.mbx (fun b =>
        { b with busy := true, go := false, stalled := some (.programLoad h p slot addr len), stalledAt := s.svc.now }))) ∧
      (loadWaits s q.tenant addr len.len = false → (r.1.bad = true ∨ far = []) → exec (.programLoad h p slot addr len) s = .next (finishLoad r.1 r.2)) ∧
      (loadWaits s q.tenant addr len.len = false → r.1.bad = false → far ≠ [] → exec (.programLoad h p slot addr len) s = .next (
        far.foldl (fun s y => issue (readRequest s y.2.1 q.tenant y.2.2 false) (.image h.mbx y.1) s)
          { r.2 with reed := { r.2.reed with loading := r.2.reed.loading.put h.mbx { r.1 with left := far.length } } })))) ∧
  (∀ (l : Loading) (q : Partition) (s : State), s.reed.parts.find l.partition = some q →
    let b := (List.range l.lines.length).flatMap (fun i => l.lines.look i [])
    let key := 16 * l.slot + l.partition
    ((s.reed.images.find key).isSome = true → finishLoad l s = reply l.hdr 2 [] s) ∧
    (s.reed.images.find key = none →
      (l.bad = true → finishLoad l s = reply l.hdr 8 (failCause (Config.causeByte 6)) s) ∧
      (l.bad = false → (imageOk b (clustersOf q.mask).length = false ∨ 61440 < textBytes s l.partition + leAt b 8 4) →
        finishLoad l s = reply l.hdr 4 [] s) ∧
      (l.bad = false → imageOk b (clustersOf q.mask).length = true → textBytes s l.partition + leAt b 8 4 ≤ 61440 → finishLoad l s = (
        let count := (s.reed.loads.look key 0 + 1) % 256
        let u := bumpEpoch s
        let img := imageOf b count u.sec.epoch
        reply l.hdr 0 (pack [.num 2 (l.partition + 16 * l.slot + 256 * count), .bytes (leBytes img.digest.toNat 32), .num 8 u.sec.epoch])
          { u with reed := { u.reed with loads := u.reed.loads.put key count, images := u.reed.images.put key img } })))) ∧
  (∀ (h : MHdr) (id : Nat) (s : State), Serves h [1, 4, 5, 6, 7] s → (∀ q, s.reed.parts.find (id % 16) = some q → tenantOk h q.tenant s = true) →
    id ≤ 65535 → exec (.programUnload h id) s = .next (if findImage s id = none then reply h 4 [] s else if imageBusy s (id % 256) then reply h 2 [] s
      else reply h 0 [] (bumpEpoch { s with reed := { s.reed with images := s.reed.images.del (id % 256) } }))) ∧
  (∀ (h : MHdr) (a : MemberArmArgs) (s : State), Serves h [0, 4, 5, 6, 7] s → s.svc.bridge = true → tenantOk h a.tenant s = true →
    isRevoking s a.tenant = false → armBad a s = false →
    let m : MemberOp := { opid := a.opid, gen := a.gen, tenant := a.tenant, members := a.members, position := a.position, prog := a.prog, timeout := a.timeout,
                          armedAt := s.svc.now }
    exec (.memberArm h a) s = .next (if s.svc.node = none ∨ memberBusy s a.group = true then reply h 2 [] s
      else if entryDigest a.group a.gen a.tenant a.members ≠ a.digest
      then reply h 4 [] { s with svc := { s.svc with armRefusals := s.svc.armRefusals + 1 } }
      else reply h 0 [] { s with coll := { s.coll with members := s.coll.members.put a.group m } }))

/-- Operations (08 R212, R220, R229, 09 R254, R266, 07 R209, 14 R404): OP_START passes its checks and starts the contexts and the first chunks; a group in flight, or no
room, is BUSY; the status and the counts are read, of the tenants the mailbox may act for. -/
def Obligations.OperationCommandsComplete : Prop :=
  (∀ (h : MHdr) (a : OpStartArgs) (s : State), Serves h [1, 4, 5, 6, 7] s → s.svc.bridge = false → groupDenied h a.group s = false →
    programDenied h a.progId s = false → (∀ e, s.coll.groups.find a.group = some e → isRevoking s e.tenant = false) →
    (startBad a s = true → exec (.opStart h a) s = .next (reply h 4 [] s)) ∧
    (startBad a s = false → ∃ (e : GroupEntry) (i : Nat × Image) (q : Partition), s.coll.groups.find a.group = some e ∧ findImage s a.progId = some i ∧
      s.reed.parts.find (a.progId % 16) = some q ∧
      ((opInFlight s a.group = true ∨ noSendSlot s e.tenant = true ∨ partReloading s q.mask = true) → exec (.opStart h a) s = .next (reply h 2 [] s)) ∧
      (opInFlight s a.group = false → noSendSlot s e.tenant = false → partReloading s q.mask = false →
        (startContexts (.op a.group) i.1 i.2 q.mask s = none → exec (.opStart h a) s = .next (reply h 2 [] s)) ∧
        (∀ t, startContexts (.op a.group) i.1 i.2 q.mask s = some t → exec (.opStart h a) s = .next (reply h 0 [] (startOp a e i.2 t)))))) ∧
  (∀ (h : MHdr) (a : OpStartArgs) (s : State), Serves h [1, 4, 5, 6, 7] s → (groupDenied h a.group s = true ∨ programDenied h a.progId s = true) →
    exec (.opStart h a) s = .next (reply h 3 [] s)) ∧
  (∀ (a : OpStartArgs) (e : GroupEntry) (i : Image) (s : State),
    let u : State := { s with coll := { s.coll with ops := s.coll.ops.put a.group (newOp a e i s.svc.now) } }
    startOp a e i s = if memberAbsent u e then originate a.group rsDestDown none u else checkDone a.group (openChunks a.group i.prog.w u)) ∧
  (∀ (h : MHdr) (g : Nat) (s : State), Serves h [1, 4, 5, 6, 7] s → s.svc.bridge = false → groupDenied h g s = false →
    exec (.opStatusRead h g) s = .next (if s.coll.groups.find g = none then reply h 4 [] s else reply h 0 (opStatus s g) s)) ∧
  (∀ (h : MHdr) (s : State), Serves h [1, 4, 5, 6, 7] s →
    let mine := s.coll.summaries.filter (fun x => tenantOk h x.tenant s)
    let shown := fun (x : Summary) => (s.snap.summaries.find? (fun y => y.opid == x.opid && y.tenant == x.tenant)).getD
      { opid := x.opid, tenant := x.tenant, nans := 0, infs := 0, sats := 0 }
    let n := fun (now snap : Nat) => if anyConf s then snap / 1024 else now
    exec (.redSummaryRead h) s = .next (reply h 0 (pack (.num 2 mine.length :: mine.flatMap (fun x =>
      [.num 4 x.opid.toNat, .num 8 (n x.nans (shown x).nans), .num 8 (n x.infs (shown x).infs), .num 8 (n x.sats (shown x).sats)]))) s))

/-- Traffic of an operation at a plane (08 R223 to R226, R231, R233, R235 to R238, R244 to R247): a packet that names no open operation is counted stale; a
contribution that passes the checks enters its elements' state; one that fails check 2 or 3 starts the common abort with its reason; results are injected once
the chunk is complete; a delivered chunk closes; ring packets take their slots; the timers abort; the settle interval closes. The checks of 04 R90 come before the operation is looked for; that a credit's and an OP_DONE's zero
places are ignored is the model's choice (log entry 77). -/
def Obligations.PlaneTrafficCompletes : Prop :=
  (∀ (port : Nat) (p : Packet) (ecc : Ecc) (x : Instr × Nat) (s : State), x ∈ [(.redPut port p ecc, opRedPut), (.redRes port p, opRedRes),
      (.redCredit port p, opRedCredit), (.opDone port p, opOpDone), (.opAbort port p, opOpAbort), (.ringPart port { pkt := p, ecc := ecc }, opRingPart),
      (.ringRes port p, opRingRes), (.msgSend port p ecc, opMsgSend), (.msgAck port p, opMsgAck), (.maskSet port p, opMaskSet), (.maskAck port p, opMaskAck),
      (.keyMsg port p, opKeyMsg)] →
    ((isPort port = true ∨ port = outLocal) → (s.svc.mod ≠ .ready ∨ (p.dst ≠ selfNode s ∧ p.mcast = false) ∨ p.op ≠ x.2) → exec x.1 s = .next s) ∧
    (isPort port = false → port ≠ outLocal → exec x.1 s = .fault .noSuchUnit)) ∧
  (∀ (port : Nat) (p : Packet) (ecc : Ecc) (s : State), (isPort port = true ∨ port = outLocal) → s.svc.mod = .ready → (p.dst = selfNode s ∨ p.mcast = true) →
    p.op = opRedPut →
    let k := opened s p
    let u := takeLocal p s
    let stale := if isPort port then u.onCnt port (fun c => { c with collStale := c.collStale + 1 }) else u
    let abort := fun (reason : Nat) (v : State) => wakeComputes (originate k.group reason (some k.chunk) v)
    (openOp u k = none → exec (.redPut port p ecc) s = .next stale) ∧
    (∀ op, openOp u k = some op →
      (authCheck k u = .stale → exec (.redPut port p ecc) s = .next (if pastFence k.tenant.toNat u then stale else discardStale port u)) ∧
      (authCheck k u = .fail → exec (.redPut port p ecc) s = .next (abort rsAuthFail (if isPort port then countAuthFail port u else u))) ∧
      (authCheck k u = .ok → flagsBad k = true → exec (.redPut port p ecc) s = .next (discardMalformed port 7 k u)) ∧
      (authCheck k u = .ok → flagsBad k = false →
        ((chunkOf op k.chunk = none ∨ positionOf u k.group k.src = none) → exec (.redPut port p ecc) s = .next (abort rsFormatError u)) ∧
        (∀ x pos, chunkOf op k.chunk = some x → positionOf u k.group k.src = some pos → exec (.redPut port p ecc) s = .next (
          let r := contributionCheck op x pos k ecc u
          if contributionOk u op x pos k = false then abort rsFormatError u
          else if r.1 then takeContribution op x pos k r.2 else abort rsDataLost r.2))))) ∧
  (∀ (g c : Nat) (op : Op) (x : Chunk) (s : State), runningChunk s g c = some (op, x) ↔
    s.op g = some op ∧ op.phase = .running ∧ op.record = none ∧ chunkOf op c = some x) ∧
  (∀ (g c : Nat) (ecc : Ecc) (s : State), s.svc.mod = .ready →
    (runningChunk s g c = none → exec (.redResInjection g c ecc) s = .next s) ∧
    (∀ op x, runningChunk s g c = some (op, x) →
      let r := scratchCheck (elemCluster s op 0) (slotWords g op c 0 (chunkElems op.prog) s) ecc s
      ((x.formed = true ∨ x.emitted ≠ []) → exec (.redResInjection g c ecc) s = .next (wakeStores g c (injectChunk g c s))) ∧
      (x.formed = false → x.emitted = [] →
        (r.1 = false → exec (.redResInjection g c ecc) s = .next (wakeComputes (originate g rsDataLost (some c) r.2))) ∧
        (r.1 = true → exec (.redResInjection g c ecc) s = .next (formResults g c (retryWeights g c r.2)))))) ∧
  (∀ (g c : Nat) (s : State), (runningChunk s g c = none → formResults g c s = s) ∧ (∀ op x, runningChunk s g c = some (op, x) →
    let v := syncOpen g c 0 (inElems op.prog c) s
    (runningChunk v g c).isSome = true ∧
    (∀ op x, runningChunk v g c = some (op, x) →
      let n := memberCount v g
      ((chunkReady op n x = false ∨ isStalled op c = true) → formResults g c s = v) ∧
      (chunkReady op n x = true → isStalled op c = false → isRing op = true → formResults g c s = injectChunk g c (setFormed g c (ringResults op c) [] v)) ∧
      (chunkReady op n x = true → isStalled op c = false → isRing op = false → formResults g c s =
        match formChunk op n (placeOf op v c) x v with
        | .ok pays cls t => injectChunk g c (setFormed g c pays cls (clearStall g c t))
        | .stall a => noteStall g c a v
        | .cause k => opFault g op k c v
        | .lost t => wakeComputes (originate g rsDataLost (some c) t))))) ∧
  (∀ (g c : Nat) (s : State), (∀ op x, runningChunk s g c = some (op, x) → op.prog.weighted = false) → retryWeights g c s = s) ∧
  (∀ (g c i : Nat) (s : State), s.svc.mod = .ready →
    exec (.deliveryNotice g c i) s = .next (match s.core.deliveries.find? (fun d =>
        d.group == g && d.chunk == c && d.pidx == i && d.opcode == opRedRes && d.ports.isEmpty) with
      | some d => closeIf g c (onChunk g c (fun x => { x with notices := x.notices.filter (fun y => y != i) })
          { s with core := { s.core with deliveries := s.core.deliveries.erase d } })
      | none => s)) ∧
  (∀ (g c : Nat) (op : Op) (x : Chunk) (s : State), s.op g = some op → chunkOf op c = some x →
    closeIf g c s = if x.formed = true ∧ x.ready = [] ∧ x.notices = [] then
      checkDone g (openChunks g op.prog.w (s.onOp g (fun o => { o with
        chunks := o.chunks.filter (fun y => y.idx != c), closedCount := o.closedCount + 1
        partials := o.partials.filter (fun y => y.1 / 65536 != c), gathered := o.gathered.filter (fun y => y.1 / 65536 != c) }))) else s) ∧
  (∀ (port : Nat) (p : Packet) (ecc : Ecc) (row : Instr) (s : State), (isPort port = true ∨ port = outLocal) → s.svc.mod = .ready →
    (p.dst = selfNode s ∨ p.mcast = true) →
    (row = .ringPart port { pkt := p, ecc := ecc } ∧ p.op = opRingPart ∨ row = .ringRes port p ∧ p.op = opRingRes) →
    let k := opened s p
    let u := takeLocal p s
    let stale := if isPort port then u.onCnt port (fun c => { c with collStale := c.collStale + 1 }) else u
    (authCheck k u = .stale → exec row s = .next (discardStale port u)) ∧
    (authCheck k u = .fail → exec row s = .next (if isPort port then countAuthFail port u else u)) ∧
    (authCheck k u = .ok → flagsBad k = true → exec row s = .next (discardMalformed port 7 k u)) ∧
    (authCheck k u = .ok → flagsBad k = false →
      (ringOp u k = none → exec row s = .next stale) ∧
      (∀ g op, ringOp u k = some (g, op) →
        (ringSlot u op k.chunk k.pidx = false → exec row s = .next stale) ∧
        (ringSlot u op k.chunk k.pidx = true →
          let v := onChunk g k.chunk (fun x => { x with last := s.svc.now }) u
          exec row s = .next (if p.op = opRingPart then takePartial k ecc g op v else takeGathered k g op v))))) ∧
  (∀ (g c : Nat) (s : State), s.svc.mod = .ready →
    ((∀ op, s.op g = some op → chunkOf op c = none) → exec (.chunkStall g c) s = .next s) ∧
    (∀ op x, s.op g = some op → chunkOf op c = some x → exec (.chunkStall g c) s = .next (if x.last + op.prog.stallMs * 1000000 ≤ s.svc.now then
      wakeComputes (originate g (if isRing op && chunkFull op (memberCount s g) x then rsPathLost else rsMemberTimeout) (some c) s) else s))) ∧
  (∀ (g : Nat) (s : State), s.svc.mod = .ready →
    (s.op g = none → exec (.operationTimeout g) s = .next s ∧ exec (.abortSettleEnd g false) s = .next s) ∧
    (∀ op, s.op g = some op →
      exec (.operationTimeout g) s = .next (if op.timeout ≠ 0 ∧ op.startAt + op.timeout ≤ s.svc.now then wakeComputes (originate g rsTimeout none s) else s) ∧
      exec (.abortSettleEnd g false) s = .next (if (op.phase = .aborting ∨ op.phase = .done) ∧ op.settleAt + 10000000 ≤ s.svc.now then
        wakeComputes (op.removals.foldl (fun s r => applyRemoval g r s) (s.onOp g (fun o => { o with phase := .closed, removals := [] }))) else s))) ∧
  (∀ (port : Nat) (p : Packet) (s : State), (isPort port = true ∨ port = outLocal) → s.svc.mod = .ready → s.svc.bridge = false →
    (p.dst = selfNode s ∨ p.mcast = true) →
    let k := opened s p
    let u := takeLocal p s
    let stale := if isPort port then u.onCnt port (fun c => { c with collStale := c.collStale + 1 }) else u
    let t := k.tenant.toNat
    (p.op = opRedCredit → exec (.redCredit port p) s = .next (if pastFence t u = true then discardStale port u
      else if flagsBad k = true ∨ k.arg 0 8 = 0 then discardMalformed port 7 k u else stale)) ∧
    (p.op = opOpDone → exec (.opDone port p) s = .next (if pastFence t u = true then discardStale port u
      else if flagsBad k = true then discardMalformed port 7 k u else stale)) ∧
    (p.op = opRedRes → exec (.redRes port p) s = .next (memberDone k.group (match authCheck k u with
      | .stale => discardStale port u
      | .fail => if isPort port then countAuthFail port u else u
      | .ok => if flagsBad k = true then discardMalformed port 7 k u else stale))) ∧
    (p.op = opOpAbort → exec (.opAbort port p) s = .next (if pastFence t u = true ∧ namedOp u k = none then discardStale port u
      else if abortBad k = true then discardMalformed port 7 k u
      else if (namedOp u k).isSome then wakeComputes (keepRecord k.group (recordOf k) u) else stale))) ∧
  (∀ (p : Packet) (op : Op) (s : State), namedOp s p = some op ↔
    isColl p = true ∧ s.op p.group = some op ∧ op.phase ≠ .closed ∧ op.gen = p.gen ∧ op.opid.toNat % 2 ^ 16 = p.opseq)

/-- The common error only falls (08 R232, R233, R235, R236): records are strictly ordered by ORIGIN, REASON, CHUNK; a plane keeps a record only where none is kept or it is lower; then no chunk of the operation stays open and
the operation is ABORTING; a record that is not lower changes nothing at all; and a plane originates nothing once a record is kept, or outside RUNNING. -/
def Obligations.AbortRecordOnlyFalls : Prop :=
  ∀ (g : Nat) (r : AbortRec) (op : Op) (s : State), s.op g = some op →
    (recLowers op.record r = false → keepRecord g r s = s) ∧
    (recLowers op.record r = true → ∃ o, (keepRecord g r s).op g = some o ∧ o.record = some r ∧ o.phase = .aborting ∧ o.chunks = [] ∧ o.opid = op.opid ∧
      (op.record = none → o.settleAt = s.svc.now) ∧ (op.record ≠ none → o.settleAt = op.settleAt)) ∧
    (∀ reason chunk, op.record ≠ none ∨ op.phase ≠ .running → originate g reason chunk s = s) ∧
    (∀ a b : AbortRec, recLt a b = true ↔ a.origin < b.origin ∨ (a.origin = b.origin ∧ (a.reason < b.reason ∨ (a.reason = b.reason ∧ a.chunk < b.chunk)))) ∧
    (∀ a b : AbortRec, a ≠ b → (recLt a b = true ↔ recLt b a = false)) ∧ (∀ a b c : AbortRec, recLt a b = true → recLt b c = true → recLt a c = true)

/-- Traffic at a bridge's collective agent (10 R301, R302, 08 R219, R221, R222, R227, R230, R234, R237, R238): credits run the member, which then sends each payload of the
chunks new to it; results are placed once, within the buffer; OP_DONE and the records decide the report; a packet of no armed operation is counted stale. The values
a member contributes are open, and one that could not place a result never reports OK (the model's choices, log entry 57). -/
def Obligations.MemberTrafficCompletes : Prop :=
  (∀ (port : Nat) (p : Packet) (row : Instr) (s : State), (isPort port = true ∨ port = outLocal) → s.svc.mod = .ready → s.svc.bridge = true →
    (p.dst = selfNode s ∨ p.mcast = true) →
    (row = .redCredit port p ∧ p.op = opRedCredit ∨ row = .opDone port p ∧ p.op = opOpDone ∨ row = .opAbort port p ∧ p.op = opOpAbort ∨
      row = .redRes port p ∧ p.op = opRedRes) →
    let k := opened s p
    let u := takeLocal p s
    let stale := let v := u.onMember k.group (fun m => { m with stale := m.stale + 1 })
                 if isPort port then v.onCnt port (fun c => { c with collStale := c.collStale + 1 }) else v
    let t := k.tenant.toNat
    (p.op = opRedCredit → exec row s = .next (if pastFence t u = true then discardStale port u
      else if flagsBad k = true ∨ k.arg 0 8 = 0 then discardMalformed port 7 k u
      else match memberFor u k with
        | none => stale
        | some (m, r) =>
          let new := (creditedChunks m k.chunk (k.arg 0 8)).filter (fun c => !m.credits.contains c)
          let pays := creditedPayloads m r new
          contribute k.group (m.toSend.length + pays.length) (u.onMember k.group (fun m => { m with
            credits := m.credits ++ new, toSend := m.toSend ++ pays, phase := if m.phase == .armed then .running else m.phase })))) ∧
    (p.op = opOpDone → exec row s = .next (if pastFence t u = true then discardStale port u else if flagsBad k = true then discardMalformed port 7 k u
      else match memberFor u k with
        | none => stale
        | some (_, r) => memberDone k.group (u.onMember k.group (fun m => { m with dones := if m.dones.contains r then m.dones else m.dones ++ [r] })))) ∧
    (p.op = opOpAbort → exec row s = .next (if pastFence t u = true ∧ memberFor u k = none then discardStale port u
      else if abortBad k = true then discardMalformed port 7 k u
      else match memberFor u k with
        | none => stale
        | some (_, r) => memberRecord k.group (recordOf k) (some r) u)) ∧
    (p.op = opRedRes → s.svc.hbmResetting ≠ [] → exec row s = .next s) ∧
    (p.op = opRedRes → s.svc.hbmResetting = [] → exec row s = .next (memberDone k.group (match authCheck k u with
      | .stale => discardStale port u
      | .fail => if isPort port then countAuthFail port u else u
      | .ok => if flagsBad k = true then discardMalformed port 7 k u
        else match memberFor u k with
          | none => stale
          | some (m, r) =>
            if ownerOf m.prog k.chunk = r ∧ k.chunk < chunkCount m.prog ∧ receives m.prog m.members.length k.chunk m.position = true ∧
              k.pidx < outPayloads m.prog k.chunk ∧ m.record = none then
            (placeResult m k.chunk k.pidx (padTo 128 k.data) (padTo 16 k.side) u).onMember k.group (fun x =>
              { x with got := if x.got.contains (k.chunk, k.pidx) then x.got else x.got ++ [(k.chunk, k.pidx)] })
            else stale)))) ∧
  (∀ (g n : Nat) (s : State), contribute g 0 s = s ∧ (s.member g = none → contribute g n s = s) ∧ (∀ m, s.member g = some m →
    (m.toSend.find? (fun x => mayContribute s m x.1) = none → contribute g n s = s) ∧
    (∀ x, m.toSend.find? (fun x => mayContribute s m x.1) = some x → contribute g (n + 1) s = contribute g n
      (sendFor (some (ownerOf m.prog x.1)) (contributionPacket s g m x.1 x.2) (({ s with free := s.free + 256 } : State).onMember g (fun y =>
        { y with toSend := y.toSend.erase x })))))) ∧
  (∀ (g : Nat) (s : State), s.svc.mod = .ready →
    (s.member g = none → exec (.memberOperationTimeout g) s = .next s ∧ exec (.abortSettleEnd g true) s = .next s) ∧
    (∀ m, s.member g = some m →
      (∀ r, lackingPlane m = some r → exec (.memberOperationTimeout g) s = .next (
        if m.phase = .running ∧ m.record = none ∧ m.timeout ≠ 0 ∧ m.armedAt + m.timeout + 20000000 ≤ s.svc.now then
          memberRecord g { origin := r, reason := rsTimeout, chunk := (missingChunks s m r).headD noChunk } none s else s)) ∧
      (lackingPlane m = none → exec (.memberOperationTimeout g) s = .next s) ∧
      (m.phase = .aborting → exec (.abortSettleEnd g true) s = .next (if m.settleAt + 10000000 ≤ s.svc.now then
        s.onMember g (fun x => { x with phase := .reported, report := some (stOpAborted, m.record) }) else s)) ∧
      (m.phase ≠ .aborting → exec (.abortSettleEnd g true) s = .next (memberDone g s)))) ∧
  (∀ (g : Nat) (m : MemberOp) (s : State), s.member g = some m → memberDone g s =
    if (m.phase = .running ∨ m.phase = .armed) ∧ memberOk s m = true then s.onMember g (fun x => { x with phase := .reported, report := some (stOk, none) })
    else s) ∧
  (∀ (m : MemberOp) (s : State), memberOk s m = true ↔ m.record = none ∧ m.unplaced = false ∧ resultsComing s m = [] ∧
    ∀ r ∈ m.prog.planes, r ∈ m.dones ∨ ∃ t, (r, t) ∈ m.lostPlanes ∧ missingChunks s m r = [] ∧ t + 10000000 ≤ s.svc.now)

/-! ### Cluster instructions (09) -/

/-- Scalar and control instructions that a context issues (09 R260, R261, R263, R266, R271): D takes the 64-bit result and the counter moves on; a shift by 64 or
more leaves an open value and goes on; scratch is reached in the work region alone, a corrected word is counted and one that cannot be corrected ends the
operation with DATA_LOST; a branch and a LOOP move the counter; HALT ends the context; FAULT and a reserved field are program faults. And when any
instruction row runs (log entry 10): on a context that the part does not have it stops; where the context issues nothing (16 R445), and where the word at the
counter spells another row, nothing happens; a parity error is a program fault with FCAUSE 0x09, and a reserved word, or a counter outside the text, one
with 0x01, its corrected error counted (15 R425). -/
def Obligations.ScalarInstructionsComplete : Prop :=
  (∀ (x : Issue) (ecc : Ecc) (w : BitVec 64) (row : Instr) (s : State), instrOfWord x ecc w = some row →
    (isCtx x.id = false → exec row s = .fault .noSuchUnit) ∧
    (isCtx x.id = true →
      (issues s x.id = false → exec row s = .next s) ∧
      (issues s x.id = true → x.parity = true → exec row s = .next (programFault x.id 0x09 0 s)) ∧
      (issues s x.id = true → x.parity = false → nextInstr x ecc s = none → exec row s = .next (programFault x.id 0x01 0 (fetched x s))) ∧
      (∀ r, issues s x.id = true → x.parity = false → nextInstr x ecc s = some r → r ≠ row → exec row s = .next s))) ∧
  ∀ (x : Issue) (s : State),
    let c := s.ctx x.id
    let u := endMark x.id (fetched x s)
    let fault := fun (n : Nat) => programFault x.id n 0 u
    let d := u.drawNat
    (∀ f : SR,
      let r := fun (v : BitVec 64) (t : State) => if f.rsv = true then fault 0x01 else nextPc x.id (setS x.id f.d.toNat v t)
      let a := sreg c f.a
      let b := sreg c f.b
      let sh := fun (v : BitVec 64) => if b.toNat < 64 then r v u else r (BitVec.ofNat 64 d.1) d.2
      ∀ p ∈ [(Instr.add x f, r (a + b) u), (.sub x f, r (a - b) u), (.mul x f, r (a * b) u), (.and x f, r (a &&& b) u), (.or x f, r (a ||| b) u),
          (.xor x f, r (a ^^^ b) u), (.shl x f, sh (a <<< b.toNat)), (.shr x f, sh (a >>> b.toNat)), (.sra x f, sh (a.sshiftRight b.toNat))],
        Runs p.1 x .clean s → exec p.1 s = .next p.2) ∧
    (∀ f : SI, let n := f.imm.toNat % 2 ^ 16
      let a := sreg c f.a
      let v := sreg c f.d
      ∀ p ∈ [(Instr.addi x f, nextPc x.id (setS x.id f.d.toNat (a + f.imm.signExtend 64) u)),
          (.st x f, if inWork u c (aImm c f).toNat 8 = false then fault 0x02
            else nextPc x.id (u.onCluster x.cluster (fun k => { k with scratch := memSetN k.scratch (aImm c f).toNat (leBytes v.toNat 8) }))),
          (.beq x f, if v = a then goto x.id (branchTo c f) (fetched x s) else nextPc x.id (fetched x s)),
          (.bne x f, if v = a then nextPc x.id (fetched x s) else goto x.id (branchTo c f) (fetched x s)),
          (.blt x f, if v.toInt < a.toInt then goto x.id (branchTo c f) (fetched x s) else nextPc x.id (fetched x s)),
          (.loop x f, if v = 0 ∨ n = 0 then goto x.id (c.pc + 8 + 8 * n) u
            else u.onCtx x.id (fun k => { k with pc := c.pc + 8, loops := (c.pc + 8, c.pc + 8 + 8 * n, v.toNat) :: k.loops })),
          (.halt x f, haltCtx x.id c u), (.fault x f, programFault x.id 0x07 (f.imm.toNat % 256) u)],
        Runs p.1 x .clean s → exec p.1 s = .next p.2) ∧
    (∀ (f : SI) (ecc : Ecc), Runs (.ld x f ecc) x ecc s →
      let a := (aImm c f).toNat
      let v := if ecc = .corrected then recordCorrected kCluster x.cluster u else u
      exec (.ld x f ecc) s = .next (if inWork u c a 8 = false then fault 0x02
        else if ecc = .uncorrectable then dataLost x.id (recordErr kCluster x.cluster 0x29 2 (leBytes a 4) u)
        else nextPc x.id (setS x.id f.d.toNat (BitVec.ofNat 64 (leNat (memGetN (v.cluster x.cluster).scratch a 8))) v)))

/-- S0 reads 0 and a write to it is ignored; any other scalar register reads back what was written, and no other one changes (09 R260). -/
def Obligations.ScalarRegistersReadBack : Prop :=
  ∀ (x : CtxId) (d : BitVec 5) (v : BitVec 64) (s : State),
    sreg (s.ctx x) 0 = 0 ∧ (d = 0 → setS x d.toNat v s = s) ∧ (d ≠ 0 → sreg ((setS x d.toNat v s).ctx x) d = v) ∧
    (∀ r : BitVec 5, r ≠ d → sreg ((setS x d.toNat v s).ctx x) r = sreg (s.ctx x) r) ∧ ((setS x d.toNat v s).ctx x).vregs = (s.ctx x).vregs ∧
    (setS x d.toNat v s).coll = s.coll ∧ (setS x d.toNat v s).home = s.home

/-- Vector, exact-lane and tile instructions that a context issues (09 R262 to R265, R267, R270, R271, 07 R182, R184, R192, R195, R208, R209): each takes its operands
from registers and the context's regions and writes its one result; the accumulators take their slots, and one that would leave its range is a RANGE fault;
a scratch word that cannot be corrected ends the operation with DATA_LOST; VCVT, VBLK and XRND enter their lanes' classes in the counts. -/
def Obligations.VectorInstructionsComplete : Prop :=
  ∀ (x : Issue) (s : State),
    let c := s.ctx x.id
    let u := endMark x.id (fetched x s)
    let fault := fun (n : Nat) => programFault x.id n 0 u
    let sees := fun (e : Ecc) => if e = .corrected then recordCorrected kCluster x.cluster u else u
    let lost := fun (a : Nat) => dataLost x.id (recordErr kCluster x.cluster 0x29 2 (leBytes a 4) u)
    let adds := fun (a : Nat) (vs : List FVal) => if inPages c.pages a (vs.length * accSize (isNarrow u c)) = false then fault 0x02
      else if x.ecc = .uncorrectable then lost a else putAccs x.id c a (List.zipWith accAdd (accsAt (sees x.ecc) x.id c a vs.length) vs) (sees x.ecc)
    (∀ (a : Nat) (l : List Acc) (t : State), putAccs x.id c a l t =
      let b := l.flatMap (accSlot (isNarrow t c))
      let t := t.onCluster x.cluster (fun k => { k with scratch := memSetN k.scratch a b })
      if l.any (fun v => v.range) = true then programFault x.id 0x05 0 t else nextPc x.id t) ∧
    (∀ f : VR,
      let lane := fun (v : BitVec 4) (k : Nat) => ((vreg c v.toNat).getD k 0).toNat
      let l := fun (op : Nat → Nat → Nat → Nat) => if f.rsv = true then fault 0x01 else
        nextPc x.id (setV x.id f.vd.toNat ((List.range 96).map (fun k => BitVec.ofNat 32 (op (lane f.va k) (lane f.vb k) (lane f.vc k)))) u)
      let at_ := (sreg c (BitVec.ofNat 5 f.va.toNat)).toNat
      let code := fun (t : State) (k : Nat) (v : FVal) => encode f.fmt.toNat (laneKey t c f.rnd k) f.ovf v 160
      let cvt := ((List.range 96).map (fun k => f32Val (lane f.va k))).zipIdx.map (fun y => (y.1, code u y.2 y.1))
      let blks := (List.range 3).map (fun b => quantBlock f.fmt.toNat f.ovf ((List.range 32).map (fun i => laneKey u c f.rnd (32 * b + i)))
        ((List.range 32).map (fun i => f32Val (lane f.va (32 * b + i)))))
      let vblk := setV x.id f.vd.toNat (blks.flatMap (fun q => q.2.map (fun r => BitVec.ofNat 32 r.code))) u
      let v := sees x.ecc
      let accs := (List.range 96).map (fun k => slotVal v c (scratchGet v x.id (at_ + k * slotSize (ctxSlots u c)) (slotSize (ctxSlots u c))))
      let rnds := accs.zipIdx.map (fun y => (y.1, code v y.2 y.1))
      ∀ p ∈ [(Instr.vadd x f, l (fun a b _ => f32Add a b)), (.vsub x f, l (fun a b _ => f32Sub a b)), (.vmul x f, l (fun a b _ => f32Mul a b)),
          (.vmax x f, l (fun a b _ => f32Max a b)), (.vmin x f, l (fun a b _ => f32Min a b)), (.vfma x f, l (fun a b c => f32Fma a b c)),
          (.vdiv x f, l (fun a b _ => f32Div a b)), (.vsqrt x f, l (fun a _ _ => f32Sqrt a)), (.vsgn x f, l (fun a _ _ => f32Sign a)),
          (.vsel x f, l (fun a b c => if c % 2 ^ 31 = 0 then b else a)),
          (.vcvt x f, if f.rsv = true ∨ 7 ≤ f.fmt.toNat then fault 0x01
            else countLanes c false (cvt.map (fun y => classOf y.1 0 y.2.cls)) (nextPc x.id (setV x.id f.vd.toNat (cvt.map (fun y => BitVec.ofNat 32 y.2.code)) u))),
          (.vblk x f, if f.rsv = true ∨ isBlkFmt f.fmt.toNat = false then fault 0x01
            else countLanes c false (blks.flatMap (fun q => q.2.map (fun r => r.cls)))
              (nextPc x.id (setV x.id f.vb.toNat (blks.map (fun q => BitVec.ofNat 32 q.1) ++ (vreg (vblk.ctx x.id) f.vb.toNat).drop 3) vblk))),
          (.xadd x f, if f.rsv = true then fault 0x01
            else adds (sreg c (BitVec.ofNat 5 f.vd.toNat)).toNat ((vreg c f.va.toNat).map (fun v => f32Val v.toNat))),
          (.xrnd x f, if f.rsv = true ∨ 7 ≤ f.fmt.toNat then fault 0x01
            else if inPages c.pages at_ (96 * slotSize (ctxSlots u c)) = false then fault 0x02
            else if x.ecc = .uncorrectable then lost at_
            else countLanes c true (rnds.map (fun y => classOf y.1 0 y.2.cls)) (nextPc x.id (setV x.id f.vd.toNat (rnds.map (fun y => BitVec.ofNat 32 y.2.code)) v)))],
        Runs p.1 x .clean s → exec p.1 s = .next p.2) ∧
    (∀ f : SI,
      let a := (aImm c f).toNat
      let n := (sreg c f.d).toNat
      ∀ p ∈ [(Instr.vst x f, if 16 ≤ f.d.toNat then fault 0x01 else if inWork u c a 384 = false then fault 0x02
            else nextPc x.id (scratchPut x.id a (laneBytes (vreg c f.d.toNat)) u)),
          (.xclr x f, if inPages c.pages a (n * accSize (isNarrow u c)) = false then fault 0x02 else putAccs x.id c a (List.replicate n {}) u),
          (.xhad x f, if inPages c.pages a (32 * accSize (isNarrow u c)) = false then fault 0x02 else if x.ecc = .uncorrectable then lost a
            else putAccs x.id c a (rotAccs (accsAt (sees x.ecc) x.id c a 32)) (sees x.ecc))],
        Runs p.1 x .clean s → exec p.1 s = .next p.2) ∧
    (∀ (f : SI) (ecc : Ecc), Runs (.vld x f ecc) x ecc s →
      let a := (aImm c f).toNat
      exec (.vld x f ecc) s = .next (if 16 ≤ f.d.toNat then fault 0x01 else if inWork u c a 384 = false then fault 0x02
        else if ecc = .uncorrectable then lost a
        else nextPc x.id (setV x.id f.d.toNat (lanesOfBytes 96 (memGetN ((sees ecc).cluster x.cluster).scratch a 384)) (sees ecc)))) ∧
    (∀ f : MX,
      let t := f.dtype.toNat
      let v := sees x.ecc
      let a := (sreg c f.ta).toNat
      let get := fun (r : BitVec 5) (n : Nat) => scratchGet v x.id (sreg c r).toNat n
      let out := fun (b : List Byte) => if x.ecc = .uncorrectable then lost a else nextPc x.id (scratchPut x.id (sreg c f.tc).toNat b v)
      let rows := (List.range 32).map (fun i => (List.range 32).map (fun j => tileElem 0 (get f.ta 4096) i j))
      ∀ p ∈ [(Instr.mmul x f, if f.rsv = true ∨ t = 0 ∨ 5 < t then fault 0x01
            else if inWork u c a (tileBytes t) = false ∨ inWork u c (sreg c f.tb).toNat (tileBytes t) = false ∨ inWork u c (sreg c f.tc).toNat 4096 = false
            then fault 0x02
            else out (tileCells.flatMap (fun p => leBytes (mmulElem t (get f.ta (tileBytes t)) (get f.tb (tileBytes t)) (get f.tc 4096) f.tbT f.acc p.1 p.2) 4))),
          (.mscl x f, if f.rsv = true ∨ 6 < t then fault 0x01
            else if inWork u c a (tileBytes t) = false ∨ inWork u c (sreg c f.tb).toNat 128 = false then fault 0x02
            else adds (sreg c f.tc).toNat (tileCells.map (fun p => f32Val (f32Of (mulVal
              (convertElem t (tileElem t (scratchGet u x.id a (tileBytes t)) p.1 p.2) 127)
              (f32Val (leAt (scratchGet u x.id (sreg c f.tb).toNat 128) (4 * p.1) 4))) 320)))),
          (.hrot x f, if f.rsv = true then fault 0x01 else if inWork u c a 4096 = false ∨ inWork u c (sreg c f.tc).toNat 4096 = false then fault 0x02
            else out ((rows.flatMap (fun r => if f.acc then rotInverse r else rotForward r)).flatMap (fun v => leBytes v 4)))],
        Runs p.1 x .clean s → exec p.1 s = .next p.2)

/-- Streams, waits, results and idle marks (09 R263, R266, R272, R282, R284, R286, 11 R322): HLD and HST start a stream, unless a page denies the access or lies on
another node, or its address is malformed; WAITT, FENCE and WAITC go on or wait; EMIT hands payloads to the chunk its context took last; IDLE marks the context. The oldest stream of a
tag moves its data once its pages translate, and waits while a translation fault of it is open; a mark ends when its time has come, and one that ends more
than 100 us before counts as missed; that one begun inside another ends none is the model's reading (log entry 83); a context that the part does not have stops, and a part that is not READY moves nothing. -/
def Obligations.StreamInstructionsComplete : Prop :=
  (∀ (x : Issue) (s : State),
    let c := s.ctx x.id
    let u := endMark x.id (fetched x s)
    let fault := fun (n : Nat) => programFault x.id n 0 u
    let seen := if x.ecc = .corrected then recordCorrected kCluster x.cluster u else u
    let lost := fun (a : Nat) => dataLost x.id (recordErr kCluster x.cluster 0x29 2 (leBytes a 4) u)
    let waits := fun (w : CtxWait) (t : State) => nextPc x.id (t.onCtx x.id (fun k => { k with wait := w }))
    let start := fun (f : ST) (w : Bool) (t : State) =>
      let n := (sreg c f.len).toNat
      if inWork t c (sreg c f.addr).toNat n = false then programFault x.id 0x02 0 t
      else match streamStop t [] (streamTenant t x.id) (sreg c f.ext).toNat n (b2n w) with
        | some (.cause k) => programFault x.id k 0 t
        | some .malformed => streamMalformed x.id t
        | _ => nextPc x.id (t.onCtx x.id (fun k => { k with
            streams := k.streams ++ [{ tag := f.tag.toNat, hst := w, scratch := (sreg c f.addr).toNat, fva := (sreg c f.ext).toNat, len := n }] }))
    (∀ f : ST, Runs (.hst x f) x .clean s → exec (.hst x f) s = .next (if f.rsv = true then fault 0x01
      else if x.ecc = .uncorrectable then lost (sreg c f.addr).toNat else start f true seen)) ∧
    (∀ (f : ST) (ecc : Ecc), Runs (.hld x f ecc) x ecc s →
      let r := streamEcc x.id (sreg c f.ext).toNat ecc u
      exec (.hld x f ecc) s = .next (if f.rsv = true then fault 0x01 else if r.1 = true then start f false r.2 else dataLost x.id r.2)) ∧
    (∀ f : ST, Runs (.waitt x f) x .clean s → exec (.waitt x f) s = .next (if f.rsv = true then fault 0x01
      else if ∃ t ∈ c.streams, t.tag = f.tag.toNat then waits (.stream f.tag.toNat) u else nextPc x.id u)) ∧
    (∀ f : SR, Runs (.fence x f) x .clean s → exec (.fence x f) s = .next (if f.rsv = true then fault 0x01
      else if ∃ t ∈ c.streams, t.hst = true then waits .fence u else nextPc x.id u)) ∧
    (∀ f : SR, Runs (.waitc x f) x .clean s →
      ((f.rsv = true ∨ ∃ q i, c.job = some (.job q i)) → exec (.waitc x f) s = .next (fault 0x01)) ∧
      (∀ g, f.rsv = false → c.job = some (.op g) →
        (takeChunk x.id g f.d.toNat u = none → exec (.waitc x f) s = .next (waits (.chunk f.d.toNat) (chunkStall x.id g u))) ∧
        (∀ t, takeChunk x.id g f.d.toNat u = some t → exec (.waitc x f) s = .next (
          let r := scratchCheck x.cluster (takenWords x.id g u) x.ecc t
          if r.1 = true then nextPc x.id r.2 else dataLost x.id r.2)))) ∧
    (∀ f : ST, Runs (.emit x f) x .clean s →
      let a := (sreg c f.addr).toNat
      let n := (sreg c f.len).toNat
      ((f.rsv = true ∨ ∃ q i, c.job = some (.job q i)) → exec (.emit x f) s = .next (fault 0x01)) ∧
      (∀ g, f.rsv = false → c.job = some (.op g) →
        (inWork u c a n = false → exec (.emit x f) s = .next (fault 0x02)) ∧
        (inWork u c a n = true → x.ecc = .uncorrectable → exec (.emit x f) s = .next (lost a)) ∧
        (inWork u c a n = true → x.ecc ≠ .uncorrectable →
          (((seen.op g).bind (fun op => (ctxChunk seen x.id op).bind (chunkOf op))) = none → exec (.emit x f) s = .next (nextPc x.id seen)) ∧
          (∀ op y, seen.op g = some op → (ctxChunk seen x.id op).bind (chunkOf op) = some y → exec (.emit x f) s = .next (
            let t := injectChunk g y.idx (emitInto g y.idx op (emitPays op (sreg c f.ext).toNat (scratchGet seen x.id a n)) seen)
            if y.formed = true then nextPc x.id seen
            else if ((t.op g).bind (fun o => chunkOf o y.idx)).any (fun z => decide (z.ready ≠ [])) = true then waits (.store g y.idx) t else nextPc x.id t))))) ∧
    (∀ f : SI, Runs (.idle x f) x .clean s → exec (.idle x f) s = .next (settlePhase (nextPc x.id ((fetched x s).onCtx x.id (fun k =>
      { k with marks := k.marks ++ [s.svc.now + f.imm.toInt.toNat * 1000] })))))) ∧
  ∀ (x : CtxId) (s : State),
    let c := s.ctx x
    (isCtx x = false → (∀ tag, exec (.streamComplete x tag) s = .fault .noSuchUnit) ∧ exec (.idleMarkEnd x) s = .fault .noSuchUnit) ∧
    (isCtx x = true → exec (.idleMarkEnd x) s = .next (if s.svc.mod = .ready ∧ ∃ t ∈ c.marks, t ≤ s.svc.now then
      settlePhase (s.onCtx x (fun k => { k with marks := k.marks.filter (fun t => decide (s.svc.now < t)) })) else s)) ∧
    (c.marks = [] → endMark x s = s) ∧
    (c.marks ≠ [] → endMark x s = settlePhase ((s.onPwr (fun p =>
      { p with rampMiss := p.rampMiss + (c.marks.filter (fun t => decide (s.svc.now + 100000 < t))).length })).onCtx x (fun k => { k with marks := [] }))) ∧
    (∀ tag, isCtx x = true → c.streams.find? (fun t => t.tag == tag) = none → exec (.streamComplete x tag) s = .next s) ∧
    (∀ (tag : Nat) (t : Stream), isCtx x = true → c.streams.find? (fun t => t.tag == tag) = some t →
      ((s.svc.mod ≠ .ready ∨ t.faulting = true) → exec (.streamComplete x tag) s = .next s) ∧
      (s.svc.mod = .ready → t.faulting = false → exec (.streamComplete x tag) s = .next (
        match streamStop s t.pinned (streamTenant s x) t.fva t.len (b2n t.hst) with
        | none => settleStopped x (finishStream x t s)
        | some (.cause k) => programFault x k 0 (s.onCtx x (fun k => { k with streams := k.streams.erase t }))
        | some .malformed => streamMalformed x (s.onCtx x (fun k => { k with streams := k.streams.erase t }))
        | some _ => s)))

/-- BALLAST_SET and BALLAST_READ (09 R283, 14 R404): BALLAST_SET from the fabric manager only; FLOOR is 0 or 200 to 650, DOWN and UP 0 or 1 to 50; the values take
effect at the next control interval, and not before; BALLAST_READ, from the fabric manager and the host, returns the three counts, of the snapshot in units
of 1,024 while a tenant is confidential, and clears them. -/
def Obligations.BallastSettingsFollowTheRule : Prop :=
  (∀ (h : MHdr) (floor down up : Nat) (s : State), Listens h s → h.mbx ∉ [1] → exec (.ballastSet h floor down up) s = .next (reply h 3 [] s)) ∧
  (∀ (h : MHdr) (floor down up : Nat) (s : State), Serves h [1] s →
    (((floor = 0 ∨ (200 ≤ floor ∧ floor ≤ 650)) ∧ (down = 0 ∨ (1 ≤ down ∧ down ≤ 50)) ∧ (up = 0 ∨ (1 ≤ up ∧ up ≤ 50))) →
      exec (.ballastSet h floor down up) s = .next (reply h 0 [] { s with pwr := { s.pwr with ballastNext := some (floor, down, up) } })) ∧
    (¬((floor = 0 ∨ (200 ≤ floor ∧ floor ≤ 650)) ∧ (down = 0 ∨ (1 ≤ down ∧ down ≤ 50)) ∧ (up = 0 ∨ (1 ≤ up ∧ up ≤ 50))) →
      exec (.ballastSet h floor down up) s = .next (reply h 4 [] s))) ∧
  (∀ (pin floor down up : Nat) (s : State), (s.svc.mod = .ready ∨ s.svc.mod = .recovery) → s.pwr.ballastNext = some (floor, down, up) →
    ∃ t, exec (.controlInterval pin) s = .next t ∧ t.pwr.floor = floor ∧ t.pwr.downRate = down ∧ t.pwr.upRate = up ∧ t.pwr.ballastNext = none) ∧
  (∀ (pin : Nat) (s : State), (s.svc.mod = .ready ∨ s.svc.mod = .recovery) → s.pwr.ballastNext = none →
    ∃ t, exec (.controlInterval pin) s = .next t ∧ t.pwr.floor = s.pwr.floor ∧ t.pwr.downRate = s.pwr.downRate ∧ t.pwr.upRate = s.pwr.upRate) ∧
  (∀ (h : MHdr) (s : State), Listens h s → h.mbx ∉ [1, 0] → exec (.ballastRead h) s = .next (reply h 3 [] s)) ∧
  (∀ (h : MHdr) (s : State), Serves h [1, 0] s →
    let shown := fun (now snap : Nat) => if anyConf s = true then snap / 1024 else now
    exec (.ballastRead h) s = .next (reply h 0 (pack [.num 8 (shown s.pwr.short s.snap.short), .num 8 (shown s.pwr.rampMiss s.snap.rampMiss),
        .num 8 (shown (s.pwr.energy / 10 ^ 8) (s.snap.energy / 10 ^ 8))])
      { s with pwr := { s.pwr with short := 0, rampMiss := 0, energy := 0 } }))
end

