-- ==== Sys2Proof/Laws/Mailbox.lean ====
section
/-! SUPPORT. What the shared mailbox operations do, said once: the order of the checks of 13 R387, and the frame of a completion (13 R380, R381). -/

namespace Sys2Proof.Machine

open Sys2Proof

variable {i : Instr} {h : MHdr} {row : CmdRow} {denied bad : State → Bool} {run : State → State} {s : State}

/-- A mailbox that its transport reaches is served in READY. -/
theorem reach_ready (hm : s.svc.mod = .ready) (hr : h.mbx = 2 ∨ ioReaches s = true) : reach row h s = .serves := by
  rcases hr with hr | hr <;> simp [reach, hm, hr]

/-- A served command runs. -/
theorem command_runs (hs : Serves h row.boxes s) (hd : denied s = false) (hb : bad s = false) :
    command i h row denied bad run s = .next (run s) := by
  obtain ⟨⟨hm, hh, hl, hlt, hr⟩, hin, hf⟩ := hs
  simp [command, reach_ready hm hr, hh, hl, hin, hd, hb, hf, Nat.not_le.mpr hlt]

/-- A command from a mailbox that its row does not name is denied. -/
theorem command_wrong_box (hs : Listens h s) (hin : h.mbx ∉ row.boxes) :
    command i h row denied bad run s = .next (reply h 0x0003 [] s) := by
  obtain ⟨hm, hh, hl, hlt, hr⟩ := hs
  simp [command, reach_ready hm hr, hh, hl, hin, Nat.not_le.mpr hlt, msDenied]

/-- A command that its own rule denies is denied. -/
theorem command_denied (hs : Serves h row.boxes s) (hd : denied s = true) :
    command i h row denied bad run s = .next (reply h 0x0003 [] s) := by
  obtain ⟨⟨hm, hh, hl, hlt, hr⟩, hin, hf⟩ := hs
  simp [command, reach_ready hm hr, hh, hl, hin, hd, Nat.not_le.mpr hlt, msDenied]

/-- An argument out of range is BAD_ARG, after DENIED. -/
theorem command_bad_arg (hs : Serves h row.boxes s) (hd : denied s = false) (hb : bad s = true) :
    command i h row denied bad run s = .next (reply h 0x0004 [] s) := by
  obtain ⟨⟨hm, hh, hl, hlt, hr⟩, hin, hf⟩ := hs
  simp [command, reach_ready hm hr, hh, hl, hin, hd, hb, hf, Nat.not_le.mpr hlt, msBadArg]

/-- A command always has a next state where its mailbox exists. -/
theorem command_total (hlt : h.mbx < 8) : ∃ t, command i h row denied bad run s = .next t := by
  simp [command, Nat.not_le.mpr hlt]

/-- A command marked T runs where its function has no unfinished transition. -/
theorem transition_runs {k : FnKey} (hk : findTrans k s.mbx.trans = none) : transition k i h run s = run s := by
  simp [transition, hk]

/-- Outside a live handover a command that ends posts its completion. -/
theorem finishEvent_posts (hh : s.svc.handover = false) (op st : Nat) (r : List Byte) :
    finishEvent h op st r s = postFinish { hdr := h, opcode := op, status := st, result := r } s := by
  simp [finishEvent, hh]

/-- During one its completion is kept for the new image (13 R386). -/
theorem finishEvent_kept (hh : s.svc.handover = true) (op st : Nat) (r : List Byte) :
    finishEvent h op st r s = s.onMbx (fun b => { b with frozen := b.frozen ++ [{ hdr := h, opcode := op, status := st, result := r }] }) := by
  simp [finishEvent, hh]

end Sys2Proof.Machine
end

