-- ==== Sys2Proof/Laws/Maps.lean ====
section
/-! SUPPORT. The laws of the key-sorted maps: a read after a write, and a write leaves every other key alone. -/

namespace Sys2Proof

variable {α : Type}

@[simp] theorem Map.find_nil (q : Nat) : Map.find ([] : Map α) q = none := rfl

/-- The key just written reads as its value. -/
@[simp] theorem Map.find_put_self (m : Map α) (q : Nat) (v : α) : Map.find (Map.put m q v) q = some v := by
  induction m with
  | nil => simp [Map.put, Map.find]
  | cons h t ih =>
    obtain ⟨k, w⟩ := h
    simp only [Map.put]
    split
    · simp [Map.find]
    · split
      · simp [Map.find]
      · simp [Map.find, *]

/-- Every other key reads as before. -/
theorem Map.find_put_ne (m : Map α) {q x : Nat} (v : α) (h : x ≠ q) : Map.find (Map.put m q v) x = Map.find m x := by
  induction m with
  | nil => simp [Map.put, Map.find, h]
  | cons hd t ih =>
    obtain ⟨k, w⟩ := hd
    simp only [Map.put]
    split
    · simp [Map.find, h]
    · split
      · subst_vars; simp [Map.find, h]
      · simp [Map.find, ih]

@[simp] theorem Map.look_put_self (m : Map α) (q : Nat) (v d : α) : Map.look (Map.put m q v) q d = v := by simp [Map.look]

theorem Map.look_put_ne (m : Map α) {q x : Nat} (v d : α) (h : x ≠ q) : Map.look (Map.put m q v) x d = Map.look m x d := by
  simp [Map.look, Map.find_put_ne m v h]

@[simp] theorem Map.look_upd_self (m : Map α) (q : Nat) (d : α) (f : α → α) : Map.look (Map.upd m q d f) q d = f (Map.look m q d) := by
  simp [Map.upd]

theorem Map.look_upd_ne (m : Map α) {q x : Nat} (d e : α) (f : α → α) (h : x ≠ q) : Map.look (Map.upd m q d f) x e = Map.look m x e := by
  simp [Map.upd, Map.look_put_ne m _ e h]

/-- A write that stores what is there already changes no read. -/
theorem Map.find_put (m : Map α) (q x : Nat) (v : α) : Map.find (Map.put m q v) x = if x = q then some v else Map.find m x := by
  split
  · subst_vars; simp
  · exact Map.find_put_ne m v (by assumption)

theorem Map.look_upd (m : Map α) (q x : Nat) (d : α) (f : α → α) :
    Map.look (Map.upd m q d f) x d = if x = q then f (Map.look m q d) else Map.look m x d := by
  split
  · subst_vars; simp
  · exact Map.look_upd_ne m d d f (by assumption)

/-- Two writes to one key: the later one stands. -/
@[simp] theorem Map.put_put (m : Map α) (q : Nat) (v w : α) : Map.put (Map.put m q v) q w = Map.put m q w := by
  induction m with
  | nil => simp [Map.put]
  | cons h t ih =>
    obtain ⟨k, x⟩ := h
    simp only [Map.put]
    split
    · simp [Map.put]
    · split
      · simp [Map.put]
      · rename_i h1 h2
        simp [Map.put, h1, h2, ih]

@[simp] theorem Map.upd_upd (m : Map α) (q : Nat) (d : α) (f g : α → α) :
    Map.upd (Map.upd m q d f) q d g = Map.upd m q d (fun v => g (f v)) := by
  simp [Map.upd]

/-- Writing one key and reading an entry that is present. -/
@[simp] theorem Map.find_adj_self (m : Map α) (q : Nat) (f : α → α) : Map.find (Map.adj m q f) q = (Map.find m q).map f := by
  unfold Map.adj
  cases h : Map.find m q <;> simp [h]

theorem Map.find_adj_ne (m : Map α) {q x : Nat} (f : α → α) (h : x ≠ q) : Map.find (Map.adj m q f) x = Map.find m x := by
  unfold Map.adj
  cases Map.find m q <;> simp [Map.find_put_ne m _ h]

/-- A removed key is absent. -/
@[simp] theorem Map.find_del_self (m : Map α) (q : Nat) : Map.find (Map.del m q) q = none := by
  induction m with
  | nil => rfl
  | cons h t ih =>
    obtain ⟨k, x⟩ := h
    simp only [Map.del]
    split
    · exact ih
    · rename_i h; simp [Map.find, h, ih]

theorem Map.find_del_ne (m : Map α) {q x : Nat} (h : x ≠ q) : Map.find (Map.del m q) x = Map.find m x := by
  induction m with
  | nil => rfl
  | cons hd t ih =>
    obtain ⟨k, v⟩ := hd
    simp only [Map.del]
    split
    · subst_vars; simp [Map.find, h, ih]
    · simp [Map.find, ih]

end Sys2Proof
end

