-- ==== Sys2Proof/Laws/State.lean ====
section
/-! SUPPORT. What each named update of the state changes: one lemma per update and field, true by unfolding. -/

namespace Sys2Proof.Machine

open Sys2Proof

variable (s : State)


/-! ### onSvc -/

@[simp] theorem State.onSvc_svc (f : Service → Service) : (s.onSvc f).svc = f s.svc := rfl
@[simp] theorem State.onSvc_err (f : Service → Service) : (s.onSvc f).err = s.err := rfl
@[simp] theorem State.onSvc_mbx (f : Service → Service) : (s.onSvc f).mbx = s.mbx := rfl
@[simp] theorem State.onSvc_lanes (f : Service → Service) : (s.onSvc f).lanes = s.lanes := rfl
@[simp] theorem State.onSvc_ports (f : Service → Service) : (s.onSvc f).ports = s.ports := rfl
@[simp] theorem State.onSvc_core (f : Service → Service) : (s.onSvc f).core = s.core := rfl
@[simp] theorem State.onSvc_home (f : Service → Service) : (s.onSvc f).home = s.home := rfl
@[simp] theorem State.onSvc_req (f : Service → Service) : (s.onSvc f).req = s.req := rfl
@[simp] theorem State.onSvc_coll (f : Service → Service) : (s.onSvc f).coll = s.coll := rfl
@[simp] theorem State.onSvc_reed (f : Service → Service) : (s.onSvc f).reed = s.reed := rfl
@[simp] theorem State.onSvc_xlat (f : Service → Service) : (s.onSvc f).xlat = s.xlat := rfl
@[simp] theorem State.onSvc_queues (f : Service → Service) : (s.onSvc f).queues = s.queues := rfl
@[simp] theorem State.onSvc_host (f : Service → Service) : (s.onSvc f).host = s.host := rfl
@[simp] theorem State.onSvc_sec (f : Service → Service) : (s.onSvc f).sec = s.sec := rfl
@[simp] theorem State.onSvc_flash (f : Service → Service) : (s.onSvc f).flash = s.flash := rfl
@[simp] theorem State.onSvc_pwr (f : Service → Service) : (s.onSvc f).pwr = s.pwr := rfl
@[simp] theorem State.onSvc_snap (f : Service → Service) : (s.onSvc f).snap = s.snap := rfl
@[simp] theorem State.onSvc_free (f : Service → Service) : (s.onSvc f).free = s.free := rfl
@[simp] theorem State.onSvc_pending (f : Service → Service) : (s.onSvc f).pending = s.pending := rfl

/-! ### onErr -/

@[simp] theorem State.onErr_svc (f : Errors → Errors) : (s.onErr f).svc = s.svc := rfl
@[simp] theorem State.onErr_err (f : Errors → Errors) : (s.onErr f).err = f s.err := rfl
@[simp] theorem State.onErr_mbx (f : Errors → Errors) : (s.onErr f).mbx = s.mbx := rfl
@[simp] theorem State.onErr_lanes (f : Errors → Errors) : (s.onErr f).lanes = s.lanes := rfl
@[simp] theorem State.onErr_ports (f : Errors → Errors) : (s.onErr f).ports = s.ports := rfl
@[simp] theorem State.onErr_core (f : Errors → Errors) : (s.onErr f).core = s.core := rfl
@[simp] theorem State.onErr_home (f : Errors → Errors) : (s.onErr f).home = s.home := rfl
@[simp] theorem State.onErr_req (f : Errors → Errors) : (s.onErr f).req = s.req := rfl
@[simp] theorem State.onErr_coll (f : Errors → Errors) : (s.onErr f).coll = s.coll := rfl
@[simp] theorem State.onErr_reed (f : Errors → Errors) : (s.onErr f).reed = s.reed := rfl
@[simp] theorem State.onErr_xlat (f : Errors → Errors) : (s.onErr f).xlat = s.xlat := rfl
@[simp] theorem State.onErr_queues (f : Errors → Errors) : (s.onErr f).queues = s.queues := rfl
@[simp] theorem State.onErr_host (f : Errors → Errors) : (s.onErr f).host = s.host := rfl
@[simp] theorem State.onErr_sec (f : Errors → Errors) : (s.onErr f).sec = s.sec := rfl
@[simp] theorem State.onErr_flash (f : Errors → Errors) : (s.onErr f).flash = s.flash := rfl
@[simp] theorem State.onErr_pwr (f : Errors → Errors) : (s.onErr f).pwr = s.pwr := rfl
@[simp] theorem State.onErr_snap (f : Errors → Errors) : (s.onErr f).snap = s.snap := rfl
@[simp] theorem State.onErr_free (f : Errors → Errors) : (s.onErr f).free = s.free := rfl
@[simp] theorem State.onErr_pending (f : Errors → Errors) : (s.onErr f).pending = s.pending := rfl

/-! ### onMbx -/

@[simp] theorem State.onMbx_svc (f : Mailboxes → Mailboxes) : (s.onMbx f).svc = s.svc := rfl
@[simp] theorem State.onMbx_err (f : Mailboxes → Mailboxes) : (s.onMbx f).err = s.err := rfl
@[simp] theorem State.onMbx_mbx (f : Mailboxes → Mailboxes) : (s.onMbx f).mbx = f s.mbx := rfl
@[simp] theorem State.onMbx_lanes (f : Mailboxes → Mailboxes) : (s.onMbx f).lanes = s.lanes := rfl
@[simp] theorem State.onMbx_ports (f : Mailboxes → Mailboxes) : (s.onMbx f).ports = s.ports := rfl
@[simp] theorem State.onMbx_core (f : Mailboxes → Mailboxes) : (s.onMbx f).core = s.core := rfl
@[simp] theorem State.onMbx_home (f : Mailboxes → Mailboxes) : (s.onMbx f).home = s.home := rfl
@[simp] theorem State.onMbx_req (f : Mailboxes → Mailboxes) : (s.onMbx f).req = s.req := rfl
@[simp] theorem State.onMbx_coll (f : Mailboxes → Mailboxes) : (s.onMbx f).coll = s.coll := rfl
@[simp] theorem State.onMbx_reed (f : Mailboxes → Mailboxes) : (s.onMbx f).reed = s.reed := rfl
@[simp] theorem State.onMbx_xlat (f : Mailboxes → Mailboxes) : (s.onMbx f).xlat = s.xlat := rfl
@[simp] theorem State.onMbx_queues (f : Mailboxes → Mailboxes) : (s.onMbx f).queues = s.queues := rfl
@[simp] theorem State.onMbx_host (f : Mailboxes → Mailboxes) : (s.onMbx f).host = s.host := rfl
@[simp] theorem State.onMbx_sec (f : Mailboxes → Mailboxes) : (s.onMbx f).sec = s.sec := rfl
@[simp] theorem State.onMbx_flash (f : Mailboxes → Mailboxes) : (s.onMbx f).flash = s.flash := rfl
@[simp] theorem State.onMbx_pwr (f : Mailboxes → Mailboxes) : (s.onMbx f).pwr = s.pwr := rfl
@[simp] theorem State.onMbx_snap (f : Mailboxes → Mailboxes) : (s.onMbx f).snap = s.snap := rfl
@[simp] theorem State.onMbx_free (f : Mailboxes → Mailboxes) : (s.onMbx f).free = s.free := rfl
@[simp] theorem State.onMbx_pending (f : Mailboxes → Mailboxes) : (s.onMbx f).pending = s.pending := rfl

/-! ### onCore -/

@[simp] theorem State.onCore_svc (f : Core → Core) : (s.onCore f).svc = s.svc := rfl
@[simp] theorem State.onCore_err (f : Core → Core) : (s.onCore f).err = s.err := rfl
@[simp] theorem State.onCore_mbx (f : Core → Core) : (s.onCore f).mbx = s.mbx := rfl
@[simp] theorem State.onCore_lanes (f : Core → Core) : (s.onCore f).lanes = s.lanes := rfl
@[simp] theorem State.onCore_ports (f : Core → Core) : (s.onCore f).ports = s.ports := rfl
@[simp] theorem State.onCore_core (f : Core → Core) : (s.onCore f).core = f s.core := rfl
@[simp] theorem State.onCore_home (f : Core → Core) : (s.onCore f).home = s.home := rfl
@[simp] theorem State.onCore_req (f : Core → Core) : (s.onCore f).req = s.req := rfl
@[simp] theorem State.onCore_coll (f : Core → Core) : (s.onCore f).coll = s.coll := rfl
@[simp] theorem State.onCore_reed (f : Core → Core) : (s.onCore f).reed = s.reed := rfl
@[simp] theorem State.onCore_xlat (f : Core → Core) : (s.onCore f).xlat = s.xlat := rfl
@[simp] theorem State.onCore_queues (f : Core → Core) : (s.onCore f).queues = s.queues := rfl
@[simp] theorem State.onCore_host (f : Core → Core) : (s.onCore f).host = s.host := rfl
@[simp] theorem State.onCore_sec (f : Core → Core) : (s.onCore f).sec = s.sec := rfl
@[simp] theorem State.onCore_flash (f : Core → Core) : (s.onCore f).flash = s.flash := rfl
@[simp] theorem State.onCore_pwr (f : Core → Core) : (s.onCore f).pwr = s.pwr := rfl
@[simp] theorem State.onCore_snap (f : Core → Core) : (s.onCore f).snap = s.snap := rfl
@[simp] theorem State.onCore_free (f : Core → Core) : (s.onCore f).free = s.free := rfl
@[simp] theorem State.onCore_pending (f : Core → Core) : (s.onCore f).pending = s.pending := rfl

/-! ### onHome -/

@[simp] theorem State.onHome_svc (f : Home → Home) : (s.onHome f).svc = s.svc := rfl
@[simp] theorem State.onHome_err (f : Home → Home) : (s.onHome f).err = s.err := rfl
@[simp] theorem State.onHome_mbx (f : Home → Home) : (s.onHome f).mbx = s.mbx := rfl
@[simp] theorem State.onHome_lanes (f : Home → Home) : (s.onHome f).lanes = s.lanes := rfl
@[simp] theorem State.onHome_ports (f : Home → Home) : (s.onHome f).ports = s.ports := rfl
@[simp] theorem State.onHome_core (f : Home → Home) : (s.onHome f).core = s.core := rfl
@[simp] theorem State.onHome_home (f : Home → Home) : (s.onHome f).home = f s.home := rfl
@[simp] theorem State.onHome_req (f : Home → Home) : (s.onHome f).req = s.req := rfl
@[simp] theorem State.onHome_coll (f : Home → Home) : (s.onHome f).coll = s.coll := rfl
@[simp] theorem State.onHome_reed (f : Home → Home) : (s.onHome f).reed = s.reed := rfl
@[simp] theorem State.onHome_xlat (f : Home → Home) : (s.onHome f).xlat = s.xlat := rfl
@[simp] theorem State.onHome_queues (f : Home → Home) : (s.onHome f).queues = s.queues := rfl
@[simp] theorem State.onHome_host (f : Home → Home) : (s.onHome f).host = s.host := rfl
@[simp] theorem State.onHome_sec (f : Home → Home) : (s.onHome f).sec = s.sec := rfl
@[simp] theorem State.onHome_flash (f : Home → Home) : (s.onHome f).flash = s.flash := rfl
@[simp] theorem State.onHome_pwr (f : Home → Home) : (s.onHome f).pwr = s.pwr := rfl
@[simp] theorem State.onHome_snap (f : Home → Home) : (s.onHome f).snap = s.snap := rfl
@[simp] theorem State.onHome_free (f : Home → Home) : (s.onHome f).free = s.free := rfl
@[simp] theorem State.onHome_pending (f : Home → Home) : (s.onHome f).pending = s.pending := rfl

/-! ### onReq -/

@[simp] theorem State.onReq_svc (f : Requester → Requester) : (s.onReq f).svc = s.svc := rfl
@[simp] theorem State.onReq_err (f : Requester → Requester) : (s.onReq f).err = s.err := rfl
@[simp] theorem State.onReq_mbx (f : Requester → Requester) : (s.onReq f).mbx = s.mbx := rfl
@[simp] theorem State.onReq_lanes (f : Requester → Requester) : (s.onReq f).lanes = s.lanes := rfl
@[simp] theorem State.onReq_ports (f : Requester → Requester) : (s.onReq f).ports = s.ports := rfl
@[simp] theorem State.onReq_core (f : Requester → Requester) : (s.onReq f).core = s.core := rfl
@[simp] theorem State.onReq_home (f : Requester → Requester) : (s.onReq f).home = s.home := rfl
@[simp] theorem State.onReq_req (f : Requester → Requester) : (s.onReq f).req = f s.req := rfl
@[simp] theorem State.onReq_coll (f : Requester → Requester) : (s.onReq f).coll = s.coll := rfl
@[simp] theorem State.onReq_reed (f : Requester → Requester) : (s.onReq f).reed = s.reed := rfl
@[simp] theorem State.onReq_xlat (f : Requester → Requester) : (s.onReq f).xlat = s.xlat := rfl
@[simp] theorem State.onReq_queues (f : Requester → Requester) : (s.onReq f).queues = s.queues := rfl
@[simp] theorem State.onReq_host (f : Requester → Requester) : (s.onReq f).host = s.host := rfl
@[simp] theorem State.onReq_sec (f : Requester → Requester) : (s.onReq f).sec = s.sec := rfl
@[simp] theorem State.onReq_flash (f : Requester → Requester) : (s.onReq f).flash = s.flash := rfl
@[simp] theorem State.onReq_pwr (f : Requester → Requester) : (s.onReq f).pwr = s.pwr := rfl
@[simp] theorem State.onReq_snap (f : Requester → Requester) : (s.onReq f).snap = s.snap := rfl
@[simp] theorem State.onReq_free (f : Requester → Requester) : (s.onReq f).free = s.free := rfl
@[simp] theorem State.onReq_pending (f : Requester → Requester) : (s.onReq f).pending = s.pending := rfl

/-! ### onColl -/

@[simp] theorem State.onColl_svc (f : Coll → Coll) : (s.onColl f).svc = s.svc := rfl
@[simp] theorem State.onColl_err (f : Coll → Coll) : (s.onColl f).err = s.err := rfl
@[simp] theorem State.onColl_mbx (f : Coll → Coll) : (s.onColl f).mbx = s.mbx := rfl
@[simp] theorem State.onColl_lanes (f : Coll → Coll) : (s.onColl f).lanes = s.lanes := rfl
@[simp] theorem State.onColl_ports (f : Coll → Coll) : (s.onColl f).ports = s.ports := rfl
@[simp] theorem State.onColl_core (f : Coll → Coll) : (s.onColl f).core = s.core := rfl
@[simp] theorem State.onColl_home (f : Coll → Coll) : (s.onColl f).home = s.home := rfl
@[simp] theorem State.onColl_req (f : Coll → Coll) : (s.onColl f).req = s.req := rfl
@[simp] theorem State.onColl_coll (f : Coll → Coll) : (s.onColl f).coll = f s.coll := rfl
@[simp] theorem State.onColl_reed (f : Coll → Coll) : (s.onColl f).reed = s.reed := rfl
@[simp] theorem State.onColl_xlat (f : Coll → Coll) : (s.onColl f).xlat = s.xlat := rfl
@[simp] theorem State.onColl_queues (f : Coll → Coll) : (s.onColl f).queues = s.queues := rfl
@[simp] theorem State.onColl_host (f : Coll → Coll) : (s.onColl f).host = s.host := rfl
@[simp] theorem State.onColl_sec (f : Coll → Coll) : (s.onColl f).sec = s.sec := rfl
@[simp] theorem State.onColl_flash (f : Coll → Coll) : (s.onColl f).flash = s.flash := rfl
@[simp] theorem State.onColl_pwr (f : Coll → Coll) : (s.onColl f).pwr = s.pwr := rfl
@[simp] theorem State.onColl_snap (f : Coll → Coll) : (s.onColl f).snap = s.snap := rfl
@[simp] theorem State.onColl_free (f : Coll → Coll) : (s.onColl f).free = s.free := rfl
@[simp] theorem State.onColl_pending (f : Coll → Coll) : (s.onColl f).pending = s.pending := rfl

/-! ### onReed -/

@[simp] theorem State.onReed_svc (f : Reedbed → Reedbed) : (s.onReed f).svc = s.svc := rfl
@[simp] theorem State.onReed_err (f : Reedbed → Reedbed) : (s.onReed f).err = s.err := rfl
@[simp] theorem State.onReed_mbx (f : Reedbed → Reedbed) : (s.onReed f).mbx = s.mbx := rfl
@[simp] theorem State.onReed_lanes (f : Reedbed → Reedbed) : (s.onReed f).lanes = s.lanes := rfl
@[simp] theorem State.onReed_ports (f : Reedbed → Reedbed) : (s.onReed f).ports = s.ports := rfl
@[simp] theorem State.onReed_core (f : Reedbed → Reedbed) : (s.onReed f).core = s.core := rfl
@[simp] theorem State.onReed_home (f : Reedbed → Reedbed) : (s.onReed f).home = s.home := rfl
@[simp] theorem State.onReed_req (f : Reedbed → Reedbed) : (s.onReed f).req = s.req := rfl
@[simp] theorem State.onReed_coll (f : Reedbed → Reedbed) : (s.onReed f).coll = s.coll := rfl
@[simp] theorem State.onReed_reed (f : Reedbed → Reedbed) : (s.onReed f).reed = f s.reed := rfl
@[simp] theorem State.onReed_xlat (f : Reedbed → Reedbed) : (s.onReed f).xlat = s.xlat := rfl
@[simp] theorem State.onReed_queues (f : Reedbed → Reedbed) : (s.onReed f).queues = s.queues := rfl
@[simp] theorem State.onReed_host (f : Reedbed → Reedbed) : (s.onReed f).host = s.host := rfl
@[simp] theorem State.onReed_sec (f : Reedbed → Reedbed) : (s.onReed f).sec = s.sec := rfl
@[simp] theorem State.onReed_flash (f : Reedbed → Reedbed) : (s.onReed f).flash = s.flash := rfl
@[simp] theorem State.onReed_pwr (f : Reedbed → Reedbed) : (s.onReed f).pwr = s.pwr := rfl
@[simp] theorem State.onReed_snap (f : Reedbed → Reedbed) : (s.onReed f).snap = s.snap := rfl
@[simp] theorem State.onReed_free (f : Reedbed → Reedbed) : (s.onReed f).free = s.free := rfl
@[simp] theorem State.onReed_pending (f : Reedbed → Reedbed) : (s.onReed f).pending = s.pending := rfl

/-! ### onXlat -/

@[simp] theorem State.onXlat_svc (f : Xlat → Xlat) : (s.onXlat f).svc = s.svc := rfl
@[simp] theorem State.onXlat_err (f : Xlat → Xlat) : (s.onXlat f).err = s.err := rfl
@[simp] theorem State.onXlat_mbx (f : Xlat → Xlat) : (s.onXlat f).mbx = s.mbx := rfl
@[simp] theorem State.onXlat_lanes (f : Xlat → Xlat) : (s.onXlat f).lanes = s.lanes := rfl
@[simp] theorem State.onXlat_ports (f : Xlat → Xlat) : (s.onXlat f).ports = s.ports := rfl
@[simp] theorem State.onXlat_core (f : Xlat → Xlat) : (s.onXlat f).core = s.core := rfl
@[simp] theorem State.onXlat_home (f : Xlat → Xlat) : (s.onXlat f).home = s.home := rfl
@[simp] theorem State.onXlat_req (f : Xlat → Xlat) : (s.onXlat f).req = s.req := rfl
@[simp] theorem State.onXlat_coll (f : Xlat → Xlat) : (s.onXlat f).coll = s.coll := rfl
@[simp] theorem State.onXlat_reed (f : Xlat → Xlat) : (s.onXlat f).reed = s.reed := rfl
@[simp] theorem State.onXlat_xlat (f : Xlat → Xlat) : (s.onXlat f).xlat = f s.xlat := rfl
@[simp] theorem State.onXlat_queues (f : Xlat → Xlat) : (s.onXlat f).queues = s.queues := rfl
@[simp] theorem State.onXlat_host (f : Xlat → Xlat) : (s.onXlat f).host = s.host := rfl
@[simp] theorem State.onXlat_sec (f : Xlat → Xlat) : (s.onXlat f).sec = s.sec := rfl
@[simp] theorem State.onXlat_flash (f : Xlat → Xlat) : (s.onXlat f).flash = s.flash := rfl
@[simp] theorem State.onXlat_pwr (f : Xlat → Xlat) : (s.onXlat f).pwr = s.pwr := rfl
@[simp] theorem State.onXlat_snap (f : Xlat → Xlat) : (s.onXlat f).snap = s.snap := rfl
@[simp] theorem State.onXlat_free (f : Xlat → Xlat) : (s.onXlat f).free = s.free := rfl
@[simp] theorem State.onXlat_pending (f : Xlat → Xlat) : (s.onXlat f).pending = s.pending := rfl

/-! ### onQueues -/

@[simp] theorem State.onQueues_svc (f : Queues → Queues) : (s.onQueues f).svc = s.svc := rfl
@[simp] theorem State.onQueues_err (f : Queues → Queues) : (s.onQueues f).err = s.err := rfl
@[simp] theorem State.onQueues_mbx (f : Queues → Queues) : (s.onQueues f).mbx = s.mbx := rfl
@[simp] theorem State.onQueues_lanes (f : Queues → Queues) : (s.onQueues f).lanes = s.lanes := rfl
@[simp] theorem State.onQueues_ports (f : Queues → Queues) : (s.onQueues f).ports = s.ports := rfl
@[simp] theorem State.onQueues_core (f : Queues → Queues) : (s.onQueues f).core = s.core := rfl
@[simp] theorem State.onQueues_home (f : Queues → Queues) : (s.onQueues f).home = s.home := rfl
@[simp] theorem State.onQueues_req (f : Queues → Queues) : (s.onQueues f).req = s.req := rfl
@[simp] theorem State.onQueues_coll (f : Queues → Queues) : (s.onQueues f).coll = s.coll := rfl
@[simp] theorem State.onQueues_reed (f : Queues → Queues) : (s.onQueues f).reed = s.reed := rfl
@[simp] theorem State.onQueues_xlat (f : Queues → Queues) : (s.onQueues f).xlat = s.xlat := rfl
@[simp] theorem State.onQueues_queues (f : Queues → Queues) : (s.onQueues f).queues = f s.queues := rfl
@[simp] theorem State.onQueues_host (f : Queues → Queues) : (s.onQueues f).host = s.host := rfl
@[simp] theorem State.onQueues_sec (f : Queues → Queues) : (s.onQueues f).sec = s.sec := rfl
@[simp] theorem State.onQueues_flash (f : Queues → Queues) : (s.onQueues f).flash = s.flash := rfl
@[simp] theorem State.onQueues_pwr (f : Queues → Queues) : (s.onQueues f).pwr = s.pwr := rfl
@[simp] theorem State.onQueues_snap (f : Queues → Queues) : (s.onQueues f).snap = s.snap := rfl
@[simp] theorem State.onQueues_free (f : Queues → Queues) : (s.onQueues f).free = s.free := rfl
@[simp] theorem State.onQueues_pending (f : Queues → Queues) : (s.onQueues f).pending = s.pending := rfl

/-! ### onHost -/

@[simp] theorem State.onHost_svc (f : HostSide → HostSide) : (s.onHost f).svc = s.svc := rfl
@[simp] theorem State.onHost_err (f : HostSide → HostSide) : (s.onHost f).err = s.err := rfl
@[simp] theorem State.onHost_mbx (f : HostSide → HostSide) : (s.onHost f).mbx = s.mbx := rfl
@[simp] theorem State.onHost_lanes (f : HostSide → HostSide) : (s.onHost f).lanes = s.lanes := rfl
@[simp] theorem State.onHost_ports (f : HostSide → HostSide) : (s.onHost f).ports = s.ports := rfl
@[simp] theorem State.onHost_core (f : HostSide → HostSide) : (s.onHost f).core = s.core := rfl
@[simp] theorem State.onHost_home (f : HostSide → HostSide) : (s.onHost f).home = s.home := rfl
@[simp] theorem State.onHost_req (f : HostSide → HostSide) : (s.onHost f).req = s.req := rfl
@[simp] theorem State.onHost_coll (f : HostSide → HostSide) : (s.onHost f).coll = s.coll := rfl
@[simp] theorem State.onHost_reed (f : HostSide → HostSide) : (s.onHost f).reed = s.reed := rfl
@[simp] theorem State.onHost_xlat (f : HostSide → HostSide) : (s.onHost f).xlat = s.xlat := rfl
@[simp] theorem State.onHost_queues (f : HostSide → HostSide) : (s.onHost f).queues = s.queues := rfl
@[simp] theorem State.onHost_host (f : HostSide → HostSide) : (s.onHost f).host = f s.host := rfl
@[simp] theorem State.onHost_sec (f : HostSide → HostSide) : (s.onHost f).sec = s.sec := rfl
@[simp] theorem State.onHost_flash (f : HostSide → HostSide) : (s.onHost f).flash = s.flash := rfl
@[simp] theorem State.onHost_pwr (f : HostSide → HostSide) : (s.onHost f).pwr = s.pwr := rfl
@[simp] theorem State.onHost_snap (f : HostSide → HostSide) : (s.onHost f).snap = s.snap := rfl
@[simp] theorem State.onHost_free (f : HostSide → HostSide) : (s.onHost f).free = s.free := rfl
@[simp] theorem State.onHost_pending (f : HostSide → HostSide) : (s.onHost f).pending = s.pending := rfl

/-! ### onSec -/

@[simp] theorem State.onSec_svc (f : Evrix → Evrix) : (s.onSec f).svc = s.svc := rfl
@[simp] theorem State.onSec_err (f : Evrix → Evrix) : (s.onSec f).err = s.err := rfl
@[simp] theorem State.onSec_mbx (f : Evrix → Evrix) : (s.onSec f).mbx = s.mbx := rfl
@[simp] theorem State.onSec_lanes (f : Evrix → Evrix) : (s.onSec f).lanes = s.lanes := rfl
@[simp] theorem State.onSec_ports (f : Evrix → Evrix) : (s.onSec f).ports = s.ports := rfl
@[simp] theorem State.onSec_core (f : Evrix → Evrix) : (s.onSec f).core = s.core := rfl
@[simp] theorem State.onSec_home (f : Evrix → Evrix) : (s.onSec f).home = s.home := rfl
@[simp] theorem State.onSec_req (f : Evrix → Evrix) : (s.onSec f).req = s.req := rfl
@[simp] theorem State.onSec_coll (f : Evrix → Evrix) : (s.onSec f).coll = s.coll := rfl
@[simp] theorem State.onSec_reed (f : Evrix → Evrix) : (s.onSec f).reed = s.reed := rfl
@[simp] theorem State.onSec_xlat (f : Evrix → Evrix) : (s.onSec f).xlat = s.xlat := rfl
@[simp] theorem State.onSec_queues (f : Evrix → Evrix) : (s.onSec f).queues = s.queues := rfl
@[simp] theorem State.onSec_host (f : Evrix → Evrix) : (s.onSec f).host = s.host := rfl
@[simp] theorem State.onSec_sec (f : Evrix → Evrix) : (s.onSec f).sec = f s.sec := rfl
@[simp] theorem State.onSec_flash (f : Evrix → Evrix) : (s.onSec f).flash = s.flash := rfl
@[simp] theorem State.onSec_pwr (f : Evrix → Evrix) : (s.onSec f).pwr = s.pwr := rfl
@[simp] theorem State.onSec_snap (f : Evrix → Evrix) : (s.onSec f).snap = s.snap := rfl
@[simp] theorem State.onSec_free (f : Evrix → Evrix) : (s.onSec f).free = s.free := rfl
@[simp] theorem State.onSec_pending (f : Evrix → Evrix) : (s.onSec f).pending = s.pending := rfl

/-! ### onFlash -/

@[simp] theorem State.onFlash_svc (f : Flash → Flash) : (s.onFlash f).svc = s.svc := rfl
@[simp] theorem State.onFlash_err (f : Flash → Flash) : (s.onFlash f).err = s.err := rfl
@[simp] theorem State.onFlash_mbx (f : Flash → Flash) : (s.onFlash f).mbx = s.mbx := rfl
@[simp] theorem State.onFlash_lanes (f : Flash → Flash) : (s.onFlash f).lanes = s.lanes := rfl
@[simp] theorem State.onFlash_ports (f : Flash → Flash) : (s.onFlash f).ports = s.ports := rfl
@[simp] theorem State.onFlash_core (f : Flash → Flash) : (s.onFlash f).core = s.core := rfl
@[simp] theorem State.onFlash_home (f : Flash → Flash) : (s.onFlash f).home = s.home := rfl
@[simp] theorem State.onFlash_req (f : Flash → Flash) : (s.onFlash f).req = s.req := rfl
@[simp] theorem State.onFlash_coll (f : Flash → Flash) : (s.onFlash f).coll = s.coll := rfl
@[simp] theorem State.onFlash_reed (f : Flash → Flash) : (s.onFlash f).reed = s.reed := rfl
@[simp] theorem State.onFlash_xlat (f : Flash → Flash) : (s.onFlash f).xlat = s.xlat := rfl
@[simp] theorem State.onFlash_queues (f : Flash → Flash) : (s.onFlash f).queues = s.queues := rfl
@[simp] theorem State.onFlash_host (f : Flash → Flash) : (s.onFlash f).host = s.host := rfl
@[simp] theorem State.onFlash_sec (f : Flash → Flash) : (s.onFlash f).sec = s.sec := rfl
@[simp] theorem State.onFlash_flash (f : Flash → Flash) : (s.onFlash f).flash = f s.flash := rfl
@[simp] theorem State.onFlash_pwr (f : Flash → Flash) : (s.onFlash f).pwr = s.pwr := rfl
@[simp] theorem State.onFlash_snap (f : Flash → Flash) : (s.onFlash f).snap = s.snap := rfl
@[simp] theorem State.onFlash_free (f : Flash → Flash) : (s.onFlash f).free = s.free := rfl
@[simp] theorem State.onFlash_pending (f : Flash → Flash) : (s.onFlash f).pending = s.pending := rfl

/-! ### onPwr -/

@[simp] theorem State.onPwr_svc (f : Power → Power) : (s.onPwr f).svc = s.svc := rfl
@[simp] theorem State.onPwr_err (f : Power → Power) : (s.onPwr f).err = s.err := rfl
@[simp] theorem State.onPwr_mbx (f : Power → Power) : (s.onPwr f).mbx = s.mbx := rfl
@[simp] theorem State.onPwr_lanes (f : Power → Power) : (s.onPwr f).lanes = s.lanes := rfl
@[simp] theorem State.onPwr_ports (f : Power → Power) : (s.onPwr f).ports = s.ports := rfl
@[simp] theorem State.onPwr_core (f : Power → Power) : (s.onPwr f).core = s.core := rfl
@[simp] theorem State.onPwr_home (f : Power → Power) : (s.onPwr f).home = s.home := rfl
@[simp] theorem State.onPwr_req (f : Power → Power) : (s.onPwr f).req = s.req := rfl
@[simp] theorem State.onPwr_coll (f : Power → Power) : (s.onPwr f).coll = s.coll := rfl
@[simp] theorem State.onPwr_reed (f : Power → Power) : (s.onPwr f).reed = s.reed := rfl
@[simp] theorem State.onPwr_xlat (f : Power → Power) : (s.onPwr f).xlat = s.xlat := rfl
@[simp] theorem State.onPwr_queues (f : Power → Power) : (s.onPwr f).queues = s.queues := rfl
@[simp] theorem State.onPwr_host (f : Power → Power) : (s.onPwr f).host = s.host := rfl
@[simp] theorem State.onPwr_sec (f : Power → Power) : (s.onPwr f).sec = s.sec := rfl
@[simp] theorem State.onPwr_flash (f : Power → Power) : (s.onPwr f).flash = s.flash := rfl
@[simp] theorem State.onPwr_pwr (f : Power → Power) : (s.onPwr f).pwr = f s.pwr := rfl
@[simp] theorem State.onPwr_snap (f : Power → Power) : (s.onPwr f).snap = s.snap := rfl
@[simp] theorem State.onPwr_free (f : Power → Power) : (s.onPwr f).free = s.free := rfl
@[simp] theorem State.onPwr_pending (f : Power → Power) : (s.onPwr f).pending = s.pending := rfl

/-! ### onPort -/

@[simp] theorem State.onPort_svc (p : Nat) (f : Port → Port) : (s.onPort p f).svc = s.svc := rfl
@[simp] theorem State.onPort_err (p : Nat) (f : Port → Port) : (s.onPort p f).err = s.err := rfl
@[simp] theorem State.onPort_mbx (p : Nat) (f : Port → Port) : (s.onPort p f).mbx = s.mbx := rfl
@[simp] theorem State.onPort_lanes (p : Nat) (f : Port → Port) : (s.onPort p f).lanes = s.lanes := rfl
@[simp] theorem State.onPort_core (p : Nat) (f : Port → Port) : (s.onPort p f).core = s.core := rfl
@[simp] theorem State.onPort_home (p : Nat) (f : Port → Port) : (s.onPort p f).home = s.home := rfl
@[simp] theorem State.onPort_req (p : Nat) (f : Port → Port) : (s.onPort p f).req = s.req := rfl
@[simp] theorem State.onPort_coll (p : Nat) (f : Port → Port) : (s.onPort p f).coll = s.coll := rfl
@[simp] theorem State.onPort_reed (p : Nat) (f : Port → Port) : (s.onPort p f).reed = s.reed := rfl
@[simp] theorem State.onPort_xlat (p : Nat) (f : Port → Port) : (s.onPort p f).xlat = s.xlat := rfl
@[simp] theorem State.onPort_queues (p : Nat) (f : Port → Port) : (s.onPort p f).queues = s.queues := rfl
@[simp] theorem State.onPort_host (p : Nat) (f : Port → Port) : (s.onPort p f).host = s.host := rfl
@[simp] theorem State.onPort_sec (p : Nat) (f : Port → Port) : (s.onPort p f).sec = s.sec := rfl
@[simp] theorem State.onPort_flash (p : Nat) (f : Port → Port) : (s.onPort p f).flash = s.flash := rfl
@[simp] theorem State.onPort_pwr (p : Nat) (f : Port → Port) : (s.onPort p f).pwr = s.pwr := rfl
@[simp] theorem State.onPort_snap (p : Nat) (f : Port → Port) : (s.onPort p f).snap = s.snap := rfl
@[simp] theorem State.onPort_free (p : Nat) (f : Port → Port) : (s.onPort p f).free = s.free := rfl
@[simp] theorem State.onPort_pending (p : Nat) (f : Port → Port) : (s.onPort p f).pending = s.pending := rfl
@[simp] theorem State.onPort_self (p : Nat) (f : Port → Port) : (s.onPort p f).port p = f (s.port p) :=
  Map.look_upd_self _ _ _ _
theorem State.onPort_ne {p q : Nat} (f : Port → Port) (h : q ≠ p) : (s.onPort p f).port q = s.port q :=
  Map.look_upd_ne _ _ _ _ h
@[simp] theorem State.onPort_lane (p : Nat) (f : Port → Port) (y : Nat) : (s.onPort p f).lane y = s.lane y := rfl
@[simp] theorem State.onPort_box (p : Nat) (f : Port → Port) (y : Nat) : (s.onPort p f).box y = s.box y := rfl
@[simp] theorem State.onPort_cluster (p : Nat) (f : Port → Port) (y : Nat) : (s.onPort p f).cluster y = s.cluster y := rfl
@[simp] theorem State.onPort_ctx (p : Nat) (f : Port → Port) (y : CtxId) : (s.onPort p f).ctx y = s.ctx y := rfl
@[simp] theorem State.onPort_window (p : Nat) (f : Port → Port) (y : Nat) : (s.onPort p f).window y = s.window y := rfl
@[simp] theorem State.onPort_trunk (p : Nat) (f : Port → Port) (y : Nat) : (s.onPort p f).trunk y = s.trunk y := rfl
@[simp] theorem State.onPort_win (p : Nat) (f : Port → Port) (y : Nat) : (s.onPort p f).win y = s.win y := rfl
@[simp] theorem State.onPort_qp (p : Nat) (f : Port → Port) (y : Nat) : (s.onPort p f).qp y = s.qp y := rfl
@[simp] theorem State.onPort_op (p : Nat) (f : Port → Port) (y : Nat) : (s.onPort p f).op y = s.op y := rfl
@[simp] theorem State.onPort_member (p : Nat) (f : Port → Port) (y : Nat) : (s.onPort p f).member y = s.member y := rfl
@[simp] theorem State.onPort_tenant (p : Nat) (f : Port → Port) (y : Nat) : (s.onPort p f).tenant y = s.tenant y := rfl

/-! ### onLane -/

@[simp] theorem State.onLane_svc (l : Nat) (f : Lane → Lane) : (s.onLane l f).svc = s.svc := rfl
@[simp] theorem State.onLane_err (l : Nat) (f : Lane → Lane) : (s.onLane l f).err = s.err := rfl
@[simp] theorem State.onLane_mbx (l : Nat) (f : Lane → Lane) : (s.onLane l f).mbx = s.mbx := rfl
@[simp] theorem State.onLane_ports (l : Nat) (f : Lane → Lane) : (s.onLane l f).ports = s.ports := rfl
@[simp] theorem State.onLane_core (l : Nat) (f : Lane → Lane) : (s.onLane l f).core = s.core := rfl
@[simp] theorem State.onLane_home (l : Nat) (f : Lane → Lane) : (s.onLane l f).home = s.home := rfl
@[simp] theorem State.onLane_req (l : Nat) (f : Lane → Lane) : (s.onLane l f).req = s.req := rfl
@[simp] theorem State.onLane_coll (l : Nat) (f : Lane → Lane) : (s.onLane l f).coll = s.coll := rfl
@[simp] theorem State.onLane_reed (l : Nat) (f : Lane → Lane) : (s.onLane l f).reed = s.reed := rfl
@[simp] theorem State.onLane_xlat (l : Nat) (f : Lane → Lane) : (s.onLane l f).xlat = s.xlat := rfl
@[simp] theorem State.onLane_queues (l : Nat) (f : Lane → Lane) : (s.onLane l f).queues = s.queues := rfl
@[simp] theorem State.onLane_host (l : Nat) (f : Lane → Lane) : (s.onLane l f).host = s.host := rfl
@[simp] theorem State.onLane_sec (l : Nat) (f : Lane → Lane) : (s.onLane l f).sec = s.sec := rfl
@[simp] theorem State.onLane_flash (l : Nat) (f : Lane → Lane) : (s.onLane l f).flash = s.flash := rfl
@[simp] theorem State.onLane_pwr (l : Nat) (f : Lane → Lane) : (s.onLane l f).pwr = s.pwr := rfl
@[simp] theorem State.onLane_snap (l : Nat) (f : Lane → Lane) : (s.onLane l f).snap = s.snap := rfl
@[simp] theorem State.onLane_free (l : Nat) (f : Lane → Lane) : (s.onLane l f).free = s.free := rfl
@[simp] theorem State.onLane_pending (l : Nat) (f : Lane → Lane) : (s.onLane l f).pending = s.pending := rfl
@[simp] theorem State.onLane_self (l : Nat) (f : Lane → Lane) : (s.onLane l f).lane l = f (s.lane l) :=
  Map.look_upd_self _ _ _ _
theorem State.onLane_ne {l q : Nat} (f : Lane → Lane) (h : q ≠ l) : (s.onLane l f).lane q = s.lane q :=
  Map.look_upd_ne _ _ _ _ h
@[simp] theorem State.onLane_port (l : Nat) (f : Lane → Lane) (y : Nat) : (s.onLane l f).port y = s.port y := rfl
@[simp] theorem State.onLane_box (l : Nat) (f : Lane → Lane) (y : Nat) : (s.onLane l f).box y = s.box y := rfl
@[simp] theorem State.onLane_cluster (l : Nat) (f : Lane → Lane) (y : Nat) : (s.onLane l f).cluster y = s.cluster y := rfl
@[simp] theorem State.onLane_ctx (l : Nat) (f : Lane → Lane) (y : CtxId) : (s.onLane l f).ctx y = s.ctx y := rfl
@[simp] theorem State.onLane_window (l : Nat) (f : Lane → Lane) (y : Nat) : (s.onLane l f).window y = s.window y := rfl
@[simp] theorem State.onLane_trunk (l : Nat) (f : Lane → Lane) (y : Nat) : (s.onLane l f).trunk y = s.trunk y := rfl
@[simp] theorem State.onLane_win (l : Nat) (f : Lane → Lane) (y : Nat) : (s.onLane l f).win y = s.win y := rfl
@[simp] theorem State.onLane_qp (l : Nat) (f : Lane → Lane) (y : Nat) : (s.onLane l f).qp y = s.qp y := rfl
@[simp] theorem State.onLane_op (l : Nat) (f : Lane → Lane) (y : Nat) : (s.onLane l f).op y = s.op y := rfl
@[simp] theorem State.onLane_member (l : Nat) (f : Lane → Lane) (y : Nat) : (s.onLane l f).member y = s.member y := rfl
@[simp] theorem State.onLane_tenant (l : Nat) (f : Lane → Lane) (y : Nat) : (s.onLane l f).tenant y = s.tenant y := rfl

/-! ### onBox -/

@[simp] theorem State.onBox_svc (m : Nat) (f : Mailbox → Mailbox) : (s.onBox m f).svc = s.svc := rfl
@[simp] theorem State.onBox_err (m : Nat) (f : Mailbox → Mailbox) : (s.onBox m f).err = s.err := rfl
@[simp] theorem State.onBox_lanes (m : Nat) (f : Mailbox → Mailbox) : (s.onBox m f).lanes = s.lanes := rfl
@[simp] theorem State.onBox_ports (m : Nat) (f : Mailbox → Mailbox) : (s.onBox m f).ports = s.ports := rfl
@[simp] theorem State.onBox_core (m : Nat) (f : Mailbox → Mailbox) : (s.onBox m f).core = s.core := rfl
@[simp] theorem State.onBox_home (m : Nat) (f : Mailbox → Mailbox) : (s.onBox m f).home = s.home := rfl
@[simp] theorem State.onBox_req (m : Nat) (f : Mailbox → Mailbox) : (s.onBox m f).req = s.req := rfl
@[simp] theorem State.onBox_coll (m : Nat) (f : Mailbox → Mailbox) : (s.onBox m f).coll = s.coll := rfl
@[simp] theorem State.onBox_reed (m : Nat) (f : Mailbox → Mailbox) : (s.onBox m f).reed = s.reed := rfl
@[simp] theorem State.onBox_xlat (m : Nat) (f : Mailbox → Mailbox) : (s.onBox m f).xlat = s.xlat := rfl
@[simp] theorem State.onBox_queues (m : Nat) (f : Mailbox → Mailbox) : (s.onBox m f).queues = s.queues := rfl
@[simp] theorem State.onBox_host (m : Nat) (f : Mailbox → Mailbox) : (s.onBox m f).host = s.host := rfl
@[simp] theorem State.onBox_sec (m : Nat) (f : Mailbox → Mailbox) : (s.onBox m f).sec = s.sec := rfl
@[simp] theorem State.onBox_flash (m : Nat) (f : Mailbox → Mailbox) : (s.onBox m f).flash = s.flash := rfl
@[simp] theorem State.onBox_pwr (m : Nat) (f : Mailbox → Mailbox) : (s.onBox m f).pwr = s.pwr := rfl
@[simp] theorem State.onBox_snap (m : Nat) (f : Mailbox → Mailbox) : (s.onBox m f).snap = s.snap := rfl
@[simp] theorem State.onBox_free (m : Nat) (f : Mailbox → Mailbox) : (s.onBox m f).free = s.free := rfl
@[simp] theorem State.onBox_pending (m : Nat) (f : Mailbox → Mailbox) : (s.onBox m f).pending = s.pending := rfl
@[simp] theorem State.onBox_self (m : Nat) (f : Mailbox → Mailbox) : (s.onBox m f).box m = f (s.box m) :=
  Map.look_upd_self _ _ _ _
theorem State.onBox_ne {m q : Nat} (f : Mailbox → Mailbox) (h : q ≠ m) : (s.onBox m f).box q = s.box q :=
  Map.look_upd_ne _ _ _ _ h
@[simp] theorem State.onBox_port (m : Nat) (f : Mailbox → Mailbox) (y : Nat) : (s.onBox m f).port y = s.port y := rfl
@[simp] theorem State.onBox_lane (m : Nat) (f : Mailbox → Mailbox) (y : Nat) : (s.onBox m f).lane y = s.lane y := rfl
@[simp] theorem State.onBox_cluster (m : Nat) (f : Mailbox → Mailbox) (y : Nat) : (s.onBox m f).cluster y = s.cluster y := rfl
@[simp] theorem State.onBox_ctx (m : Nat) (f : Mailbox → Mailbox) (y : CtxId) : (s.onBox m f).ctx y = s.ctx y := rfl
@[simp] theorem State.onBox_window (m : Nat) (f : Mailbox → Mailbox) (y : Nat) : (s.onBox m f).window y = s.window y := rfl
@[simp] theorem State.onBox_trunk (m : Nat) (f : Mailbox → Mailbox) (y : Nat) : (s.onBox m f).trunk y = s.trunk y := rfl
@[simp] theorem State.onBox_win (m : Nat) (f : Mailbox → Mailbox) (y : Nat) : (s.onBox m f).win y = s.win y := rfl
@[simp] theorem State.onBox_qp (m : Nat) (f : Mailbox → Mailbox) (y : Nat) : (s.onBox m f).qp y = s.qp y := rfl
@[simp] theorem State.onBox_op (m : Nat) (f : Mailbox → Mailbox) (y : Nat) : (s.onBox m f).op y = s.op y := rfl
@[simp] theorem State.onBox_member (m : Nat) (f : Mailbox → Mailbox) (y : Nat) : (s.onBox m f).member y = s.member y := rfl
@[simp] theorem State.onBox_tenant (m : Nat) (f : Mailbox → Mailbox) (y : Nat) : (s.onBox m f).tenant y = s.tenant y := rfl

/-! ### onCluster -/

@[simp] theorem State.onCluster_svc (c : Nat) (f : Cluster → Cluster) : (s.onCluster c f).svc = s.svc := rfl
@[simp] theorem State.onCluster_err (c : Nat) (f : Cluster → Cluster) : (s.onCluster c f).err = s.err := rfl
@[simp] theorem State.onCluster_mbx (c : Nat) (f : Cluster → Cluster) : (s.onCluster c f).mbx = s.mbx := rfl
@[simp] theorem State.onCluster_lanes (c : Nat) (f : Cluster → Cluster) : (s.onCluster c f).lanes = s.lanes := rfl
@[simp] theorem State.onCluster_ports (c : Nat) (f : Cluster → Cluster) : (s.onCluster c f).ports = s.ports := rfl
@[simp] theorem State.onCluster_core (c : Nat) (f : Cluster → Cluster) : (s.onCluster c f).core = s.core := rfl
@[simp] theorem State.onCluster_home (c : Nat) (f : Cluster → Cluster) : (s.onCluster c f).home = s.home := rfl
@[simp] theorem State.onCluster_req (c : Nat) (f : Cluster → Cluster) : (s.onCluster c f).req = s.req := rfl
@[simp] theorem State.onCluster_coll (c : Nat) (f : Cluster → Cluster) : (s.onCluster c f).coll = s.coll := rfl
@[simp] theorem State.onCluster_xlat (c : Nat) (f : Cluster → Cluster) : (s.onCluster c f).xlat = s.xlat := rfl
@[simp] theorem State.onCluster_queues (c : Nat) (f : Cluster → Cluster) : (s.onCluster c f).queues = s.queues := rfl
@[simp] theorem State.onCluster_host (c : Nat) (f : Cluster → Cluster) : (s.onCluster c f).host = s.host := rfl
@[simp] theorem State.onCluster_sec (c : Nat) (f : Cluster → Cluster) : (s.onCluster c f).sec = s.sec := rfl
@[simp] theorem State.onCluster_flash (c : Nat) (f : Cluster → Cluster) : (s.onCluster c f).flash = s.flash := rfl
@[simp] theorem State.onCluster_pwr (c : Nat) (f : Cluster → Cluster) : (s.onCluster c f).pwr = s.pwr := rfl
@[simp] theorem State.onCluster_snap (c : Nat) (f : Cluster → Cluster) : (s.onCluster c f).snap = s.snap := rfl
@[simp] theorem State.onCluster_free (c : Nat) (f : Cluster → Cluster) : (s.onCluster c f).free = s.free := rfl
@[simp] theorem State.onCluster_pending (c : Nat) (f : Cluster → Cluster) : (s.onCluster c f).pending = s.pending := rfl
@[simp] theorem State.onCluster_self (c : Nat) (f : Cluster → Cluster) : (s.onCluster c f).cluster c = f (s.cluster c) :=
  Map.look_upd_self _ _ _ _
theorem State.onCluster_ne {c q : Nat} (f : Cluster → Cluster) (h : q ≠ c) : (s.onCluster c f).cluster q = s.cluster q :=
  Map.look_upd_ne _ _ _ _ h
@[simp] theorem State.onCluster_port (c : Nat) (f : Cluster → Cluster) (y : Nat) : (s.onCluster c f).port y = s.port y := rfl
@[simp] theorem State.onCluster_lane (c : Nat) (f : Cluster → Cluster) (y : Nat) : (s.onCluster c f).lane y = s.lane y := rfl
@[simp] theorem State.onCluster_box (c : Nat) (f : Cluster → Cluster) (y : Nat) : (s.onCluster c f).box y = s.box y := rfl
@[simp] theorem State.onCluster_window (c : Nat) (f : Cluster → Cluster) (y : Nat) : (s.onCluster c f).window y = s.window y := rfl
@[simp] theorem State.onCluster_trunk (c : Nat) (f : Cluster → Cluster) (y : Nat) : (s.onCluster c f).trunk y = s.trunk y := rfl
@[simp] theorem State.onCluster_win (c : Nat) (f : Cluster → Cluster) (y : Nat) : (s.onCluster c f).win y = s.win y := rfl
@[simp] theorem State.onCluster_qp (c : Nat) (f : Cluster → Cluster) (y : Nat) : (s.onCluster c f).qp y = s.qp y := rfl
@[simp] theorem State.onCluster_op (c : Nat) (f : Cluster → Cluster) (y : Nat) : (s.onCluster c f).op y = s.op y := rfl
@[simp] theorem State.onCluster_member (c : Nat) (f : Cluster → Cluster) (y : Nat) : (s.onCluster c f).member y = s.member y := rfl
@[simp] theorem State.onCluster_tenant (c : Nat) (f : Cluster → Cluster) (y : Nat) : (s.onCluster c f).tenant y = s.tenant y := rfl

/-! ### onCtx -/

@[simp] theorem State.onCtx_svc (x : CtxId) (f : Ctx → Ctx) : (s.onCtx x f).svc = s.svc := rfl
@[simp] theorem State.onCtx_err (x : CtxId) (f : Ctx → Ctx) : (s.onCtx x f).err = s.err := rfl
@[simp] theorem State.onCtx_mbx (x : CtxId) (f : Ctx → Ctx) : (s.onCtx x f).mbx = s.mbx := rfl
@[simp] theorem State.onCtx_lanes (x : CtxId) (f : Ctx → Ctx) : (s.onCtx x f).lanes = s.lanes := rfl
@[simp] theorem State.onCtx_ports (x : CtxId) (f : Ctx → Ctx) : (s.onCtx x f).ports = s.ports := rfl
@[simp] theorem State.onCtx_core (x : CtxId) (f : Ctx → Ctx) : (s.onCtx x f).core = s.core := rfl
@[simp] theorem State.onCtx_home (x : CtxId) (f : Ctx → Ctx) : (s.onCtx x f).home = s.home := rfl
@[simp] theorem State.onCtx_req (x : CtxId) (f : Ctx → Ctx) : (s.onCtx x f).req = s.req := rfl
@[simp] theorem State.onCtx_coll (x : CtxId) (f : Ctx → Ctx) : (s.onCtx x f).coll = s.coll := rfl
@[simp] theorem State.onCtx_xlat (x : CtxId) (f : Ctx → Ctx) : (s.onCtx x f).xlat = s.xlat := rfl
@[simp] theorem State.onCtx_queues (x : CtxId) (f : Ctx → Ctx) : (s.onCtx x f).queues = s.queues := rfl
@[simp] theorem State.onCtx_host (x : CtxId) (f : Ctx → Ctx) : (s.onCtx x f).host = s.host := rfl
@[simp] theorem State.onCtx_sec (x : CtxId) (f : Ctx → Ctx) : (s.onCtx x f).sec = s.sec := rfl
@[simp] theorem State.onCtx_flash (x : CtxId) (f : Ctx → Ctx) : (s.onCtx x f).flash = s.flash := rfl
@[simp] theorem State.onCtx_pwr (x : CtxId) (f : Ctx → Ctx) : (s.onCtx x f).pwr = s.pwr := rfl
@[simp] theorem State.onCtx_snap (x : CtxId) (f : Ctx → Ctx) : (s.onCtx x f).snap = s.snap := rfl
@[simp] theorem State.onCtx_free (x : CtxId) (f : Ctx → Ctx) : (s.onCtx x f).free = s.free := rfl
@[simp] theorem State.onCtx_pending (x : CtxId) (f : Ctx → Ctx) : (s.onCtx x f).pending = s.pending := rfl
@[simp] theorem State.onCtx_port (x : CtxId) (f : Ctx → Ctx) (y : Nat) : (s.onCtx x f).port y = s.port y := rfl
@[simp] theorem State.onCtx_lane (x : CtxId) (f : Ctx → Ctx) (y : Nat) : (s.onCtx x f).lane y = s.lane y := rfl
@[simp] theorem State.onCtx_box (x : CtxId) (f : Ctx → Ctx) (y : Nat) : (s.onCtx x f).box y = s.box y := rfl
@[simp] theorem State.onCtx_window (x : CtxId) (f : Ctx → Ctx) (y : Nat) : (s.onCtx x f).window y = s.window y := rfl
@[simp] theorem State.onCtx_trunk (x : CtxId) (f : Ctx → Ctx) (y : Nat) : (s.onCtx x f).trunk y = s.trunk y := rfl
@[simp] theorem State.onCtx_win (x : CtxId) (f : Ctx → Ctx) (y : Nat) : (s.onCtx x f).win y = s.win y := rfl
@[simp] theorem State.onCtx_qp (x : CtxId) (f : Ctx → Ctx) (y : Nat) : (s.onCtx x f).qp y = s.qp y := rfl
@[simp] theorem State.onCtx_op (x : CtxId) (f : Ctx → Ctx) (y : Nat) : (s.onCtx x f).op y = s.op y := rfl
@[simp] theorem State.onCtx_member (x : CtxId) (f : Ctx → Ctx) (y : Nat) : (s.onCtx x f).member y = s.member y := rfl
@[simp] theorem State.onCtx_tenant (x : CtxId) (f : Ctx → Ctx) (y : Nat) : (s.onCtx x f).tenant y = s.tenant y := rfl

/-! ### onWindow -/

@[simp] theorem State.onWindow_svc (w : Nat) (f : Window → Window) : (s.onWindow w f).svc = s.svc := rfl
@[simp] theorem State.onWindow_err (w : Nat) (f : Window → Window) : (s.onWindow w f).err = s.err := rfl
@[simp] theorem State.onWindow_mbx (w : Nat) (f : Window → Window) : (s.onWindow w f).mbx = s.mbx := rfl
@[simp] theorem State.onWindow_lanes (w : Nat) (f : Window → Window) : (s.onWindow w f).lanes = s.lanes := rfl
@[simp] theorem State.onWindow_ports (w : Nat) (f : Window → Window) : (s.onWindow w f).ports = s.ports := rfl
@[simp] theorem State.onWindow_core (w : Nat) (f : Window → Window) : (s.onWindow w f).core = s.core := rfl
@[simp] theorem State.onWindow_home (w : Nat) (f : Window → Window) : (s.onWindow w f).home = s.home := rfl
@[simp] theorem State.onWindow_req (w : Nat) (f : Window → Window) : (s.onWindow w f).req = s.req := rfl
@[simp] theorem State.onWindow_coll (w : Nat) (f : Window → Window) : (s.onWindow w f).coll = s.coll := rfl
@[simp] theorem State.onWindow_reed (w : Nat) (f : Window → Window) : (s.onWindow w f).reed = s.reed := rfl
@[simp] theorem State.onWindow_xlat (w : Nat) (f : Window → Window) : (s.onWindow w f).xlat = s.xlat := rfl
@[simp] theorem State.onWindow_queues (w : Nat) (f : Window → Window) : (s.onWindow w f).queues = s.queues := rfl
@[simp] theorem State.onWindow_sec (w : Nat) (f : Window → Window) : (s.onWindow w f).sec = s.sec := rfl
@[simp] theorem State.onWindow_flash (w : Nat) (f : Window → Window) : (s.onWindow w f).flash = s.flash := rfl
@[simp] theorem State.onWindow_pwr (w : Nat) (f : Window → Window) : (s.onWindow w f).pwr = s.pwr := rfl
@[simp] theorem State.onWindow_snap (w : Nat) (f : Window → Window) : (s.onWindow w f).snap = s.snap := rfl
@[simp] theorem State.onWindow_free (w : Nat) (f : Window → Window) : (s.onWindow w f).free = s.free := rfl
@[simp] theorem State.onWindow_pending (w : Nat) (f : Window → Window) : (s.onWindow w f).pending = s.pending := rfl
@[simp] theorem State.onWindow_self (w : Nat) (f : Window → Window) : (s.onWindow w f).window w = f (s.window w) :=
  Map.look_upd_self _ _ _ _
theorem State.onWindow_ne {w q : Nat} (f : Window → Window) (h : q ≠ w) : (s.onWindow w f).window q = s.window q :=
  Map.look_upd_ne _ _ _ _ h
@[simp] theorem State.onWindow_port (w : Nat) (f : Window → Window) (y : Nat) : (s.onWindow w f).port y = s.port y := rfl
@[simp] theorem State.onWindow_lane (w : Nat) (f : Window → Window) (y : Nat) : (s.onWindow w f).lane y = s.lane y := rfl
@[simp] theorem State.onWindow_box (w : Nat) (f : Window → Window) (y : Nat) : (s.onWindow w f).box y = s.box y := rfl
@[simp] theorem State.onWindow_cluster (w : Nat) (f : Window → Window) (y : Nat) : (s.onWindow w f).cluster y = s.cluster y := rfl
@[simp] theorem State.onWindow_ctx (w : Nat) (f : Window → Window) (y : CtxId) : (s.onWindow w f).ctx y = s.ctx y := rfl
@[simp] theorem State.onWindow_trunk (w : Nat) (f : Window → Window) (y : Nat) : (s.onWindow w f).trunk y = s.trunk y := rfl
@[simp] theorem State.onWindow_win (w : Nat) (f : Window → Window) (y : Nat) : (s.onWindow w f).win y = s.win y := rfl
@[simp] theorem State.onWindow_qp (w : Nat) (f : Window → Window) (y : Nat) : (s.onWindow w f).qp y = s.qp y := rfl
@[simp] theorem State.onWindow_op (w : Nat) (f : Window → Window) (y : Nat) : (s.onWindow w f).op y = s.op y := rfl
@[simp] theorem State.onWindow_member (w : Nat) (f : Window → Window) (y : Nat) : (s.onWindow w f).member y = s.member y := rfl
@[simp] theorem State.onWindow_tenant (w : Nat) (f : Window → Window) (y : Nat) : (s.onWindow w f).tenant y = s.tenant y := rfl

/-! ### onTrunk -/

@[simp] theorem State.onTrunk_err (p : Nat) (f : Trunk → Trunk) : (s.onTrunk p f).err = s.err := rfl
@[simp] theorem State.onTrunk_mbx (p : Nat) (f : Trunk → Trunk) : (s.onTrunk p f).mbx = s.mbx := rfl
@[simp] theorem State.onTrunk_lanes (p : Nat) (f : Trunk → Trunk) : (s.onTrunk p f).lanes = s.lanes := rfl
@[simp] theorem State.onTrunk_ports (p : Nat) (f : Trunk → Trunk) : (s.onTrunk p f).ports = s.ports := rfl
@[simp] theorem State.onTrunk_core (p : Nat) (f : Trunk → Trunk) : (s.onTrunk p f).core = s.core := rfl
@[simp] theorem State.onTrunk_home (p : Nat) (f : Trunk → Trunk) : (s.onTrunk p f).home = s.home := rfl
@[simp] theorem State.onTrunk_req (p : Nat) (f : Trunk → Trunk) : (s.onTrunk p f).req = s.req := rfl
@[simp] theorem State.onTrunk_coll (p : Nat) (f : Trunk → Trunk) : (s.onTrunk p f).coll = s.coll := rfl
@[simp] theorem State.onTrunk_reed (p : Nat) (f : Trunk → Trunk) : (s.onTrunk p f).reed = s.reed := rfl
@[simp] theorem State.onTrunk_xlat (p : Nat) (f : Trunk → Trunk) : (s.onTrunk p f).xlat = s.xlat := rfl
@[simp] theorem State.onTrunk_queues (p : Nat) (f : Trunk → Trunk) : (s.onTrunk p f).queues = s.queues := rfl
@[simp] theorem State.onTrunk_host (p : Nat) (f : Trunk → Trunk) : (s.onTrunk p f).host = s.host := rfl
@[simp] theorem State.onTrunk_sec (p : Nat) (f : Trunk → Trunk) : (s.onTrunk p f).sec = s.sec := rfl
@[simp] theorem State.onTrunk_flash (p : Nat) (f : Trunk → Trunk) : (s.onTrunk p f).flash = s.flash := rfl
@[simp] theorem State.onTrunk_pwr (p : Nat) (f : Trunk → Trunk) : (s.onTrunk p f).pwr = s.pwr := rfl
@[simp] theorem State.onTrunk_snap (p : Nat) (f : Trunk → Trunk) : (s.onTrunk p f).snap = s.snap := rfl
@[simp] theorem State.onTrunk_free (p : Nat) (f : Trunk → Trunk) : (s.onTrunk p f).free = s.free := rfl
@[simp] theorem State.onTrunk_pending (p : Nat) (f : Trunk → Trunk) : (s.onTrunk p f).pending = s.pending := rfl
@[simp] theorem State.onTrunk_self (p : Nat) (f : Trunk → Trunk) : (s.onTrunk p f).trunk p = f (s.trunk p) :=
  Map.look_upd_self _ _ _ _
theorem State.onTrunk_ne {p q : Nat} (f : Trunk → Trunk) (h : q ≠ p) : (s.onTrunk p f).trunk q = s.trunk q :=
  Map.look_upd_ne _ _ _ _ h
@[simp] theorem State.onTrunk_port (p : Nat) (f : Trunk → Trunk) (y : Nat) : (s.onTrunk p f).port y = s.port y := rfl
@[simp] theorem State.onTrunk_lane (p : Nat) (f : Trunk → Trunk) (y : Nat) : (s.onTrunk p f).lane y = s.lane y := rfl
@[simp] theorem State.onTrunk_box (p : Nat) (f : Trunk → Trunk) (y : Nat) : (s.onTrunk p f).box y = s.box y := rfl
@[simp] theorem State.onTrunk_cluster (p : Nat) (f : Trunk → Trunk) (y : Nat) : (s.onTrunk p f).cluster y = s.cluster y := rfl
@[simp] theorem State.onTrunk_ctx (p : Nat) (f : Trunk → Trunk) (y : CtxId) : (s.onTrunk p f).ctx y = s.ctx y := rfl
@[simp] theorem State.onTrunk_window (p : Nat) (f : Trunk → Trunk) (y : Nat) : (s.onTrunk p f).window y = s.window y := rfl
@[simp] theorem State.onTrunk_win (p : Nat) (f : Trunk → Trunk) (y : Nat) : (s.onTrunk p f).win y = s.win y := rfl
@[simp] theorem State.onTrunk_qp (p : Nat) (f : Trunk → Trunk) (y : Nat) : (s.onTrunk p f).qp y = s.qp y := rfl
@[simp] theorem State.onTrunk_op (p : Nat) (f : Trunk → Trunk) (y : Nat) : (s.onTrunk p f).op y = s.op y := rfl
@[simp] theorem State.onTrunk_member (p : Nat) (f : Trunk → Trunk) (y : Nat) : (s.onTrunk p f).member y = s.member y := rfl
@[simp] theorem State.onTrunk_tenant (p : Nat) (f : Trunk → Trunk) (y : Nat) : (s.onTrunk p f).tenant y = s.tenant y := rfl

/-! ### onWin -/

@[simp] theorem State.onWin_svc (n : Nat) (f : SrcWin → SrcWin) : (s.onWin n f).svc = s.svc := rfl
@[simp] theorem State.onWin_err (n : Nat) (f : SrcWin → SrcWin) : (s.onWin n f).err = s.err := rfl
@[simp] theorem State.onWin_mbx (n : Nat) (f : SrcWin → SrcWin) : (s.onWin n f).mbx = s.mbx := rfl
@[simp] theorem State.onWin_lanes (n : Nat) (f : SrcWin → SrcWin) : (s.onWin n f).lanes = s.lanes := rfl
@[simp] theorem State.onWin_ports (n : Nat) (f : SrcWin → SrcWin) : (s.onWin n f).ports = s.ports := rfl
@[simp] theorem State.onWin_core (n : Nat) (f : SrcWin → SrcWin) : (s.onWin n f).core = s.core := rfl
@[simp] theorem State.onWin_req (n : Nat) (f : SrcWin → SrcWin) : (s.onWin n f).req = s.req := rfl
@[simp] theorem State.onWin_coll (n : Nat) (f : SrcWin → SrcWin) : (s.onWin n f).coll = s.coll := rfl
@[simp] theorem State.onWin_reed (n : Nat) (f : SrcWin → SrcWin) : (s.onWin n f).reed = s.reed := rfl
@[simp] theorem State.onWin_xlat (n : Nat) (f : SrcWin → SrcWin) : (s.onWin n f).xlat = s.xlat := rfl
@[simp] theorem State.onWin_queues (n : Nat) (f : SrcWin → SrcWin) : (s.onWin n f).queues = s.queues := rfl
@[simp] theorem State.onWin_host (n : Nat) (f : SrcWin → SrcWin) : (s.onWin n f).host = s.host := rfl
@[simp] theorem State.onWin_sec (n : Nat) (f : SrcWin → SrcWin) : (s.onWin n f).sec = s.sec := rfl
@[simp] theorem State.onWin_flash (n : Nat) (f : SrcWin → SrcWin) : (s.onWin n f).flash = s.flash := rfl
@[simp] theorem State.onWin_pwr (n : Nat) (f : SrcWin → SrcWin) : (s.onWin n f).pwr = s.pwr := rfl
@[simp] theorem State.onWin_snap (n : Nat) (f : SrcWin → SrcWin) : (s.onWin n f).snap = s.snap := rfl
@[simp] theorem State.onWin_free (n : Nat) (f : SrcWin → SrcWin) : (s.onWin n f).free = s.free := rfl
@[simp] theorem State.onWin_pending (n : Nat) (f : SrcWin → SrcWin) : (s.onWin n f).pending = s.pending := rfl
@[simp] theorem State.onWin_self (n : Nat) (f : SrcWin → SrcWin) : (s.onWin n f).win n = f (s.win n) :=
  Map.look_upd_self _ _ _ _
theorem State.onWin_ne {n q : Nat} (f : SrcWin → SrcWin) (h : q ≠ n) : (s.onWin n f).win q = s.win q :=
  Map.look_upd_ne _ _ _ _ h
@[simp] theorem State.onWin_port (n : Nat) (f : SrcWin → SrcWin) (y : Nat) : (s.onWin n f).port y = s.port y := rfl
@[simp] theorem State.onWin_lane (n : Nat) (f : SrcWin → SrcWin) (y : Nat) : (s.onWin n f).lane y = s.lane y := rfl
@[simp] theorem State.onWin_box (n : Nat) (f : SrcWin → SrcWin) (y : Nat) : (s.onWin n f).box y = s.box y := rfl
@[simp] theorem State.onWin_cluster (n : Nat) (f : SrcWin → SrcWin) (y : Nat) : (s.onWin n f).cluster y = s.cluster y := rfl
@[simp] theorem State.onWin_ctx (n : Nat) (f : SrcWin → SrcWin) (y : CtxId) : (s.onWin n f).ctx y = s.ctx y := rfl
@[simp] theorem State.onWin_window (n : Nat) (f : SrcWin → SrcWin) (y : Nat) : (s.onWin n f).window y = s.window y := rfl
@[simp] theorem State.onWin_trunk (n : Nat) (f : SrcWin → SrcWin) (y : Nat) : (s.onWin n f).trunk y = s.trunk y := rfl
@[simp] theorem State.onWin_qp (n : Nat) (f : SrcWin → SrcWin) (y : Nat) : (s.onWin n f).qp y = s.qp y := rfl
@[simp] theorem State.onWin_op (n : Nat) (f : SrcWin → SrcWin) (y : Nat) : (s.onWin n f).op y = s.op y := rfl
@[simp] theorem State.onWin_member (n : Nat) (f : SrcWin → SrcWin) (y : Nat) : (s.onWin n f).member y = s.member y := rfl
@[simp] theorem State.onWin_tenant (n : Nat) (f : SrcWin → SrcWin) (y : Nat) : (s.onWin n f).tenant y = s.tenant y := rfl

/-! ### onQp -/

@[simp] theorem State.onQp_svc (n : Nat) (f : Qp → Qp) : (s.onQp n f).svc = s.svc := rfl
@[simp] theorem State.onQp_err (n : Nat) (f : Qp → Qp) : (s.onQp n f).err = s.err := rfl
@[simp] theorem State.onQp_mbx (n : Nat) (f : Qp → Qp) : (s.onQp n f).mbx = s.mbx := rfl
@[simp] theorem State.onQp_lanes (n : Nat) (f : Qp → Qp) : (s.onQp n f).lanes = s.lanes := rfl
@[simp] theorem State.onQp_ports (n : Nat) (f : Qp → Qp) : (s.onQp n f).ports = s.ports := rfl
@[simp] theorem State.onQp_core (n : Nat) (f : Qp → Qp) : (s.onQp n f).core = s.core := rfl
@[simp] theorem State.onQp_home (n : Nat) (f : Qp → Qp) : (s.onQp n f).home = s.home := rfl
@[simp] theorem State.onQp_req (n : Nat) (f : Qp → Qp) : (s.onQp n f).req = s.req := rfl
@[simp] theorem State.onQp_coll (n : Nat) (f : Qp → Qp) : (s.onQp n f).coll = s.coll := rfl
@[simp] theorem State.onQp_reed (n : Nat) (f : Qp → Qp) : (s.onQp n f).reed = s.reed := rfl
@[simp] theorem State.onQp_xlat (n : Nat) (f : Qp → Qp) : (s.onQp n f).xlat = s.xlat := rfl
@[simp] theorem State.onQp_host (n : Nat) (f : Qp → Qp) : (s.onQp n f).host = s.host := rfl
@[simp] theorem State.onQp_sec (n : Nat) (f : Qp → Qp) : (s.onQp n f).sec = s.sec := rfl
@[simp] theorem State.onQp_flash (n : Nat) (f : Qp → Qp) : (s.onQp n f).flash = s.flash := rfl
@[simp] theorem State.onQp_pwr (n : Nat) (f : Qp → Qp) : (s.onQp n f).pwr = s.pwr := rfl
@[simp] theorem State.onQp_snap (n : Nat) (f : Qp → Qp) : (s.onQp n f).snap = s.snap := rfl
@[simp] theorem State.onQp_free (n : Nat) (f : Qp → Qp) : (s.onQp n f).free = s.free := rfl
@[simp] theorem State.onQp_pending (n : Nat) (f : Qp → Qp) : (s.onQp n f).pending = s.pending := rfl
@[simp] theorem State.onQp_self (n : Nat) (f : Qp → Qp) : (s.onQp n f).qp n = (s.qp n).map f :=
  Map.find_adj_self _ _ _
theorem State.onQp_ne {n q : Nat} (f : Qp → Qp) (h : q ≠ n) : (s.onQp n f).qp q = s.qp q :=
  Map.find_adj_ne _ _ h
@[simp] theorem State.onQp_port (n : Nat) (f : Qp → Qp) (y : Nat) : (s.onQp n f).port y = s.port y := rfl
@[simp] theorem State.onQp_lane (n : Nat) (f : Qp → Qp) (y : Nat) : (s.onQp n f).lane y = s.lane y := rfl
@[simp] theorem State.onQp_box (n : Nat) (f : Qp → Qp) (y : Nat) : (s.onQp n f).box y = s.box y := rfl
@[simp] theorem State.onQp_cluster (n : Nat) (f : Qp → Qp) (y : Nat) : (s.onQp n f).cluster y = s.cluster y := rfl
@[simp] theorem State.onQp_ctx (n : Nat) (f : Qp → Qp) (y : CtxId) : (s.onQp n f).ctx y = s.ctx y := rfl
@[simp] theorem State.onQp_window (n : Nat) (f : Qp → Qp) (y : Nat) : (s.onQp n f).window y = s.window y := rfl
@[simp] theorem State.onQp_trunk (n : Nat) (f : Qp → Qp) (y : Nat) : (s.onQp n f).trunk y = s.trunk y := rfl
@[simp] theorem State.onQp_win (n : Nat) (f : Qp → Qp) (y : Nat) : (s.onQp n f).win y = s.win y := rfl
@[simp] theorem State.onQp_op (n : Nat) (f : Qp → Qp) (y : Nat) : (s.onQp n f).op y = s.op y := rfl
@[simp] theorem State.onQp_member (n : Nat) (f : Qp → Qp) (y : Nat) : (s.onQp n f).member y = s.member y := rfl
@[simp] theorem State.onQp_tenant (n : Nat) (f : Qp → Qp) (y : Nat) : (s.onQp n f).tenant y = s.tenant y := rfl

/-! ### onOp -/

@[simp] theorem State.onOp_svc (g : Nat) (f : Op → Op) : (s.onOp g f).svc = s.svc := rfl
@[simp] theorem State.onOp_err (g : Nat) (f : Op → Op) : (s.onOp g f).err = s.err := rfl
@[simp] theorem State.onOp_mbx (g : Nat) (f : Op → Op) : (s.onOp g f).mbx = s.mbx := rfl
@[simp] theorem State.onOp_lanes (g : Nat) (f : Op → Op) : (s.onOp g f).lanes = s.lanes := rfl
@[simp] theorem State.onOp_ports (g : Nat) (f : Op → Op) : (s.onOp g f).ports = s.ports := rfl
@[simp] theorem State.onOp_core (g : Nat) (f : Op → Op) : (s.onOp g f).core = s.core := rfl
@[simp] theorem State.onOp_home (g : Nat) (f : Op → Op) : (s.onOp g f).home = s.home := rfl
@[simp] theorem State.onOp_req (g : Nat) (f : Op → Op) : (s.onOp g f).req = s.req := rfl
@[simp] theorem State.onOp_reed (g : Nat) (f : Op → Op) : (s.onOp g f).reed = s.reed := rfl
@[simp] theorem State.onOp_xlat (g : Nat) (f : Op → Op) : (s.onOp g f).xlat = s.xlat := rfl
@[simp] theorem State.onOp_queues (g : Nat) (f : Op → Op) : (s.onOp g f).queues = s.queues := rfl
@[simp] theorem State.onOp_host (g : Nat) (f : Op → Op) : (s.onOp g f).host = s.host := rfl
@[simp] theorem State.onOp_sec (g : Nat) (f : Op → Op) : (s.onOp g f).sec = s.sec := rfl
@[simp] theorem State.onOp_flash (g : Nat) (f : Op → Op) : (s.onOp g f).flash = s.flash := rfl
@[simp] theorem State.onOp_pwr (g : Nat) (f : Op → Op) : (s.onOp g f).pwr = s.pwr := rfl
@[simp] theorem State.onOp_snap (g : Nat) (f : Op → Op) : (s.onOp g f).snap = s.snap := rfl
@[simp] theorem State.onOp_free (g : Nat) (f : Op → Op) : (s.onOp g f).free = s.free := rfl
@[simp] theorem State.onOp_pending (g : Nat) (f : Op → Op) : (s.onOp g f).pending = s.pending := rfl
@[simp] theorem State.onOp_self (g : Nat) (f : Op → Op) : (s.onOp g f).op g = (s.op g).map f :=
  Map.find_adj_self _ _ _
theorem State.onOp_ne {g q : Nat} (f : Op → Op) (h : q ≠ g) : (s.onOp g f).op q = s.op q :=
  Map.find_adj_ne _ _ h
@[simp] theorem State.onOp_port (g : Nat) (f : Op → Op) (y : Nat) : (s.onOp g f).port y = s.port y := rfl
@[simp] theorem State.onOp_lane (g : Nat) (f : Op → Op) (y : Nat) : (s.onOp g f).lane y = s.lane y := rfl
@[simp] theorem State.onOp_box (g : Nat) (f : Op → Op) (y : Nat) : (s.onOp g f).box y = s.box y := rfl
@[simp] theorem State.onOp_cluster (g : Nat) (f : Op → Op) (y : Nat) : (s.onOp g f).cluster y = s.cluster y := rfl
@[simp] theorem State.onOp_ctx (g : Nat) (f : Op → Op) (y : CtxId) : (s.onOp g f).ctx y = s.ctx y := rfl
@[simp] theorem State.onOp_window (g : Nat) (f : Op → Op) (y : Nat) : (s.onOp g f).window y = s.window y := rfl
@[simp] theorem State.onOp_trunk (g : Nat) (f : Op → Op) (y : Nat) : (s.onOp g f).trunk y = s.trunk y := rfl
@[simp] theorem State.onOp_win (g : Nat) (f : Op → Op) (y : Nat) : (s.onOp g f).win y = s.win y := rfl
@[simp] theorem State.onOp_qp (g : Nat) (f : Op → Op) (y : Nat) : (s.onOp g f).qp y = s.qp y := rfl
@[simp] theorem State.onOp_tenant (g : Nat) (f : Op → Op) (y : Nat) : (s.onOp g f).tenant y = s.tenant y := rfl

/-! ### onMember -/

@[simp] theorem State.onMember_svc (g : Nat) (f : MemberOp → MemberOp) : (s.onMember g f).svc = s.svc := rfl
@[simp] theorem State.onMember_err (g : Nat) (f : MemberOp → MemberOp) : (s.onMember g f).err = s.err := rfl
@[simp] theorem State.onMember_mbx (g : Nat) (f : MemberOp → MemberOp) : (s.onMember g f).mbx = s.mbx := rfl
@[simp] theorem State.onMember_lanes (g : Nat) (f : MemberOp → MemberOp) : (s.onMember g f).lanes = s.lanes := rfl
@[simp] theorem State.onMember_ports (g : Nat) (f : MemberOp → MemberOp) : (s.onMember g f).ports = s.ports := rfl
@[simp] theorem State.onMember_core (g : Nat) (f : MemberOp → MemberOp) : (s.onMember g f).core = s.core := rfl
@[simp] theorem State.onMember_home (g : Nat) (f : MemberOp → MemberOp) : (s.onMember g f).home = s.home := rfl
@[simp] theorem State.onMember_req (g : Nat) (f : MemberOp → MemberOp) : (s.onMember g f).req = s.req := rfl
@[simp] theorem State.onMember_reed (g : Nat) (f : MemberOp → MemberOp) : (s.onMember g f).reed = s.reed := rfl
@[simp] theorem State.onMember_xlat (g : Nat) (f : MemberOp → MemberOp) : (s.onMember g f).xlat = s.xlat := rfl
@[simp] theorem State.onMember_queues (g : Nat) (f : MemberOp → MemberOp) : (s.onMember g f).queues = s.queues := rfl
@[simp] theorem State.onMember_host (g : Nat) (f : MemberOp → MemberOp) : (s.onMember g f).host = s.host := rfl
@[simp] theorem State.onMember_sec (g : Nat) (f : MemberOp → MemberOp) : (s.onMember g f).sec = s.sec := rfl
@[simp] theorem State.onMember_flash (g : Nat) (f : MemberOp → MemberOp) : (s.onMember g f).flash = s.flash := rfl
@[simp] theorem State.onMember_pwr (g : Nat) (f : MemberOp → MemberOp) : (s.onMember g f).pwr = s.pwr := rfl
@[simp] theorem State.onMember_snap (g : Nat) (f : MemberOp → MemberOp) : (s.onMember g f).snap = s.snap := rfl
@[simp] theorem State.onMember_free (g : Nat) (f : MemberOp → MemberOp) : (s.onMember g f).free = s.free := rfl
@[simp] theorem State.onMember_pending (g : Nat) (f : MemberOp → MemberOp) : (s.onMember g f).pending = s.pending := rfl
@[simp] theorem State.onMember_self (g : Nat) (f : MemberOp → MemberOp) : (s.onMember g f).member g = (s.member g).map f :=
  Map.find_adj_self _ _ _
theorem State.onMember_ne {g q : Nat} (f : MemberOp → MemberOp) (h : q ≠ g) : (s.onMember g f).member q = s.member q :=
  Map.find_adj_ne _ _ h
@[simp] theorem State.onMember_port (g : Nat) (f : MemberOp → MemberOp) (y : Nat) : (s.onMember g f).port y = s.port y := rfl
@[simp] theorem State.onMember_lane (g : Nat) (f : MemberOp → MemberOp) (y : Nat) : (s.onMember g f).lane y = s.lane y := rfl
@[simp] theorem State.onMember_box (g : Nat) (f : MemberOp → MemberOp) (y : Nat) : (s.onMember g f).box y = s.box y := rfl
@[simp] theorem State.onMember_cluster (g : Nat) (f : MemberOp → MemberOp) (y : Nat) : (s.onMember g f).cluster y = s.cluster y := rfl
@[simp] theorem State.onMember_ctx (g : Nat) (f : MemberOp → MemberOp) (y : CtxId) : (s.onMember g f).ctx y = s.ctx y := rfl
@[simp] theorem State.onMember_window (g : Nat) (f : MemberOp → MemberOp) (y : Nat) : (s.onMember g f).window y = s.window y := rfl
@[simp] theorem State.onMember_trunk (g : Nat) (f : MemberOp → MemberOp) (y : Nat) : (s.onMember g f).trunk y = s.trunk y := rfl
@[simp] theorem State.onMember_win (g : Nat) (f : MemberOp → MemberOp) (y : Nat) : (s.onMember g f).win y = s.win y := rfl
@[simp] theorem State.onMember_qp (g : Nat) (f : MemberOp → MemberOp) (y : Nat) : (s.onMember g f).qp y = s.qp y := rfl
@[simp] theorem State.onMember_tenant (g : Nat) (f : MemberOp → MemberOp) (y : Nat) : (s.onMember g f).tenant y = s.tenant y := rfl

/-! ### onTenant -/

@[simp] theorem State.onTenant_svc (t : Nat) (f : Tenant → Tenant) : (s.onTenant t f).svc = s.svc := rfl
@[simp] theorem State.onTenant_err (t : Nat) (f : Tenant → Tenant) : (s.onTenant t f).err = s.err := rfl
@[simp] theorem State.onTenant_mbx (t : Nat) (f : Tenant → Tenant) : (s.onTenant t f).mbx = s.mbx := rfl
@[simp] theorem State.onTenant_lanes (t : Nat) (f : Tenant → Tenant) : (s.onTenant t f).lanes = s.lanes := rfl
@[simp] theorem State.onTenant_ports (t : Nat) (f : Tenant → Tenant) : (s.onTenant t f).ports = s.ports := rfl
@[simp] theorem State.onTenant_core (t : Nat) (f : Tenant → Tenant) : (s.onTenant t f).core = s.core := rfl
@[simp] theorem State.onTenant_home (t : Nat) (f : Tenant → Tenant) : (s.onTenant t f).home = s.home := rfl
@[simp] theorem State.onTenant_req (t : Nat) (f : Tenant → Tenant) : (s.onTenant t f).req = s.req := rfl
@[simp] theorem State.onTenant_coll (t : Nat) (f : Tenant → Tenant) : (s.onTenant t f).coll = s.coll := rfl
@[simp] theorem State.onTenant_reed (t : Nat) (f : Tenant → Tenant) : (s.onTenant t f).reed = s.reed := rfl
@[simp] theorem State.onTenant_xlat (t : Nat) (f : Tenant → Tenant) : (s.onTenant t f).xlat = s.xlat := rfl
@[simp] theorem State.onTenant_queues (t : Nat) (f : Tenant → Tenant) : (s.onTenant t f).queues = s.queues := rfl
@[simp] theorem State.onTenant_host (t : Nat) (f : Tenant → Tenant) : (s.onTenant t f).host = s.host := rfl
@[simp] theorem State.onTenant_flash (t : Nat) (f : Tenant → Tenant) : (s.onTenant t f).flash = s.flash := rfl
@[simp] theorem State.onTenant_pwr (t : Nat) (f : Tenant → Tenant) : (s.onTenant t f).pwr = s.pwr := rfl
@[simp] theorem State.onTenant_snap (t : Nat) (f : Tenant → Tenant) : (s.onTenant t f).snap = s.snap := rfl
@[simp] theorem State.onTenant_free (t : Nat) (f : Tenant → Tenant) : (s.onTenant t f).free = s.free := rfl
@[simp] theorem State.onTenant_pending (t : Nat) (f : Tenant → Tenant) : (s.onTenant t f).pending = s.pending := rfl
@[simp] theorem State.onTenant_self (t : Nat) (f : Tenant → Tenant) : (s.onTenant t f).tenant t = (s.tenant t).map f :=
  Map.find_adj_self _ _ _
theorem State.onTenant_ne {t q : Nat} (f : Tenant → Tenant) (h : q ≠ t) : (s.onTenant t f).tenant q = s.tenant q :=
  Map.find_adj_ne _ _ h
@[simp] theorem State.onTenant_port (t : Nat) (f : Tenant → Tenant) (y : Nat) : (s.onTenant t f).port y = s.port y := rfl
@[simp] theorem State.onTenant_lane (t : Nat) (f : Tenant → Tenant) (y : Nat) : (s.onTenant t f).lane y = s.lane y := rfl
@[simp] theorem State.onTenant_box (t : Nat) (f : Tenant → Tenant) (y : Nat) : (s.onTenant t f).box y = s.box y := rfl
@[simp] theorem State.onTenant_cluster (t : Nat) (f : Tenant → Tenant) (y : Nat) : (s.onTenant t f).cluster y = s.cluster y := rfl
@[simp] theorem State.onTenant_ctx (t : Nat) (f : Tenant → Tenant) (y : CtxId) : (s.onTenant t f).ctx y = s.ctx y := rfl
@[simp] theorem State.onTenant_window (t : Nat) (f : Tenant → Tenant) (y : Nat) : (s.onTenant t f).window y = s.window y := rfl
@[simp] theorem State.onTenant_trunk (t : Nat) (f : Tenant → Tenant) (y : Nat) : (s.onTenant t f).trunk y = s.trunk y := rfl
@[simp] theorem State.onTenant_win (t : Nat) (f : Tenant → Tenant) (y : Nat) : (s.onTenant t f).win y = s.win y := rfl
@[simp] theorem State.onTenant_qp (t : Nat) (f : Tenant → Tenant) (y : Nat) : (s.onTenant t f).qp y = s.qp y := rfl
@[simp] theorem State.onTenant_op (t : Nat) (f : Tenant → Tenant) (y : Nat) : (s.onTenant t f).op y = s.op y := rfl
@[simp] theorem State.onTenant_member (t : Nat) (f : Tenant → Tenant) (y : Nat) : (s.onTenant t f).member y = s.member y := rfl

/-! ### onLink -/

@[simp] theorem State.onLink_svc (p : Nat) (f : Link → Link) : (s.onLink p f).svc = s.svc := rfl
@[simp] theorem State.onLink_err (p : Nat) (f : Link → Link) : (s.onLink p f).err = s.err := rfl
@[simp] theorem State.onLink_mbx (p : Nat) (f : Link → Link) : (s.onLink p f).mbx = s.mbx := rfl
@[simp] theorem State.onLink_lanes (p : Nat) (f : Link → Link) : (s.onLink p f).lanes = s.lanes := rfl
@[simp] theorem State.onLink_core (p : Nat) (f : Link → Link) : (s.onLink p f).core = s.core := rfl
@[simp] theorem State.onLink_home (p : Nat) (f : Link → Link) : (s.onLink p f).home = s.home := rfl
@[simp] theorem State.onLink_req (p : Nat) (f : Link → Link) : (s.onLink p f).req = s.req := rfl
@[simp] theorem State.onLink_coll (p : Nat) (f : Link → Link) : (s.onLink p f).coll = s.coll := rfl
@[simp] theorem State.onLink_reed (p : Nat) (f : Link → Link) : (s.onLink p f).reed = s.reed := rfl
@[simp] theorem State.onLink_xlat (p : Nat) (f : Link → Link) : (s.onLink p f).xlat = s.xlat := rfl
@[simp] theorem State.onLink_queues (p : Nat) (f : Link → Link) : (s.onLink p f).queues = s.queues := rfl
@[simp] theorem State.onLink_host (p : Nat) (f : Link → Link) : (s.onLink p f).host = s.host := rfl
@[simp] theorem State.onLink_sec (p : Nat) (f : Link → Link) : (s.onLink p f).sec = s.sec := rfl
@[simp] theorem State.onLink_flash (p : Nat) (f : Link → Link) : (s.onLink p f).flash = s.flash := rfl
@[simp] theorem State.onLink_pwr (p : Nat) (f : Link → Link) : (s.onLink p f).pwr = s.pwr := rfl
@[simp] theorem State.onLink_snap (p : Nat) (f : Link → Link) : (s.onLink p f).snap = s.snap := rfl
@[simp] theorem State.onLink_free (p : Nat) (f : Link → Link) : (s.onLink p f).free = s.free := rfl
@[simp] theorem State.onLink_pending (p : Nat) (f : Link → Link) : (s.onLink p f).pending = s.pending := rfl
@[simp] theorem State.onLink_lane (p : Nat) (f : Link → Link) (y : Nat) : (s.onLink p f).lane y = s.lane y := rfl
@[simp] theorem State.onLink_box (p : Nat) (f : Link → Link) (y : Nat) : (s.onLink p f).box y = s.box y := rfl
@[simp] theorem State.onLink_cluster (p : Nat) (f : Link → Link) (y : Nat) : (s.onLink p f).cluster y = s.cluster y := rfl
@[simp] theorem State.onLink_ctx (p : Nat) (f : Link → Link) (y : CtxId) : (s.onLink p f).ctx y = s.ctx y := rfl
@[simp] theorem State.onLink_window (p : Nat) (f : Link → Link) (y : Nat) : (s.onLink p f).window y = s.window y := rfl
@[simp] theorem State.onLink_trunk (p : Nat) (f : Link → Link) (y : Nat) : (s.onLink p f).trunk y = s.trunk y := rfl
@[simp] theorem State.onLink_win (p : Nat) (f : Link → Link) (y : Nat) : (s.onLink p f).win y = s.win y := rfl
@[simp] theorem State.onLink_qp (p : Nat) (f : Link → Link) (y : Nat) : (s.onLink p f).qp y = s.qp y := rfl
@[simp] theorem State.onLink_op (p : Nat) (f : Link → Link) (y : Nat) : (s.onLink p f).op y = s.op y := rfl
@[simp] theorem State.onLink_member (p : Nat) (f : Link → Link) (y : Nat) : (s.onLink p f).member y = s.member y := rfl
@[simp] theorem State.onLink_tenant (p : Nat) (f : Link → Link) (y : Nat) : (s.onLink p f).tenant y = s.tenant y := rfl

/-! ### onCnt -/

@[simp] theorem State.onCnt_svc (p : Nat) (f : PortCount → PortCount) : (s.onCnt p f).svc = s.svc := rfl
@[simp] theorem State.onCnt_err (p : Nat) (f : PortCount → PortCount) : (s.onCnt p f).err = s.err := rfl
@[simp] theorem State.onCnt_mbx (p : Nat) (f : PortCount → PortCount) : (s.onCnt p f).mbx = s.mbx := rfl
@[simp] theorem State.onCnt_lanes (p : Nat) (f : PortCount → PortCount) : (s.onCnt p f).lanes = s.lanes := rfl
@[simp] theorem State.onCnt_core (p : Nat) (f : PortCount → PortCount) : (s.onCnt p f).core = s.core := rfl
@[simp] theorem State.onCnt_home (p : Nat) (f : PortCount → PortCount) : (s.onCnt p f).home = s.home := rfl
@[simp] theorem State.onCnt_req (p : Nat) (f : PortCount → PortCount) : (s.onCnt p f).req = s.req := rfl
@[simp] theorem State.onCnt_coll (p : Nat) (f : PortCount → PortCount) : (s.onCnt p f).coll = s.coll := rfl
@[simp] theorem State.onCnt_reed (p : Nat) (f : PortCount → PortCount) : (s.onCnt p f).reed = s.reed := rfl
@[simp] theorem State.onCnt_xlat (p : Nat) (f : PortCount → PortCount) : (s.onCnt p f).xlat = s.xlat := rfl
@[simp] theorem State.onCnt_queues (p : Nat) (f : PortCount → PortCount) : (s.onCnt p f).queues = s.queues := rfl
@[simp] theorem State.onCnt_host (p : Nat) (f : PortCount → PortCount) : (s.onCnt p f).host = s.host := rfl
@[simp] theorem State.onCnt_sec (p : Nat) (f : PortCount → PortCount) : (s.onCnt p f).sec = s.sec := rfl
@[simp] theorem State.onCnt_flash (p : Nat) (f : PortCount → PortCount) : (s.onCnt p f).flash = s.flash := rfl
@[simp] theorem State.onCnt_pwr (p : Nat) (f : PortCount → PortCount) : (s.onCnt p f).pwr = s.pwr := rfl
@[simp] theorem State.onCnt_snap (p : Nat) (f : PortCount → PortCount) : (s.onCnt p f).snap = s.snap := rfl
@[simp] theorem State.onCnt_free (p : Nat) (f : PortCount → PortCount) : (s.onCnt p f).free = s.free := rfl
@[simp] theorem State.onCnt_pending (p : Nat) (f : PortCount → PortCount) : (s.onCnt p f).pending = s.pending := rfl
@[simp] theorem State.onCnt_lane (p : Nat) (f : PortCount → PortCount) (y : Nat) : (s.onCnt p f).lane y = s.lane y := rfl
@[simp] theorem State.onCnt_box (p : Nat) (f : PortCount → PortCount) (y : Nat) : (s.onCnt p f).box y = s.box y := rfl
@[simp] theorem State.onCnt_cluster (p : Nat) (f : PortCount → PortCount) (y : Nat) : (s.onCnt p f).cluster y = s.cluster y := rfl
@[simp] theorem State.onCnt_ctx (p : Nat) (f : PortCount → PortCount) (y : CtxId) : (s.onCnt p f).ctx y = s.ctx y := rfl
@[simp] theorem State.onCnt_window (p : Nat) (f : PortCount → PortCount) (y : Nat) : (s.onCnt p f).window y = s.window y := rfl
@[simp] theorem State.onCnt_trunk (p : Nat) (f : PortCount → PortCount) (y : Nat) : (s.onCnt p f).trunk y = s.trunk y := rfl
@[simp] theorem State.onCnt_win (p : Nat) (f : PortCount → PortCount) (y : Nat) : (s.onCnt p f).win y = s.win y := rfl
@[simp] theorem State.onCnt_qp (p : Nat) (f : PortCount → PortCount) (y : Nat) : (s.onCnt p f).qp y = s.qp y := rfl
@[simp] theorem State.onCnt_op (p : Nat) (f : PortCount → PortCount) (y : Nat) : (s.onCnt p f).op y = s.op y := rfl
@[simp] theorem State.onCnt_member (p : Nat) (f : PortCount → PortCount) (y : Nat) : (s.onCnt p f).member y = s.member y := rfl
@[simp] theorem State.onCnt_tenant (p : Nat) (f : PortCount → PortCount) (y : Nat) : (s.onCnt p f).tenant y = s.tenant y := rfl

/-! ### Accessors under the updates of other parts -/

@[simp] theorem State.onSvc_port (f : Service → Service) (y : Nat) : (s.onSvc f).port y = s.port y := rfl
@[simp] theorem State.onSvc_lane (f : Service → Service) (y : Nat) : (s.onSvc f).lane y = s.lane y := rfl
@[simp] theorem State.onSvc_box (f : Service → Service) (y : Nat) : (s.onSvc f).box y = s.box y := rfl
@[simp] theorem State.onSvc_cluster (f : Service → Service) (y : Nat) : (s.onSvc f).cluster y = s.cluster y := rfl
@[simp] theorem State.onSvc_ctx (f : Service → Service) (y : CtxId) : (s.onSvc f).ctx y = s.ctx y := rfl
@[simp] theorem State.onSvc_window (f : Service → Service) (y : Nat) : (s.onSvc f).window y = s.window y := rfl
@[simp] theorem State.onSvc_win (f : Service → Service) (y : Nat) : (s.onSvc f).win y = s.win y := rfl
@[simp] theorem State.onSvc_qp (f : Service → Service) (y : Nat) : (s.onSvc f).qp y = s.qp y := rfl
@[simp] theorem State.onSvc_op (f : Service → Service) (y : Nat) : (s.onSvc f).op y = s.op y := rfl
@[simp] theorem State.onSvc_member (f : Service → Service) (y : Nat) : (s.onSvc f).member y = s.member y := rfl
@[simp] theorem State.onSvc_tenant (f : Service → Service) (y : Nat) : (s.onSvc f).tenant y = s.tenant y := rfl
@[simp] theorem State.onErr_port (f : Errors → Errors) (y : Nat) : (s.onErr f).port y = s.port y := rfl
@[simp] theorem State.onErr_lane (f : Errors → Errors) (y : Nat) : (s.onErr f).lane y = s.lane y := rfl
@[simp] theorem State.onErr_box (f : Errors → Errors) (y : Nat) : (s.onErr f).box y = s.box y := rfl
@[simp] theorem State.onErr_cluster (f : Errors → Errors) (y : Nat) : (s.onErr f).cluster y = s.cluster y := rfl
@[simp] theorem State.onErr_ctx (f : Errors → Errors) (y : CtxId) : (s.onErr f).ctx y = s.ctx y := rfl
@[simp] theorem State.onErr_window (f : Errors → Errors) (y : Nat) : (s.onErr f).window y = s.window y := rfl
@[simp] theorem State.onErr_trunk (f : Errors → Errors) (y : Nat) : (s.onErr f).trunk y = s.trunk y := rfl
@[simp] theorem State.onErr_win (f : Errors → Errors) (y : Nat) : (s.onErr f).win y = s.win y := rfl
@[simp] theorem State.onErr_qp (f : Errors → Errors) (y : Nat) : (s.onErr f).qp y = s.qp y := rfl
@[simp] theorem State.onErr_op (f : Errors → Errors) (y : Nat) : (s.onErr f).op y = s.op y := rfl
@[simp] theorem State.onErr_member (f : Errors → Errors) (y : Nat) : (s.onErr f).member y = s.member y := rfl
@[simp] theorem State.onErr_tenant (f : Errors → Errors) (y : Nat) : (s.onErr f).tenant y = s.tenant y := rfl
@[simp] theorem State.onMbx_port (f : Mailboxes → Mailboxes) (y : Nat) : (s.onMbx f).port y = s.port y := rfl
@[simp] theorem State.onMbx_lane (f : Mailboxes → Mailboxes) (y : Nat) : (s.onMbx f).lane y = s.lane y := rfl
@[simp] theorem State.onMbx_cluster (f : Mailboxes → Mailboxes) (y : Nat) : (s.onMbx f).cluster y = s.cluster y := rfl
@[simp] theorem State.onMbx_ctx (f : Mailboxes → Mailboxes) (y : CtxId) : (s.onMbx f).ctx y = s.ctx y := rfl
@[simp] theorem State.onMbx_window (f : Mailboxes → Mailboxes) (y : Nat) : (s.onMbx f).window y = s.window y := rfl
@[simp] theorem State.onMbx_trunk (f : Mailboxes → Mailboxes) (y : Nat) : (s.onMbx f).trunk y = s.trunk y := rfl
@[simp] theorem State.onMbx_win (f : Mailboxes → Mailboxes) (y : Nat) : (s.onMbx f).win y = s.win y := rfl
@[simp] theorem State.onMbx_qp (f : Mailboxes → Mailboxes) (y : Nat) : (s.onMbx f).qp y = s.qp y := rfl
@[simp] theorem State.onMbx_op (f : Mailboxes → Mailboxes) (y : Nat) : (s.onMbx f).op y = s.op y := rfl
@[simp] theorem State.onMbx_member (f : Mailboxes → Mailboxes) (y : Nat) : (s.onMbx f).member y = s.member y := rfl
@[simp] theorem State.onMbx_tenant (f : Mailboxes → Mailboxes) (y : Nat) : (s.onMbx f).tenant y = s.tenant y := rfl
@[simp] theorem State.onCore_port (f : Core → Core) (y : Nat) : (s.onCore f).port y = s.port y := rfl
@[simp] theorem State.onCore_lane (f : Core → Core) (y : Nat) : (s.onCore f).lane y = s.lane y := rfl
@[simp] theorem State.onCore_box (f : Core → Core) (y : Nat) : (s.onCore f).box y = s.box y := rfl
@[simp] theorem State.onCore_cluster (f : Core → Core) (y : Nat) : (s.onCore f).cluster y = s.cluster y := rfl
@[simp] theorem State.onCore_ctx (f : Core → Core) (y : CtxId) : (s.onCore f).ctx y = s.ctx y := rfl
@[simp] theorem State.onCore_window (f : Core → Core) (y : Nat) : (s.onCore f).window y = s.window y := rfl
@[simp] theorem State.onCore_trunk (f : Core → Core) (y : Nat) : (s.onCore f).trunk y = s.trunk y := rfl
@[simp] theorem State.onCore_win (f : Core → Core) (y : Nat) : (s.onCore f).win y = s.win y := rfl
@[simp] theorem State.onCore_qp (f : Core → Core) (y : Nat) : (s.onCore f).qp y = s.qp y := rfl
@[simp] theorem State.onCore_op (f : Core → Core) (y : Nat) : (s.onCore f).op y = s.op y := rfl
@[simp] theorem State.onCore_member (f : Core → Core) (y : Nat) : (s.onCore f).member y = s.member y := rfl
@[simp] theorem State.onCore_tenant (f : Core → Core) (y : Nat) : (s.onCore f).tenant y = s.tenant y := rfl
@[simp] theorem State.onHome_port (f : Home → Home) (y : Nat) : (s.onHome f).port y = s.port y := rfl
@[simp] theorem State.onHome_lane (f : Home → Home) (y : Nat) : (s.onHome f).lane y = s.lane y := rfl
@[simp] theorem State.onHome_box (f : Home → Home) (y : Nat) : (s.onHome f).box y = s.box y := rfl
@[simp] theorem State.onHome_cluster (f : Home → Home) (y : Nat) : (s.onHome f).cluster y = s.cluster y := rfl
@[simp] theorem State.onHome_ctx (f : Home → Home) (y : CtxId) : (s.onHome f).ctx y = s.ctx y := rfl
@[simp] theorem State.onHome_window (f : Home → Home) (y : Nat) : (s.onHome f).window y = s.window y := rfl
@[simp] theorem State.onHome_trunk (f : Home → Home) (y : Nat) : (s.onHome f).trunk y = s.trunk y := rfl
@[simp] theorem State.onHome_qp (f : Home → Home) (y : Nat) : (s.onHome f).qp y = s.qp y := rfl
@[simp] theorem State.onHome_op (f : Home → Home) (y : Nat) : (s.onHome f).op y = s.op y := rfl
@[simp] theorem State.onHome_member (f : Home → Home) (y : Nat) : (s.onHome f).member y = s.member y := rfl
@[simp] theorem State.onHome_tenant (f : Home → Home) (y : Nat) : (s.onHome f).tenant y = s.tenant y := rfl
@[simp] theorem State.onReq_port (f : Requester → Requester) (y : Nat) : (s.onReq f).port y = s.port y := rfl
@[simp] theorem State.onReq_lane (f : Requester → Requester) (y : Nat) : (s.onReq f).lane y = s.lane y := rfl
@[simp] theorem State.onReq_box (f : Requester → Requester) (y : Nat) : (s.onReq f).box y = s.box y := rfl
@[simp] theorem State.onReq_cluster (f : Requester → Requester) (y : Nat) : (s.onReq f).cluster y = s.cluster y := rfl
@[simp] theorem State.onReq_ctx (f : Requester → Requester) (y : CtxId) : (s.onReq f).ctx y = s.ctx y := rfl
@[simp] theorem State.onReq_window (f : Requester → Requester) (y : Nat) : (s.onReq f).window y = s.window y := rfl
@[simp] theorem State.onReq_trunk (f : Requester → Requester) (y : Nat) : (s.onReq f).trunk y = s.trunk y := rfl
@[simp] theorem State.onReq_win (f : Requester → Requester) (y : Nat) : (s.onReq f).win y = s.win y := rfl
@[simp] theorem State.onReq_qp (f : Requester → Requester) (y : Nat) : (s.onReq f).qp y = s.qp y := rfl
@[simp] theorem State.onReq_op (f : Requester → Requester) (y : Nat) : (s.onReq f).op y = s.op y := rfl
@[simp] theorem State.onReq_member (f : Requester → Requester) (y : Nat) : (s.onReq f).member y = s.member y := rfl
@[simp] theorem State.onReq_tenant (f : Requester → Requester) (y : Nat) : (s.onReq f).tenant y = s.tenant y := rfl
@[simp] theorem State.onColl_port (f : Coll → Coll) (y : Nat) : (s.onColl f).port y = s.port y := rfl
@[simp] theorem State.onColl_lane (f : Coll → Coll) (y : Nat) : (s.onColl f).lane y = s.lane y := rfl
@[simp] theorem State.onColl_box (f : Coll → Coll) (y : Nat) : (s.onColl f).box y = s.box y := rfl
@[simp] theorem State.onColl_cluster (f : Coll → Coll) (y : Nat) : (s.onColl f).cluster y = s.cluster y := rfl
@[simp] theorem State.onColl_ctx (f : Coll → Coll) (y : CtxId) : (s.onColl f).ctx y = s.ctx y := rfl
@[simp] theorem State.onColl_window (f : Coll → Coll) (y : Nat) : (s.onColl f).window y = s.window y := rfl
@[simp] theorem State.onColl_trunk (f : Coll → Coll) (y : Nat) : (s.onColl f).trunk y = s.trunk y := rfl
@[simp] theorem State.onColl_win (f : Coll → Coll) (y : Nat) : (s.onColl f).win y = s.win y := rfl
@[simp] theorem State.onColl_qp (f : Coll → Coll) (y : Nat) : (s.onColl f).qp y = s.qp y := rfl
@[simp] theorem State.onColl_tenant (f : Coll → Coll) (y : Nat) : (s.onColl f).tenant y = s.tenant y := rfl
@[simp] theorem State.onReed_port (f : Reedbed → Reedbed) (y : Nat) : (s.onReed f).port y = s.port y := rfl
@[simp] theorem State.onReed_lane (f : Reedbed → Reedbed) (y : Nat) : (s.onReed f).lane y = s.lane y := rfl
@[simp] theorem State.onReed_box (f : Reedbed → Reedbed) (y : Nat) : (s.onReed f).box y = s.box y := rfl
@[simp] theorem State.onReed_window (f : Reedbed → Reedbed) (y : Nat) : (s.onReed f).window y = s.window y := rfl
@[simp] theorem State.onReed_trunk (f : Reedbed → Reedbed) (y : Nat) : (s.onReed f).trunk y = s.trunk y := rfl
@[simp] theorem State.onReed_win (f : Reedbed → Reedbed) (y : Nat) : (s.onReed f).win y = s.win y := rfl
@[simp] theorem State.onReed_qp (f : Reedbed → Reedbed) (y : Nat) : (s.onReed f).qp y = s.qp y := rfl
@[simp] theorem State.onReed_op (f : Reedbed → Reedbed) (y : Nat) : (s.onReed f).op y = s.op y := rfl
@[simp] theorem State.onReed_member (f : Reedbed → Reedbed) (y : Nat) : (s.onReed f).member y = s.member y := rfl
@[simp] theorem State.onReed_tenant (f : Reedbed → Reedbed) (y : Nat) : (s.onReed f).tenant y = s.tenant y := rfl
@[simp] theorem State.onXlat_port (f : Xlat → Xlat) (y : Nat) : (s.onXlat f).port y = s.port y := rfl
@[simp] theorem State.onXlat_lane (f : Xlat → Xlat) (y : Nat) : (s.onXlat f).lane y = s.lane y := rfl
@[simp] theorem State.onXlat_box (f : Xlat → Xlat) (y : Nat) : (s.onXlat f).box y = s.box y := rfl
@[simp] theorem State.onXlat_cluster (f : Xlat → Xlat) (y : Nat) : (s.onXlat f).cluster y = s.cluster y := rfl
@[simp] theorem State.onXlat_ctx (f : Xlat → Xlat) (y : CtxId) : (s.onXlat f).ctx y = s.ctx y := rfl
@[simp] theorem State.onXlat_window (f : Xlat → Xlat) (y : Nat) : (s.onXlat f).window y = s.window y := rfl
@[simp] theorem State.onXlat_trunk (f : Xlat → Xlat) (y : Nat) : (s.onXlat f).trunk y = s.trunk y := rfl
@[simp] theorem State.onXlat_win (f : Xlat → Xlat) (y : Nat) : (s.onXlat f).win y = s.win y := rfl
@[simp] theorem State.onXlat_qp (f : Xlat → Xlat) (y : Nat) : (s.onXlat f).qp y = s.qp y := rfl
@[simp] theorem State.onXlat_op (f : Xlat → Xlat) (y : Nat) : (s.onXlat f).op y = s.op y := rfl
@[simp] theorem State.onXlat_member (f : Xlat → Xlat) (y : Nat) : (s.onXlat f).member y = s.member y := rfl
@[simp] theorem State.onXlat_tenant (f : Xlat → Xlat) (y : Nat) : (s.onXlat f).tenant y = s.tenant y := rfl
@[simp] theorem State.onQueues_port (f : Queues → Queues) (y : Nat) : (s.onQueues f).port y = s.port y := rfl
@[simp] theorem State.onQueues_lane (f : Queues → Queues) (y : Nat) : (s.onQueues f).lane y = s.lane y := rfl
@[simp] theorem State.onQueues_box (f : Queues → Queues) (y : Nat) : (s.onQueues f).box y = s.box y := rfl
@[simp] theorem State.onQueues_cluster (f : Queues → Queues) (y : Nat) : (s.onQueues f).cluster y = s.cluster y := rfl
@[simp] theorem State.onQueues_ctx (f : Queues → Queues) (y : CtxId) : (s.onQueues f).ctx y = s.ctx y := rfl
@[simp] theorem State.onQueues_window (f : Queues → Queues) (y : Nat) : (s.onQueues f).window y = s.window y := rfl
@[simp] theorem State.onQueues_trunk (f : Queues → Queues) (y : Nat) : (s.onQueues f).trunk y = s.trunk y := rfl
@[simp] theorem State.onQueues_win (f : Queues → Queues) (y : Nat) : (s.onQueues f).win y = s.win y := rfl
@[simp] theorem State.onQueues_op (f : Queues → Queues) (y : Nat) : (s.onQueues f).op y = s.op y := rfl
@[simp] theorem State.onQueues_member (f : Queues → Queues) (y : Nat) : (s.onQueues f).member y = s.member y := rfl
@[simp] theorem State.onQueues_tenant (f : Queues → Queues) (y : Nat) : (s.onQueues f).tenant y = s.tenant y := rfl
@[simp] theorem State.onHost_port (f : HostSide → HostSide) (y : Nat) : (s.onHost f).port y = s.port y := rfl
@[simp] theorem State.onHost_lane (f : HostSide → HostSide) (y : Nat) : (s.onHost f).lane y = s.lane y := rfl
@[simp] theorem State.onHost_box (f : HostSide → HostSide) (y : Nat) : (s.onHost f).box y = s.box y := rfl
@[simp] theorem State.onHost_cluster (f : HostSide → HostSide) (y : Nat) : (s.onHost f).cluster y = s.cluster y := rfl
@[simp] theorem State.onHost_ctx (f : HostSide → HostSide) (y : CtxId) : (s.onHost f).ctx y = s.ctx y := rfl
@[simp] theorem State.onHost_trunk (f : HostSide → HostSide) (y : Nat) : (s.onHost f).trunk y = s.trunk y := rfl
@[simp] theorem State.onHost_win (f : HostSide → HostSide) (y : Nat) : (s.onHost f).win y = s.win y := rfl
@[simp] theorem State.onHost_qp (f : HostSide → HostSide) (y : Nat) : (s.onHost f).qp y = s.qp y := rfl
@[simp] theorem State.onHost_op (f : HostSide → HostSide) (y : Nat) : (s.onHost f).op y = s.op y := rfl
@[simp] theorem State.onHost_member (f : HostSide → HostSide) (y : Nat) : (s.onHost f).member y = s.member y := rfl
@[simp] theorem State.onHost_tenant (f : HostSide → HostSide) (y : Nat) : (s.onHost f).tenant y = s.tenant y := rfl
@[simp] theorem State.onSec_port (f : Evrix → Evrix) (y : Nat) : (s.onSec f).port y = s.port y := rfl
@[simp] theorem State.onSec_lane (f : Evrix → Evrix) (y : Nat) : (s.onSec f).lane y = s.lane y := rfl
@[simp] theorem State.onSec_box (f : Evrix → Evrix) (y : Nat) : (s.onSec f).box y = s.box y := rfl
@[simp] theorem State.onSec_cluster (f : Evrix → Evrix) (y : Nat) : (s.onSec f).cluster y = s.cluster y := rfl
@[simp] theorem State.onSec_ctx (f : Evrix → Evrix) (y : CtxId) : (s.onSec f).ctx y = s.ctx y := rfl
@[simp] theorem State.onSec_window (f : Evrix → Evrix) (y : Nat) : (s.onSec f).window y = s.window y := rfl
@[simp] theorem State.onSec_trunk (f : Evrix → Evrix) (y : Nat) : (s.onSec f).trunk y = s.trunk y := rfl
@[simp] theorem State.onSec_win (f : Evrix → Evrix) (y : Nat) : (s.onSec f).win y = s.win y := rfl
@[simp] theorem State.onSec_qp (f : Evrix → Evrix) (y : Nat) : (s.onSec f).qp y = s.qp y := rfl
@[simp] theorem State.onSec_op (f : Evrix → Evrix) (y : Nat) : (s.onSec f).op y = s.op y := rfl
@[simp] theorem State.onSec_member (f : Evrix → Evrix) (y : Nat) : (s.onSec f).member y = s.member y := rfl
@[simp] theorem State.onFlash_port (f : Flash → Flash) (y : Nat) : (s.onFlash f).port y = s.port y := rfl
@[simp] theorem State.onFlash_lane (f : Flash → Flash) (y : Nat) : (s.onFlash f).lane y = s.lane y := rfl
@[simp] theorem State.onFlash_box (f : Flash → Flash) (y : Nat) : (s.onFlash f).box y = s.box y := rfl
@[simp] theorem State.onFlash_cluster (f : Flash → Flash) (y : Nat) : (s.onFlash f).cluster y = s.cluster y := rfl
@[simp] theorem State.onFlash_ctx (f : Flash → Flash) (y : CtxId) : (s.onFlash f).ctx y = s.ctx y := rfl
@[simp] theorem State.onFlash_window (f : Flash → Flash) (y : Nat) : (s.onFlash f).window y = s.window y := rfl
@[simp] theorem State.onFlash_trunk (f : Flash → Flash) (y : Nat) : (s.onFlash f).trunk y = s.trunk y := rfl
@[simp] theorem State.onFlash_win (f : Flash → Flash) (y : Nat) : (s.onFlash f).win y = s.win y := rfl
@[simp] theorem State.onFlash_qp (f : Flash → Flash) (y : Nat) : (s.onFlash f).qp y = s.qp y := rfl
@[simp] theorem State.onFlash_op (f : Flash → Flash) (y : Nat) : (s.onFlash f).op y = s.op y := rfl
@[simp] theorem State.onFlash_member (f : Flash → Flash) (y : Nat) : (s.onFlash f).member y = s.member y := rfl
@[simp] theorem State.onFlash_tenant (f : Flash → Flash) (y : Nat) : (s.onFlash f).tenant y = s.tenant y := rfl
@[simp] theorem State.onPwr_port (f : Power → Power) (y : Nat) : (s.onPwr f).port y = s.port y := rfl
@[simp] theorem State.onPwr_lane (f : Power → Power) (y : Nat) : (s.onPwr f).lane y = s.lane y := rfl
@[simp] theorem State.onPwr_box (f : Power → Power) (y : Nat) : (s.onPwr f).box y = s.box y := rfl
@[simp] theorem State.onPwr_cluster (f : Power → Power) (y : Nat) : (s.onPwr f).cluster y = s.cluster y := rfl
@[simp] theorem State.onPwr_ctx (f : Power → Power) (y : CtxId) : (s.onPwr f).ctx y = s.ctx y := rfl
@[simp] theorem State.onPwr_window (f : Power → Power) (y : Nat) : (s.onPwr f).window y = s.window y := rfl
@[simp] theorem State.onPwr_trunk (f : Power → Power) (y : Nat) : (s.onPwr f).trunk y = s.trunk y := rfl
@[simp] theorem State.onPwr_win (f : Power → Power) (y : Nat) : (s.onPwr f).win y = s.win y := rfl
@[simp] theorem State.onPwr_qp (f : Power → Power) (y : Nat) : (s.onPwr f).qp y = s.qp y := rfl
@[simp] theorem State.onPwr_op (f : Power → Power) (y : Nat) : (s.onPwr f).op y = s.op y := rfl
@[simp] theorem State.onPwr_member (f : Power → Power) (y : Nat) : (s.onPwr f).member y = s.member y := rfl
@[simp] theorem State.onPwr_tenant (f : Power → Power) (y : Nat) : (s.onPwr f).tenant y = s.tenant y := rfl

/-! ### The queue and the clock -/

@[simp] theorem State.withPending_pending (q : List Instr) : (s.withPending q).pending = q := rfl
@[simp] theorem State.withPending_twice (q r : List Instr) : (s.withPending q).withPending r = s.withPending r := rfl
@[simp] theorem State.onLink_self_link (p : Nat) (f : Link → Link) : ((s.onLink p f).port p).link = f (s.port p).link := by
  simp [State.onLink]
@[simp] theorem State.onCnt_self_cnt (p : Nat) (f : PortCount → PortCount) : ((s.onCnt p f).port p).cnt = f (s.port p).cnt := by
  simp [State.onCnt]
theorem State.onLink_ne {p q : Nat} (f : Link → Link) (h : q ≠ p) : (s.onLink p f).port q = s.port q := State.onPort_ne s _ h
theorem State.onCnt_ne {p q : Nat} (f : PortCount → PortCount) (h : q ≠ p) : (s.onCnt p f).port q = s.port q := State.onPort_ne s _ h

end Sys2Proof.Machine
end

