-- ==== Sys2Proof/Laws/Agents.lean ====
section
/-! SUPPORT. What the row of a packet for this node's agents does, by opcode, address and readiness, for the packet that is read and the state it has left; and that
reading an open chunk's slots keeps the chunk open. -/

namespace Sys2Proof.Machine

open Sys2Proof

variable {o port g c : Nat} {p : Packet} {run : Packet → State → State} {s : State}

/-- A packet of the row's opcode that is addressed here is read, and its agent takes it. -/
theorem agentRow_runs (hp : isPort port = true ∨ port = outLocal) (hm : s.svc.mod = .ready) (hd : p.dst = selfNode s ∨ p.mcast = true) (ho : p.op = o) :
    agentRow o port p run s = .next (run (opened s p) (takeLocal p s)) := by
  rcases hp with hp | hp <;> rcases hd with hd | hd <;> simp [agentRow, isReady, hm, hp, hd, ho]

/-- Any other packet is none of the row's: nothing happens. -/
theorem agentRow_ignores (hp : isPort port = true ∨ port = outLocal)
    (h : s.svc.mod ≠ .ready ∨ (p.dst ≠ selfNode s ∧ p.mcast = false) ∨ p.op ≠ o) : agentRow o port p run s = .next s := by
  rcases hp with hp | hp <;> rcases h with h | h | h <;> simp [agentRow, isReady, hp, h]

/-- A row on a port that the part does not have stops. -/
theorem agentRow_noPort (hp : isPort port = false) (hl : port ≠ outLocal) : agentRow o port p run s = .fault .noSuchUnit := by
  simp [agentRow, hp, hl]

/-- The checks on a packet that is no request, in their order (04 R90, R113): what each leaves. -/
theorem pktChecked_stale {bad : Bool} {go : State → State} (h : authCheck p s = .stale) : pktChecked port p bad go s = discardStale port s := by
  simp [pktChecked, h]
theorem pktChecked_unsure {bad : Bool} {go : State → State} (h : authCheck p s = .fail) : pktChecked port p bad go s = discardUnsure port s := by
  simp [pktChecked, h]
theorem pktChecked_ok {bad : Bool} {go : State → State} (h : authCheck p s = .ok) :
    pktChecked port p bad go s = if bad = true then discardMalformed port 7 p s else go s := by
  simp [pktChecked, h]

/-- A change of a chunk that keeps its index keeps it open and its operation running. -/
theorem onChunk_running {f : Chunk → Chunk} (hf : ∀ x, (f x).idx = x.idx) (h : (runningChunk s g c).isSome = true) :
    (runningChunk (onChunk g c f s) g c).isSome = true := by
  unfold runningChunk at h ⊢
  rw [onChunk, State.onOp_self]
  cases ho : s.op g with
  | none => simp [ho] at h
  | some op =>
    simp only [ho, Option.map_some] at h ⊢
    split at h
    · simp at h
    · rename_i hn
      rw [if_neg hn]
      simp only [Option.isSome_map, chunkOf, List.find?_isSome, List.mem_map] at h ⊢
      obtain ⟨x, hx, hi⟩ := h
      exact ⟨_, ⟨x, hx, rfl⟩, by rw [if_pos hi]; simpa [hf] using hi⟩

/-- What a slot holds says nothing of the chunk's index. -/
theorem takeSlot_idx (op : Op) (n e : Nat) (b : List Byte) (x : Chunk) : (takeSlot op n e b x).idx = x.idx := by
  unfold takeSlot; split <;> [rfl; split <;> rfl]

/-- What is taken from the slots keeps the chunk open. -/
theorem syncOpen_running (lo hi : Nat) (h : (runningChunk s g c).isSome = true) : (runningChunk (syncOpen g c lo hi s) g c).isSome = true := by
  unfold syncOpen
  split
  · exact h
  · split
    · exact h
    · dsimp only
      rename_i op hop _
      clear hop
      generalize memberCount s g = n
      generalize contextsOf s (.op g) = l
      induction l generalizing s with
      | nil => exact h
      | cons id l ih =>
        refine ih (onChunk_running (fun x => ?_) h)
        generalize (slotsAt op c lo hi s id).2 = es
        induction es generalizing x with
        | nil => rfl
        | cons e es ih => exact (ih _).trans (takeSlot_idx ..)
end Sys2Proof.Machine
end

