-- ==== Sys2Proof/Laws/Checks.lean ====
section
/-! SUPPORT. The check codes of flits, markers and training frames: what carries the code that was computed over it passes the check. -/

namespace Sys2Proof.Machine

open Sys2Proof

/-- A flit that the transmitter makes passes the receiver's CRC check. -/
theorem mkFlit_crcOk (h : BitVec 16) (g : List (BitVec 128)) (l : BitVec 48) : (mkFlit h g l).crcOk = true := by
  simp [mkFlit, Flit.crcOk, Flit.bytes]

theorem crc16Step_lt (r : Nat) (b : Bool) (hr : r < 2 ^ 16) : crc16Step r b < 2 ^ 16 := by
  simp only [crc16Step]
  split
  · exact Nat.xor_lt_two_pow (by omega) (by omega)
  · omega

theorem crc16_lt : ∀ (n v r : Nat), r < 2 ^ 16 → crc16 v n r < 2 ^ 16
  | 0, _, _, hr => hr
  | n + 1, v, r, hr => crc16_lt n (v / 2) _ (crc16Step_lt r _ hr)

/-- The CRC over the low n bits ignores what stands above them. -/
theorem crc16_high (n : Nat) : ∀ (v c r : Nat), crc16 (v + 2 ^ n * c) n r = crc16 v n r := by
  induction n with
  | zero => intro v c r; rfl
  | succ n ih =>
    intro v c r
    have e : v + 2 ^ (n + 1) * c = v + 2 * (2 ^ n * c) := by
      rw [Nat.pow_succ, Nat.mul_comm (2 ^ n) 2, Nat.mul_assoc]
    simp only [crc16]
    rw [e, Nat.add_mul_mod_self_left, Nat.add_mul_div_left _ _ (by decide), ih]

/-- A marker or frame head with its CHECK. -/
def withCheck (body : Nat) : BitVec 256 := BitVec.ofNat 256 (body + 2 ^ 240 * crc16 body 240 0xFFFF)

theorem withCheck_toNat (body : Nat) (h : body < 2 ^ 240) : (withCheck body).toNat = body + 2 ^ 240 * crc16 body 240 0xFFFF := by
  have hc := crc16_lt 240 body 0xFFFF (by decide)
  unfold withCheck
  rw [BitVec.toNat_ofNat]
  exact Nat.mod_eq_of_lt (by omega)

theorem withCheck_ok (body : Nat) (h : body < 2 ^ 240) : checkOk (withCheck body) = true := by
  unfold checkOk
  rw [withCheck_toNat body h, crc16_high, Nat.add_mul_div_left _ _ (Nat.two_pow_pos _), Nat.div_eq_of_lt h]
  simp

/-- Every field below the CHECK reads as in the body. -/
theorem fld_withCheck (body lo w : Nat) (h : body < 2 ^ 240) (hw : lo + w ≤ 240) : fld (withCheck body) lo w = body / 2 ^ lo % 2 ^ w := by
  have e : 2 ^ 240 * crc16 body 240 0xFFFF = 2 ^ lo * (2 ^ w * (2 ^ (240 - lo - w) * crc16 body 240 0xFFFF)) := by
    rw [← Nat.mul_assoc, ← Nat.mul_assoc, ← Nat.pow_add, ← Nat.pow_add, show lo + w + (240 - lo - w) = 240 by omega]
  unfold fld
  rw [withCheck_toNat body h, e, Nat.add_mul_div_left _ _ (Nat.two_pow_pos _), Nat.add_mul_mod_self_left]

theorem getLsbD_withCheck (body i : Nat) (h : body < 2 ^ 240) (hi : i < 240) : (withCheck body).getLsbD i = decide (body / 2 ^ i % 2 = 1) := by
  have e := fld_withCheck body i 1 h (by omega)
  unfold fld at e
  rw [BitVec.getLsbD, Nat.testBit_eq_decide_div_mod_eq]
  simp only [Nat.pow_one] at e
  rw [e]

/-- A frame head with TCOMMA and its CHECK is recognised (02 R44). -/
theorem withCheck_frame (body : Nat) (h : body < 2 ^ 240) (hc : body % 2 ^ 64 = tcommaWord) : frameValid (withCheck body) = true := by
  unfold frameValid
  rw [fld_withCheck body 0 64 h (by omega), withCheck_ok body h, Nat.pow_zero, Nat.div_one, hc]
  simp

/-- So is a lane marker with COMMA, of a known type (02 R34). -/
theorem withCheck_marker (body : Nat) (h : body < 2 ^ 240) (hc : body % 2 ^ 64 = commaWord)
    (ht : body / 2 ^ 64 % 2 ^ 8 = 1 ∨ body / 2 ^ 64 % 2 ^ 8 = 2) : markerValid false (withCheck body) = true := by
  unfold markerValid
  rw [fld_withCheck body 0 64 h (by omega), fld_withCheck body 64 8 h (by omega), withCheck_ok body h]
  simp only [Nat.pow_zero, Nat.div_one, hc, Nat.xor_self]
  rcases ht with ht | ht <;> rw [ht] <;> decide

end Sys2Proof.Machine
end

