-- ==== Sys2Proof/Laws/Coding.lean ====
section
/-! SUPPORT. What the receiving end of a lane recovers is what the transmitting end was given (02 R30 to R32), and a codeword
without errors is decoded (02 R33). -/

namespace Sys2Proof.Machine

/-- Precoding is undone from the same state. -/
theorem unprecode_precode (l : List (BitVec 2)) : ∀ p, unprecode p (precode p l) = l := by
  induction l with
  | nil => intro p; rfl
  | cons g r ih => intro p; simp [precode, unprecode, ih]

/-- A pair of bits survives its level. -/
@[simp] theorem grayPair_grayIndex (b : Bool × Bool) : grayPair (grayIndex b) = b := by
  obtain ⟨x, y⟩ := b; cases x <;> cases y <;> decide

/-- Bits in pairs are what the pairs spell. -/
theorem bitPairs_flatten (l : List (Bool × Bool)) : bitPairs (l.flatMap (fun x => [x.1, x.2])) = l := by
  induction l with
  | nil => rfl
  | cons x r ih => simp [bitPairs, ih]

/-- Every bit pair survives the line, precoded or not, where both ends start from one level. -/
theorem receiveBits_sendLevels (c : Bool) (p : BitVec 2) (l : List (Bool × Bool)) :
    receiveBits c p (sendLevels c p (l.flatMap (fun x => [x.1, x.2]))) = l.flatMap (fun x => [x.1, x.2]) := by
  cases c <;> simp [receiveBits, sendLevels, bitPairs_flatten, unprecode_precode, List.flatMap_map]

/-- Scrambling twice from one state gives back the bits. -/
theorem scramble_scramble (l : List Bool) : ∀ st, (scramble st (scramble st l).1).1 = l := by
  induction l with
  | nil => intro st; rfl
  | cons x r ih => intro st; simp [scramble, ih]

/-- The product with 0. -/
theorem gfMul_zero (b : Nat) : gfMul 0 b = 0 := by
  have h : ∀ (l : List Nat) (y : Nat), (l.foldl (fun x i => (if (0 : Nat).testBit i then x.1 ^^^ x.2 else x.1, gfX x.2)) ((0, y) : Nat × Nat)).1 = 0 := by
    intro l
    induction l with
    | nil => intro y; rfl
    | cons i r ih => intro y; simpa using ih (gfX y)
  exact h _ _

/-- The polynomial 0 has the value 0 everywhere. -/
theorem gfEval_zeros (n x : Nat) : gfEval (List.replicate n 0) x = 0 := by
  unfold gfEval
  induction n with
  | zero => rfl
  | succ n ih => simpa [List.replicate_succ, gfMul_zero] using ih

/-- Bits that are all 0 spell 0. -/
theorem ofBits_zeros {l : List Bool} (h : ∀ b ∈ l, b = false) : ofBits l = 0 := by
  induction l with
  | nil => rfl
  | cons b r ih =>
    have hb := h b (by simp)
    have hr := ih (fun c hc => h c (by simp [hc]))
    simp [ofBits, hb, b2n] at hr ⊢
    exact hr

/-- Symbols of bits that are all 0. -/
theorem symbolsOf_zeros (n : Nat) : ∀ {l : List Bool}, (∀ b ∈ l, b = false) → symbolsOf n l = List.replicate n 0 := by
  induction n with
  | zero => intro l _; rfl
  | succ n ih =>
    intro l h
    rw [symbolsOf, ofBits_zeros (fun b hb => h b (List.mem_of_mem_take hb)), ih (fun b hb => h b (List.mem_of_mem_drop hb)), List.replicate_succ]

/-- A word of zeros has no syndromes. -/
theorem rsDecode_zeros (n : Nat) : rsDecode (List.replicate n 0) = some (List.replicate n 0) := by
  have h : (rsSyndromes (List.replicate n 0)).all (· == 0) = true := by
    simp only [rsSyndromes, gfEval_zeros]
    decide
  rw [rsDecode, if_pos h]

/-- The codeword of zeros is decoded. -/
theorem wordLost_zeros (n : Nat) : wordLost false 0 (List.replicate n 0) = false := by
  have h : ∀ b ∈ receiveBits false 0 (List.replicate n 0), b = false := by
    intro b hb
    simp [receiveBits, grayPair] at hb
    exact hb.2
  rw [wordLost, symbolsOf_zeros 544 h, rsDecode_zeros]
  rfl

end Sys2Proof.Machine
end

