-- ==== Sys2Proof/Laws/Instrs.lean ====
section
/-! SUPPORT. What the issue of an instruction does, said once (09 R252, R261, R263, R266; log entry 10), and what the shared steps of instructions answer. -/

namespace Sys2Proof.Machine

open Sys2Proof

variable {row : Instr} {x : Issue} {ecc : Ecc} {ends : Bool} {run : Ctx → State → State} {s : State}

/-- The word at the counter spells the row: its meaning runs. -/
theorem instruction_runs (h : Runs row x ecc s) :
    instruction row x ecc ends run s = .next (run (s.ctx x.id) (if ends then endMark x.id (fetched x s) else fetched x s)) := by
  obtain ⟨hc, hi, hp, hn⟩ := h
  simp [instruction, hc, hi, hp, hn]

/-! The fetch of a word may count a corrected error, and leaves all else. -/

@[simp] theorem fetched_svc (x : Issue) (s : State) : (fetched x s).svc = s.svc := by unfold fetched; split <;> rfl
@[simp] theorem fetched_mbx (x : Issue) (s : State) : (fetched x s).mbx = s.mbx := by unfold fetched; split <;> rfl
@[simp] theorem fetched_lanes (x : Issue) (s : State) : (fetched x s).lanes = s.lanes := by unfold fetched; split <;> rfl
@[simp] theorem fetched_ports (x : Issue) (s : State) : (fetched x s).ports = s.ports := by unfold fetched; split <;> rfl
@[simp] theorem fetched_core (x : Issue) (s : State) : (fetched x s).core = s.core := by unfold fetched; split <;> rfl
@[simp] theorem fetched_home (x : Issue) (s : State) : (fetched x s).home = s.home := by unfold fetched; split <;> rfl
@[simp] theorem fetched_req (x : Issue) (s : State) : (fetched x s).req = s.req := by unfold fetched; split <;> rfl
@[simp] theorem fetched_coll (x : Issue) (s : State) : (fetched x s).coll = s.coll := by unfold fetched; split <;> rfl
@[simp] theorem fetched_reed (x : Issue) (s : State) : (fetched x s).reed = s.reed := by unfold fetched; split <;> rfl
@[simp] theorem fetched_xlat (x : Issue) (s : State) : (fetched x s).xlat = s.xlat := by unfold fetched; split <;> rfl
@[simp] theorem fetched_queues (x : Issue) (s : State) : (fetched x s).queues = s.queues := by unfold fetched; split <;> rfl
@[simp] theorem fetched_host (x : Issue) (s : State) : (fetched x s).host = s.host := by unfold fetched; split <;> rfl
@[simp] theorem fetched_sec (x : Issue) (s : State) : (fetched x s).sec = s.sec := by unfold fetched; split <;> rfl
@[simp] theorem fetched_flash (x : Issue) (s : State) : (fetched x s).flash = s.flash := by unfold fetched; split <;> rfl
@[simp] theorem fetched_pwr (x : Issue) (s : State) : (fetched x s).pwr = s.pwr := by unfold fetched; split <;> rfl
@[simp] theorem fetched_snap (x : Issue) (s : State) : (fetched x s).snap = s.snap := by unfold fetched; split <;> rfl
@[simp] theorem fetched_free (x : Issue) (s : State) : (fetched x s).free = s.free := by unfold fetched; split <;> rfl
@[simp] theorem fetched_pending (x : Issue) (s : State) : (fetched x s).pending = s.pending := by unfold fetched; split <;> rfl
@[simp] theorem fetched_ctx (x : Issue) (y : CtxId) (s : State) : (fetched x s).ctx y = s.ctx y := by unfold fetched; split <;> rfl

/-- A context that the part does not have stops. -/
theorem instruction_noUnit (h : isCtx x.id = false) : instruction row x ecc ends run s = .fault .noSuchUnit := by
  simp [instruction, h]

/-- A context that issues nothing stays as it is. -/
theorem instruction_waits (h : isCtx x.id = true) (hi : issues s x.id = false) : instruction row x ecc ends run s = .next s := by
  simp [instruction, h, hi]

/-- A parity error is a program fault. -/
theorem instruction_parity (h : isCtx x.id = true) (hi : issues s x.id = true) (hp : x.parity = true) :
    instruction row x ecc ends run s = .next (programFault x.id 0x09 0 s) := by
  simp [instruction, h, hi, hp, fcParity]

/-- So is a reserved word. -/
theorem instruction_reserved (h : isCtx x.id = true) (hi : issues s x.id = true) (hp : x.parity = false) (hn : nextInstr x ecc s = none) :
    instruction row x ecc ends run s = .next (programFault x.id 0x01 0 (fetched x s)) := by
  simp [instruction, h, hi, hp, hn, fcReserved]

/-- A row that the word at the counter does not spell changes nothing. -/
theorem instruction_other (h : isCtx x.id = true) (hi : issues s x.id = true) (hp : x.parity = false) {r : Instr}
    (hn : nextInstr x ecc s = some r) (hr : r ≠ row) : instruction row x ecc ends run s = .next s := by
  simp [instruction, h, hi, hp, hn, hr]

/-- Whether a word is reserved does not depend on the check of what it reads. -/
theorem instrOfWord_none {e e' : Ecc} {w : BitVec 64} (h : instrOfWord x e w = none) : instrOfWord x e' w = none := by
  unfold instrOfWord at h ⊢
  split at h <;> simp_all

/-- The steps that instructions share. -/
theorem checked_eq (i : CtxId) (bad : Bool) (g : State → State) : checked i bad g s = if bad = true then programFault i 0x01 0 s else g s := rfl
theorem checked_if (i : CtxId) (bad : Bool) (P : Prop) [Decidable P] (h : bad = true ↔ P) (g : State → State) :
    checked i bad g s = if P then programFault i 0x01 0 s else g s := by
  by_cases hp : P
  · rw [if_pos hp, checked_eq, if_pos (h.2 hp)]
  · rw [if_neg hp, checked_eq, if_neg (fun q => hp (h.1 q))]
theorem work_eq (i : CtxId) (c : Ctx) (a n : Nat) (g : State → State) :
    work i c a n g s = if inWork s c a n = false then programFault i 0x02 0 s else g s := by
  cases h : inWork s c a n <;> simp [work, h, fcScratch]
theorem slots_eq (i : CtxId) (c : Ctx) (a n : Nat) (g : State → State) :
    slots i c a n g s = if inPages c.pages a n = false then programFault i 0x02 0 s else g s := by
  cases h : inPages c.pages a n <;> simp [slots, h, fcScratch]
theorem scanned_eq (i : CtxId) (e : Ecc) (a : Nat) (g : State → State) :
    scanned i e a g s = if e = .uncorrectable then dataLost i (recordErr kCluster i.cluster 0x29 2 (leBytes a 4) s)
      else g (if e = .corrected then recordCorrected kCluster i.cluster s else s) := by
  cases e <;> rfl

/-- The phase of idling moves the power module's state alone (09 R284, R285). -/
theorem settlePhase_frame (s : State) : { settlePhase s with pwr := s.pwr } = s := by
  unfold settlePhase; dsimp only; split <;> [split; skip] <;> rfl

end Sys2Proof.Machine
end

