-- ==== Sys2Proof/Laws/Lines.lean ====
section
/-! SUPPORT. What the operations on a lane's line change, said once: the line or its loopback, and nothing of what the receiver holds (02 R44, R50). -/

namespace Sys2Proof.Machine

open Sys2Proof

/-- An item changes the line or what comes back to the receiver. -/
theorem putLine_keeps (x : LineItem) (l : Lane) : ∃ a b, putLine x l = { l with line := a, looped := b } := by
  unfold putLine
  by_cases h0 : (l.loopback == 0) = true
  · rw [if_pos h0]; exact ⟨_, l.looped, rfl⟩
  rw [if_neg h0]
  by_cases h1 : (l.loopback == 1) = true
  · rw [if_pos h1]; exact ⟨l.line, _, rfl⟩
  rw [if_neg h1]
  by_cases h2 : (l.loopback == 2) = true
  · rw [if_pos h2]
    cases x
    case frame => exact ⟨_, l.looped, rfl⟩
    all_goals exact ⟨l.line, _, rfl⟩
  rw [if_neg h2]
  exact ⟨l.line, l.looped, rfl⟩

/-- A frame takes the fill on, counts itself, and carries RESTART once. -/
theorem frameOf_snd (q : Port) (node : Node) (phys : Nat) (l : Lane) :
    (frameOf q node phys l).2 = { l with fill := (fillRun 5184 l.fill).2, fcountOut := l.fcountOut + 1, restartDue := false } := rfl

/-- What a frame sent leaves of its lane. -/
theorem sendFrame_lane (p lane : Nat) (s : State) : ∃ a b c, (sendFrame p lane s).lane lane =
    { s.lane lane with fill := a, fcountOut := (s.lane lane).fcountOut + 1, restartDue := false, line := b, looped := c } := by
  unfold sendFrame
  rw [State.onLane_self]
  obtain ⟨b, c, h⟩ := putLine_keeps (.frame (frameOf (s.port p) (portSelf s p) (lane % 140) (s.lane lane)).1
    ((s.lane lane).precodeTx && decide (4 ≤ frameStep (s.port p)))) (frameOf (s.port p) (portSelf s p) (lane % 140) (s.lane lane)).2
  exact ⟨_, b, c, by rw [h, frameOf_snd]⟩

theorem sendFrame_ne {p lane k : Nat} (s : State) (h : k ≠ lane) : (sendFrame p lane s).lane k = s.lane k := State.onLane_ne s _ h

/-- Nothing but the lanes changes. -/
theorem sendFrame_frame (p lane : Nat) (s : State) : { sendFrame p lane s with lanes := s.lanes } = s := rfl

@[simp] theorem sendFrame_port (p lane x : Nat) (s : State) : (sendFrame p lane s).port x = s.port x := rfl
@[simp] theorem sendFrame_svc (p lane : Nat) (s : State) : (sendFrame p lane s).svc = s.svc := rfl

/-- A frame of a lane that trains alone leaves its loopback and its training as they are. -/
theorem sendLoopFrame_lane (lane : Nat) (s : State) : ∃ a b, (sendLoopFrame lane s).lane lane =
    { s.lane lane with fill := a, fcountOut := (s.lane lane).fcountOut + 1, restartDue := false, line := b } := by
  unfold sendLoopFrame
  rw [State.onLane_self]
  exact ⟨_, _, rfl⟩

theorem sendLoopFrame_ne {lane k : Nat} (s : State) (h : k ≠ lane) : (sendLoopFrame lane s).lane k = s.lane k := State.onLane_ne s _ h

/-- The loopback that a lane is given is the one it has, a far-end one begins with the lane's training, and no other lane is touched (02 R50). -/
theorem enterLoop_spec (lane mode : Nat) (h : MHdr) (s : State) (hm : mode ≤ 3) :
    ((enterLoop lane mode h s).lane lane).loopback = (if mode = 3 ∨ mode = 2 then 0 else mode + 1) ∧
    (mode = 2 → ((enterLoop lane mode h s).lane lane).loopStep = 1 ∧ ((enterLoop lane mode h s).lane lane).loopHdr = some h) ∧
    ∀ k, k ≠ lane → (enterLoop lane mode h s).lane k = s.lane k := by
  have out (k : Nat) (hk : k ≠ lane) : (leaveLoop lane s).lane k = s.lane k := State.onLane_ne s _ hk
  have : mode = 0 ∨ mode = 1 ∨ mode = 2 ∨ mode = 3 := by omega
  rcases this with rfl | rfl | rfl | rfl
  · exact ⟨by simp [enterLoop], by simp, fun k hk => (State.onLane_ne _ _ hk).trans (out k hk)⟩
  · refine ⟨?_, by simp, fun k hk => (sendFrame_ne _ hk).trans ((State.onLane_ne _ _ hk).trans (out k hk))⟩
    obtain ⟨a, b, c, e⟩ := sendFrame_lane (homePort (leaveLoop lane s) lane) lane ((leaveLoop lane s).onLane lane (fun l => { l with loopback := 2 }))
    exact (congrArg Lane.loopback e).trans (by simp)
  · obtain ⟨a, b, e⟩ := sendLoopFrame_lane lane (armLoop lane h (leaveLoop lane s))
    refine ⟨(congrArg Lane.loopback e).trans ?_, fun _ => ⟨(congrArg Lane.loopStep e).trans ?_, (congrArg Lane.loopHdr e).trans ?_⟩,
      fun k hk => (sendLoopFrame_ne _ hk).trans ((State.onLane_ne _ _ hk).trans (out k hk))⟩
    all_goals simp [armLoop, leaveLoop]
  · exact ⟨by simp [enterLoop, leaveLoop], by simp, out⟩

end Sys2Proof.Machine
end

