-- ==== Sys2Proof/Laws/Memory.lean ====
section
/-! SUPPORT. The laws of byte memories: a read after a write, a write leaves every other byte alone, and every memory operation keeps the
canonical form (log entry 2). -/

namespace Sys2Proof.Machine

open Sys2Proof

/-- The byte just written reads as written. -/
@[simp] theorem memGet_memSet_self (m : List Host.Cell) (a : Nat) (b : Byte) (h : memWf m = true) : memGet (memSet m a b) a = b := by
  induction m with
  | nil => simp only [memSet]; split <;> simp_all [memGet]
  | cons c t ih =>
    obtain ⟨k, v⟩ := c
    have ht : memWf t = true := by
      cases t with
      | nil => rfl
      | cons d r => simp_all [memWf]
    -- a byte below the first listed address is not listed
    have low : ∀ (t : List Host.Cell) (k a : Nat) (v : Byte), memWf ((k, v) :: t) = true → a ≤ k → memGet t a = 0 := by
      intro t
      induction t with
      | nil => intros; rfl
      | cons d r ihr =>
        intro k a v hw hle
        obtain ⟨k', v'⟩ := d
        simp only [memWf, Bool.and_eq_true, decide_eq_true_eq] at hw
        simp only [memGet, if_neg (show a ≠ k' by omega)]
        exact ihr k' a v' hw.2 (by omega)
    simp only [memSet]
    split
    · split
      · have := low t k a v h (by omega)
        simp_all [memGet]; omega
      · simp [memGet]
    · split
      · split
        · subst_vars; exact low t k k v h (le_refl _)
        · simp [memGet]
      · simp_all [memGet]

/-- Every other byte reads as before. -/
theorem memGet_memSet_ne (m : List Host.Cell) {a x : Nat} (b : Byte) (h : x ≠ a) : memGet (memSet m a b) x = memGet m x := by
  induction m with
  | nil => simp only [memSet]; split <;> simp [memGet, h]
  | cons c t ih =>
    obtain ⟨k, v⟩ := c
    simp only [memSet]
    split
    · split <;> simp [memGet, h]
    · split
      · subst_vars
        split <;> simp [memGet, h]
      · simp [memGet, ih]

/-- The first listed address of a canonical list bounds what may stand before it. -/
theorem memWf_cons (k : Nat) (v : Byte) (t : List Host.Cell) :
    memWf ((k, v) :: t) = true ↔ v ≠ 0 ∧ (∀ c ∈ t.head?, k < c.1) ∧ memWf t = true := by
  cases t with
  | nil => simp [memWf]
  | cons d r => obtain ⟨k', v'⟩ := d; simp [memWf, and_assoc]

/-- A write lists nothing below the lower of its address and what stood first. -/
theorem memSet_head (m : List Host.Cell) (a : Nat) (b : Byte) (k : Nat) (hk : k < a) (hm : ∀ c ∈ m.head?, k < c.1) (hw : memWf m = true) :
    ∀ c ∈ (memSet m a b).head?, k < c.1 := by
  cases m with
  | nil => simp only [memSet]; split <;> simp [hk]
  | cons d t =>
    obtain ⟨k', v'⟩ := d
    have h1 : k < k' := by simpa using hm
    simp only [memSet]
    split
    · split <;> simp [hk, h1]
    · split
      · split
        · cases t with
          | nil => simp
          | cons e r =>
            have := ((memWf_cons k' v' (e :: r)).mp hw).2.1
            simp at this ⊢
            omega
        · simp [hk]
      · simp [h1]

/-- A write keeps the canonical form. -/
theorem memSet_wf (m : List Host.Cell) (a : Nat) (b : Byte) (h : memWf m = true) : memWf (memSet m a b) = true := by
  induction m with
  | nil => simp only [memSet]; split <;> simp_all [memWf]
  | cons d t ih =>
    obtain ⟨k, v⟩ := d
    have hp := (memWf_cons k v t).mp h
    simp only [memSet]
    split
    · split
      · exact h
      · rename_i h1 h2; exact (memWf_cons a b _).mpr ⟨h2, by simp; omega, h⟩
    · split
      · split
        · exact hp.2.2
        · rename_i h1 h2 h3; subst h2; exact (memWf_cons _ b t).mpr ⟨h3, hp.2.1, hp.2.2⟩
      · rename_i h1 h2
        exact (memWf_cons k v _).mpr ⟨hp.1, memSet_head t a b k (by omega) hp.2.1 hp.2.2, ih hp.2.2⟩

/-- So does a write of a list of bytes. -/
theorem memSetN_wf (l : List Byte) (m : List Host.Cell) (a : Nat) (h : memWf m = true) : memWf (memSetN m a l) = true := by
  induction l generalizing m a with
  | nil => exact h
  | cons b r ih => exact ih _ _ (memSet_wf m a b h)

/-- So does a write under a mask. -/
theorem memSetMasked_wf (l : List Byte) (m : List Host.Cell) (a mask : Nat) (h : memWf m = true) : memWf (memSetMasked m a mask l) = true := by
  induction l generalizing m a mask with
  | nil => exact h
  | cons b r ih =>
    refine ih _ _ _ ?_
    split
    · exact memSet_wf m a b h
    · exact h

/-- So does zeroing a range. -/
theorem memZero_wf (m : List Host.Cell) (lo hi : Nat) (h : memWf m = true) : memWf (memZero m lo hi) = true := by
  have head : ∀ (t : List Host.Cell) (k : Nat), memWf t = true → (∀ c ∈ t.head?, k < c.1) → ∀ c ∈ (memZero t lo hi).head?, k < c.1 := by
    intro t
    induction t with
    | nil => simp [memZero]
    | cons d r ih =>
      intro k hw hk
      obtain ⟨k', v'⟩ := d
      have hp := (memWf_cons k' v' r).mp hw
      have hk' : k < k' := by simpa using hk
      simp only [memZero, List.filter_cons]
      split
      · simp [hk']
      · exact ih k hp.2.2 (fun c hc => lt_trans hk' (hp.2.1 c hc))
  induction m with
  | nil => rfl
  | cons d t ih =>
    obtain ⟨k, v⟩ := d
    have hp := (memWf_cons k v t).mp h
    simp only [memZero, List.filter_cons]
    split
    · exact (memWf_cons k v _).mpr ⟨hp.1, head t k hp.2.2 hp.2.1, ih hp.2.2⟩
    · exact ih hp.2.2

/-- Bytes outside a written list read as before. -/
theorem memGet_memSetN_ne (l : List Byte) (m : List Host.Cell) (a x : Nat) (h : x < a ∨ a + l.length ≤ x) :
    memGet (memSetN m a l) x = memGet m x := by
  induction l generalizing m a with
  | nil => rfl
  | cons b r ih =>
    simp only [memSetN]
    rw [ih _ _ (by simp at h; omega), memGet_memSet_ne m b (by simp at h; omega)]

/-- Bytes written as a list read back, from a canonical memory. -/
theorem memGetN_memSetN (l : List Byte) (m : List Host.Cell) (a : Nat) (h : memWf m = true) : memGetN (memSetN m a l) a l.length = l := by
  induction l generalizing m a with
  | nil => rfl
  | cons b r ih =>
    simp only [memSetN, List.length_cons, memGetN]
    rw [memGet_memSetN_ne r _ (a + 1) a (by omega), memGet_memSet_self m a b h, ih _ _ (memSet_wf m a b h)]

/-- Bytes of a range that was written elsewhere read as before. -/
theorem memGetN_memSetN_ne (l : List Byte) (m : List Host.Cell) (a x n : Nat) (h : x + n ≤ a ∨ a + l.length ≤ x) :
    memGetN (memSetN m a l) x n = memGetN m x n := by
  induction n generalizing x with
  | zero => rfl
  | succ n ih =>
    simp only [memGetN]
    rw [memGet_memSetN_ne l m a x (by omega), ih (x + 1) (by omega)]

/-- The little-endian bytes of a number that fits spell it. -/
theorem leNat_leBytes (v n : Nat) (h : v < 256 ^ n) : leNat (leBytes v n) = v := by
  induction n generalizing v with
  | zero => simp at h; simp [leBytes, leNat, h]
  | succ n ih =>
    simp only [leBytes, leNat]
    rw [ih (v / 256) (by rw [pow_succ] at h; omega)]
    simp
    omega

@[simp] theorem leBytes_length (v n : Nat) : (leBytes v n).length = n := by
  induction n generalizing v with
  | zero => rfl
  | succ n ih => simp [leBytes, ih]

end Sys2Proof.Machine
end

