-- ==== Sys2Proof/Laws/Ops.lean ====
section
/-! SUPPORT. The frames of the shared operations: what each of them leaves unchanged, one lemma per field, so that no proof unfolds them. -/

namespace Sys2Proof.Machine

open Sys2Proof

variable (s : State)


/-! ### raiseVec -/

@[simp] theorem raiseVec_svc (v : Nat) : (raiseVec v s).svc = s.svc := by unfold raiseVec; split <;> rfl
@[simp] theorem raiseVec_err (v : Nat) : (raiseVec v s).err = s.err := by unfold raiseVec; split <;> rfl
@[simp] theorem raiseVec_mbx (v : Nat) : (raiseVec v s).mbx = s.mbx := by unfold raiseVec; split <;> rfl
@[simp] theorem raiseVec_lanes (v : Nat) : (raiseVec v s).lanes = s.lanes := by unfold raiseVec; split <;> rfl
@[simp] theorem raiseVec_ports (v : Nat) : (raiseVec v s).ports = s.ports := by unfold raiseVec; split <;> rfl
@[simp] theorem raiseVec_core (v : Nat) : (raiseVec v s).core = s.core := by unfold raiseVec; split <;> rfl
@[simp] theorem raiseVec_home (v : Nat) : (raiseVec v s).home = s.home := by unfold raiseVec; split <;> rfl
@[simp] theorem raiseVec_req (v : Nat) : (raiseVec v s).req = s.req := by unfold raiseVec; split <;> rfl
@[simp] theorem raiseVec_coll (v : Nat) : (raiseVec v s).coll = s.coll := by unfold raiseVec; split <;> rfl
@[simp] theorem raiseVec_reed (v : Nat) : (raiseVec v s).reed = s.reed := by unfold raiseVec; split <;> rfl
@[simp] theorem raiseVec_xlat (v : Nat) : (raiseVec v s).xlat = s.xlat := by unfold raiseVec; split <;> rfl
@[simp] theorem raiseVec_queues (v : Nat) : (raiseVec v s).queues = s.queues := by unfold raiseVec; split <;> rfl
@[simp] theorem raiseVec_sec (v : Nat) : (raiseVec v s).sec = s.sec := by unfold raiseVec; split <;> rfl
@[simp] theorem raiseVec_flash (v : Nat) : (raiseVec v s).flash = s.flash := by unfold raiseVec; split <;> rfl
@[simp] theorem raiseVec_pwr (v : Nat) : (raiseVec v s).pwr = s.pwr := by unfold raiseVec; split <;> rfl
@[simp] theorem raiseVec_snap (v : Nat) : (raiseVec v s).snap = s.snap := by unfold raiseVec; split <;> rfl
@[simp] theorem raiseVec_free (v : Nat) : (raiseVec v s).free = s.free := by unfold raiseVec; split <;> rfl
@[simp] theorem raiseVec_pending (v : Nat) : (raiseVec v s).pending = s.pending := by unfold raiseVec; split <;> rfl

/-! ### setSummary -/

@[simp] theorem setSummary_svc (bit : Nat) : (setSummary bit s).svc = s.svc := by unfold setSummary; split <;> simp
@[simp] theorem setSummary_mbx (bit : Nat) : (setSummary bit s).mbx = s.mbx := by unfold setSummary; split <;> simp
@[simp] theorem setSummary_lanes (bit : Nat) : (setSummary bit s).lanes = s.lanes := by unfold setSummary; split <;> simp
@[simp] theorem setSummary_ports (bit : Nat) : (setSummary bit s).ports = s.ports := by unfold setSummary; split <;> simp
@[simp] theorem setSummary_core (bit : Nat) : (setSummary bit s).core = s.core := by unfold setSummary; split <;> simp
@[simp] theorem setSummary_home (bit : Nat) : (setSummary bit s).home = s.home := by unfold setSummary; split <;> simp
@[simp] theorem setSummary_req (bit : Nat) : (setSummary bit s).req = s.req := by unfold setSummary; split <;> simp
@[simp] theorem setSummary_coll (bit : Nat) : (setSummary bit s).coll = s.coll := by unfold setSummary; split <;> simp
@[simp] theorem setSummary_reed (bit : Nat) : (setSummary bit s).reed = s.reed := by unfold setSummary; split <;> simp
@[simp] theorem setSummary_xlat (bit : Nat) : (setSummary bit s).xlat = s.xlat := by unfold setSummary; split <;> simp
@[simp] theorem setSummary_queues (bit : Nat) : (setSummary bit s).queues = s.queues := by unfold setSummary; split <;> simp
@[simp] theorem setSummary_sec (bit : Nat) : (setSummary bit s).sec = s.sec := by unfold setSummary; split <;> simp
@[simp] theorem setSummary_flash (bit : Nat) : (setSummary bit s).flash = s.flash := by unfold setSummary; split <;> simp
@[simp] theorem setSummary_pwr (bit : Nat) : (setSummary bit s).pwr = s.pwr := by unfold setSummary; split <;> simp
@[simp] theorem setSummary_snap (bit : Nat) : (setSummary bit s).snap = s.snap := by unfold setSummary; split <;> simp
@[simp] theorem setSummary_free (bit : Nat) : (setSummary bit s).free = s.free := by unfold setSummary; split <;> simp
@[simp] theorem setSummary_pending (bit : Nat) : (setSummary bit s).pending = s.pending := by unfold setSummary; split <;> simp

/-! ### addCxlEvent -/

@[simp] theorem addCxlEvent_svc (unit code sev : Nat) : (addCxlEvent unit code sev s).svc = s.svc := rfl
@[simp] theorem addCxlEvent_err (unit code sev : Nat) : (addCxlEvent unit code sev s).err = s.err := rfl
@[simp] theorem addCxlEvent_mbx (unit code sev : Nat) : (addCxlEvent unit code sev s).mbx = s.mbx := rfl
@[simp] theorem addCxlEvent_lanes (unit code sev : Nat) : (addCxlEvent unit code sev s).lanes = s.lanes := rfl
@[simp] theorem addCxlEvent_ports (unit code sev : Nat) : (addCxlEvent unit code sev s).ports = s.ports := rfl
@[simp] theorem addCxlEvent_core (unit code sev : Nat) : (addCxlEvent unit code sev s).core = s.core := rfl
@[simp] theorem addCxlEvent_home (unit code sev : Nat) : (addCxlEvent unit code sev s).home = s.home := rfl
@[simp] theorem addCxlEvent_req (unit code sev : Nat) : (addCxlEvent unit code sev s).req = s.req := rfl
@[simp] theorem addCxlEvent_coll (unit code sev : Nat) : (addCxlEvent unit code sev s).coll = s.coll := rfl
@[simp] theorem addCxlEvent_reed (unit code sev : Nat) : (addCxlEvent unit code sev s).reed = s.reed := rfl
@[simp] theorem addCxlEvent_xlat (unit code sev : Nat) : (addCxlEvent unit code sev s).xlat = s.xlat := rfl
@[simp] theorem addCxlEvent_queues (unit code sev : Nat) : (addCxlEvent unit code sev s).queues = s.queues := rfl
@[simp] theorem addCxlEvent_sec (unit code sev : Nat) : (addCxlEvent unit code sev s).sec = s.sec := rfl
@[simp] theorem addCxlEvent_flash (unit code sev : Nat) : (addCxlEvent unit code sev s).flash = s.flash := rfl
@[simp] theorem addCxlEvent_pwr (unit code sev : Nat) : (addCxlEvent unit code sev s).pwr = s.pwr := rfl
@[simp] theorem addCxlEvent_snap (unit code sev : Nat) : (addCxlEvent unit code sev s).snap = s.snap := rfl
@[simp] theorem addCxlEvent_free (unit code sev : Nat) : (addCxlEvent unit code sev s).free = s.free := rfl
@[simp] theorem addCxlEvent_pending (unit code sev : Nat) : (addCxlEvent unit code sev s).pending = s.pending := rfl

/-! ### recordErr -/

@[simp] theorem recordErr_svc (kind index code sev : Nat) (detail : List Byte) : (recordErr kind index code sev detail s).svc = s.svc := by unfold recordErr; simp only [setSummary_svc]; split <;> [skip; split] <;> simp
@[simp] theorem recordErr_mbx (kind index code sev : Nat) (detail : List Byte) : (recordErr kind index code sev detail s).mbx = s.mbx := by unfold recordErr; simp only [setSummary_mbx]; split <;> [skip; split] <;> simp
@[simp] theorem recordErr_lanes (kind index code sev : Nat) (detail : List Byte) : (recordErr kind index code sev detail s).lanes = s.lanes := by unfold recordErr; simp only [setSummary_lanes]; split <;> [skip; split] <;> simp
@[simp] theorem recordErr_ports (kind index code sev : Nat) (detail : List Byte) : (recordErr kind index code sev detail s).ports = s.ports := by unfold recordErr; simp only [setSummary_ports]; split <;> [skip; split] <;> simp
@[simp] theorem recordErr_core (kind index code sev : Nat) (detail : List Byte) : (recordErr kind index code sev detail s).core = s.core := by unfold recordErr; simp only [setSummary_core]; split <;> [skip; split] <;> simp
@[simp] theorem recordErr_home (kind index code sev : Nat) (detail : List Byte) : (recordErr kind index code sev detail s).home = s.home := by unfold recordErr; simp only [setSummary_home]; split <;> [skip; split] <;> simp
@[simp] theorem recordErr_req (kind index code sev : Nat) (detail : List Byte) : (recordErr kind index code sev detail s).req = s.req := by unfold recordErr; simp only [setSummary_req]; split <;> [skip; split] <;> simp
@[simp] theorem recordErr_coll (kind index code sev : Nat) (detail : List Byte) : (recordErr kind index code sev detail s).coll = s.coll := by unfold recordErr; simp only [setSummary_coll]; split <;> [skip; split] <;> simp
@[simp] theorem recordErr_reed (kind index code sev : Nat) (detail : List Byte) : (recordErr kind index code sev detail s).reed = s.reed := by unfold recordErr; simp only [setSummary_reed]; split <;> [skip; split] <;> simp
@[simp] theorem recordErr_xlat (kind index code sev : Nat) (detail : List Byte) : (recordErr kind index code sev detail s).xlat = s.xlat := by unfold recordErr; simp only [setSummary_xlat]; split <;> [skip; split] <;> simp
@[simp] theorem recordErr_queues (kind index code sev : Nat) (detail : List Byte) : (recordErr kind index code sev detail s).queues = s.queues := by unfold recordErr; simp only [setSummary_queues]; split <;> [skip; split] <;> simp
@[simp] theorem recordErr_sec (kind index code sev : Nat) (detail : List Byte) : (recordErr kind index code sev detail s).sec = s.sec := by unfold recordErr; simp only [setSummary_sec]; split <;> [skip; split] <;> simp
@[simp] theorem recordErr_flash (kind index code sev : Nat) (detail : List Byte) : (recordErr kind index code sev detail s).flash = s.flash := by unfold recordErr; simp only [setSummary_flash]; split <;> [skip; split] <;> simp
@[simp] theorem recordErr_pwr (kind index code sev : Nat) (detail : List Byte) : (recordErr kind index code sev detail s).pwr = s.pwr := by unfold recordErr; simp only [setSummary_pwr]; split <;> [skip; split] <;> simp
@[simp] theorem recordErr_snap (kind index code sev : Nat) (detail : List Byte) : (recordErr kind index code sev detail s).snap = s.snap := by unfold recordErr; simp only [setSummary_snap]; split <;> [skip; split] <;> simp
@[simp] theorem recordErr_free (kind index code sev : Nat) (detail : List Byte) : (recordErr kind index code sev detail s).free = s.free := by unfold recordErr; simp only [setSummary_free]; split <;> [skip; split] <;> simp
@[simp] theorem recordErr_pending (kind index code sev : Nat) (detail : List Byte) : (recordErr kind index code sev detail s).pending = s.pending := by unfold recordErr; simp only [setSummary_pending]; split <;> [skip; split] <;> simp

/-! ### recordCorrected -/

@[simp] theorem recordCorrected_svc (kind index : Nat) : (recordCorrected kind index s).svc = s.svc := rfl
@[simp] theorem recordCorrected_mbx (kind index : Nat) : (recordCorrected kind index s).mbx = s.mbx := rfl
@[simp] theorem recordCorrected_lanes (kind index : Nat) : (recordCorrected kind index s).lanes = s.lanes := rfl
@[simp] theorem recordCorrected_ports (kind index : Nat) : (recordCorrected kind index s).ports = s.ports := rfl
@[simp] theorem recordCorrected_core (kind index : Nat) : (recordCorrected kind index s).core = s.core := rfl
@[simp] theorem recordCorrected_home (kind index : Nat) : (recordCorrected kind index s).home = s.home := rfl
@[simp] theorem recordCorrected_req (kind index : Nat) : (recordCorrected kind index s).req = s.req := rfl
@[simp] theorem recordCorrected_coll (kind index : Nat) : (recordCorrected kind index s).coll = s.coll := rfl
@[simp] theorem recordCorrected_reed (kind index : Nat) : (recordCorrected kind index s).reed = s.reed := rfl
@[simp] theorem recordCorrected_xlat (kind index : Nat) : (recordCorrected kind index s).xlat = s.xlat := rfl
@[simp] theorem recordCorrected_queues (kind index : Nat) : (recordCorrected kind index s).queues = s.queues := rfl
@[simp] theorem recordCorrected_host (kind index : Nat) : (recordCorrected kind index s).host = s.host := rfl
@[simp] theorem recordCorrected_sec (kind index : Nat) : (recordCorrected kind index s).sec = s.sec := rfl
@[simp] theorem recordCorrected_flash (kind index : Nat) : (recordCorrected kind index s).flash = s.flash := rfl
@[simp] theorem recordCorrected_pwr (kind index : Nat) : (recordCorrected kind index s).pwr = s.pwr := rfl
@[simp] theorem recordCorrected_snap (kind index : Nat) : (recordCorrected kind index s).snap = s.snap := rfl
@[simp] theorem recordCorrected_free (kind index : Nat) : (recordCorrected kind index s).free = s.free := rfl
@[simp] theorem recordCorrected_pending (kind index : Nat) : (recordCorrected kind index s).pending = s.pending := rfl

/-! ### bumpEpoch -/

@[simp] theorem bumpEpoch_svc : (bumpEpoch s).svc = s.svc := rfl
@[simp] theorem bumpEpoch_err : (bumpEpoch s).err = s.err := rfl
@[simp] theorem bumpEpoch_mbx : (bumpEpoch s).mbx = s.mbx := rfl
@[simp] theorem bumpEpoch_lanes : (bumpEpoch s).lanes = s.lanes := rfl
@[simp] theorem bumpEpoch_ports : (bumpEpoch s).ports = s.ports := rfl
@[simp] theorem bumpEpoch_core : (bumpEpoch s).core = s.core := rfl
@[simp] theorem bumpEpoch_home : (bumpEpoch s).home = s.home := rfl
@[simp] theorem bumpEpoch_req : (bumpEpoch s).req = s.req := rfl
@[simp] theorem bumpEpoch_coll : (bumpEpoch s).coll = s.coll := rfl
@[simp] theorem bumpEpoch_reed : (bumpEpoch s).reed = s.reed := rfl
@[simp] theorem bumpEpoch_xlat : (bumpEpoch s).xlat = s.xlat := rfl
@[simp] theorem bumpEpoch_queues : (bumpEpoch s).queues = s.queues := rfl
@[simp] theorem bumpEpoch_host : (bumpEpoch s).host = s.host := rfl
@[simp] theorem bumpEpoch_flash : (bumpEpoch s).flash = s.flash := rfl
@[simp] theorem bumpEpoch_pwr : (bumpEpoch s).pwr = s.pwr := rfl
@[simp] theorem bumpEpoch_snap : (bumpEpoch s).snap = s.snap := rfl
@[simp] theorem bumpEpoch_free : (bumpEpoch s).free = s.free := rfl
@[simp] theorem bumpEpoch_pending : (bumpEpoch s).pending = s.pending := rfl

/-! ### sendVia -/

@[simp] theorem sendVia_svc (via : Option Nat) (p : Packet) : (sendVia via p s).svc = s.svc := rfl
@[simp] theorem sendVia_err (via : Option Nat) (p : Packet) : (sendVia via p s).err = s.err := rfl
@[simp] theorem sendVia_mbx (via : Option Nat) (p : Packet) : (sendVia via p s).mbx = s.mbx := rfl
@[simp] theorem sendVia_lanes (via : Option Nat) (p : Packet) : (sendVia via p s).lanes = s.lanes := rfl
@[simp] theorem sendVia_ports (via : Option Nat) (p : Packet) : (sendVia via p s).ports = s.ports := rfl
@[simp] theorem sendVia_home (via : Option Nat) (p : Packet) : (sendVia via p s).home = s.home := rfl
@[simp] theorem sendVia_req (via : Option Nat) (p : Packet) : (sendVia via p s).req = s.req := rfl
@[simp] theorem sendVia_coll (via : Option Nat) (p : Packet) : (sendVia via p s).coll = s.coll := rfl
@[simp] theorem sendVia_reed (via : Option Nat) (p : Packet) : (sendVia via p s).reed = s.reed := rfl
@[simp] theorem sendVia_xlat (via : Option Nat) (p : Packet) : (sendVia via p s).xlat = s.xlat := rfl
@[simp] theorem sendVia_queues (via : Option Nat) (p : Packet) : (sendVia via p s).queues = s.queues := rfl
@[simp] theorem sendVia_host (via : Option Nat) (p : Packet) : (sendVia via p s).host = s.host := rfl
@[simp] theorem sendVia_sec (via : Option Nat) (p : Packet) : (sendVia via p s).sec = s.sec := rfl
@[simp] theorem sendVia_flash (via : Option Nat) (p : Packet) : (sendVia via p s).flash = s.flash := rfl
@[simp] theorem sendVia_pwr (via : Option Nat) (p : Packet) : (sendVia via p s).pwr = s.pwr := rfl
@[simp] theorem sendVia_snap (via : Option Nat) (p : Packet) : (sendVia via p s).snap = s.snap := rfl
@[simp] theorem sendVia_free (via : Option Nat) (p : Packet) : (sendVia via p s).free = s.free := rfl
@[simp] theorem sendVia_pending (via : Option Nat) (p : Packet) : (sendVia via p s).pending = s.pending := rfl

/-! ### sendLocal -/

@[simp] theorem sendLocal_svc (p : Packet) : (sendLocal p s).svc = s.svc := rfl
@[simp] theorem sendLocal_err (p : Packet) : (sendLocal p s).err = s.err := rfl
@[simp] theorem sendLocal_mbx (p : Packet) : (sendLocal p s).mbx = s.mbx := rfl
@[simp] theorem sendLocal_lanes (p : Packet) : (sendLocal p s).lanes = s.lanes := rfl
@[simp] theorem sendLocal_ports (p : Packet) : (sendLocal p s).ports = s.ports := rfl
@[simp] theorem sendLocal_home (p : Packet) : (sendLocal p s).home = s.home := rfl
@[simp] theorem sendLocal_req (p : Packet) : (sendLocal p s).req = s.req := rfl
@[simp] theorem sendLocal_coll (p : Packet) : (sendLocal p s).coll = s.coll := rfl
@[simp] theorem sendLocal_reed (p : Packet) : (sendLocal p s).reed = s.reed := rfl
@[simp] theorem sendLocal_xlat (p : Packet) : (sendLocal p s).xlat = s.xlat := rfl
@[simp] theorem sendLocal_queues (p : Packet) : (sendLocal p s).queues = s.queues := rfl
@[simp] theorem sendLocal_host (p : Packet) : (sendLocal p s).host = s.host := rfl
@[simp] theorem sendLocal_sec (p : Packet) : (sendLocal p s).sec = s.sec := rfl
@[simp] theorem sendLocal_flash (p : Packet) : (sendLocal p s).flash = s.flash := rfl
@[simp] theorem sendLocal_pwr (p : Packet) : (sendLocal p s).pwr = s.pwr := rfl
@[simp] theorem sendLocal_snap (p : Packet) : (sendLocal p s).snap = s.snap := rfl
@[simp] theorem sendLocal_free (p : Packet) : (sendLocal p s).free = s.free := rfl
@[simp] theorem sendLocal_pending (p : Packet) : (sendLocal p s).pending = s.pending := rfl

/-! ### takeLocal -/

@[simp] theorem takeLocal_svc (p : Packet) : (takeLocal p s).svc = s.svc := rfl
@[simp] theorem takeLocal_err (p : Packet) : (takeLocal p s).err = s.err := rfl
@[simp] theorem takeLocal_mbx (p : Packet) : (takeLocal p s).mbx = s.mbx := rfl
@[simp] theorem takeLocal_lanes (p : Packet) : (takeLocal p s).lanes = s.lanes := rfl
@[simp] theorem takeLocal_ports (p : Packet) : (takeLocal p s).ports = s.ports := rfl
@[simp] theorem takeLocal_home (p : Packet) : (takeLocal p s).home = s.home := rfl
@[simp] theorem takeLocal_req (p : Packet) : (takeLocal p s).req = s.req := rfl
@[simp] theorem takeLocal_coll (p : Packet) : (takeLocal p s).coll = s.coll := rfl
@[simp] theorem takeLocal_reed (p : Packet) : (takeLocal p s).reed = s.reed := rfl
@[simp] theorem takeLocal_xlat (p : Packet) : (takeLocal p s).xlat = s.xlat := rfl
@[simp] theorem takeLocal_queues (p : Packet) : (takeLocal p s).queues = s.queues := rfl
@[simp] theorem takeLocal_host (p : Packet) : (takeLocal p s).host = s.host := rfl
@[simp] theorem takeLocal_sec (p : Packet) : (takeLocal p s).sec = s.sec := rfl
@[simp] theorem takeLocal_flash (p : Packet) : (takeLocal p s).flash = s.flash := rfl
@[simp] theorem takeLocal_pwr (p : Packet) : (takeLocal p s).pwr = s.pwr := rfl
@[simp] theorem takeLocal_snap (p : Packet) : (takeLocal p s).snap = s.snap := rfl
@[simp] theorem takeLocal_free (p : Packet) : (takeLocal p s).free = s.free := rfl
@[simp] theorem takeLocal_pending (p : Packet) : (takeLocal p s).pending = s.pending := rfl

/-! ### settleSnapshot -/

@[simp] theorem settleSnapshot_svc : (settleSnapshot s).svc = s.svc := by unfold settleSnapshot; split <;> rfl
@[simp] theorem settleSnapshot_err : (settleSnapshot s).err = s.err := by unfold settleSnapshot; split <;> rfl
@[simp] theorem settleSnapshot_mbx : (settleSnapshot s).mbx = s.mbx := by unfold settleSnapshot; split <;> rfl
@[simp] theorem settleSnapshot_lanes : (settleSnapshot s).lanes = s.lanes := by unfold settleSnapshot; split <;> rfl
@[simp] theorem settleSnapshot_ports : (settleSnapshot s).ports = s.ports := by unfold settleSnapshot; split <;> rfl
@[simp] theorem settleSnapshot_core : (settleSnapshot s).core = s.core := by unfold settleSnapshot; split <;> rfl
@[simp] theorem settleSnapshot_home : (settleSnapshot s).home = s.home := by unfold settleSnapshot; split <;> rfl
@[simp] theorem settleSnapshot_req : (settleSnapshot s).req = s.req := by unfold settleSnapshot; split <;> rfl
@[simp] theorem settleSnapshot_coll : (settleSnapshot s).coll = s.coll := by unfold settleSnapshot; split <;> rfl
@[simp] theorem settleSnapshot_reed : (settleSnapshot s).reed = s.reed := by unfold settleSnapshot; split <;> rfl
@[simp] theorem settleSnapshot_xlat : (settleSnapshot s).xlat = s.xlat := by unfold settleSnapshot; split <;> rfl
@[simp] theorem settleSnapshot_queues : (settleSnapshot s).queues = s.queues := by unfold settleSnapshot; split <;> rfl
@[simp] theorem settleSnapshot_host : (settleSnapshot s).host = s.host := by unfold settleSnapshot; split <;> rfl
@[simp] theorem settleSnapshot_sec : (settleSnapshot s).sec = s.sec := by unfold settleSnapshot; split <;> rfl
@[simp] theorem settleSnapshot_flash : (settleSnapshot s).flash = s.flash := by unfold settleSnapshot; split <;> rfl
@[simp] theorem settleSnapshot_pwr : (settleSnapshot s).pwr = s.pwr := by unfold settleSnapshot; split <;> rfl
@[simp] theorem settleSnapshot_free : (settleSnapshot s).free = s.free := by unfold settleSnapshot; split <;> rfl
@[simp] theorem settleSnapshot_pending : (settleSnapshot s).pending = s.pending := by unfold settleSnapshot; split <;> rfl

/-! ### tick -/

@[simp] theorem tick_err : (tick s).err = s.err := by unfold tick; split <;> simp
@[simp] theorem tick_mbx : (tick s).mbx = s.mbx := by unfold tick; split <;> simp
@[simp] theorem tick_lanes : (tick s).lanes = s.lanes := by unfold tick; split <;> simp
@[simp] theorem tick_ports : (tick s).ports = s.ports := by unfold tick; split <;> simp
@[simp] theorem tick_core : (tick s).core = s.core := by unfold tick; split <;> simp
@[simp] theorem tick_home : (tick s).home = s.home := by unfold tick; split <;> simp
@[simp] theorem tick_req : (tick s).req = s.req := by unfold tick; split <;> simp
@[simp] theorem tick_coll : (tick s).coll = s.coll := by unfold tick; split <;> simp
@[simp] theorem tick_reed : (tick s).reed = s.reed := by unfold tick; split <;> simp
@[simp] theorem tick_xlat : (tick s).xlat = s.xlat := by unfold tick; split <;> simp
@[simp] theorem tick_queues : (tick s).queues = s.queues := by unfold tick; split <;> simp
@[simp] theorem tick_host : (tick s).host = s.host := by unfold tick; split <;> simp
@[simp] theorem tick_sec : (tick s).sec = s.sec := by unfold tick; split <;> simp
@[simp] theorem tick_flash : (tick s).flash = s.flash := by unfold tick; split <;> simp
@[simp] theorem tick_pwr : (tick s).pwr = s.pwr := by unfold tick; split <;> simp
@[simp] theorem tick_free : (tick s).free = s.free := by unfold tick; split <;> simp
@[simp] theorem tick_pending : (tick s).pending = s.pending := by unfold tick; split <;> simp

/-! ### boxSignal -/

@[simp] theorem boxSignal_svc (m : Nat) : (boxSignal m s).svc = s.svc := by unfold boxSignal; split <;> simp
@[simp] theorem boxSignal_err (m : Nat) : (boxSignal m s).err = s.err := by unfold boxSignal; split <;> simp
@[simp] theorem boxSignal_lanes (m : Nat) : (boxSignal m s).lanes = s.lanes := by unfold boxSignal; split <;> simp
@[simp] theorem boxSignal_ports (m : Nat) : (boxSignal m s).ports = s.ports := by unfold boxSignal; split <;> simp
@[simp] theorem boxSignal_core (m : Nat) : (boxSignal m s).core = s.core := by unfold boxSignal; split <;> simp
@[simp] theorem boxSignal_home (m : Nat) : (boxSignal m s).home = s.home := by unfold boxSignal; split <;> simp
@[simp] theorem boxSignal_req (m : Nat) : (boxSignal m s).req = s.req := by unfold boxSignal; split <;> simp
@[simp] theorem boxSignal_coll (m : Nat) : (boxSignal m s).coll = s.coll := by unfold boxSignal; split <;> simp
@[simp] theorem boxSignal_reed (m : Nat) : (boxSignal m s).reed = s.reed := by unfold boxSignal; split <;> simp
@[simp] theorem boxSignal_xlat (m : Nat) : (boxSignal m s).xlat = s.xlat := by unfold boxSignal; split <;> simp
@[simp] theorem boxSignal_queues (m : Nat) : (boxSignal m s).queues = s.queues := by unfold boxSignal; split <;> simp
@[simp] theorem boxSignal_sec (m : Nat) : (boxSignal m s).sec = s.sec := by unfold boxSignal; split <;> simp
@[simp] theorem boxSignal_flash (m : Nat) : (boxSignal m s).flash = s.flash := by unfold boxSignal; split <;> simp
@[simp] theorem boxSignal_pwr (m : Nat) : (boxSignal m s).pwr = s.pwr := by unfold boxSignal; split <;> simp
@[simp] theorem boxSignal_snap (m : Nat) : (boxSignal m s).snap = s.snap := by unfold boxSignal; split <;> simp
@[simp] theorem boxSignal_free (m : Nat) : (boxSignal m s).free = s.free := by unfold boxSignal; split <;> simp
@[simp] theorem boxSignal_pending (m : Nat) : (boxSignal m s).pending = s.pending := by unfold boxSignal; split <;> simp

/-! ### reply -/

@[simp] theorem reply_svc (h : MHdr) (status : Nat) (result : List Byte) : (reply h status result s).svc = s.svc := by unfold reply; dsimp only; split <;> simp
@[simp] theorem reply_err (h : MHdr) (status : Nat) (result : List Byte) : (reply h status result s).err = s.err := by unfold reply; dsimp only; split <;> simp
@[simp] theorem reply_lanes (h : MHdr) (status : Nat) (result : List Byte) : (reply h status result s).lanes = s.lanes := by unfold reply; dsimp only; split <;> simp
@[simp] theorem reply_ports (h : MHdr) (status : Nat) (result : List Byte) : (reply h status result s).ports = s.ports := by unfold reply; dsimp only; split <;> simp
@[simp] theorem reply_core (h : MHdr) (status : Nat) (result : List Byte) : (reply h status result s).core = s.core := by unfold reply; dsimp only; split <;> simp
@[simp] theorem reply_home (h : MHdr) (status : Nat) (result : List Byte) : (reply h status result s).home = s.home := by unfold reply; dsimp only; split <;> simp
@[simp] theorem reply_req (h : MHdr) (status : Nat) (result : List Byte) : (reply h status result s).req = s.req := by unfold reply; dsimp only; split <;> simp
@[simp] theorem reply_coll (h : MHdr) (status : Nat) (result : List Byte) : (reply h status result s).coll = s.coll := by unfold reply; dsimp only; split <;> simp
@[simp] theorem reply_reed (h : MHdr) (status : Nat) (result : List Byte) : (reply h status result s).reed = s.reed := by unfold reply; dsimp only; split <;> simp
@[simp] theorem reply_xlat (h : MHdr) (status : Nat) (result : List Byte) : (reply h status result s).xlat = s.xlat := by unfold reply; dsimp only; split <;> simp
@[simp] theorem reply_queues (h : MHdr) (status : Nat) (result : List Byte) : (reply h status result s).queues = s.queues := by unfold reply; dsimp only; split <;> simp
@[simp] theorem reply_sec (h : MHdr) (status : Nat) (result : List Byte) : (reply h status result s).sec = s.sec := by unfold reply; dsimp only; split <;> simp
@[simp] theorem reply_flash (h : MHdr) (status : Nat) (result : List Byte) : (reply h status result s).flash = s.flash := by unfold reply; dsimp only; split <;> simp
@[simp] theorem reply_pwr (h : MHdr) (status : Nat) (result : List Byte) : (reply h status result s).pwr = s.pwr := by unfold reply; dsimp only; split <;> simp
@[simp] theorem reply_snap (h : MHdr) (status : Nat) (result : List Byte) : (reply h status result s).snap = s.snap := by unfold reply; dsimp only; split <;> simp
@[simp] theorem reply_free (h : MHdr) (status : Nat) (result : List Byte) : (reply h status result s).free = s.free := by unfold reply; dsimp only; split <;> simp
@[simp] theorem reply_pending (h : MHdr) (status : Nat) (result : List Byte) : (reply h status result s).pending = s.pending := by unfold reply; dsimp only; split <;> simp

/-! ### postEvent -/

@[simp] theorem postEvent_svc (m : Nat) (r : EvtRec) (signal : Bool) : (postEvent m r signal s).svc = s.svc := by unfold postEvent; dsimp only; split <;> [split; skip] <;> simp
@[simp] theorem postEvent_err (m : Nat) (r : EvtRec) (signal : Bool) : (postEvent m r signal s).err = s.err := by unfold postEvent; dsimp only; split <;> [split; skip] <;> simp
@[simp] theorem postEvent_lanes (m : Nat) (r : EvtRec) (signal : Bool) : (postEvent m r signal s).lanes = s.lanes := by unfold postEvent; dsimp only; split <;> [split; skip] <;> simp
@[simp] theorem postEvent_ports (m : Nat) (r : EvtRec) (signal : Bool) : (postEvent m r signal s).ports = s.ports := by unfold postEvent; dsimp only; split <;> [split; skip] <;> simp
@[simp] theorem postEvent_core (m : Nat) (r : EvtRec) (signal : Bool) : (postEvent m r signal s).core = s.core := by unfold postEvent; dsimp only; split <;> [split; skip] <;> simp
@[simp] theorem postEvent_home (m : Nat) (r : EvtRec) (signal : Bool) : (postEvent m r signal s).home = s.home := by unfold postEvent; dsimp only; split <;> [split; skip] <;> simp
@[simp] theorem postEvent_req (m : Nat) (r : EvtRec) (signal : Bool) : (postEvent m r signal s).req = s.req := by unfold postEvent; dsimp only; split <;> [split; skip] <;> simp
@[simp] theorem postEvent_coll (m : Nat) (r : EvtRec) (signal : Bool) : (postEvent m r signal s).coll = s.coll := by unfold postEvent; dsimp only; split <;> [split; skip] <;> simp
@[simp] theorem postEvent_reed (m : Nat) (r : EvtRec) (signal : Bool) : (postEvent m r signal s).reed = s.reed := by unfold postEvent; dsimp only; split <;> [split; skip] <;> simp
@[simp] theorem postEvent_xlat (m : Nat) (r : EvtRec) (signal : Bool) : (postEvent m r signal s).xlat = s.xlat := by unfold postEvent; dsimp only; split <;> [split; skip] <;> simp
@[simp] theorem postEvent_queues (m : Nat) (r : EvtRec) (signal : Bool) : (postEvent m r signal s).queues = s.queues := by unfold postEvent; dsimp only; split <;> [split; skip] <;> simp
@[simp] theorem postEvent_sec (m : Nat) (r : EvtRec) (signal : Bool) : (postEvent m r signal s).sec = s.sec := by unfold postEvent; dsimp only; split <;> [split; skip] <;> simp
@[simp] theorem postEvent_flash (m : Nat) (r : EvtRec) (signal : Bool) : (postEvent m r signal s).flash = s.flash := by unfold postEvent; dsimp only; split <;> [split; skip] <;> simp
@[simp] theorem postEvent_pwr (m : Nat) (r : EvtRec) (signal : Bool) : (postEvent m r signal s).pwr = s.pwr := by unfold postEvent; dsimp only; split <;> [split; skip] <;> simp
@[simp] theorem postEvent_snap (m : Nat) (r : EvtRec) (signal : Bool) : (postEvent m r signal s).snap = s.snap := by unfold postEvent; dsimp only; split <;> [split; skip] <;> simp
@[simp] theorem postEvent_free (m : Nat) (r : EvtRec) (signal : Bool) : (postEvent m r signal s).free = s.free := by unfold postEvent; dsimp only; split <;> [split; skip] <;> simp
@[simp] theorem postEvent_pending (m : Nat) (r : EvtRec) (signal : Bool) : (postEvent m r signal s).pending = s.pending := by unfold postEvent; dsimp only; split <;> [split; skip] <;> simp

/-! ### unsolicited -/

@[simp] theorem unsolicited_svc (m code : Nat) (data : List Byte) : (unsolicited m code data s).svc = s.svc := postEvent_svc ..
@[simp] theorem unsolicited_err (m code : Nat) (data : List Byte) : (unsolicited m code data s).err = s.err := postEvent_err ..
@[simp] theorem unsolicited_lanes (m code : Nat) (data : List Byte) : (unsolicited m code data s).lanes = s.lanes := postEvent_lanes ..
@[simp] theorem unsolicited_ports (m code : Nat) (data : List Byte) : (unsolicited m code data s).ports = s.ports := postEvent_ports ..
@[simp] theorem unsolicited_core (m code : Nat) (data : List Byte) : (unsolicited m code data s).core = s.core := postEvent_core ..
@[simp] theorem unsolicited_home (m code : Nat) (data : List Byte) : (unsolicited m code data s).home = s.home := postEvent_home ..
@[simp] theorem unsolicited_req (m code : Nat) (data : List Byte) : (unsolicited m code data s).req = s.req := postEvent_req ..
@[simp] theorem unsolicited_coll (m code : Nat) (data : List Byte) : (unsolicited m code data s).coll = s.coll := postEvent_coll ..
@[simp] theorem unsolicited_reed (m code : Nat) (data : List Byte) : (unsolicited m code data s).reed = s.reed := postEvent_reed ..
@[simp] theorem unsolicited_xlat (m code : Nat) (data : List Byte) : (unsolicited m code data s).xlat = s.xlat := postEvent_xlat ..
@[simp] theorem unsolicited_queues (m code : Nat) (data : List Byte) : (unsolicited m code data s).queues = s.queues := postEvent_queues ..
@[simp] theorem unsolicited_sec (m code : Nat) (data : List Byte) : (unsolicited m code data s).sec = s.sec := postEvent_sec ..
@[simp] theorem unsolicited_flash (m code : Nat) (data : List Byte) : (unsolicited m code data s).flash = s.flash := postEvent_flash ..
@[simp] theorem unsolicited_pwr (m code : Nat) (data : List Byte) : (unsolicited m code data s).pwr = s.pwr := postEvent_pwr ..
@[simp] theorem unsolicited_snap (m code : Nat) (data : List Byte) : (unsolicited m code data s).snap = s.snap := postEvent_snap ..
@[simp] theorem unsolicited_free (m code : Nat) (data : List Byte) : (unsolicited m code data s).free = s.free := postEvent_free ..
@[simp] theorem unsolicited_pending (m code : Nat) (data : List Byte) : (unsolicited m code data s).pending = s.pending := postEvent_pending ..

/-! ### postFinish -/

@[simp] theorem postFinish_svc (e : FrozenEvent) : (postFinish e s).svc = s.svc := by unfold postFinish; dsimp only; split <;> simp
@[simp] theorem postFinish_err (e : FrozenEvent) : (postFinish e s).err = s.err := by unfold postFinish; dsimp only; split <;> simp
@[simp] theorem postFinish_lanes (e : FrozenEvent) : (postFinish e s).lanes = s.lanes := by unfold postFinish; dsimp only; split <;> simp
@[simp] theorem postFinish_ports (e : FrozenEvent) : (postFinish e s).ports = s.ports := by unfold postFinish; dsimp only; split <;> simp
@[simp] theorem postFinish_core (e : FrozenEvent) : (postFinish e s).core = s.core := by unfold postFinish; dsimp only; split <;> simp
@[simp] theorem postFinish_home (e : FrozenEvent) : (postFinish e s).home = s.home := by unfold postFinish; dsimp only; split <;> simp
@[simp] theorem postFinish_req (e : FrozenEvent) : (postFinish e s).req = s.req := by unfold postFinish; dsimp only; split <;> simp
@[simp] theorem postFinish_coll (e : FrozenEvent) : (postFinish e s).coll = s.coll := by unfold postFinish; dsimp only; split <;> simp
@[simp] theorem postFinish_reed (e : FrozenEvent) : (postFinish e s).reed = s.reed := by unfold postFinish; dsimp only; split <;> simp
@[simp] theorem postFinish_xlat (e : FrozenEvent) : (postFinish e s).xlat = s.xlat := by unfold postFinish; dsimp only; split <;> simp
@[simp] theorem postFinish_queues (e : FrozenEvent) : (postFinish e s).queues = s.queues := by unfold postFinish; dsimp only; split <;> simp
@[simp] theorem postFinish_sec (e : FrozenEvent) : (postFinish e s).sec = s.sec := by unfold postFinish; dsimp only; split <;> simp
@[simp] theorem postFinish_flash (e : FrozenEvent) : (postFinish e s).flash = s.flash := by unfold postFinish; dsimp only; split <;> simp
@[simp] theorem postFinish_pwr (e : FrozenEvent) : (postFinish e s).pwr = s.pwr := by unfold postFinish; dsimp only; split <;> simp
@[simp] theorem postFinish_snap (e : FrozenEvent) : (postFinish e s).snap = s.snap := by unfold postFinish; dsimp only; split <;> simp
@[simp] theorem postFinish_free (e : FrozenEvent) : (postFinish e s).free = s.free := by unfold postFinish; dsimp only; split <;> simp
@[simp] theorem postFinish_pending (e : FrozenEvent) : (postFinish e s).pending = s.pending := by unfold postFinish; dsimp only; split <;> simp

/-! ### finishEvent -/

@[simp] theorem finishEvent_svc (h : MHdr) (op status : Nat) (result : List Byte) : (finishEvent h op status result s).svc = s.svc := by unfold finishEvent; dsimp only; split <;> simp
@[simp] theorem finishEvent_err (h : MHdr) (op status : Nat) (result : List Byte) : (finishEvent h op status result s).err = s.err := by unfold finishEvent; dsimp only; split <;> simp
@[simp] theorem finishEvent_lanes (h : MHdr) (op status : Nat) (result : List Byte) : (finishEvent h op status result s).lanes = s.lanes := by unfold finishEvent; dsimp only; split <;> simp
@[simp] theorem finishEvent_ports (h : MHdr) (op status : Nat) (result : List Byte) : (finishEvent h op status result s).ports = s.ports := by unfold finishEvent; dsimp only; split <;> simp
@[simp] theorem finishEvent_core (h : MHdr) (op status : Nat) (result : List Byte) : (finishEvent h op status result s).core = s.core := by unfold finishEvent; dsimp only; split <;> simp
@[simp] theorem finishEvent_home (h : MHdr) (op status : Nat) (result : List Byte) : (finishEvent h op status result s).home = s.home := by unfold finishEvent; dsimp only; split <;> simp
@[simp] theorem finishEvent_req (h : MHdr) (op status : Nat) (result : List Byte) : (finishEvent h op status result s).req = s.req := by unfold finishEvent; dsimp only; split <;> simp
@[simp] theorem finishEvent_coll (h : MHdr) (op status : Nat) (result : List Byte) : (finishEvent h op status result s).coll = s.coll := by unfold finishEvent; dsimp only; split <;> simp
@[simp] theorem finishEvent_reed (h : MHdr) (op status : Nat) (result : List Byte) : (finishEvent h op status result s).reed = s.reed := by unfold finishEvent; dsimp only; split <;> simp
@[simp] theorem finishEvent_xlat (h : MHdr) (op status : Nat) (result : List Byte) : (finishEvent h op status result s).xlat = s.xlat := by unfold finishEvent; dsimp only; split <;> simp
@[simp] theorem finishEvent_queues (h : MHdr) (op status : Nat) (result : List Byte) : (finishEvent h op status result s).queues = s.queues := by unfold finishEvent; dsimp only; split <;> simp
@[simp] theorem finishEvent_sec (h : MHdr) (op status : Nat) (result : List Byte) : (finishEvent h op status result s).sec = s.sec := by unfold finishEvent; dsimp only; split <;> simp
@[simp] theorem finishEvent_flash (h : MHdr) (op status : Nat) (result : List Byte) : (finishEvent h op status result s).flash = s.flash := by unfold finishEvent; dsimp only; split <;> simp
@[simp] theorem finishEvent_pwr (h : MHdr) (op status : Nat) (result : List Byte) : (finishEvent h op status result s).pwr = s.pwr := by unfold finishEvent; dsimp only; split <;> simp
@[simp] theorem finishEvent_snap (h : MHdr) (op status : Nat) (result : List Byte) : (finishEvent h op status result s).snap = s.snap := by unfold finishEvent; dsimp only; split <;> simp
@[simp] theorem finishEvent_free (h : MHdr) (op status : Nat) (result : List Byte) : (finishEvent h op status result s).free = s.free := by unfold finishEvent; dsimp only; split <;> simp
@[simp] theorem finishEvent_pending (h : MHdr) (op status : Nat) (result : List Byte) : (finishEvent h op status result s).pending = s.pending := by unfold finishEvent; dsimp only; split <;> simp

/-! ### finish -/

@[simp] theorem finish_svc (via : Via) (h : MHdr) (op status : Nat) (result : List Byte) : (finish via h op status result s).svc = s.svc := by cases via <;> simp [finish]
@[simp] theorem finish_err (via : Via) (h : MHdr) (op status : Nat) (result : List Byte) : (finish via h op status result s).err = s.err := by cases via <;> simp [finish]
@[simp] theorem finish_lanes (via : Via) (h : MHdr) (op status : Nat) (result : List Byte) : (finish via h op status result s).lanes = s.lanes := by cases via <;> simp [finish]
@[simp] theorem finish_ports (via : Via) (h : MHdr) (op status : Nat) (result : List Byte) : (finish via h op status result s).ports = s.ports := by cases via <;> simp [finish]
@[simp] theorem finish_core (via : Via) (h : MHdr) (op status : Nat) (result : List Byte) : (finish via h op status result s).core = s.core := by cases via <;> simp [finish]
@[simp] theorem finish_home (via : Via) (h : MHdr) (op status : Nat) (result : List Byte) : (finish via h op status result s).home = s.home := by cases via <;> simp [finish]
@[simp] theorem finish_req (via : Via) (h : MHdr) (op status : Nat) (result : List Byte) : (finish via h op status result s).req = s.req := by cases via <;> simp [finish]
@[simp] theorem finish_coll (via : Via) (h : MHdr) (op status : Nat) (result : List Byte) : (finish via h op status result s).coll = s.coll := by cases via <;> simp [finish]
@[simp] theorem finish_reed (via : Via) (h : MHdr) (op status : Nat) (result : List Byte) : (finish via h op status result s).reed = s.reed := by cases via <;> simp [finish]
@[simp] theorem finish_xlat (via : Via) (h : MHdr) (op status : Nat) (result : List Byte) : (finish via h op status result s).xlat = s.xlat := by cases via <;> simp [finish]
@[simp] theorem finish_queues (via : Via) (h : MHdr) (op status : Nat) (result : List Byte) : (finish via h op status result s).queues = s.queues := by cases via <;> simp [finish]
@[simp] theorem finish_sec (via : Via) (h : MHdr) (op status : Nat) (result : List Byte) : (finish via h op status result s).sec = s.sec := by cases via <;> simp [finish]
@[simp] theorem finish_flash (via : Via) (h : MHdr) (op status : Nat) (result : List Byte) : (finish via h op status result s).flash = s.flash := by cases via <;> simp [finish]
@[simp] theorem finish_pwr (via : Via) (h : MHdr) (op status : Nat) (result : List Byte) : (finish via h op status result s).pwr = s.pwr := by cases via <;> simp [finish]
@[simp] theorem finish_snap (via : Via) (h : MHdr) (op status : Nat) (result : List Byte) : (finish via h op status result s).snap = s.snap := by cases via <;> simp [finish]
@[simp] theorem finish_free (via : Via) (h : MHdr) (op status : Nat) (result : List Byte) : (finish via h op status result s).free = s.free := by cases via <;> simp [finish]
@[simp] theorem finish_pending (via : Via) (h : MHdr) (op status : Nat) (result : List Byte) : (finish via h op status result s).pending = s.pending := by cases via <;> simp [finish]

/-! ### accept -/

@[simp] theorem accept_svc (via : Via) (h : MHdr) : (accept via h s).svc = s.svc := by cases via <;> simp [accept]
@[simp] theorem accept_err (via : Via) (h : MHdr) : (accept via h s).err = s.err := by cases via <;> simp [accept]
@[simp] theorem accept_lanes (via : Via) (h : MHdr) : (accept via h s).lanes = s.lanes := by cases via <;> simp [accept]
@[simp] theorem accept_ports (via : Via) (h : MHdr) : (accept via h s).ports = s.ports := by cases via <;> simp [accept]
@[simp] theorem accept_core (via : Via) (h : MHdr) : (accept via h s).core = s.core := by cases via <;> simp [accept]
@[simp] theorem accept_home (via : Via) (h : MHdr) : (accept via h s).home = s.home := by cases via <;> simp [accept]
@[simp] theorem accept_req (via : Via) (h : MHdr) : (accept via h s).req = s.req := by cases via <;> simp [accept]
@[simp] theorem accept_coll (via : Via) (h : MHdr) : (accept via h s).coll = s.coll := by cases via <;> simp [accept]
@[simp] theorem accept_reed (via : Via) (h : MHdr) : (accept via h s).reed = s.reed := by cases via <;> simp [accept]
@[simp] theorem accept_xlat (via : Via) (h : MHdr) : (accept via h s).xlat = s.xlat := by cases via <;> simp [accept]
@[simp] theorem accept_queues (via : Via) (h : MHdr) : (accept via h s).queues = s.queues := by cases via <;> simp [accept]
@[simp] theorem accept_sec (via : Via) (h : MHdr) : (accept via h s).sec = s.sec := by cases via <;> simp [accept]
@[simp] theorem accept_flash (via : Via) (h : MHdr) : (accept via h s).flash = s.flash := by cases via <;> simp [accept]
@[simp] theorem accept_pwr (via : Via) (h : MHdr) : (accept via h s).pwr = s.pwr := by cases via <;> simp [accept]
@[simp] theorem accept_snap (via : Via) (h : MHdr) : (accept via h s).snap = s.snap := by cases via <;> simp [accept]
@[simp] theorem accept_free (via : Via) (h : MHdr) : (accept via h s).free = s.free := by cases via <;> simp [accept]
@[simp] theorem accept_pending (via : Via) (h : MHdr) : (accept via h s).pending = s.pending := by cases via <;> simp [accept]

/-! ### beginTrans -/

@[simp] theorem beginTrans_svc (k : FnKey) (h : MHdr) (op : Nat) : (beginTrans k h op s).svc = s.svc := rfl
@[simp] theorem beginTrans_err (k : FnKey) (h : MHdr) (op : Nat) : (beginTrans k h op s).err = s.err := rfl
@[simp] theorem beginTrans_lanes (k : FnKey) (h : MHdr) (op : Nat) : (beginTrans k h op s).lanes = s.lanes := rfl
@[simp] theorem beginTrans_ports (k : FnKey) (h : MHdr) (op : Nat) : (beginTrans k h op s).ports = s.ports := rfl
@[simp] theorem beginTrans_core (k : FnKey) (h : MHdr) (op : Nat) : (beginTrans k h op s).core = s.core := rfl
@[simp] theorem beginTrans_home (k : FnKey) (h : MHdr) (op : Nat) : (beginTrans k h op s).home = s.home := rfl
@[simp] theorem beginTrans_req (k : FnKey) (h : MHdr) (op : Nat) : (beginTrans k h op s).req = s.req := rfl
@[simp] theorem beginTrans_coll (k : FnKey) (h : MHdr) (op : Nat) : (beginTrans k h op s).coll = s.coll := rfl
@[simp] theorem beginTrans_reed (k : FnKey) (h : MHdr) (op : Nat) : (beginTrans k h op s).reed = s.reed := rfl
@[simp] theorem beginTrans_xlat (k : FnKey) (h : MHdr) (op : Nat) : (beginTrans k h op s).xlat = s.xlat := rfl
@[simp] theorem beginTrans_queues (k : FnKey) (h : MHdr) (op : Nat) : (beginTrans k h op s).queues = s.queues := rfl
@[simp] theorem beginTrans_host (k : FnKey) (h : MHdr) (op : Nat) : (beginTrans k h op s).host = s.host := rfl
@[simp] theorem beginTrans_sec (k : FnKey) (h : MHdr) (op : Nat) : (beginTrans k h op s).sec = s.sec := rfl
@[simp] theorem beginTrans_flash (k : FnKey) (h : MHdr) (op : Nat) : (beginTrans k h op s).flash = s.flash := rfl
@[simp] theorem beginTrans_pwr (k : FnKey) (h : MHdr) (op : Nat) : (beginTrans k h op s).pwr = s.pwr := rfl
@[simp] theorem beginTrans_snap (k : FnKey) (h : MHdr) (op : Nat) : (beginTrans k h op s).snap = s.snap := rfl
@[simp] theorem beginTrans_free (k : FnKey) (h : MHdr) (op : Nat) : (beginTrans k h op s).free = s.free := rfl
@[simp] theorem beginTrans_pending (k : FnKey) (h : MHdr) (op : Nat) : (beginTrans k h op s).pending = s.pending := rfl

/-! ### dropTrans -/

@[simp] theorem dropTrans_svc (k : FnKey) : (dropTrans k s).svc = s.svc := rfl
@[simp] theorem dropTrans_err (k : FnKey) : (dropTrans k s).err = s.err := rfl
@[simp] theorem dropTrans_lanes (k : FnKey) : (dropTrans k s).lanes = s.lanes := rfl
@[simp] theorem dropTrans_ports (k : FnKey) : (dropTrans k s).ports = s.ports := rfl
@[simp] theorem dropTrans_core (k : FnKey) : (dropTrans k s).core = s.core := rfl
@[simp] theorem dropTrans_home (k : FnKey) : (dropTrans k s).home = s.home := rfl
@[simp] theorem dropTrans_req (k : FnKey) : (dropTrans k s).req = s.req := rfl
@[simp] theorem dropTrans_coll (k : FnKey) : (dropTrans k s).coll = s.coll := rfl
@[simp] theorem dropTrans_reed (k : FnKey) : (dropTrans k s).reed = s.reed := rfl
@[simp] theorem dropTrans_xlat (k : FnKey) : (dropTrans k s).xlat = s.xlat := rfl
@[simp] theorem dropTrans_queues (k : FnKey) : (dropTrans k s).queues = s.queues := rfl
@[simp] theorem dropTrans_host (k : FnKey) : (dropTrans k s).host = s.host := rfl
@[simp] theorem dropTrans_sec (k : FnKey) : (dropTrans k s).sec = s.sec := rfl
@[simp] theorem dropTrans_flash (k : FnKey) : (dropTrans k s).flash = s.flash := rfl
@[simp] theorem dropTrans_pwr (k : FnKey) : (dropTrans k s).pwr = s.pwr := rfl
@[simp] theorem dropTrans_snap (k : FnKey) : (dropTrans k s).snap = s.snap := rfl
@[simp] theorem dropTrans_free (k : FnKey) : (dropTrans k s).free = s.free := rfl
@[simp] theorem dropTrans_pending (k : FnKey) : (dropTrans k s).pending = s.pending := rfl

/-! ### restartTrans -/

@[simp] theorem restartTrans_svc (k : FnKey) : (restartTrans k s).svc = s.svc := rfl
@[simp] theorem restartTrans_err (k : FnKey) : (restartTrans k s).err = s.err := rfl
@[simp] theorem restartTrans_lanes (k : FnKey) : (restartTrans k s).lanes = s.lanes := rfl
@[simp] theorem restartTrans_ports (k : FnKey) : (restartTrans k s).ports = s.ports := rfl
@[simp] theorem restartTrans_core (k : FnKey) : (restartTrans k s).core = s.core := rfl
@[simp] theorem restartTrans_home (k : FnKey) : (restartTrans k s).home = s.home := rfl
@[simp] theorem restartTrans_req (k : FnKey) : (restartTrans k s).req = s.req := rfl
@[simp] theorem restartTrans_coll (k : FnKey) : (restartTrans k s).coll = s.coll := rfl
@[simp] theorem restartTrans_reed (k : FnKey) : (restartTrans k s).reed = s.reed := rfl
@[simp] theorem restartTrans_xlat (k : FnKey) : (restartTrans k s).xlat = s.xlat := rfl
@[simp] theorem restartTrans_queues (k : FnKey) : (restartTrans k s).queues = s.queues := rfl
@[simp] theorem restartTrans_host (k : FnKey) : (restartTrans k s).host = s.host := rfl
@[simp] theorem restartTrans_sec (k : FnKey) : (restartTrans k s).sec = s.sec := rfl
@[simp] theorem restartTrans_flash (k : FnKey) : (restartTrans k s).flash = s.flash := rfl
@[simp] theorem restartTrans_pwr (k : FnKey) : (restartTrans k s).pwr = s.pwr := rfl
@[simp] theorem restartTrans_snap (k : FnKey) : (restartTrans k s).snap = s.snap := rfl
@[simp] theorem restartTrans_free (k : FnKey) : (restartTrans k s).free = s.free := rfl
@[simp] theorem restartTrans_pending (k : FnKey) : (restartTrans k s).pending = s.pending := rfl

/-- Held records change the mailboxes and the host alone. -/
theorem drainEvents_frame (m n : Nat) (s : State) : drainEvents m n s = { s with mbx := (drainEvents m n s).mbx, host := (drainEvents m n s).host } := by
  induction n generalizing s with
  | zero => rfl
  | succ n ih =>
    unfold drainEvents
    split
    · rfl
    · split
      · rw [ih]
        split <;> simp
      · rfl

end Sys2Proof.Machine
end

