-- ==== Sys2Proof/WellFormed.lean ====
section
/-! DEFINITION. Which commands can be given at all: every operand that names a unit of the part (15 R417) names one that exists, and byte
lists have the length of the thing they carry. A value that a rule refuses (a mailbox argument out of range) is well-formed:
the rule refuses it. -/

namespace Sys2Proof

/-- One of the part's ports: x1 or wide ports 0 to 511, ring-east 512, ring-west 528 (15 R417). -/
def wfPort (p : Nat) : Bool := decide (p < 512) || p == 512 || p == 528
/-- A port that a packet can arrive on: a port, or 0xFFFF for the part's own agents (06 R142). -/
def wfFrom (p : Nat) : Bool := wfPort p || p == 0xFFFF
/-- One of the 560 serial lanes (15 R417). -/
def wfLane (l : Nat) : Bool := decide (l < 560)
/-- One of the eight mailboxes (13 R378). -/
def MHdr.wf (h : MHdr) : Bool := decide (h.mbx < 8)
/-- One of the 16 clusters and its 4 contexts (09 R249). -/
def CtxId.wf (x : CtxId) : Bool := decide (x.cluster < 16) && decide (x.ctx < 4)
def Issue.wf (x : Issue) : Bool := x.id.wf
/-- A packet has at most its framed bytes (04 R82). -/
def Packet.wf (p : Packet) : Bool := decide (p.side.length ≤ 16) && decide (p.data.length ≤ 2048)
/-- A flit has 15 granules of payload (03 R55). -/
def Flit.wf (f : Flit) : Bool := f.pay.length == 15
/-- Temperatures of the four HBM stacks (16 R453). -/
def Temps.wf (t : Temps) : Bool := t.hbm.length == 4

/-- The command's operands name what exists. -/
def Instr.wf (i : Instr) : Bool :=
  match i with
  | .deviceInfo h => h.wf
  | .timeExchange h => h.wf
  | .cmdResultRead h _ => h.wf
  | .agentTenantsSet h _ _ => h.wf
  | .fmHeartbeat h => h.wf
  | .portEnable h _ _ _ => h.wf
  | .portDisable h _ => h.wf
  | .portStatusRead h _ => h.wf
  | .laneTestStart h _ _ _ => h.wf
  | .laneTestRead h _ _ => h.wf
  | .laneLoopbackSet h _ _ _ => h.wf
  | .sprayMaskSet h _ _ => h.wf
  | .nodeAssign h _ _ _ => h.wf
  | .reqTimeoutSet h _ => h.wf
  | .hbmExportSet h _ => h.wf
  | .hotLineRead h => h.wf
  | .arbModeSet h _ _ => h.wf
  | .arbCountersRead h _ _ => h.wf
  | .redProfileSet h _ _ _ _ _ _ => h.wf
  | .groupInstall h _ => h.wf
  | .groupRemove h _ => h.wf
  | .groupMemberRemove h _ _ _ => h.wf
  | .opStart h _ => h.wf
  | .opStatusRead h _ => h.wf
  | .redSummaryRead h => h.wf
  | .memberArm h _ => h.wf
  | .partitionSet h _ _ _ => h.wf
  | .programLoad h _ _ _ _ => h.wf
  | .programUnload h _ => h.wf
  | .ballastSet h _ _ _ => h.wf
  | .ballastRead h => h.wf
  | .windowSet h _ _ => h.wf
  | .windowDisable h _ => h.wf
  | .windowRead h _ => h.wf
  | .xlatRegionSet h _ _ => h.wf
  | .xlatInfoRead h => h.wf
  | .xlatUpdate h _ _ => h.wf
  | .xlatInvalidate h _ _ _ _ => h.wf
  | .faultRingSet h _ _ _ => h.wf
  | .faultResolve h _ _ => h.wf
  | .qpCreate h _ => h.wf
  | .qpReset h _ => h.wf
  | .qpDestroy h _ => h.wf
  | .ringRouteSet h _ _ => h.wf
  | .markerSet h _ _ _ _ _ => h.wf
  | .policerSet h _ _ _ _ => h.wf
  | .gateListSet h _ _ _ => h.wf
  | .shaperSet h _ _ _ _ _ => h.wf
  | .queueSampleSet h _ => h.wf
  | .queueSamplesRead h _ _ _ => h.wf
  | .tenantCreate h _ _ => h.wf
  | .tenantRevoke h _ _ => h.wf
  | .keyAgree h _ _ _ _ => h.wf
  | .ideSessionOpen h _ _ => h.wf
  | .attestService h _ _ _ => h.wf
  | .attestFoundation h _ _ => h.wf
  | .regionDigest h _ _ _ => h.wf
  | .certChainRead h _ => h.wf
  | .errLogRead h _ _ _ _ => h.wf
  | .unitReset h _ _ => h.wf
  | .hbmPageRetire h _ _ => h.wf
  | .fwStage h _ _ _ => h.wf
  | .fwActivate h => h.wf
  | .pwrCapSet h _ _ => h.wf
  | .pwrRead h => h.wf
  | .thermalRead h => h.wf
  | .getEventRecords _ => true
  | .clearEventRecords _ _ => true
  | .getEventInterruptPolicy => true
  | .setEventInterruptPolicy _ => true
  | .getSupportedLogs => true
  | .getLog _ _ => true
  | .identifyMemoryDevice => true
  | .getHealthInfo => true
  | .hdmDecoderCommit dec _ _ _ _ => decide (dec < 4)
  | .memRd _ => true
  | .memRdData _ => true
  | .memWr _ d => d.length == 64
  | .memWrPtl _ d _ => d.length == 64
  | .memSpecRd _ => true
  | .memInv _ => true
  | .memInvNt _ => true
  | .cxlHotReset => true
  | .perstAssert => true
  | .ideFail n => decide (n < 2)
  | .ideKmMessage n _ _ => decide (n < 2)
  | .go m => decide (m < 8)
  | .mbxEvtHead m _ => decide (m < 8)
  | .dbFaultHead _ => true
  | .dbSqTail q _ => decide (q < 65536)
  | .dbCqHead q _ => decide (q < 65536)
  | .timeNowLowRead _ => true
  | .registerWrite _ _ _ _ => true
  | .signalDetect p l => wfPort p && wfLane l
  | .trainingFrame p l _ _ => wfPort p && wfLane l
  | .trainingBoundExpiry p => wfPort p
  | .qualificationEnd p _ => wfPort p
  | .alignmentMarker l _ _ => wfLane l
  | .markerLockLoss l => wfLane l
  | .backgroundAdaptation l _ _ _ _ _ => wfLane l
  | .spareSubstitution p => wfPort p
  | .los p l => wfPort p && wfLane l
  | .flushComplete p => wfPort p
  | .dataFlit p f => wfPort p && f.wf
  | .crcFailedFlit x => wfPort x.port && (match x.word with | some x => wfLane x.lane && x.levels.length == 2720 | none => true)
  | .idleControlFlit p f => wfPort p && f.wf
  | .init p f => wfPort p && f.wf
  | .initAck p f => wfPort p && f.wf
  | .loopPing p f => wfPort p && f.wf
  | .loopEcho p f => wfPort p && f.wf
  | .widthChange p f => wfPort p && f.wf
  | .narrowComplete p _ => wfPort p
  | .down p f => wfPort p && f.wf
  | .portUp p => wfPort p
  | .linkRetryTimer p => wfPort p
  | .retryBufferTimer p => wfPort p
  | .xoffWatchdog p ch => wfPort p && decide (ch < 6)
  | .packetAdmission p vc => wfFrom p && decide (vc < 6)
  | .coreCycle _ => true
  | .egressDecision p => wfPort p
  | .residueService line p => decide (line < 64) && wfPort p
  | .deliveryNotice _ _ _ => true
  | .rdLine p k _ => wfFrom p && k.wf
  | .wrLine p k => wfFrom p && k.wf
  | .wrMasked p k _ => wfFrom p && k.wf
  | .atomic p k _ => wfFrom p && k.wf
  | .rdData p k => wfFrom p && k.wf
  | .atomicData p k => wfFrom p && k.wf
  | .cmpl p k => wfFrom p && k.wf
  | .releaseLand src _ _ => decide (src < 8192)
  | .holeWriteOff src => decide (src < 8192)
  | .windowStateDrop src => decide (src < 8192)
  | .requestTimeout _ => true
  | .hotLineWindow => true
  | .redPut p k _ => wfFrom p && k.wf
  | .redResInjection _ _ _ => true
  | .redCredit p k => wfFrom p && k.wf
  | .redRes p k => wfFrom p && k.wf
  | .opDone p k => wfFrom p && k.wf
  | .opAbort p k => wfFrom p && k.wf
  | .ringPart p k => wfFrom p && k.pkt.wf
  | .ringRes p k => wfFrom p && k.wf
  | .chunkStall _ _ => true
  | .operationTimeout _ => true
  | .memberOperationTimeout _ => true
  | .abortSettleEnd _ _ => true
  | .msgSend p k _ => wfFrom p && k.wf
  | .msgAck p k => wfFrom p && k.wf
  | .trunkMessageArrival p k => (p == 512 || p == 528) && k.wf
  | .msgRto _ _ => true
  | .msgLifetime _ _ => true
  | .maskSet p k => wfFrom p && k.wf
  | .maskAck p k => wfFrom p && k.wf
  | .maskTimeout _ => true
  | .keyMsg p k => wfFrom p && k.wf
  | .keyNotArmed _ _ _ => true
  | .keyTimeout _ _ _ => true
  | .translationFault c i x _ _ _ => if c then decide (i < 16) && decide (x < 4) else decide (i < 32)
  | .faultTimeout c i x _ _ => if c then decide (i < 16) && decide (x < 4) else decide (i < 32)
  | .xlatInvalidateComplete _ _ _ _ => true
  | .nop q _ => decide (q < 65536)
  | .copy q _ => decide (q < 65536)
  | .fill q _ => decide (q < 65536)
  | .atomicDescriptor q _ => decide (q < 65536)
  | .compute q _ => decide (q < 65536)
  | .completionRecord q _ => decide (q < 65536)
  | .qpStopComplete q => decide (q < 65536)
  | .add x _ => x.wf
  | .sub x _ => x.wf
  | .mul x _ => x.wf
  | .and x _ => x.wf
  | .or x _ => x.wf
  | .xor x _ => x.wf
  | .shl x _ => x.wf
  | .shr x _ => x.wf
  | .sra x _ => x.wf
  | .addi x _ => x.wf
  | .ld x _ _ => x.wf
  | .st x _ => x.wf
  | .beq x _ => x.wf
  | .bne x _ => x.wf
  | .blt x _ => x.wf
  | .loop x _ => x.wf
  | .halt x _ => x.wf
  | .fault x _ => x.wf
  | .vld x _ _ => x.wf
  | .vst x _ => x.wf
  | .vadd x _ => x.wf
  | .vsub x _ => x.wf
  | .vmul x _ => x.wf
  | .vmax x _ => x.wf
  | .vmin x _ => x.wf
  | .vfma x _ => x.wf
  | .vdiv x _ => x.wf
  | .vsqrt x _ => x.wf
  | .vsgn x _ => x.wf
  | .vsel x _ => x.wf
  | .vcvt x _ => x.wf
  | .vblk x _ => x.wf
  | .xclr x _ => x.wf
  | .xadd x _ => x.wf
  | .xrnd x _ => x.wf
  | .xhad x _ => x.wf
  | .mmul x _ => x.wf
  | .mscl x _ => x.wf
  | .hrot x _ => x.wf
  | .hld x _ _ => x.wf
  | .hst x _ => x.wf
  | .waitt x _ => x.wf
  | .waitc x _ => x.wf
  | .emit x _ => x.wf
  | .idle x _ => x.wf
  | .fence x _ => x.wf
  | .streamComplete x _ => x.wf
  | .clusterReload c => decide (c < 16)
  | .unitResetEnd _ _ _ => true
  | .exportTransitionEnd => true
  | .windowDisableComplete w => decide (w < 16)
  | .regionDigestComplete _ => true
  | .ideSessionComplete => true
  | .fwVerifyEnd _ _ _ => true
  | .handoverEnd _ => true
  | .drainFenceEnd _ => true
  | .revocationComplete _ => true
  | .gateEntryChange p => p == 512 || p == 528
  | .gateListTakeover p => p == 512 || p == 528
  | .queueSampleWindow p q => (p == 512 || p == 528) && decide (q < 8)
  | .controlInterval _ => true
  | .heartbeatMiss => true
  | .fwWatchdog _ => true
  | .inputApplied _ => true
  | .inputLoss _ => true
  | .powerGood => true
  | .ready _ => true
  | .eoffAssert => true
  | .eoffRelease => true
  | .brakeAssert => true
  | .brakeRelease => true
  | .modResetAssert => true
  | .modResetRelease => true
  | .prsntEarlyDeassert => true
  | .prsntEarlyReassert => true
  | .thermalThrottle t => t.wf
  | .thermalLimitTick t => t.wf
  | .thermalTrip t => t.wf
  | .tripRestart => true
  | .causewayOpen => true
  | .perstRelease => true
  | .cxlLinkUp => true
  | .powerGoodWithdrawn => true
  | .coarseningSnapshot => true
  | .idleMarkEnd x => x.wf
  | .timeNowHighRead _ => true

end Sys2Proof
end

