-- ==== Sys2Proof/Tests/Slice0.lean ====
section
/-! SUPPORT. Small tests of the model: terms that its checks refuse, single steps with results worked out from the spec's rules, and for every statement
states and operands that meet its hypotheses. -/

namespace Sys2Proof.Tests

-- One theorem is checked after the other, which keeps the memory of the check small.
set_option Elab.async false

open Sys2Proof Sys2Proof.Machine

/-! ### States and operands that the tests share -/

/-- A command's head on a mailbox. -/
def hdr (m : Nat) : MHdr := { mbx := m, seq := 7, notify := false, flags := 0 }
/-- A READY plane of pair 0, plane 0. -/
def plane : State := { svc := { mod := .ready, node := some (mkNode 0 true 0), now := 5000000000 }, host := { linkUp := true, perst := false } }
/-- A READY bridge of pair 0, end-point 0. -/
def bridge : State := { svc := { mod := .ready, bridge := true, node := some (mkNode 0 false 0), now := 5000000000 }, host := { linkUp := true, perst := false } }
/-- A port in a phase. -/
def phased (p : Nat) (f : PortPhase) (s : State) : State := s.onPort p (fun q => { q with enabled := true, phase := f, coreDown := false })
/-- A flit of zeros with a type, a parameter and FSEQ 0. -/
def ctl (t v : Nat) : Flit := mkFlit (BitVec.ofNat 16 (0x8000 + 0x1000 * t)) [BitVec.ofNat 128 v] 0
/-- A whole packet of a source, with changes. -/
def pk (o : Nat) (src dst : Node) (f : Packet → Packet) : Packet := (f (blank o src dst)).framed
/-- Records of another unit join nothing. -/
theorem joinLog_replicate (n unit code t : Nat) (r : LogRec) (h : (r.entry.unit == unit) = false) : joinLog unit code t (List.replicate n r) = none := by
  induction n with
  | zero => rfl
  | succ n ih => simp [List.replicate_succ, joinLog, h, ih]
/-- A program of one chunk of 32 elements on plane 0, of a kind. -/
def prog (kind : Nat) : ProgParams :=
  { kind := kind, phase := 0, group := 9, p := 1, pvoff := 0, chunkLog2 := 12, w := 1, len := 32, root := 0, fin := 0, fout := 0, op := 0,
    ordered := false, sr := false, sat := false, rotIn := false, rotOut := false, orderRule := 0, optimizer := 0, k := 0, start := 0,
    weighted := false, seed := 0, planes := [0], ring := [], ntotal := 0, gscale := 0, stateFva := 0, tagFva := 0, stageFva := 0, stallMs := 1,
    auxFva := 0, rankTiles := 0 }
/-- The members of group 9, with room for the results. -/
def members : List MemberRec := [{ member := 3, resultLen := 128, resultBase := 0 }, { member := 4, resultLen := 128, resultBase := 0 }]
/-- A group entry. -/
def entry : GroupEntry := { gen := 1, tenant := 0, members := members, digest := 0 }
/-- A loaded image of the program, 8 KiB of state and 16 KiB of work. -/
def image (kind : Nat) : Image :=
  { loadCount := 0, digest := 0, cls := 0, minClusters := 1, text := [0], entry := 0, scrState := 8192, scrReorder := 0, scrRing := 0, scrWork := 16384,
    consts := [], compiler := [], prog := prog kind, epoch := 1 }
/-- An operation of it with an open chunk. -/
def oper (kind : Nat) (f : Op → Op) : Op :=
  f { opid := 5, progId := 2, prog := prog kind, tenant := 0, gen := 1, phase := .running, timeout := 1000000, startAt := 4999000000, opened := 1,
      chunks := [{ idx := 0, last := 4999000000 }] }
/-- A plane with the group, the partition, the image and an operation; its tenant reaches its memory. -/
def opPlane (o : Op) : State :=
  { plane with
    coll := { groups := [(9, entry)], ops := [(9, o)] }
    reed := { parts := [(2, { mask := 1, tenant := 0 })], images := [(2, image o.prog.kind)] }
    xlat := { src := [{ tenant := 0, addr := 0, entry := BitVec.ofNat 64 (2 ^ 49 + 0xF) }], tgt := [{ tenant := 0, addr := 0, entry := 0xF }] }
    sec := { tenants := [(0, { conf := false, memKey := 1 })] } }
/-- A packet of the operation. -/
def collPk (o : Nat) (src dst : Node) (low : Nat) (f : Packet → Packet) : Packet :=
  pk o src dst (fun p => f { p with oparg := BitVec.ofNat 32 (low + 9 * 2 ^ 16 + 2 ^ 28), offset := 5 * 2 ^ 24 })
/-- A member of the operation at a bridge. -/
def armed (f : MemberOp → MemberOp) : State :=
  { bridge with coll := { members := [(9, f { opid := 5, gen := 1, tenant := 0, members := members, position := 0, prog := prog 0 })] } }
/-- The same plane with context 0 of cluster 0 at work on the operation. -/
def ctxPlane (f : Ctx → Ctx) (o : Op := oper 0 id) : State :=
  (opPlane o).onCtx { cluster := 0, ctx := 0 } (fun _ => f { job := some (.op 9), image := 2, pages := List.range 6 })
/-- Context 0 of cluster 0, and its issue of an instruction. -/
def ctx0 : CtxId := { cluster := 0, ctx := 0 }
def iss0 : Issue := { cluster := 0, ctx := 0 }
/-- The same plane, whose image has this text. -/
def textPlane (text : List (BitVec 64)) (f : Ctx → Ctx := id) (o : Op := oper 0 id) : State :=
  (ctxPlane f o).onReed (fun r => { r with images := [(2, { image o.prog.kind with text := text })] })
/-- The least class 1 image: its header, the least parameter block and one word of text. -/
def leastImage : List Byte := [0x54, 0x4F, 0x5A, 0x4C, 1, 0, 1, 1, 8, 0, 0, 0] ++ List.replicate 52 0 ++ [0, 0, 0, 0, 1, 0, 12, 0, 1] ++ List.replicate 255 0
/-- The same plane, which holds the image's bytes. -/
def imagePlane : State :=
  { opPlane (oper 0 id) with home := { hbm := memSetN [] 0 leastImage }, reed := { parts := [(2, { mask := 1, tenant := 0 })] } }
/-- A queue whose ring has one descriptor, at fabric address 0. -/
def ringQp : Qp := { tenant := 5, sqFva := 0, sqLog := 6, cqFva := 0, cqLog := 6, lineMode := false, dbFva := 0, mover := 31, vec := 0, sqTail := 1 }
/-- A plane with that queue, whose ring lies in its own HBM, in a channel that retrains. -/
def ringWaits : State :=
  { plane with
    svc := { plane.svc with hbmResetting := [channelOf 0] }
    xlat := { src := [{ tenant := 5, addr := 0, entry := BitVec.ofNat 64 (2 ^ 49 + 0xF) }], tgt := [{ tenant := 5, addr := 0, entry := 0xF }] }
    queues := { qps := [(7, ringQp)] } }
/-- The mover's read of that ring waits. -/
theorem ringWaits_read : ringRead ringQp ringWaits = .waits := by
  have a : sqAt ringQp = 0 := by decide +kernel
  have m : (moverTranslate ringQp 0 0 ringWaits).1 = .ok 512 0 := by decide +kernel
  have n : selfNode ringWaits = 512 := by decide +kernel
  have e : tgtTranslate ringWaits ringQp.tenant 0 0 = .inl 0 := by decide +kernel
  have c : ringWaits.svc.hbmResetting.contains (channelOf 0) = true := by simp [show ringWaits.svc.hbmResetting = [channelOf 0] from rfl]
  unfold ringRead
  simp only [a, m, n, e, c, bne_self_eq_false, Bool.false_eq_true, if_false, if_true]
/-- A plane of which frame 3 has a line on a channel that retrains. -/
def frameBusy : State := { plane with svc := { plane.svc with hbmResetting := [channelOf (128 * (512 * 3 + 0))] } }
/-- Its retirement waits. -/
theorem frameBusy_waits : frameWaits frameBusy 3 = true := by
  unfold frameWaits
  rw [show frameBusy.svc.hbmResetting = [channelOf (128 * (512 * 3 + 0))] from rfl, List.any_cons, Bool.or_eq_true]
  exact .inl (List.any_eq_true.mpr ⟨0, List.mem_range.mpr (by decide), beq_self_eq_true _⟩)
/-- The plane that holds the image, whose first line is on a channel that retrains. -/
def loadBusy : State := { imagePlane with svc := { plane.svc with hbmResetting := [channelOf 0] } }
/-- Its load waits. -/
theorem loadBusy_waits : loadWaits loadBusy 0 0 328 = true := by
  have m : (0, (linesIn 0 328).head!.2) ∈ linesIn 0 328 := by decide +kernel
  refine List.any_eq_true.mpr ⟨_, m, ?_⟩
  have e : lineAt loadBusy 0 (128 * 0) = .here 0 := by decide +kernel
  rw [e]
  exact List.contains_iff_mem.mpr (List.mem_singleton.mpr rfl)

/-! ### Terms that the checks refuse, one for each check -/

theorem wf_refuses_mailbox : (Instr.deviceInfo (hdr 8)).wf = false := by decide
theorem wf_refuses_port : (Instr.portUp 513).wf = false := by decide
theorem wf_refuses_arrival : (Instr.cmpl 0xFFFE (pk opCmpl 0 0 id)).wf = false := by decide
theorem wf_refuses_lane : (Instr.markerLockLoss 560).wf = false := by decide
theorem wf_refuses_cluster : (Instr.clusterReload 16).wf = false := by decide
theorem wf_refuses_context : (Instr.add { cluster := 15, ctx := 4 } (srOf 1)).wf = false := by decide
theorem wf_refuses_side : (Instr.cmpl 0 { pk opCmpl 0 0 id with side := List.replicate 17 0 }).wf = false := by decide
theorem wf_refuses_payload : (Instr.dataFlit 0 { hdr := 0, pay := [], lctl := 0, crc := 0 }).wf = false := by decide
theorem wf_refuses_temps : (Instr.thermalTrip { junction := 0, hbm := [], inlet := 0 }).wf = false := by decide
theorem wf_refuses_channel : (Instr.packetAdmission 0 6).wf = false := by decide
theorem wf_refuses_line : (Instr.residueService 64 0).wf = false := by decide
theorem wf_refuses_source : (Instr.holeWriteOff 8192).wf = false := by decide
theorem wf_refuses_queue : (Instr.completionRecord 65536 0).wf = false := by decide
theorem wf_refuses_stream : (Instr.ideFail 2).wf = false := by decide
theorem wf_refuses_decoder : (Instr.hdmDecoderCommit 4 0 0 0 false).wf = false := by decide
theorem wf_refuses_write : (Instr.memWr 0 []).wf = false := by decide
theorem wf_refuses_window : (Instr.windowDisableComplete 16).wf = false := by decide
theorem wf_refuses_trunk : (Instr.gateEntryChange 0).wf = false := by decide
theorem wf_refuses_egress_queue : (Instr.queueSampleWindow 512 8).wf = false := by decide
theorem wf_refuses_mover : (Instr.translationFault false 32 0 0 0 0).wf = false := by decide
theorem wf_takes_command : (Instr.go 7).wf = true := by decide

/-! ### Numbers, codes and formats -/

/-- What a field of the next state is. -/
def after {α : Type} (o : Host.Outcome State Fault Refusal) (f : State → α) : Option α :=
  match o with
  | .next t => some (f t)
  | _ => none

/-- The two examples of 01 R12: 3.1.37 is 0xE25, 3.0.150 is 0xC96. -/
theorem test_node_numbers : mkNode 3 true 37 = 0xE25#13 ∧ mkNode 3 false 150 = 0xC96#13 := by decide
/-- The example of 02 R41: heights 28, 31, 26 and widths 240, 260, 230 give 59. -/
theorem test_efom : efomFrom [28, 31, 26] [240, 260, 230] = 59 := by decide
/-- 16 R449: 544 lanes enabled give 450 W, none 178 W. -/
theorem test_brake_levels : brakeMw 544 = 450000 ∧ brakeMw 0 = 178000 := by decide
/-- The example of 08 R219: chunk 3, payload 5 of a BF16 program with 4 KiB chunks starts at element 6,464. -/
theorem test_element_start : elemStart { prog 0 with fin := 1, fout := 1 } 3 5 (perPayload 1) = 6464 := by decide
/-- The records of the example of 08 R232: (5, AUTH_FAIL, 22) is the lowest, (37, DEST_DOWN, 18) lower than (37, PATH_LOST, 18). -/
theorem test_lowest_record : recLt ⟨5, 0x0D, 22⟩ ⟨37, 0x01, 18⟩ = true ∧ recLt ⟨37, 0x01, 18⟩ ⟨37, 0x0B, 18⟩ = true ∧
    recLt ⟨37, 0x0B, 18⟩ ⟨37, 0x01, 18⟩ = false := by decide
/-- The example of 10 R312: offset 0x1040 of window 3 is the upper half of the line at 0x02_0000_1000. -/
theorem test_window_offset :
    windowMap { desc := ⟨true, 4096, 0xCC9, 0x200000000, 0, false, 0, 0, 0, 0⟩ } 0x1040 = some (0x200001000, 1) := by decide
/-- 14 R389: SHA-256 of "abc", the example of FIPS 180-4. -/
theorem test_sha256_abc : leNat (sha256 [0x61, 0x62, 0x63]).reverse = 0xba7816bf8f01cfea414140de5dae2223b00361a396177a9cb410ff61f20015ad := by
  decide +kernel
/-- 14 R399: HMAC-SHA-256 of the second test case of RFC 4231, the key "Jefe". -/
theorem test_hmac : beNat (hmac (beBytes 0x4A656665 4) (beBytes 0x7768617420646F2079612077616E7420666F72206E6F7468696E673F 28)) =
    0x5bdcc146bf60754e6a042426089575c75a003f089d2739839dec58b964ec3843 := by decide +kernel
/-- 04 R108: the tag of AES-256-GCM under zeros, with nothing sealed (the first 256-bit test case of the GCM specification). -/
theorem test_gcm_tag : beNat (gcmTag (List.replicate 32 0) (List.replicate 12 0) [] []) = 0x530f8afbc74536b9a963b4f1c4cb738b := by decide +kernel
/-- Its second: 16 zero bytes sealed. -/
theorem test_gcm_text : beNat (gcmText (List.replicate 32 0) (List.replicate 12 0) (List.replicate 16 0)) = 0xcea7403d4d606b6e074ec5d3baf39d18 := by
  decide +kernel
/-- 12 R362: the default gate list has one entry, all gates open, of 1,000,000 ns. -/
theorem test_default_gate : gateInterval 0x0F4240FF#32 = 1000000 ∧ (List.range 8).all (gateBit 0x0F4240FF#32) = true := by decide
/-- FP32 addition (09 R262): 1 + 2 = 3, and the sum of +Inf and -Inf is the canonical NaN (04 R106). -/
theorem test_f32_add : f32Add 0x3F800000 0x40000000 = 0x40400000 ∧ f32Add 0x7F800000 0xFF800000 = 0x7FC00000 := by decide +kernel
/-- Round to nearest even: 2^24 + 1 is 2^24. -/
theorem test_f32_ties_to_even : f32Add 0x4B800000 0x3F800000 = 0x4B800000 := by decide +kernel
/-- The exact sum keeps what FP32 loses (07 R183): 2^24 + 1 - 2^24 = 1, in units of 2^-160. -/
theorem test_exact_sum : (([0x4B800000, 0x3F800000, 0xCB800000].foldl (fun a v => accAdd a (convertElem 0 v 127)) ({} : Acc)).a) = 2 ^ 160 := by
  decide +kernel
/-- A byte mask selects a byte for each of its bits (04 R93). -/
theorem test_masked_store : memGetN (memSetMasked [] 128 0b101 [1, 2, 3]) 128 3 = [1, 0, 3] := by decide

/-! ### Words -/

/-- ADD S1, S2, S3: opcode 0x01, D 1, A 2, B 3 (09 R261, R263). -/
theorem test_word_add : instrOfWord iss0 .clean (0x01 + 0x100 * 1 + 0x2000 * 2 + 0x40000 * 3) = some (.add iss0 { d := 1, a := 2, b := 3, rsv := false }) := by decide
/-- BLT with IMM -1: bits [63:18] all 1. -/
theorem test_word_blt : instrOfWord iss0 .clean 0xFFFFFFFFFFFC820F = some (.blt iss0 { d := 2, a := 4, imm := -1 }) := by decide
/-- VCVT V1, V2 to FMT 3 with RND. -/
theorem test_word_vcvt : instrOfWord iss0 .clean 0x1300212C =
    some (.vcvt iss0 { vd := 1, va := 2, vb := 0, vc := 0, fmt := 3, rnd := true, ovf := false, rsv := false }) := by decide
/-- HLD of tag 31. -/
theorem test_word_hld : instrOfWord iss0 .clean 0x0F8C4160 = some (.hld iss0 { addr := 1, ext := 2, len := 3, tag := 31, rsv := false } .clean) := by decide
/-- MMUL with ACC and TB_T, DTYPE 1. -/
theorem test_word_mmul : instrOfWord iss0 .clean 0x188C4150 =
    some (.mmul iss0 { ta := 1, tb := 2, tc := 3, dtype := 1, acc := true, tbT := true, rsv := false }) := by decide
/-- An opcode absent from the table is reserved, and so is a bit that a format does not list. -/
theorem test_word_reserved : instrOfWord iss0 .clean 0x13 = none ∧ (srOf 0x800001).rsv = true := by decide
/-- PORT_ENABLE in a buffer (13 R477): port 4, width code 0, BRIDGE 1. -/
theorem test_buffer_port_disable : parse (hdr 1) 0x0102 8 [4, 0, 0, 0, 0, 0, 0, 0] false [] = some (.portDisable (hdr 1) 4, true) := by decide
/-- A LENGTH that is not the opcode's, and an opcode of no row, spell nothing. -/
theorem test_buffer_refused : (parse (hdr 1) 0x0102 16 [4] false []).isNone = true ∧ (parse (hdr 1) 0x0FFF 0 [] false []).isNone = true := by decide

/-! ### Single steps -/

/-- An empty queue is one nanosecond (log entry 3). -/
theorem test_idle : after (step plane) (fun t => t.svc.now) = some 5000000001 := by decide +kernel
/-- The queue is served in order. -/
theorem test_queue : after (step { plane with pending := [.fmHeartbeat (hdr 1), .portUp 0] }) (fun t => (t.pending.length, t.svc.heartbeat)) =
    some (1, some 5000000000) := by decide +kernel
/-- NODE_ASSIGN of pair 3, domain B, plane 5 makes 3.1.37 (01 R17). -/
theorem test_node_assign : after (exec (.nodeAssign (hdr 1) 3 1 5) plane) (fun t => t.svc.node) = some (some 0xE25#13) := by decide +kernel
/-- It is the fabric manager's alone (13 R387): DENIED is 3. -/
theorem test_node_assign_denied : after (exec (.nodeAssign (hdr 0) 3 1 5) plane) (fun t => (leNat (memGetN (t.box 0).buf 12 2), t.svc.node)) =
    some (3, some (mkNode 0 true 0)) := by decide +kernel
/-- A port that does not exist is BAD_ARG, 4. -/
theorem test_port_enable_bad : after (exec (.portEnable (hdr 1) 513 0 false) plane) (fun t => leNat (memGetN (t.box 1).buf 12 2)) = some 4 := by decide +kernel
/-- PORT_ENABLE in a free quad waits for signal (02 R45). -/
theorem test_port_enable : after (exec (.portEnable (hdr 1) 8 0 true) plane) (fun t => ((t.port 8).enabled, (t.port 8).phase, (t.port 8).bridge)) =
    some (true, .waiting, true) := by decide +kernel
/-- Another width in the same quad is refused (01 R22). -/
theorem test_port_enable_quad : after (exec (.portEnable (hdr 1) 9 1 false) (phased 8 .up plane)) (fun t => (t.port 9).enabled) = some false := by
  decide +kernel
/-- Loss of signal is LOS, cause 0, and the other ports stay (03 R80). -/
theorem test_los : after (exec (.los 0 0) ((phased 0 .up (phased 4 .up plane)).onLane 0 (fun l => { l with port := some 0 })))
    (fun t => ((t.port 0).lastDown, (t.port 0).coreDown, (t.port 4).phase)) = some (some 0, true, .up) := by decide +kernel
/-- A CRC failure asks for a retry once (03 R65). -/
theorem test_crc_failure : after (exec (.crcFailedFlit { port := 0, word := none }) (phased 0 .up plane)) (fun t => ((t.port 0).link.nakDue, (t.port 0).link.retryWait)) =
    some (true, true) := by decide +kernel
/-- The eighth expiry takes the link down with cause 3 (03 R65, R80). -/
theorem test_link_retry : after (exec (.linkRetryTimer 0) ((phased 0 .up plane).onLink 0 (fun l => { l with retryWait := true, retryCount := 7 })))
    (fun t => (t.port 0).lastDown) = some (some 3) := by decide +kernel
/-- A core cycle counts (06 R150). -/
theorem test_core_cycle : after (exec (.coreCycle none) plane) (fun t => t.core.cycle) = some 1 := by decide +kernel
/-- Message passing through one home (05): the flag's RELEASE is held while the data's SEQ is not accounted. -/
theorem test_release_held : after (exec (.wrLine 0 (pk opWrLine (mkNode 0 false 3) (mkNode 0 true 0)
      (fun p => { p with seq := 4, offset := 128, release := true, data := List.replicate 128 1 })))
    { plane with
      home := { exported := true, wins := [(3, { low := 3, last := 5000000000 })] }
      xlat := { tgt := [{ tenant := 0, addr := 0, entry := 0xF }] } })
    (fun t => ((t.win 3).held.length, memGet t.home.hbm 128)) = some (1, 0) := by decide +kernel
/-- The data lands at once. -/
theorem test_write_lands : after (exec (.wrLine 0 (pk opWrLine (mkNode 0 false 3) (mkNode 0 true 0)
      (fun p => { p with seq := 3, offset := 256, data := List.replicate 128 7 })))
    { plane with
      home := { exported := true, wins := [(3, { low := 3, last := 5000000000 })] }
      xlat := { tgt := [{ tenant := 0, addr := 0, entry := 0xF }] } })
    (fun t => ((t.win 3).low, memGetN t.home.hbm 255 3)) = some (4, [0, 7, 7]) := by decide +kernel
/-- While HBM is not exported a request gets NOT_READY and nothing is stored (10 R306). -/
theorem test_export_off : after (exec (.wrLine 0 (pk opWrLine (mkNode 0 false 3) (mkNode 0 true 0) (fun p => { p with data := List.replicate 128 7 })))
    { plane with xlat := { tgt := [{ tenant := 0, addr := 0, entry := 0xF }] } })
    (fun t => (t.home.hbm, t.core.localTx.map (fun x => x.1.status))) = some ([], [0x0C]) := by decide +kernel
/-- FETCH_ADD of 32 bits wraps (04 R103). -/
theorem test_atomic_add_wraps : atomicElem 2 32 0xFFFFFFFF 2 = 1 := by decide
/-- A new tenant makes the epoch advance (14 R395, R405). -/
theorem test_tenant_create : after (exec (.tenantCreate (hdr 0) 42 false) plane) (fun t => ((t.tenant 42).isSome, t.sec.epoch)) = some (true, 2) := by
  decide +kernel
/-- REQ_TIMEOUT_SET has a least value of 10 us (05 R124). -/
theorem test_req_timeout_low : after (exec (.reqTimeoutSet (hdr 1) 9999) plane) (fun t => t.home.reqTimeout) = some 100000 := by decide +kernel
/-- A high read after a low one returns the shadow, 0x41, though the counter has carried to 0x42 (17 R467). -/
theorem test_time_shadow : after (exec (.timeNowHighRead 9)
    { plane with svc := { plane.svc with now := 0x4200000010 }, host := { linkUp := true, shadows := [(9, 0x41)] } })
    (fun t => t.host.readOut.find 9) = some (some 0x41) := by decide +kernel
/-- Writing all ones at 0x04_0060 clears window 3's failed reads, 18 (17 R469). -/
theorem test_window_counter : after (exec (.registerWrite 0 0x40060 32 0xFFFFFFFF)
    (bridge.onWindow 3 (fun w => { w with failRd := 18 }))) (fun t => (t.window 3).failRd) = some 0 := by decide +kernel
/-- The third miss in a row has its effects once (15 R427): FM_LOST is bit 11. -/
theorem test_heartbeat_lost : after (exec .heartbeatMiss (plane.onSvc (fun v => { v with heartbeat := some 4990000000, beatBase := 4990000000, misses := 2 })))
    (fun t => t.err.summary.getLsbD 11) = some true := by decide +kernel
/-- A cap below the brake level is BAD_ARG (16 R447): with no port enabled it is 178 W. -/
theorem test_cap_low : after (exec (.pwrCapSet (hdr 1) 177 0) plane) (fun t => (leNat (memGetN (t.box 1).buf 12 2), t.pwr.caps)) = some (4, []) := by
  decide +kernel
/-- A trip at 105 degrees (16 R455). -/
theorem test_trip : after (exec (.thermalTrip { junction := 105, hbm := [0, 0, 0, 0], inlet := 0 }) plane) (fun t => (t.pwr.tripped, t.svc.mod)) =
    some (true, .tripped) := by decide +kernel
/-- The input in range starts sequencing (16 R442). -/
theorem test_input_low : after (exec (.inputApplied 59999) { plane with pwr := { inputOk := false } }) (fun t => t.pwr.inputOk) = some false := by
  decide +kernel
/-- ADD wraps at 64 bits and the counter moves one word on (09 R263). -/
theorem test_add : after (exec (.add iss0 { d := 1, a := 2, b := 3, rsv := false }) (textPlane [0xC4101] (fun c => { c with sregs := [(2, -1), (3, 3)] })))
    (fun t => (sreg (t.ctx ctx0) 1, (t.ctx ctx0).pc)) = some (2, 8) := by decide +kernel
/-- SRA keeps the sign. -/
theorem test_sra : after (exec (.sra iss0 { d := 1, a := 2, b := 3, rsv := false }) (textPlane [0xC4109] (fun c => { c with sregs := [(2, -8), (3, 2)] })))
    (fun t => sreg (t.ctx ctx0) 1) = some (-2) := by decide +kernel
/-- BLT compares as two's complement, and IMM counts words from here. -/
theorem test_blt : after (exec (.blt iss0 { d := 2, a := 0, imm := -2 }) (textPlane [0, 0, 0xFFFFFFFFFFF8020F] (fun c => { c with pc := 16, sregs := [(2, -1)] })))
    (fun t => (t.ctx ctx0).pc) = some 0 := by decide +kernel
/-- A write of S0 is ignored (09 R260). -/
theorem test_s0 : after (exec (.addi iss0 { d := 0, a := 0, imm := 5 }) (textPlane [0x14000A])) (fun t => sreg (t.ctx ctx0) 0) = some 0 := by decide +kernel
/-- A reserved bit is a program fault with FCAUSE 1 (09 R266), kept in the operation. -/
theorem test_reserved_field : after (exec (.add iss0 { d := 1, a := 2, b := 3, rsv := true }) (textPlane [0x8C4101]))
    (fun t => (t.op 9).map (fun o => (o.fcause, o.phase))) = some (some (1, .aborting)) := by decide +kernel
/-- A contribution of a member enters its chunk (08 R223). -/
theorem test_contribution : after (exec (.redPut 0 (collPk opRedPut (mkNode 0 false 4) (mkNode 0 true 0) 0
      (fun p => { p with data := List.replicate 128 0 })) .clean) (opPlane (oper 0 id)))
    (fun t => (t.op 9).map (fun o => o.chunks.map (fun x => x.got))) = some (some [[(1, 0)]]) := by decide +kernel
/-- A message that passes its checks is answered NOT_MAPPED, 4 (12 R349). -/
theorem test_message : after (exec (.msgSend 0 (pk opMsgSend (mkNode 0 false 3) (mkNode 0 true 0) (fun p => { p with seq := 5, data := List.replicate 128 0 }))
    .clean) plane) (fun t => t.core.localTx.map (fun x => (x.1.op, x.1.status))) = some [(opMsgAck, 4)] := by decide +kernel
/-- A doorbell of an absent queue does nothing (17 R473). -/
theorem test_doorbell_absent : after (exec (.dbSqTail 7 1) { plane with host := { linkUp := true } }) (fun t => t.queues.qps.length) = some 0 := by
  decide +kernel

/-- The example of 02 R31: 10 01 11 00 has the indices 3, 1, 2, 0 and is sent as 3, 2, 0, 0. -/
theorem test_precoder_example : sendLevels true 0 [true, false, false, true, true, true, false, false] = [3, 2, 0, 0] := by decide
/-- 11 R341: an OPCODE byte above 4 has no row; its descriptor stands as a bad one. -/
theorem test_descriptor_opcode : ((descOf (5 :: List.replicate 63 0)).2.badOp, (descOf (4 :: List.replicate 63 0)).2.badOp) = (true, false) := by
  decide +kernel
/-- 11 R340: FLAGS bit 1 is REL, and LEN lies in bytes [7:4]. -/
theorem test_descriptor_fields : let d := (descOf ([1, 2, 0, 0, 0x80, 1] ++ List.replicate 58 0)).2
    (d.rel, d.fence, d.len.toNat, d.rsv) = (true, false, 384, false) := by decide +kernel
/-- 15 R434: a port comes up no more once the removal has been sensed; BUSY is 2 (log entry 88). -/
theorem test_removed_port : after (exec (.portEnable (hdr 1) 8 0 false) (plane.onSvc (fun v => { v with removedAt := some 4999000000 })))
    (fun t => (leNat (memGetN (t.box 1).buf 12 2), (t.port 8).enabled)) = some (2, false) := by decide +kernel
/-- 15 R439: a spare frame that is retired is not its own replacement; its data moves to the next. -/
theorem test_spare_excludes_itself : (spareFrames (2 ^ 22 - 16) plane).head? = some (2 ^ 22 - 15) := by decide +kernel
/-- 13 R381: GO is taken in an idle nanosecond, and a command written with GO answers in its buffer. -/
theorem test_go_taken : after (step (plane.onBox 1 (fun b => { b with go := true, buf := memSetN [] 0 (leBytes 0x0FFF 2) })))
    (fun t => ((t.box 1).go, (t.box 1).busy, leNat (memGetN (t.box 1).buf 12 2))) = some (false, false, 4) := by decide +kernel
/-- 12 R362: until its change at the end of its interval the gate entry stays; the row before that changes nothing. -/
theorem test_gate_entry_early : after (exec (.gateEntryChange 528) (plane.onTrunk 528 (fun t => { t with entryAt := 4999500000 })))
    (fun t => (t.trunk 528).entryAt) = some 4999500000 := by decide +kernel

/-! ### Witnesses: what meets the hypotheses of each statement -/

/-- Every row of format SR runs where the word at the counter spells it. -/
theorem witness_ScalarInstructionsComplete_registers : let f : SR := { d := 1, a := 2, b := 3, rsv := false }
    ∀ p ∈ ([(.add iss0 f, 0xc4101), (.sub iss0 f, 0xc4102), (.mul iss0 f, 0xc4103), (.and iss0 f, 0xc4104), (.or iss0 f, 0xc4105),
      (.xor iss0 f, 0xc4106), (.shl iss0 f, 0xc4107), (.shr iss0 f, 0xc4108), (.sra iss0 f, 0xc4109)] : List (Instr × BitVec 64)),
      Runs p.1 iss0 .clean (textPlane [p.2]) := by
  unfold Runs; decide +kernel

/-- So does every row of format SI that reads no checked word. -/
theorem witness_ScalarInstructionsComplete_immediates : let f : SI := { d := 1, a := 2, imm := 8 }
    ∀ p ∈ ([(.addi iss0 f, 0x20410a), (.st iss0 f, 0x20410c), (.beq iss0 f, 0x20410d), (.bne iss0 f, 0x20410e), (.blt iss0 f, 0x20410f),
      (.loop iss0 f, 0x204110), (.halt iss0 f, 0x204111), (.fault iss0 f, 0x204112)] : List (Instr × BitVec 64)),
      Runs p.1 iss0 .clean (textPlane [p.2]) := by
  unfold Runs; decide +kernel

/-- So does every row of format VR. -/
theorem witness_VectorInstructionsComplete_lanes : let f : VR := { vd := 1, va := 2, vb := 3, vc := 4, fmt := 0, rnd := false, ovf := false, rsv := false }
    ∀ p ∈ ([(.vadd iss0 f, 0x432122), (.vsub iss0 f, 0x432123), (.vmul iss0 f, 0x432124), (.vmax iss0 f, 0x432125), (.vmin iss0 f, 0x432126),
      (.vfma iss0 f, 0x432127), (.vdiv iss0 f, 0x432128), (.vsqrt iss0 f, 0x432129), (.vsgn iss0 f, 0x43212a), (.vsel iss0 f, 0x43212b),
      (.vcvt iss0 f, 0x43212c), (.vblk iss0 f, 0x43212d), (.xadd iss0 f, 0x432141), (.xrnd iss0 f, 0x432142)] : List (Instr × BitVec 64)),
      Runs p.1 iss0 .clean (textPlane [p.2]) := by
  unfold Runs; decide +kernel

/-- So do the vector rows of format SI. -/
theorem witness_VectorInstructionsComplete_immediates : let f : SI := { d := 1, a := 2, imm := 8 }
    ∀ p ∈ ([(.vst iss0 f, 0x204121), (.xclr iss0 f, 0x204140), (.xhad iss0 f, 0x204143)] : List (Instr × BitVec 64)),
      Runs p.1 iss0 .clean (textPlane [p.2]) := by
  unfold Runs; decide +kernel

/-- So does every row of format MX. -/
theorem witness_VectorInstructionsComplete_tiles : let f : MX := { ta := 1, tb := 2, tc := 3, dtype := 1, acc := true, tbT := true, rsv := false }
    ∀ p ∈ ([(.mmul iss0 f, 0x188c4150), (.mscl iss0 f, 0x188c4151), (.hrot iss0 f, 0x188c4152)] : List (Instr × BitVec 64)),
      Runs p.1 iss0 .clean (textPlane [p.2]) := by
  unfold Runs; decide +kernel

theorem witness_StepRunsFrontCommand :
    (∃ (c : Instr) (rest : List Instr) (s : State), s.pending = c :: rest) ∧
    (∃ s : State, s.pending = []) ∧
    (∃ s : State, (∀ m, (s.box m).go = false ∧ (s.box m).stalled = none)) :=
  ⟨⟨(.deviceInfo (hdr 0)), ([]), ({ plane with pending := [.deviceInfo (hdr 0)] }), by decide +kernel⟩,
   ⟨plane, by decide +kernel⟩,
   ⟨({ plane with pwr := { powerGood := false } }), (fun _ => ⟨rfl, rfl⟩)⟩⟩

theorem witness_StepKeepsMemoriesCanonical :
    (∃ s t : State, HbmCanonical s ∧ BoxesCanonical s ∧ step s = .next t) :=
   ⟨plane, (tick plane), by unfold HbmCanonical; decide +kernel, (fun _ => rfl), rfl⟩

theorem witness_StepNeverLowersFusedSvn :
    (∃ (n : Nat) (s t : State), FusedAtLeast n s ∧ step s = .next t) :=
   ⟨64, ({ plane with flash := { fusedSvn := 64 } }), (tick { plane with flash := { fusedSvn := 64 } }), (by unfold FusedAtLeast; decide +kernel),
     rfl⟩

theorem witness_ReplyWritesStatusLengthAndResult :
    (∃ (h : MHdr) (status : Nat) (result : List Byte) (s : State), status < 2 ^ 16 ∧ result.length ≤ 4080 ∧ memWf (s.box h.mbx).buf = true ∧ ∃ a, (a <
      8 ∨ a = 14 ∨ a = 15 ∨ 16 + result.length ≤ a)) ∧
    (∃ (h : MHdr) (status : Nat) (result : List Byte) (s : State), status < 2 ^ 16 ∧ result.length ≤ 4080 ∧ memWf (s.box h.mbx).buf = true ∧ ∃ m, m ≠
      h.mbx) ∧
    (∃ (h : MHdr) (status : Nat) (result : List Byte) (s : State), status < 2 ^ 16 ∧ result.length ≤ 4080 ∧ memWf (s.box h.mbx).buf = true ∧ h.notify
      = false) ∧
    (∃ (h : MHdr) (status : Nat) (result : List Byte) (s : State), status < 2 ^ 16 ∧ result.length ≤ 4080 ∧ memWf (s.box h.mbx).buf = true ∧ h.notify
      = true ∧ h.mbx = 2) ∧
    (∃ (h : MHdr) (status : Nat) (result : List Byte) (s : State), status < 2 ^ 16 ∧ result.length ≤ 4080 ∧ memWf (s.box h.mbx).buf = true ∧ h.notify
      = true ∧ h.mbx ≠ 2) :=
  ⟨⟨(hdr 0), 65535, (List.replicate 4080 0), plane, by decide +kernel, by decide +kernel, by decide +kernel, 4096, by decide +kernel⟩,
   ⟨(hdr 0), 65535, (List.replicate 4080 0), plane, by decide +kernel, by decide +kernel, by decide +kernel, 1, by decide +kernel⟩,
   ⟨(hdr 0), 65535, (List.replicate 4080 0), plane, by and_intros <;> decide +kernel⟩,
   ⟨({ hdr 2 with notify := true }), 65535, (List.replicate 4080 0), plane, by and_intros <;> decide +kernel⟩,
   ⟨({ hdr 7 with notify := true }), 65535, (List.replicate 4080 0), plane, by and_intros <;> decide +kernel⟩⟩

theorem witness_ErrorRecordsUnderFirstErrorRule :
    (∃ (kind index code sev : Nat) (detail : List Byte) (s : State),
      let u := s.err.units.look (unitOf kind index) {}
      ∃ r, u.first = some r) ∧
    (∃ (kind index code sev : Nat) (detail : List Byte) (s : State),
      let u := s.err.units.look (unitOf kind index) {}
      u.first = none) ∧
    (∃ (kind index code sev : Nat) (detail : List Byte) (s : State), ∃ x, x ≠ unitOf kind index) ∧
    (∃ (kind index code sev : Nat) (detail : List Byte) (s : State), joinLog (unitOf kind index) code s.svc.now s.err.log = none ∧ s.err.log.length <
      4096) ∧
    (∃ (kind index code sev : Nat) (detail : List Byte) (s : State), joinLog (unitOf kind index) code s.svc.now s.err.log = none ∧ 4096 ≤
      s.err.log.length) :=
  ⟨⟨1, 528, 1, 2, ([]),
     ({ plane with err := { units := [(4624, { first := some { unit := 0, code := 1, sev := 1, count := 1, first := 0, last := 0, detail := [] }, count := 2 ^ 32 - 1 })] } }),
     ({ unit := 0, code := 1, sev := 1, count := 1, first := 0, last := 0, detail := [] }), by decide +kernel⟩,
   ⟨1, 528, 1, 2, ([]), plane, by decide +kernel⟩,
   ⟨1, 528, 1, 2, ([]), plane, 0, by decide +kernel⟩,
   ⟨1, 528, 1, 2, ([]), plane, by and_intros <;> decide +kernel⟩,
   ⟨1, 528, 1, 2, ([]),
     ({ plane with err := { log := List.replicate 4096 { id := 0, entry := { unit := 0, code := 1, sev := 1, count := 1, first := 0, last := 0, detail := [] } } } }),
     (joinLog_replicate _ _ _ _ _ rfl), ((by rw [List.length_replicate] : 4096 ≤ (List.replicate 4096 _).length))⟩⟩

theorem witness_ChecksRunInOrder :
    (∃ (h : MHdr) (f d u : Nat) (s : State), Listens h s ∧ h.mbx ≠ 1) ∧
    (∃ (h : MHdr) (f d u : Nat) (s : State), Listens h s ∧ h.mbx = 1 ∧ h.flags ≠ 0) ∧
    (∃ (h : MHdr) (a b c : Nat) (s : State), s.svc.mod = .boot ∧ h.mbx = 2) ∧
    (∃ (h : MHdr) (a b c : Nat) (s : State), Serves h [1] s ∧ s.svc.bridge = true) ∧
    (∃ (h : MHdr) (a b c : Nat) (s : State), Serves h [1] s ∧ s.svc.bridge = false ∧ (7 < a ∨ 1 < b ∨ 31 < c)) :=
  ⟨⟨(hdr 7), 0, 0, 0, plane, by unfold Listens; decide +kernel, by decide +kernel⟩,
   ⟨({ hdr 1 with flags := 0x80 }), 0, 0, 0, plane, by unfold Listens; decide +kernel, by and_intros <;> decide +kernel⟩,
   ⟨(hdr 2), 0, 0, 0, State.reset, by and_intros <;> decide +kernel⟩,
   ⟨(hdr 1), 0, 0, 0, bridge, by unfold Serves Listens; decide +kernel, by decide +kernel⟩,
   ⟨(hdr 1), 0, 0, 32, plane, by unfold Serves Listens; decide +kernel, by and_intros <;> decide +kernel⟩⟩

theorem witness_PartCommandsComplete :
    (∃ (h : MHdr) (s : State), Serves h [0, 1, 2, 3, 4, 5, 6, 7] s) ∧
    (∃ (h : MHdr) (q : BitVec 32) (r : LongResult) (s : State), Serves h [0, 1, 2, 3, 4, 5, 6, 7] s ∧ keptResult h.mbx q s = some r) ∧
    (∃ (h : MHdr) (q : BitVec 32) (s : State), Serves h [0, 1, 2, 3, 4, 5, 6, 7] s ∧ keptResult h.mbx q s = none) ∧
    (∃ (h : MHdr) (m : Nat) (b : BitVec 1024) (s : State), Serves h [0] s ∧ 4 ≤ m ∧ m ≤ 7) ∧
    (∃ (h : MHdr) (s : State), Serves h [1] s) ∧
    (∃ (h : MHdr) (pair domain plane : Nat) (s : State), Serves h [1] s ∧ s.svc.bridge = false ∧ pair ≤ 7 ∧ domain ≤ 1 ∧ plane ≤ 31 ∧ s.svc.removedAt
      = none ∧ s.ports.any (fun p => p.2.enabled) = false) ∧
    (∃ (h : MHdr) (t : Nat) (s : State), Serves h [1] s ∧ 10000 ≤ t ∧ t ≤ 10000000) :=
  ⟨⟨(hdr 7), plane, by unfold Serves Listens; decide +kernel⟩,
   ⟨(hdr 7), 7, ({ seq := 7, opcode := 0x0101, status := 0, result := [] }),
     (plane.onBox 7 (fun b => { b with results := [{ seq := 7, opcode := 0x0101, status := 0, result := [] }] })),
     by unfold Serves Listens; decide +kernel, by decide +kernel⟩,
   ⟨(hdr 7), 7, plane, by unfold Serves Listens; decide +kernel, by decide +kernel⟩,
   ⟨(hdr 0), 7, 0, plane, by unfold Serves Listens; decide +kernel, by and_intros <;> decide +kernel⟩,
   ⟨(hdr 1), plane, by unfold Serves Listens; decide +kernel⟩,
   ⟨(hdr 1), 7, 1, 31, Tests.plane, by unfold Serves Listens; decide +kernel, by and_intros <;> decide +kernel⟩,
   ⟨(hdr 1), 10000000, plane, by unfold Serves Listens; decide +kernel, by and_intros <;> decide +kernel⟩⟩

theorem witness_LaneCommandsComplete :
    (∃ (h : MHdr) (lane pattern : Nat) (after : Bool) (s : State), Serves h [1] s ∧ lane < 560 ∧ pattern ≤ 6 ∧ laneBusy s lane = false) ∧
    (∃ (h : MHdr) (lane pattern : Nat) (after : Bool) (s : State), Serves h [1] s ∧ lane < 560 ∧ pattern ≤ 6 ∧ laneBusy s lane = true) ∧
    (∃ (h : MHdr) (lane : Nat) (r : TestRead) (s : State), Serves h [1] s ∧ lane < 560) ∧
    (∃ (h : MHdr) (lane mode : Nat) (trained : Bool) (s : State), Serves h [1] s ∧ lane < 560 ∧ mode ≤ 3 ∧ mode ≠ 2 ∧ ∃ k, k ≠ lane) ∧
    (∃ (h : MHdr) (lane : Nat) (s : State), Serves h [1] s ∧ lane < 560 ∧ ∃ k, k ≠ lane) :=
  ⟨⟨(hdr 1), 559, 6, true, plane, by unfold Serves Listens; decide +kernel, by and_intros <;> decide +kernel⟩,
   ⟨(hdr 1), 0, 6, true, (phased 0 .up plane), by unfold Serves Listens; decide +kernel, by and_intros <;> decide +kernel⟩,
   ⟨(hdr 1), 559, ({ clear := true, line := [] }), plane, by unfold Serves Listens; decide +kernel, by decide +kernel⟩,
   ⟨(hdr 1), 559, 3, true, plane, by unfold Serves Listens; decide +kernel, by decide +kernel, by decide +kernel, by decide +kernel, 558,
     by decide +kernel⟩,
   ⟨(hdr 1), 559, plane, by unfold Serves Listens; decide +kernel, by decide +kernel, 558, by decide +kernel⟩⟩

theorem witness_TapsStayWithinLimits :
    (∃ (pre post : Nat) (l : Lane), l.tapA ≤ 16 ∧ l.tapB ≤ 24 ∧ l.tapA + l.tapB ≤ 24) :=
   ⟨1, 1, ({ tapA := 12, tapB := 12 }), by and_intros <;> decide +kernel⟩

theorem witness_TrainingAndLaneEventsComplete :
    (∃ (p lane n : Nat) (s : State), isPort p = true ∧ isLane lane = true ∧ mayTrain s p = true ∧ ((s.port p).phase = .waiting ∨ (s.port p).phase =
      .training n) ∧ laneOf p 0 ≤ lane ∧ lane < laneOf p (lanesOf (s.port p).width) ∧ lane % 140 < 136 ∧ (s.lane lane).port ≠ some p) ∧
    (∃ (p lane n : Nat) (s : State), isPort p = true ∧ isLane lane = true ∧ mayTrain s p = true ∧ ((s.port p).phase = .waiting ∨ (s.port p).phase =
      .training n) ∧ 136 ≤ lane % 140 ∧ spareFits s p lane = true) ∧
    (∃ (p lane n : Nat) (s : State), isPort p = true ∧ isLane lane = true ∧ mayTrain s p = true ∧ ((s.port p).phase = .waiting ∨ (s.port p).phase =
      .training n) ∧ 136 ≤ lane % 140 ∧ spareFits s p lane = false) ∧
    (∃ (p lane n : Nat) (f : BitVec 5440) (r : RxView) (s : State), isPort p = true ∧ isLane lane = true ∧ (s.port p).phase = .training n ∧ 1 ≤ n ∧ n
      ≤ 5 ∧ (s.lane lane).port = some p ∧ (s.lane lane).failed = false ∧ (s.lane lane).standby = false ∧ (s.lane lane).leftOut = false ∧ (s.lane
      lane).loopback ≠ 1 ∧ (s.lane lane).loopback ≠ 3 ∧ (s.lane lane).loopStep = 0 ∧ frameValid (f.setWidth 256) = true ∧ (f.getLsbD 73 = false ∨ n =
      1) ∧ (n = 2 → frameNodeOk s p (BitVec.ofNat 13 (fld (f.setWidth 256) 80 13)) = true)) ∧
    (∃ (p lane n : Nat) (f : BitVec 5440) (r : RxView) (s : State), isPort p = true ∧ isLane lane = true ∧ (s.port p).phase = .training n ∧ 2 ≤ n ∧
      (s.lane lane).port = some p ∧ (s.lane lane).failed = false ∧ (s.lane lane).loopback ≠ 1 ∧ (s.lane lane).loopback ≠ 3 ∧ (s.lane lane).loopStep =
      0 ∧ frameValid (f.setWidth 256) = true ∧ f.getLsbD 73 = true) ∧
    (∃ (p lane n : Nat) (f : BitVec 5440) (r : RxView) (x : Node) (s : State), isPort p = true ∧ isLane lane = true ∧ (s.port p).phase = .training n ∧
      1 ≤ n ∧ n ≤ 5 ∧ (s.lane lane).port = some p ∧ (s.lane lane).failed = false ∧ (s.lane lane).standby = true ∧ (s.lane lane).leftOut = false ∧
      (s.lane lane).loopback ≠ 1 ∧ (s.lane lane).loopback ≠ 3 ∧ (s.lane lane).loopStep = 0 ∧ frameValid (f.setWidth 256) = true ∧ (f.getLsbD 73 =
      false ∨ n = 1) ∧ (s.port p).partner = some x) ∧
    (∃ (p lane n : Nat) (f : BitVec 5440) (r : RxView) (s : State), isPort p = true ∧ isLane lane = true ∧ (s.lane lane).loopback ≠ 3 ∧ (s.lane
      lane).loopStep = n ∧ 1 ≤ n ∧ p = homePort s lane ∧ frameValid (f.setWidth 256) = true) ∧
    (∃ (p n : Nat) (s : State), isPort p = true ∧ (s.port p).phase = .training n ∧ n ≠ 1 ∧ (s.port p).t0 + stepBound n ≤ s.svc.now ∧ (s.port
      p).attempts < 2) ∧
    (∃ (p n : Nat) (s : State), isPort p = true ∧ (s.port p).phase = .training n ∧ n ≠ 1 ∧ (s.port p).t0 + stepBound n ≤ s.svc.now ∧ 2 ≤ (s.port
      p).attempts) ∧
    (∃ (p : Nat) (s : State), isPort p = true ∧ (s.port p).phase = .training 1 ∧ (s.port p).t0 + 2000000 ≤ s.svc.now ∧ bothDone (leaveOut p s) p 1 =
      true) ∧
    (∃ (p : Nat) (res : List QualRes) (s : State), isPort p = true ∧ (s.port p).phase = .training 7 ∧ (s.port p).stepAt + 10000000 ≤ s.svc.now ∧
      qualMask (sendDue p s) p res = 0) ∧
    (∃ (p : Nat) (res : List QualRes) (s : State), isPort p = true ∧ (s.port p).phase = .training 7 ∧ (s.port p).stepAt + 10000000 ≤ s.svc.now ∧
      qualMask (sendDue p s) p res % 2 ^ 16 ≠ 0) ∧
    (∃ (lane p : Nat) (b : BlockHead) (w : BitVec 256) (s : State), isLane lane = true ∧ (s.lane lane).port = some p ∧ markerValid b.bit w = true ∧
      ((s.lane lane).locked = true → b.pos = (s.lane lane).markPos)) ∧
    (∃ (now pos : Nat) (w : BitVec 256) (l : Lane), BitVec.ofNat 31 (fld w 80 31) ≠ 0) ∧
    (∃ (now pos : Nat) (w : BitVec 256) (l : Lane), l.locked = true) ∧
    (∃ (now pos : Nat) (w : BitVec 256) (l : Lane), l.locked = false) ∧
    (∃ (lane p : Nat) (b : BlockHead) (w : BitVec 256) (s : State), isLane lane = true ∧ (s.lane lane).port = some p ∧ markerValid b.bit w = false ∧
      (s.lane lane).locked = true ∧ b.pos = (s.lane lane).markPos) ∧
    (∃ (lane p : Nat) (b : BlockHead) (w : BitVec 256) (s : State), isLane lane = true ∧ (s.lane lane).port = some p ∧ markerValid b.bit w = false ∧
      (s.lane lane).locked = false) ∧
    (∃ (lane p : Nat) (s : State), isLane lane = true ∧ (s.lane lane).port = some p ∧ (s.lane lane).locked = true ∧ (s.lane lane).markerAt + 1310720 ≤
      s.svc.now) ∧
    (∃ (lane p : Nat) (s : State), (s.port p).phase = .up ∧ (s.port p).widthNow = 0 ∧ (s.port p).pendingSpare = none ∧ standbyOf s p = none ∧ (s.lane
      lane).standby = false) ∧
    (∃ (lane p : Nat) (hs ws : List Nat) (e : BitErrors) (k : Nat) (up : Bool) (s : State), isLane lane = true ∧ (s.lane lane).port = some p ∧ inData
      (s.port p) = true ∧ (s.lane lane).failed = false ∧ (s.lane lane).leftOut = false) ∧
    (∃ (p k x : Nat) (s : State), isPort p = true ∧ (s.port p).pendingSpare = some k ∧ standbyOf s p = some x ∧ toMarker (s.lane x).tx = 0) ∧
    (∃ (p lane : Nat) (s : State), isPort p = true ∧ isLane lane = true ∧ (s.lane lane).port = some p ∧ linkUp (s.port p) = true) ∧
    (∃ (p lane n : Nat) (s : State), isPort p = true ∧ isLane lane = true ∧ (s.lane lane).port = some p ∧ (s.port p).phase = .training n ∧
      let t := s.onLane lane (fun l => { restartLane l with signal := false })
      t.lanes.any (fun x => x.2.port == some p && x.2.signal) = true) :=
  ⟨⟨0, 0, 0, ((phased 0 .waiting plane).onPort 0 (fun q => { q with self := some (mkNode 0 true 0) })), by and_intros <;> decide +kernel⟩,
   ⟨0, 139, 1, ((phased 0 (.training 1) plane).onPort 0 (fun q => { q with self := some (mkNode 0 true 0), width := 2 })),
     by and_intros <;> decide +kernel⟩,
   ⟨0, 276, 8, ((phased 0 (.training 8) plane).onPort 0 (fun q => { q with self := some (mkNode 0 true 0) })), by and_intros <;> decide +kernel⟩,
   ⟨0, 0, 5, ((withCheck tcommaWord).setWidth 5440), ({ efom := 24, precode := false, pre := 0, post := 0, setting := 0, up := true }),
     (((phased 0 (.training 5) plane)).onLane 0 (fun l => { l with port := some 0 })), by decide +kernel, by decide +kernel, by decide +kernel,
     by decide +kernel, by decide +kernel, by decide +kernel, by decide +kernel, by decide +kernel, by decide +kernel, by decide +kernel,
     by decide +kernel, by decide +kernel,
     (by rw [BitVec.setWidth_setWidth_of_le _ (by decide), BitVec.setWidth_eq]; exact withCheck_frame _ (by decide) rfl),
     (.inl (by rw [BitVec.getLsbD_setWidth, getLsbD_withCheck tcommaWord 73 (by decide) (by decide)]; decide +kernel)), by decide +kernel⟩,
   ⟨0, 0, 2, ((withCheck (tcommaWord + 2 ^ 73)).setWidth 5440), ({ efom := 24, precode := false, pre := 0, post := 0, setting := 0, up := true }),
     (((phased 0 (.training 2) plane)).onLane 0 (fun l => { l with port := some 0 })), by decide +kernel, by decide +kernel, by decide +kernel,
     by decide +kernel, by decide +kernel, by decide +kernel, by decide +kernel, by decide +kernel, by decide +kernel,
     (by rw [BitVec.setWidth_setWidth_of_le _ (by decide), BitVec.setWidth_eq]; exact withCheck_frame _ (by decide) rfl),
     (by rw [BitVec.getLsbD_setWidth, getLsbD_withCheck (tcommaWord + 2 ^ 73) 73 (by decide) (by decide)]; decide +kernel)⟩,
   ⟨0, 0, 5, ((withCheck tcommaWord).setWidth 5440), ({ efom := 24, precode := false, pre := 0, post := 0, setting := 0, up := true }),
     (mkNode 0 false 0),
     ((((phased 0 (.training 5) plane)).onPort 0 (fun q => { q with partner := some (mkNode 0 false 0) })).onLane 0 (fun l => { l with port := some 0, standby := true })),
     by decide +kernel, by decide +kernel, by decide +kernel, by decide +kernel, by decide +kernel, by decide +kernel, by decide +kernel,
     by decide +kernel, by decide +kernel, by decide +kernel, by decide +kernel, by decide +kernel,
     (by rw [BitVec.setWidth_setWidth_of_le _ (by decide), BitVec.setWidth_eq]; exact withCheck_frame _ (by decide) rfl),
     (.inl (by rw [BitVec.getLsbD_setWidth, getLsbD_withCheck tcommaWord 73 (by decide) (by decide)]; decide +kernel)), by decide +kernel⟩,
   ⟨0, 0, 5, ((withCheck tcommaWord).setWidth 5440), ({ efom := 24, precode := false, pre := 0, post := 0, setting := 0, up := true }),
     (plane.onLane 0 (fun l => { l with loopStep := 5 })), by decide +kernel, by decide +kernel, by decide +kernel, by decide +kernel,
     by decide +kernel, by decide +kernel,
     (by rw [BitVec.setWidth_setWidth_of_le _ (by decide), BitVec.setWidth_eq]; exact withCheck_frame _ (by decide) rfl)⟩,
   ⟨0, 8, ((phased 0 (.training 8) plane).onPort 0 (fun q => { q with attempts := 1 })), by and_intros <;> decide +kernel⟩,
   ⟨0, 2, ((phased 0 (.training 2) plane).onPort 0 (fun q => { q with attempts := 2 })), by and_intros <;> decide +kernel⟩,
   ⟨0, (((phased 0 (.training 1) plane)).onLane 0 (fun l => { l with port := some 0, frames := 3, partnerReady := true })),
     by and_intros <;> decide +kernel⟩,
   ⟨0, ([{ lane := 0, errors := 1, bits := 100000, efom := 24, lost := false }]),
     (((phased 0 (.training 7) plane)).onLane 0 (fun l => { l with port := some 0, locked := true })), by and_intros <;> decide +kernel⟩,
   ⟨0, ([{ lane := 15, errors := 1, bits := 99999, efom := 24, lost := false }]),
     (((phased 0 (.training 7) plane)).onLane 0 (fun l => { l with port := some 0, locked := true })), by and_intros <;> decide +kernel⟩,
   ⟨0, 0, ({ pos := 5, bit := false }), (withCheck (commaWord + 2 ^ 64)), ((plane).onLane 0 (fun l => { l with port := some 0 })), by decide +kernel,
     by decide +kernel, (withCheck_marker _ (by decide) rfl (.inl rfl)), by decide +kernel⟩,
   ⟨0, 5, (2 ^ 80), ({}), by decide +kernel⟩,
   ⟨0, 5, 0, ({ locked := true }), by decide +kernel⟩,
   ⟨0, 5, 0, ({}), by decide +kernel⟩,
   ⟨0, 0, ({ pos := 5, bit := false }), 0, ((plane).onLane 0 (fun l => { l with port := some 0, locked := true, markPos := 5 })),
     by and_intros <;> decide +kernel⟩,
   ⟨0, 0, ({ pos := 5, bit := false }), 0, ((plane).onLane 0 (fun l => { l with port := some 0 })), by and_intros <;> decide +kernel⟩,
   ⟨0, 0, ((plane).onLane 0 (fun l => { l with port := some 0, locked := true, markerAt := 4998689280 })), by and_intros <;> decide +kernel⟩,
   ⟨0, 0, ((phased 0 .up plane)), by and_intros <;> decide +kernel⟩,
   ⟨0, 0, ([40, 40, 40]), ([40, 40, 40]), ({ errors := 0, bits := 0 }), 0, true,
     (((phased 0 .up plane)).onLane 0 (fun l => { l with port := some 0 })), by and_intros <;> decide +kernel⟩,
   ⟨0, 15, 136,
     (((phased 0 .up plane).onPort 0 (fun q => { q with pendingSpare := some 15 })).onLane 136 (fun l => { l with port := some 0, standby := true, locked := true })),
     by and_intros <;> decide +kernel⟩,
   ⟨0, 0, (((phased 0 .narrowing plane)).onLane 0 (fun l => { l with port := some 0 })), by and_intros <;> decide +kernel⟩,
   ⟨0, 0, 8,
     ((((phased 0 (.training 8) plane)).onLane 1 (fun l => { l with port := some 0, signal := true })).onLane 0 (fun l => { l with port := some 0, signal := true })),
     by and_intros <;> decide +kernel⟩⟩

theorem witness_PortCommandsComplete :
    (∃ (h : MHdr) (p w : Nat) (b : Bool) (s : State), Serves h [1] s ∧ isPort p = true ∧ portAbsent s p = false ∧ w ≤ 3 ∧ widthFits s p w = true ∧
      findTrans (.port p) s.mbx.trans = none ∧ (s.port p).enabled = false ∧ (isTrunk p = true ∨ quadConflict s p w = false) ∧ s.svc.removedAt = none ∧
      brakeMw (enabledLanes s + lanesOf w) ≤ capW s * 1000 ∧ ∃ x, x ≠ p) ∧
    (∃ (h : MHdr) (p w : Nat) (b : Bool) (s : State), Serves h [1] s ∧ isPort p = true ∧ portAbsent s p = false ∧ w ≤ 3 ∧ widthFits s p w = true ∧
      findTrans (.port p) s.mbx.trans = none ∧ (s.port p).enabled = true ∧ (s.port p).width = w ∧ (s.port p).bridge = b) ∧
    (∃ (h : MHdr) (p w : Nat) (b : Bool) (s : State), Serves h [1] s ∧ isPort p = true ∧ portAbsent s p = false ∧ w ≤ 3 ∧ widthFits s p w = true ∧
      findTrans (.port p) s.mbx.trans = none ∧ (¬ ((s.port p).enabled = true ∧ (s.port p).width = w ∧ (s.port p).bridge = b)) ∧ ((s.port p).enabled =
      true ∨ (isTrunk p = false ∧ quadConflict s p w = true) ∨ capW s * 1000 < brakeMw (enabledLanes s + lanesOf w))) ∧
    (∃ (h : MHdr) (p w : Nat) (b : Bool) (t : Transition) (s : State), Serves h [1] s ∧ isPort p = true ∧ portAbsent s p = false ∧ w ≤ 3 ∧ widthFits s
      p w = true ∧ findTrans (.port p) s.mbx.trans = some t) ∧
    (∃ (h : MHdr) (p : Nat) (s : State), Serves h [1] s ∧ isPort p = true ∧ portAbsent s p = false ∧ findTrans (.port p) s.mbx.trans = none ∧ (s.port
      p).enabled = true ∧ linkUp (s.port p) = true) ∧
    (∃ (h : MHdr) (p : Nat) (s : State), Serves h [1] s ∧ isPort p = true ∧ portAbsent s p = false ∧ findTrans (.port p) s.mbx.trans = none ∧ (s.port
      p).enabled = false) ∧
    (∃ (h : MHdr) (p : Nat) (t : Transition) (s : State), Serves h [1] s ∧ isPort p = true ∧ portAbsent s p = false ∧ findTrans (.port p) s.mbx.trans
      = some t) ∧
    (∃ (h : MHdr) (p : Nat) (s : State), Serves h [0, 1, 2] s ∧ isPort p = true ∧ portAbsent s p = false) ∧
    (∃ (p : Nat) (s : State), isPort p = true ∧ s.svc.mod = .ready ∧ (s.port p).flushing = true ∧
      let t := (flushPort p s).onPort p (fun q => { q with flushing := false })
      findTrans (.port p) t.mbx.trans = none) ∧
    (∃ (p : Nat) (s : State), isPort p = true ∧ s.svc.mod = .ready ∧ (s.port p).flushing = true ∧
      let t := (flushPort p s).onPort p (fun q => { q with flushing := false })
      ∃ x, findTrans (.port p) t.mbx.trans = some x ∧ x.opcode ≠ 0x0902) ∧
    (∃ (p : Nat) (s : State), isPort p = true ∧ s.svc.mod = .ready ∧ (s.port p).flushing = true ∧
      let t := (flushPort p s).onPort p (fun q => { q with flushing := false })
      ∃ x, findTrans (.port p) t.mbx.trans = some x ∧ x.opcode = 0x0902 ∧ (t.port p).enabled = false) ∧
    (∃ (s : State), s.svc.mod = .ready ∧ s.svc.causewayOpening = true ∧ s.svc.handover = false) :=
  ⟨⟨(hdr 1), 0, 2, false, plane, by unfold Serves Listens; decide +kernel, by decide +kernel, by decide +kernel, by decide +kernel, by decide +kernel,
     by decide +kernel, by decide +kernel, by decide +kernel, by decide +kernel, by decide +kernel, 528, by decide +kernel⟩,
   ⟨(hdr 1), 0, 0, false, (phased 0 .up plane), by unfold Serves Listens; decide +kernel, by and_intros <;> decide +kernel⟩,
   ⟨(hdr 1), 0, 2, false, (phased 0 .up plane), by unfold Serves Listens; decide +kernel, by and_intros <;> decide +kernel⟩,
   ⟨(hdr 1), 0, 2, false, ({ key := .port 0, hdr := hdr 1, opcode := 0x0101 }),
     ((plane).onMbx (fun b => { b with trans := [{ key := .port 0, hdr := hdr 1, opcode := 0x0101 }] })), by unfold Serves Listens; decide +kernel,
     by and_intros <;> decide +kernel⟩,
   ⟨(hdr 1), 0, (phased 0 .up plane), by unfold Serves Listens; decide +kernel, by and_intros <;> decide +kernel⟩,
   ⟨(hdr 1), 0, plane, by unfold Serves Listens; decide +kernel, by and_intros <;> decide +kernel⟩,
   ⟨(hdr 1), 0, ({ key := .port 0, hdr := hdr 1, opcode := 0x0101 }),
     ((plane).onMbx (fun b => { b with trans := [{ key := .port 0, hdr := hdr 1, opcode := 0x0101 }] })), by unfold Serves Listens; decide +kernel,
     by and_intros <;> decide +kernel⟩,
   ⟨(hdr 2), 528, plane, by unfold Serves Listens; decide +kernel, by and_intros <;> decide +kernel⟩,
   ⟨0, (plane.onPort 0 (fun q => { q with flushing := true })), by and_intros <;> decide +kernel⟩,
   ⟨0,
     ((plane.onPort 0 (fun q => { q with flushing := true })).onMbx (fun b => { b with trans := [{ key := .port 0, hdr := hdr 1, opcode := 0x0102 }] })),
     by decide +kernel, by decide +kernel, by decide +kernel, ({ key := .port 0, hdr := hdr 1, opcode := 0x0102 }), by and_intros <;> decide +kernel⟩,
   ⟨0,
     ((plane.onPort 0 (fun q => { q with flushing := true })).onMbx (fun b => { b with trans := [{ key := .port 0, hdr := hdr 1, opcode := 0x0902 }] })),
     by decide +kernel, by decide +kernel, by decide +kernel, ({ key := .port 0, hdr := hdr 1, opcode := 0x0902 }), by and_intros <;> decide +kernel⟩,
   ⟨(plane.onSvc (fun v => { v with causewayOpening := true })), by and_intros <;> decide +kernel⟩⟩

theorem witness_ReceiverFollowsRetryTable :
    (∃ (p : Nat) (f : Flit) (s : State), isPort p = true ∧ f.crcOk = true ∧ linkUp (s.port p) = true ∧ f.isCtl = false ∧ f.fseq = ((takeLctl p f
      s).port p).link.expected) ∧
    (∃ (p : Nat) (f : Flit) (s : State), isPort p = true ∧ f.crcOk = true ∧ linkUp (s.port p) = true ∧ f.isCtl = false ∧ f.fseq ≠ ((takeLctl p f
      s).port p).link.expected ∧ ((takeLctl p f s).port p).link.retryWait = false) ∧
    (∃ (p : Nat) (f : Flit) (s : State), isPort p = true ∧ f.crcOk = false ∧ linkUp (s.port p) = true ∧ (s.port p).link.retryWait = false) ∧
    (∃ (x : LostFlit) (s : State), isPort x.port = true ∧ linkUp (s.port x.port) = true ∧ wordFails s x.word = true ∧ (s.port x.port).link.retryWait =
      false) ∧
    (∃ (x : LostFlit) (s : State), isPort x.port = true ∧ linkUp (s.port x.port) = true ∧ wordFails s x.word = true ∧ (s.port x.port).link.retryWait =
      true) ∧
    (∃ (x : LostFlit) (s : State), isPort x.port = true ∧ wordFails s x.word = false) ∧
    (∃ (p : Nat) (s : State), isPort p = true ∧ (s.port p).phase = .up ∧ (s.port p).link.retryWait = true ∧ (s.port p).link.retryAt + 2000 ≤ s.svc.now
      ∧ (s.port p).link.retryCount < 7) ∧
    (∃ (p : Nat) (s : State), isPort p = true ∧ (s.port p).phase = .up ∧ (s.port p).link.retryWait = true ∧ (s.port p).link.retryAt + 2000 ≤ s.svc.now
      ∧ 7 ≤ (s.port p).link.retryCount) :=
  ⟨⟨0, (mkFlit 0 [] 0), (phased 0 .up plane), by decide +kernel, (mkFlit_crcOk ..), by and_intros <;> decide +kernel⟩,
   ⟨0, (mkFlit 0 [] 1), (phased 0 .up plane), by decide +kernel, (mkFlit_crcOk ..), by and_intros <;> decide +kernel⟩,
   ⟨0, ({ mkFlit 0 [] 0 with crc := (mkFlit 0 [] 0).crc + 1 }), (phased 0 .up plane), by decide +kernel, (by simp [mkFlit, Flit.crcOk, Flit.bytes]),
     by and_intros <;> decide +kernel⟩,
   ⟨({ port := 0, word := none }), (phased 0 .up plane), by and_intros <;> decide +kernel⟩,
   ⟨({ port := 0, word := none }), ((phased 0 .up plane).onLink 0 (fun l => { l with retryWait := true, retryCount := 0 })),
     by and_intros <;> decide +kernel⟩,
   ⟨({ port := 528, word := some { lane := 0, before := 0, levels := List.replicate 2720 0 } }), (phased 0 .up plane), by decide +kernel,
     (wordLost_zeros 2720)⟩,
   ⟨0, ((phased 0 .up plane).onLink 0 (fun l => { l with retryWait := true, retryCount := 6 })), by and_intros <;> decide +kernel⟩,
   ⟨0, ((phased 0 .up plane).onLink 0 (fun l => { l with retryWait := true, retryCount := 7 })), by and_intros <;> decide +kernel⟩⟩

theorem witness_LinkDownCountsAndHandsBack :
    (∃ (p cause channel : Nat) (s : State), cause = 2) ∧
    (∃ (p cause channel : Nat) (s : State), cause ≠ 2) ∧
    (∃ (p cause channel : Nat) (s : State), ∃ x, x ≠ p) :=
  ⟨⟨0, 2, 0, (phased 0 .up plane), by decide +kernel⟩,
   ⟨0, 7, 0, (phased 0 .up plane), by decide +kernel⟩,
   ⟨0, 2, 0, (phased 0 .up plane), 528, by decide +kernel⟩⟩

theorem witness_TimersAndControlFlitsComplete :
    (∃ (p : Nat) (s : State), isPort p = true ∧ (s.port p).phase = .up ∧ (s.port p).link.retryBuf ≠ [] ∧ (s.port p).link.txAt + 2000 ≤ s.svc.now ∧
      (s.port p).link.txExpiries < 7) ∧
    (∃ (p : Nat) (s : State), isPort p = true ∧ (s.port p).phase = .up ∧ (s.port p).link.retryBuf ≠ [] ∧ (s.port p).link.txAt + 2000 ≤ s.svc.now ∧ 7 ≤
      (s.port p).link.txExpiries) ∧
    (∃ (p v t : Nat) (s : State), isPort p = true ∧ v < 6 ∧ (s.port p).phase = .up ∧ (s.port p).link.xoffSince.find v = some t ∧ t + 1000000 ≤
      s.svc.now) ∧
    (∃ (p : Nat) (f : Flit) (s : State), isPort p = true ∧ f.crcOk = true ∧ f.isCtl = true ∧ f.ctype = 0) ∧
    (∃ (p : Nat) (f : Flit) (s : State), isPort p = true ∧ f.crcOk = true ∧ f.isCtl = true ∧ f.ctype = 1 ∧ (s.port p).phase = .training 8 ∧ f.param /
      2 ^ 13 % 64 = channelMask p ∧ initNodeOk s p (BitVec.ofNat 13 (f.param % 2 ^ 13)) = true ∧ s.svc.bridge = false) ∧
    (∃ (p : Nat) (f : Flit) (s : State), isPort p = true ∧ f.crcOk = true ∧ f.isCtl = true ∧ f.ctype = 1 ∧ (s.port p).phase = .training 8 ∧ f.param /
      2 ^ 13 % 64 = channelMask p ∧ initNodeOk s p (BitVec.ofNat 13 (f.param % 2 ^ 13)) = true ∧ s.svc.bridge = true) ∧
    (∃ (p : Nat) (f : Flit) (s : State), isPort p = true ∧ f.crcOk = true ∧ f.isCtl = true ∧ f.ctype = 1 ∧ (s.port p).phase = .training 8 ∧ f.param /
      2 ^ 13 % 64 ≠ channelMask p) ∧
    (∃ (p : Nat) (f : Flit) (s : State), isPort p = true ∧ f.crcOk = true ∧ f.isCtl = true ∧ f.ctype = 2 ∧ (s.port p).phase = .training 8) ∧
    (∃ (p : Nat) (f : Flit) (s : State), isPort p = true ∧ f.crcOk = true ∧ f.isCtl = true ∧ f.ctype = 3 ∧ (s.port p).phase = .training 8) ∧
    (∃ (p : Nat) (f : Flit) (s : State), isPort p = true ∧ f.crcOk = true ∧ f.isCtl = true ∧ f.ctype = 4 ∧ (s.port p).phase = .training 8 ∧ (s.port
      p).link.loops.length < 15) ∧
    (∃ (p : Nat) (f : Flit) (s : State), isPort p = true ∧ f.crcOk = true ∧ f.isCtl = true ∧ f.ctype = 4 ∧ (s.port p).phase = .training 8 ∧ (s.port
      p).link.loops.length = 15) ∧
    (∃ (p : Nat) (f : Flit) (s : State), isPort p = true ∧ f.crcOk = true ∧ f.isCtl = true ∧ f.ctype = 5 ∧ linkUp (s.port p) = true) ∧
    (∃ (p : Nat) (m : BitVec 16) (s : State), (s.port p).phase = .up) ∧
    (∃ (p : Nat) (m : BitVec 16) (s : State), (s.port p).phase ≠ .up ∧ (s.port p).narrowStep = 0) ∧
    (∃ (p : Nat) (m : BitVec 16) (s : State), (s.port p).phase ≠ .up ∧ (s.port p).narrowStep ≠ 0 ∧ (s.port p).partnerMask = some m) ∧
    (∃ (p : Nat) (f : Flit) (s : State), isPort p = true ∧ f.crcOk = true ∧ f.isCtl = true ∧ f.ctype = 6 ∧ linkUp (s.port p) = true) :=
  ⟨⟨0, ((phased 0 .up plane).onLink 0 (fun l => { l with retryBuf := [ctl 0 0], txExpiries := 6 })), by and_intros <;> decide +kernel⟩,
   ⟨0, ((phased 0 .up plane).onLink 0 (fun l => { l with retryBuf := [ctl 0 0], txExpiries := 7 })), by and_intros <;> decide +kernel⟩,
   ⟨0, 5, 4999000000, ((phased 0 .up plane).onLink 0 (fun l => { l with xoffSince := [(5, 4999000000)] })), by and_intros <;> decide +kernel⟩,
   ⟨0, (ctl 0 0), (phased 0 .up plane), by decide +kernel, (mkFlit_crcOk ..), by and_intros <;> decide +kernel⟩,
   ⟨0, (ctl 1 (0x3F * 2 ^ 13)), ((phased 0 (.training 8) plane).onPort 0 (fun q => { q with self := some (mkNode 0 true 0) })), by decide +kernel,
     (mkFlit_crcOk ..), by and_intros <;> decide +kernel⟩,
   ⟨0, (ctl 1 (0x3F * 2 ^ 13)), ((phased 0 (.training 8) bridge)), by decide +kernel, (mkFlit_crcOk ..), by and_intros <;> decide +kernel⟩,
   ⟨0, (ctl 1 0), ((phased 0 (.training 8) plane)), by decide +kernel, (mkFlit_crcOk ..), by and_intros <;> decide +kernel⟩,
   ⟨0, (ctl 2 0), ((phased 0 (.training 8) plane)), by decide +kernel, (mkFlit_crcOk ..), by and_intros <;> decide +kernel⟩,
   ⟨0, (ctl 3 5), ((phased 0 (.training 8) plane)), by decide +kernel, (mkFlit_crcOk ..), by and_intros <;> decide +kernel⟩,
   ⟨0, (ctl 4 5), ((phased 0 (.training 8) plane).onLink 0 (fun l => { l with loops := List.replicate 14 7 })), by decide +kernel, (mkFlit_crcOk ..),
     by and_intros <;> decide +kernel⟩,
   ⟨0, (ctl 4 5), ((phased 0 (.training 8) plane).onLink 0 (fun l => { l with loops := List.replicate 15 7 })), by decide +kernel, (mkFlit_crcOk ..),
     by and_intros <;> decide +kernel⟩,
   ⟨0, (ctl 5 3), (phased 0 .narrowing plane), by decide +kernel, (mkFlit_crcOk ..), by and_intros <;> decide +kernel⟩,
   ⟨0, 5, (phased 0 .up plane), by decide +kernel⟩,
   ⟨0, 5, (phased 0 .narrowing plane), by and_intros <;> decide +kernel⟩,
   ⟨0, 5, ((phased 0 .narrowing plane).onPort 0 (fun q => { q with narrowStep := 5, partnerMask := some 5 })), by and_intros <;> decide +kernel⟩,
   ⟨0, (ctl 6 0), (phased 0 .narrowing plane), by decide +kernel, (mkFlit_crcOk ..), by and_intros <;> decide +kernel⟩⟩

theorem witness_PortUpAndNarrowingComplete :
    (∃ (p : Nat) (s : State), isPort p = true ∧ (s.port p).phase = .training 8 ∧ initDone (s.port p).link = true ∧ (s.port p).flushing = false) ∧
    (∃ (p : Nat) (res : List QualRes) (s : State), isPort p = true ∧ (s.port p).phase = .narrowing ∧ (s.port p).narrowStep = 7 ∧ (s.port p).stepAt +
      10000000 ≤ s.svc.now ∧ qualMask s p res % 2 ^ 16 = 0) ∧
    (∃ (p : Nat) (res : List QualRes) (s : State), isPort p = true ∧ (s.port p).phase = .narrowing ∧ (s.port p).narrowStep = 7 ∧ (s.port p).stepAt +
      10000000 ≤ s.svc.now ∧ qualMask s p res % 2 ^ 16 ≠ 0) :=
  ⟨⟨0,
     ((phased 0 (.training 8) plane).onLink 0 (fun l => { l with initSeen := true, initAcked := true, loops := List.replicate 16 7, reserved := [(0, 64)] })),
     by and_intros <;> decide +kernel⟩,
   ⟨0, ([{ lane := 16, errors := 0, bits := 0, efom := 0, lost := true }]),
     ((phased 0 .narrowing plane).onPort 0 (fun q => { q with narrowStep := 7 })), by and_intros <;> decide +kernel⟩,
   ⟨0, ([{ lane := 0, errors := 0, bits := 0, efom := 24, lost := true }]),
     ((phased 0 .narrowing plane).onPort 0 (fun q => { q with narrowStep := 7 })), by and_intros <;> decide +kernel⟩⟩

theorem witness_CoreSettingsAndEgressComplete :
    (∃ (h : MHdr) (inst mode : Nat) (s : State), Serves h [1] s ∧ arbExists inst = true ∧ mode ≤ 1 ∧ (mode = 0 ∨ anyConf s = false)) ∧
    (∃ (h : MHdr) (inst : Nat) (s : State), Serves h [1] s ∧ anyConf s = true) ∧
    (∃ (h : MHdr) (inst : Nat) (clear : Bool) (s : State), Serves h [1, 0] s ∧ arbExists inst = true) ∧
    (∃ (h : MHdr) (o colour lo hi p w : Nat) (s : State), Serves h [1] s ∧ portAbsent s o = false ∧ (isPort o = true ∨ o = 0xFFFF) ∧ colour ≤ 2 ∧ lo ≤
      hi ∧ p ≤ 65535 ∧ (w ≤ 15 ∨ w = 0xFF)) ∧
    (∃ (h : MHdr) (o colour lo hi p w : Nat) (s : State), Serves h [1] s ∧ portAbsent s o = false ∧ 15 < w ∧ w ≠ 0xFF) ∧
    (∃ (p : Nat) (f : Flit) (r : List Flit) (s : State), isPort p = true ∧ s.svc.mod = .ready ∧ (s.port p).phase = .up ∧ 0 < (s.port p).link.resend ∧
      (s.port p).link.retryBuf.drop ((s.port p).link.retryBuf.length - (s.port p).link.resend) = f :: r) ∧
    (∃ (p : Nat) (s : State), isPort p = true ∧ s.svc.mod = .ready ∧ (s.port p).phase = .up ∧ (s.port p).link.resend = 0 ∧ (s.port p).link.txOpen ≠ []
      ∧ 128 ≤ (s.port p).link.retryBuf.length) ∧
    (∃ (p : Nat) (s : State), isPort p = true ∧ s.svc.mod = .ready ∧ (s.port p).phase = .up ∧ (s.port p).link.resend = 0 ∧ (s.port p).link.txOpen ≠ []
      ∧ (s.port p).link.retryBuf.length < 128) ∧
    (∃ (p : Nat) (s : State), isPort p = true ∧ isTrunk p = false ∧ s.svc.mod = .ready ∧ (s.port p).phase = .up ∧ (s.port p).link.resend = 0 ∧ (s.port
      p).link.txOpen = [] ∧ egressAsks p s = [] ∧ (arbOf s (arbKey arbEgress p)).chosen = none) ∧
    (∃ (p vc : Nat) (s : State), isPort p = true ∧ s.svc.mod = .ready ∧ (s.port p).phase = .up ∧ (s.port p).link.resend = 0 ∧ (s.port p).link.txOpen =
      [] ∧
      let u := if isTrunk p then advanceShapers p (now16 s) (gatesNow p s) else s
      egressAsks p u ≠ [] ∧ (arbOf u (arbKey arbEgress p)).chosen = none ∧ (arbOf u (arbKey arbEgress p)).lastBeat = false ∧ egressPick p u
        (egressAsks p u) = some vc) ∧
    (∃ (line p q : Nat) (x y : McEntry) (rest : List Nat) (s : State), line < 64 ∧ isPort p = true ∧ s.svc.mod = .ready ∧ residueFor line p s = some x
      ∧ residueReady s x = q :: rest ∧ (arbOf s (arbKey arbResidue line)).chosen = none ∧ (arbOf s (arbKey arbResidue line)).lastBeat = false ∧
      residueAsks line s ≠ [] ∧
      let t := onArb (arbKey arbResidue line) (fun a => { arbCount false (residueAsks line s) (some q) a with chosen := none }) s
      residueFor line q t = some y) ∧
    (∃ (line p : Nat) (s : State), line < 64 ∧ isPort p = true ∧ s.svc.mod = .ready ∧ residueFor line p s = none ∧ (arbOf s (arbKey arbResidue
      line)).chosen = none) :=
  ⟨⟨(hdr 1), 21008, 1, plane, by unfold Serves Listens; decide +kernel, by and_intros <;> decide +kernel⟩,
   ⟨(hdr 1), 21008, (plane.onSec (fun e => { e with tenants := [(5, { conf := true, memKey := 1 })] })), by unfold Serves Listens; decide +kernel,
     by decide +kernel⟩,
   ⟨(hdr 0), 21008, true, plane, by unfold Serves Listens; decide +kernel, by decide +kernel⟩,
   ⟨(hdr 1), 0xFFFF, 2, 5, 5, 65535, 255, plane, by unfold Serves Listens; decide +kernel, by and_intros <;> decide +kernel⟩,
   ⟨(hdr 1), 0xFFFF, 2, 5, 5, 65535, 16, plane, by unfold Serves Listens; decide +kernel, by and_intros <;> decide +kernel⟩,
   ⟨9, (ctl 0 0), ([]), ((phased 9 .up plane).onLink 9 (fun l => { l with retryBuf := [ctl 0 0], resend := 1 })), by decide +kernel,
     by decide +kernel, by decide +kernel, by decide +kernel, rfl⟩,
   ⟨9, ((phased 9 .up plane).onLink 9 (fun l => { l with txOpen := [0], retryBuf := List.replicate 128 (ctl 0 0) })),
     by and_intros <;> decide +kernel⟩,
   ⟨9, ((phased 9 .up plane).onLink 9 (fun l => { l with txOpen := [0] })), by and_intros <;> decide +kernel⟩,
   ⟨511, (phased 511 .up plane), by and_intros <;> decide +kernel⟩,
   ⟨9, 0, ((phased 9 .up plane).onPort 9 (fun q => { q with tx := [pk opRdLine (mkNode 0 false 8) (mkNode 0 false 9) id] })),
     by and_intros <;> decide +kernel⟩,
   ⟨63, 9, 9, ({ pkt := pk opRdLine (mkNode 0 false 8) (mkNode 0 false 9) id, residue := [9] }),
     ({ pkt := pk opRdLine (mkNode 0 false 8) (mkNode 0 false 9) id, residue := [9] }), ([]),
     ((phased 9 .up plane).onCore (fun c => { c with mcStore := [(63, [{ pkt := pk opRdLine (mkNode 0 false 8) (mkNode 0 false 9) id, residue := [9] }])] })),
     by and_intros <;> decide +kernel⟩,
   ⟨63, 9, plane, by and_intros <;> decide +kernel⟩⟩

theorem witness_AdmissionMovesOrWaits :
    (∃ (p vc : Nat) (s : State), isPort p = true ∧ vc < 6 ∧ s.svc.mod = .ready ∧ headOf p vc s = none) ∧
    (∃ (p vc : Nat) (k : Packet) (t u : State) (s : State), isPort p = true ∧ vc < 6 ∧ s.svc.mod = .ready ∧ headOf p vc s = some (k, none) ∧
      checkPacket p none k s = .inl u ∧ refusalWaits s k = false ∧ checkPacket p none k (takeHead p (k, none) s) = .inl t) ∧
    (∃ (p vc o : Nat) (k : Packet) (s : State), isPort p = true ∧ vc < 6 ∧ s.svc.mod = .ready ∧ headOf p vc s = some (k, none) ∧ checkPacket p none k
      s = .inr o ∧ isClassG s p o k = true) ∧
    (∃ (p vc o a : Nat) (k : Packet) (s : State), isPort p = true ∧ vc < 6 ∧ s.svc.mod = .ready ∧ headOf p vc s = some (k, none) ∧ checkPacket p none
      k s = .inr o ∧ isClassG s p o k = false ∧
      let line := (takeInLine p s).1
      (arbOf s (arbKey arbAdmission line)).chosen = none ∧ (arbOf s (arbKey arbAdmission line)).lastBeat = false ∧ rrPick (arbOf s (arbKey
        arbAdmission line)).rr (admissionAsks line s) = some a) ∧
    (∃ (p vc o : Nat) (k : Packet) (s : State), isPort p = true ∧ vc < 6 ∧ s.svc.mod = .ready ∧ headOf p vc s = some (k, none) ∧ checkPacket p none k
      s = .inr o ∧ isClassG s p o k = false ∧ admissionAsks (takeInLine p s).1 s = [] ∧ (arbOf s (arbKey arbAdmission (takeInLine p s).1)).chosen =
      none) ∧
    (∃ (vc : Nat) (s : State), vc < 6 ∧ s.svc.mod = .ready ∧ s.svc.node ≠ none) ∧
    (∃ (p vc o : Nat) (k : Packet) (s : State), isPort p = true ∧ isSpread p = false ∧ isSpread o = false ∧ o ≠ 0x10000 ∧ k.mcast = false ∧ headOf p
      vc s = some (k, none) ∧ mayEnter p s vc = true ∧ checkPacket p none k s = .inr o ∧ ∃ x, x ≠ p) :=
  ⟨⟨8, 0, plane, by and_intros <;> decide +kernel⟩,
   ⟨8, 0, (pk opRdLine (mkNode 0 false 7) (mkNode 0 false 9) id),
     (discardSrc 8 (pk opRdLine (mkNode 0 false 7) (mkNode 0 false 9) id) (takeHead 8 (pk opRdLine (mkNode 0 false 7) (mkNode 0 false 9) id, none) (((phased 9 .up (phased 8 .up plane)).onPort 8 (fun q => { q with rx := [pk opRdLine (mkNode 0 false 7) (mkNode 0 false 9) id] }))))),
     (discardSrc 8 (pk opRdLine (mkNode 0 false 7) (mkNode 0 false 9) id) (((phased 9 .up (phased 8 .up plane)).onPort 8 (fun q => { q with rx := [pk opRdLine (mkNode 0 false 7) (mkNode 0 false 9) id] })))),
     (((phased 9 .up (phased 8 .up plane)).onPort 8 (fun q => { q with rx := [pk opRdLine (mkNode 0 false 7) (mkNode 0 false 9) id] }))),
     by decide +kernel, by decide +kernel, by decide +kernel, by decide +kernel, rfl, by decide +kernel, rfl⟩,
   ⟨8, 4, 9, (pk opMsgSend (mkNode 0 false 8) (mkNode 0 false 9) (fun p => { p with data := List.replicate 128 0 })),
     (((phased 9 .up (phased 8 .up plane)).onPort 8 (fun q => { q with rx := [pk opMsgSend (mkNode 0 false 8) (mkNode 0 false 9) (fun p => { p with data := List.replicate 128 0 })] })).onPort 8 (fun q => { q with bridge := true })),
     by decide +kernel, by decide +kernel, by decide +kernel, by decide +kernel, rfl, by decide +kernel⟩,
   ⟨8, 0, 9, 8, (pk opRdLine (mkNode 0 false 8) (mkNode 0 false 9) id),
     (((phased 9 .up (phased 8 .up plane)).onPort 8 (fun q => { q with rx := [pk opRdLine (mkNode 0 false 8) (mkNode 0 false 9) id] }))),
     by decide +kernel, by decide +kernel, by decide +kernel, by decide +kernel, rfl, by and_intros <;> decide +kernel⟩,
   ⟨8, 0, 9, (pk opRdLine (mkNode 0 false 8) (mkNode 0 false 9) id),
     (((phased 9 .up (phased 8 .up plane)).onPort 8 (fun q => { q with rx := [pk opRdLine (mkNode 0 false 8) (mkNode 0 false 9) id] })).onCore (fun c => { c with voqs := [{ line := 1, out := 9, vc := 0, pkts := List.replicate 410 { pkt := pk opWrLine (mkNode 0 false 8) (mkNode 0 false 9) id, eline := 1, g := false } }] })),
     by decide +kernel, by decide +kernel, by decide +kernel, by decide +kernel, rfl, by and_intros <;> decide +kernel⟩,
   ⟨0, plane, by and_intros <;> decide +kernel⟩,
   ⟨8, 0, 9, (pk opRdLine (mkNode 0 false 8) (mkNode 0 false 9) id),
     (((phased 9 .up (phased 8 .up plane)).onPort 8 (fun q => { q with rx := [pk opRdLine (mkNode 0 false 8) (mkNode 0 false 9) id] }))),
     by decide +kernel, by decide +kernel, by decide +kernel, by decide +kernel, by decide +kernel, by decide +kernel, by decide +kernel, rfl, 0,
     by decide +kernel⟩⟩

theorem witness_CoreCycleAdvancesByOne :
    (∃ (hit : Option SramHit) (s : State), s.svc.mod = .ready) :=
   ⟨none, plane, by decide +kernel⟩

theorem witness_CellsFollowTheCyclicPattern :
    (∃ (i r : Nat) (v : Voq) (q : QPkt) (rest : List QPkt) (s : State), (arbOf s (arbKey arbStage1 i)).chosen = none ∧ (arbOf s (arbKey arbStage1
      i)).lastBeat = false ∧ s.core.voqs.any (fun v => v.line == i) = true ∧ stage1Pick (arbOf s (arbKey arbStage1 i)).rr ((s.core.voqs.filter (fun v
      => v.line == i && voqReady s v)).map voqReq) = some r ∧ s.core.voqs.find? (isVoq i (r / 8) (r % 8)) = some v ∧ v.line = i ∧ v.out = r / 8 ∧
      v.out ≠ 0x10000 ∧ v.pkts = q :: rest ∧ ∃ j, j ≠ (i + s.core.cycle) % 64) :=
   ⟨63, 72, ({ line := 63, out := 9, vc := 0, pkts := [{ pkt := pk opRdLine (mkNode 0 false 8) (mkNode 0 false 9) id, eline := 1, g := false }] }),
     ({ pkt := pk opRdLine (mkNode 0 false 8) (mkNode 0 false 9) id, eline := 1, g := false }), ([]),
     ((phased 9 .up plane).onCore (fun c => { c with voqs := [{ line := 63, out := 9, vc := 0, pkts := [{ pkt := pk opRdLine (mkNode 0 false 8) (mkNode 0 false 9) id, eline := 1, g := false }] }], cycle := 1 })),
     by decide +kernel, by decide +kernel, by decide +kernel, by decide +kernel, by decide +kernel, by decide +kernel, by decide +kernel,
     by decide +kernel, by decide +kernel, 63, by decide +kernel⟩

theorem witness_HomeRequestsComplete :
    (∃ (port : Nat) (k : Packet) (ecc : Ecc) (s : State), (isPort port = true ∨ port = 0xFFFF) ∧ s.svc.mod = .ready ∧ s.svc.node = some k.dst ∧
      s.svc.hbmResetting = [] ∧ localRoom s 1 = true ∧
      let p := opened s k
      let u := openWin p.src.toNat p.seq (takeLocal k s)
      authCheck p u = .ok ∧ seqClass (u.win p.src.toNat) p.seq = .outside) ∧
    (∃ (port : Nat) (k : Packet) (ecc : Ecc) (s : State), (isPort port = true ∨ port = 0xFFFF) ∧ s.svc.mod = .ready ∧ s.svc.node = some k.dst ∧
      s.svc.hbmResetting = [] ∧ localRoom s 1 = true ∧
      let p := opened s k
      let u := openWin p.src.toNat p.seq (takeLocal k s)
      authCheck p u = .ok ∧ seqClass (u.win p.src.toNat) p.seq = .duplicate) ∧
    (∃ (port : Nat) (k : Packet) (ecc : Ecc) (s : State), (isPort port = true ∨ port = 0xFFFF) ∧ s.svc.mod = .ready ∧ s.svc.node = some k.dst ∧
      s.svc.hbmResetting = [] ∧ localRoom s 1 = true ∧
      let p := opened s k
      let u := openWin p.src.toNat p.seq (takeLocal k s)
      authCheck p u = .ok ∧ seqClass (u.win p.src.toNat) p.seq = .fresh ∧ check7Bad p = true) ∧
    (∃ (port : Nat) (k : Packet) (ecc : Ecc) (s : State), (isPort port = true ∨ port = 0xFFFF) ∧ s.svc.mod = .ready ∧ s.svc.node = some k.dst ∧
      s.svc.hbmResetting = [] ∧ localRoom s 1 = true ∧
      let p := opened s k
      let u := openWin p.src.toNat p.seq (takeLocal k s)
      let v := u.onWin p.src.toNat (accountSeq s.svc.now p.seq)
      authCheck p u = .ok ∧ seqClass (u.win p.src.toNat) p.seq = .fresh ∧ check7Bad p = false ∧ tenantGone p.tenant.toNat v = true) ∧
    (∃ (port : Nat) (k : Packet) (ecc : Ecc) (s : State), (isPort port = true ∨ port = 0xFFFF) ∧ s.svc.mod = .ready ∧ s.svc.node = some k.dst ∧
      s.svc.hbmResetting = [] ∧ localRoom s 1 = true ∧
      let p := opened s k
      let e : Ecc := if k.op = opWrLine then .clean else ecc
      let u := openWin p.src.toNat p.seq (takeLocal k s)
      let v := u.onWin p.src.toNat (accountSeq s.svc.now p.seq)
      authCheck p u = .ok ∧ seqClass (u.win p.src.toNat) p.seq = .fresh ∧ check7Bad p = false ∧ tenantGone p.tenant.toNat v = false ∧ ∃ st, tgtWalk e
        v p.tenant.toNat p.offset.toNat (accessOf p) = .inr st) ∧
    (∃ (port : Nat) (k : Packet) (ecc : Ecc) (s : State), (isPort port = true ∨ port = 0xFFFF) ∧ s.svc.mod = .ready ∧ s.svc.node = some k.dst ∧
      s.svc.hbmResetting = [] ∧ localRoom s 1 = true ∧
      let p := opened s k
      let e : Ecc := if k.op = opWrLine then .clean else ecc
      let u := openWin p.src.toNat p.seq (takeLocal k s)
      let v := u.onWin p.src.toNat (accountSeq s.svc.now p.seq)
      authCheck p u = .ok ∧ seqClass (u.win p.src.toNat) p.seq = .fresh ∧ check7Bad p = false ∧ tenantGone p.tenant.toNat v = false ∧ ∃ a x, tgtWalk e
        v p.tenant.toNat p.offset.toNat (accessOf p) = .inl a ∧ findEntry v.xlat.tgt p.tenant.toNat p.offset.toNat = some x ∧
      let w := touchCache 48 x v
      homeClosed w port = true) ∧
    (∃ (port : Nat) (k : Packet) (ecc : Ecc) (s : State), (isPort port = true ∨ port = 0xFFFF) ∧ s.svc.mod = .ready ∧ s.svc.node = some k.dst ∧
      s.svc.hbmResetting = [] ∧ localRoom s 1 = true ∧
      let p := opened s k
      let e : Ecc := if k.op = opWrLine then .clean else ecc
      let u := openWin p.src.toNat p.seq (takeLocal k s)
      let v := u.onWin p.src.toNat (accountSeq s.svc.now p.seq)
      authCheck p u = .ok ∧ seqClass (u.win p.src.toNat) p.seq = .fresh ∧ check7Bad p = false ∧ tenantGone p.tenant.toNat v = false ∧ ∃ a x, tgtWalk e
        v p.tenant.toNat p.offset.toNat (accessOf p) = .inl a ∧ findEntry v.xlat.tgt p.tenant.toNat p.offset.toNat = some x ∧
      let w := touchCache 48 x v
      homeClosed w port = false ∧ p.release = false) ∧
    (∃ (port : Nat) (k : Packet) (ecc : Ecc) (s : State), (isPort port = true ∨ port = 0xFFFF) ∧ s.svc.mod = .ready ∧ s.svc.node = some k.dst ∧
      s.svc.hbmResetting = [] ∧ localRoom s 1 = true ∧
      let p := opened s k
      let e : Ecc := if k.op = opWrLine then .clean else ecc
      let u := openWin p.src.toNat p.seq (takeLocal k s)
      let v := u.onWin p.src.toNat (accountSeq s.svc.now p.seq)
      authCheck p u = .ok ∧ seqClass (u.win p.src.toNat) p.seq = .fresh ∧ check7Bad p = false ∧ tenantGone p.tenant.toNat v = false ∧ ∃ a x, tgtWalk e
        v p.tenant.toNat p.offset.toNat (accessOf p) = .inl a ∧ findEntry v.xlat.tgt p.tenant.toNat p.offset.toNat = some x ∧
      let w := touchCache 48 x v
      homeClosed w port = false ∧ p.release = true ∧ mayLand (w.win p.src.toNat) p = true) ∧
    (∃ (port : Nat) (k : Packet) (ecc : Ecc) (s : State), (isPort port = true ∨ port = 0xFFFF) ∧ s.svc.mod = .ready ∧ s.svc.node = some k.dst ∧
      s.svc.hbmResetting = [] ∧ localRoom s 1 = true ∧
      let p := opened s k
      let e : Ecc := if k.op = opWrLine then .clean else ecc
      let u := openWin p.src.toNat p.seq (takeLocal k s)
      let v := u.onWin p.src.toNat (accountSeq s.svc.now p.seq)
      authCheck p u = .ok ∧ seqClass (u.win p.src.toNat) p.seq = .fresh ∧ check7Bad p = false ∧ tenantGone p.tenant.toNat v = false ∧ ∃ a x, tgtWalk e
        v p.tenant.toNat p.offset.toNat (accessOf p) = .inl a ∧ findEntry v.xlat.tgt p.tenant.toNat p.offset.toNat = some x ∧
      let w := touchCache 48 x v
      homeClosed w port = false ∧ p.release = true ∧ mayLand (w.win p.src.toNat) p = false) ∧
    (∃ (port : Nat) (k : Packet) (ecc : Ecc) (s : State), (isPort port = true ∨ port = 0xFFFF) ∧ s.svc.mod = .ready ∧ s.svc.node = some k.dst ∧
      s.svc.hbmResetting = [] ∧ localRoom s 1 = true ∧
      let p := opened s k
      let u := openWin p.src.toNat p.seq (takeLocal k s)
      authCheck p u = .fail ∧ seqClass (u.win p.src.toNat) p.seq = .fresh) ∧
    (∃ (port : Nat) (k : Packet) (ecc : Ecc) (s : State), (isPort port = true ∨ port = 0xFFFF) ∧ s.svc.mod = .ready ∧ s.svc.node = some k.dst ∧
      s.svc.hbmResetting = [] ∧ localRoom s 1 = true ∧ ∃ (x : Ecc) (t off acc : Nat), x ≠ .mirror) :=
  ⟨⟨0xFFFF, (pk opWrLine (mkNode 0 false 3) (mkNode 0 true 0) (fun p => { p with seq := 5, offset := 0xFF80, data := List.replicate 128 0 })), .clean,
     ({ plane with home := { exported := true, wins := [(3, { low := 5001, last := 4999999999 })] }, xlat := { tgt := [{ tenant := 0, addr := 0, entry := 0xF }] } }),
     by and_intros <;> decide +kernel⟩,
   ⟨0, (pk opWrLine (mkNode 0 false 3) (mkNode 0 true 0) (fun p => { p with seq := 5, offset := 0xFF80, data := List.replicate 128 0 })), .clean,
     ({ plane with home := { exported := true, wins := [(3, { low := 6, last := 4999999999 })] }, xlat := { tgt := [{ tenant := 0, addr := 0, entry := 0xF }] } }),
     by and_intros <;> decide +kernel⟩,
   ⟨0, (pk opWrLine (mkNode 0 false 3) (mkNode 0 true 0) (fun p => { p with seq := 5, offset := 0xFF81, data := List.replicate 128 0 })), .clean,
     ({ plane with home := { exported := true }, xlat := { tgt := [{ tenant := 0, addr := 0, entry := 0xF }] } }), by and_intros <;> decide +kernel⟩,
   ⟨0, (pk opWrLine (mkNode 0 false 3) (mkNode 0 true 0) (fun p => { p with seq := 5, offset := 0xFF80, data := List.replicate 128 0 })), .clean,
     ({ plane with home := { exported := true }, xlat := { tgt := [{ tenant := 0, addr := 0, entry := 0xF }] }, sec := { tenants := [(0, { conf := false, memKey := 1, rev := some { t0 := 4900000000, fence := 100000000, stage := .fencing } })] } }),
     by and_intros <;> decide +kernel⟩,
   ⟨0, (pk opWrLine (mkNode 0 false 3) (mkNode 0 true 0) (fun p => { p with seq := 5, offset := 0xFF80, data := List.replicate 128 0 })), .clean,
     plane, by decide +kernel, by decide +kernel, by decide +kernel, by decide +kernel, by decide +kernel, by decide +kernel, by decide +kernel,
     by decide +kernel, by decide +kernel, 0x04, by decide +kernel⟩,
   ⟨0, (pk opWrLine (mkNode 0 false 3) (mkNode 0 true 0) (fun p => { p with seq := 5, offset := 0xFF80, data := List.replicate 128 0 })), .clean,
     ({ plane with home := { exported := false }, xlat := { tgt := [{ tenant := 0, addr := 0, entry := 0xF }] } }), by decide +kernel,
     by decide +kernel, by decide +kernel, by decide +kernel, by decide +kernel, by decide +kernel, by decide +kernel, by decide +kernel,
     by decide +kernel, 0xFF80, ({ tenant := 0, addr := 0, entry := 0xF }), by and_intros <;> decide +kernel⟩,
   ⟨0, (pk opRdLine (mkNode 0 false 3) (mkNode 0 true 0) (fun p => { p with seq := 5, offset := 0xFF80 })), .clean,
     ({ plane with home := { exported := true }, xlat := { tgt := [{ tenant := 0, addr := 0, entry := 0xF }] } }), by decide +kernel,
     by decide +kernel, by decide +kernel, by decide +kernel, by decide +kernel, by decide +kernel, by decide +kernel, by decide +kernel,
     by decide +kernel, 0xFF80, ({ tenant := 0, addr := 0, entry := 0xF }), by and_intros <;> decide +kernel⟩,
   ⟨0,
     (pk opWrLine (mkNode 0 false 3) (mkNode 0 true 0) (fun p => { p with seq := 5, offset := 0xFF80, data := List.replicate 128 0, release := true })),
     .clean, ({ plane with home := { exported := true }, xlat := { tgt := [{ tenant := 0, addr := 0, entry := 0xF }] } }), by decide +kernel,
     by decide +kernel, by decide +kernel, by decide +kernel, by decide +kernel, by decide +kernel, by decide +kernel, by decide +kernel,
     by decide +kernel, 0xFF80, ({ tenant := 0, addr := 0, entry := 0xF }), by and_intros <;> decide +kernel⟩,
   ⟨0,
     (pk opWrLine (mkNode 0 false 3) (mkNode 0 true 0) (fun p => { p with seq := 5, offset := 0xFF80, data := List.replicate 128 0, release := true })),
     .clean,
     ({ plane with home := { exported := true, wins := [(3, { low := 3, last := 4999999999 })] }, xlat := { tgt := [{ tenant := 0, addr := 0, entry := 0xF }] } }),
     by decide +kernel, by decide +kernel, by decide +kernel, by decide +kernel, by decide +kernel, by decide +kernel, by decide +kernel,
     by decide +kernel, by decide +kernel, 0xFF80, ({ tenant := 0, addr := 0, entry := 0xF }), by and_intros <;> decide +kernel⟩,
   ⟨0, (pk opWrLine (mkNode 0 false 3) (mkNode 0 true 0) (fun p => { p with seq := 5, offset := 0xFF80, data := List.replicate 128 0 })), .clean,
     ({ plane with home := { exported := true }, xlat := { tgt := [{ tenant := 0, addr := 0, entry := 0xF }] }, sec := { tenants := [(0, { conf := true, memKey := 1 })] } }),
     by and_intros <;> decide +kernel⟩,
   ⟨0, (pk opWrLine (mkNode 0 false 3) (mkNode 0 true 0) (fun p => { p with seq := 5, offset := 0xFF80, data := List.replicate 128 0 })), .clean,
     ({ plane with home := { exported := true }, xlat := { tgt := [{ tenant := 0, addr := 0, entry := 0xF }] } }), by decide +kernel,
     by decide +kernel, by decide +kernel, by decide +kernel, by decide +kernel, .clean, 0, 0xFF80, 0, by decide +kernel⟩⟩

theorem witness_LineOperationsHitTheirLine :
    (∃ (p : Packet) (a : Nat) (s : State), HbmCanonical s ∧ a % 128 = 0 ∧ s.home.failedChannels = [] ∧ s.home.lost = [] ∧ s.queues.qps = [] ∧
      p.data.length = 128 ∧ (∀ k, s.home.owner.find (a / 128) = some k → k = memKeyOf s p.tenant.toNat) ∧ ∃ x, (x < a ∨ a + 128 ≤ x)) ∧
    (∃ (p : Packet) (a : Nat) (s : State), HbmCanonical s ∧ a % 128 = 0 ∧ s.home.failedChannels = [] ∧ s.home.lost = [] ∧ s.queues.qps = [] ∧
      p.data.length = 128 ∧ (∀ k, s.home.owner.find (a / 128) = some k → k = memKeyOf s p.tenant.toNat) ∧ p.op = opRdLine) ∧
    (∃ (p : Packet) (a : Nat) (s : State), HbmCanonical s ∧ a % 128 = 0 ∧ s.home.failedChannels = [] ∧ s.home.lost = [] ∧ s.queues.qps = [] ∧
      p.data.length = 128 ∧ (∀ k, s.home.owner.find (a / 128) = some k → k = memKeyOf s p.tenant.toNat) ∧ p.op = opWrLine) ∧
    (∃ (p : Packet) (a : Nat) (s : State), HbmCanonical s ∧ a % 128 = 0 ∧ s.home.failedChannels = [] ∧ s.home.lost = [] ∧ s.queues.qps = [] ∧
      p.data.length = 128 ∧ (∀ k, s.home.owner.find (a / 128) = some k → k = memKeyOf s p.tenant.toNat) ∧ p.op = opWrMasked ∧ p.mask < 2 ^ 128) ∧
    (∃ (p : Packet) (a : Nat) (s : State), HbmCanonical s ∧ a % 128 = 0 ∧ s.home.failedChannels = [] ∧ s.home.lost = [] ∧ s.queues.qps = [] ∧
      p.data.length = 128 ∧ (∀ k, s.home.owner.find (a / 128) = some k → k = memKeyOf s p.tenant.toNat) ∧ p.op = opAtomic) :=
  ⟨⟨(pk opAtomic (mkNode 0 false 3) (mkNode 0 true 0) (fun p => { p with seq := 5, offset := 0xFF80, oparg := 2, data := List.replicate 128 0, sideBit := true, side := List.replicate 16 0 })),
     0xFF80, plane, by unfold HbmCanonical; decide +kernel, by decide +kernel, by decide +kernel, by decide +kernel, by decide +kernel,
     by decide +kernel, (by intro k h; change none = some k at h; cases h), 0xFF7F, by decide +kernel⟩,
   ⟨(pk opRdLine (mkNode 0 false 3) (mkNode 0 true 0) (fun p => { p with seq := 5, offset := 0xFF80, data := List.replicate 128 0 })), 0xFF80, plane,
     by unfold HbmCanonical; decide +kernel, by decide +kernel, by decide +kernel, by decide +kernel, by decide +kernel, by decide +kernel,
     (by intro k h; change none = some k at h; cases h), by decide +kernel⟩,
   ⟨(pk opWrLine (mkNode 0 false 3) (mkNode 0 true 0) (fun p => { p with seq := 5, offset := 0xFF80, data := List.replicate 128 0 })), 0xFF80, plane,
     by unfold HbmCanonical; decide +kernel, by decide +kernel, by decide +kernel, by decide +kernel, by decide +kernel, by decide +kernel,
     (by intro k h; change none = some k at h; cases h), by decide +kernel⟩,

     ⟨(pk opWrMasked (mkNode 0 false 3) (mkNode 0 true 0) (fun p => { p with seq := 5, offset := 0xFF80, data := List.replicate 128 0, sideBit := true, side := 1 :: List.replicate 15 0 })),
     0xFF80, plane, by unfold HbmCanonical; decide +kernel, by decide +kernel, by decide +kernel, by decide +kernel, by decide +kernel,
     by decide +kernel, (by intro k h; change none = some k at h; cases h), by and_intros <;> decide +kernel⟩,

     ⟨(pk opAtomic (mkNode 0 false 3) (mkNode 0 true 0) (fun p => { p with seq := 5, offset := 0xFF80, oparg := 2, data := List.replicate 128 0, sideBit := true, side := List.replicate 16 0 })),
     0xFF80, plane, by unfold HbmCanonical; decide +kernel, by decide +kernel, by decide +kernel, by decide +kernel, by decide +kernel,
     by decide +kernel, (by intro k h; change none = some k at h; cases h), by decide +kernel⟩⟩

theorem witness_EmptyMaskStoresNothing :
    (∃ (p : Packet) (a : Nat) (ecc : Ecc) (s : State), p.op = opWrMasked ∧ p.mask = 0) ∧
    (∃ (port a : Nat) (k : Packet) (ecc : Ecc) (x : XEntry) (s : State), (isPort port = true ∨ port = 0xFFFF) ∧ s.svc.mod = .ready ∧ s.svc.node = some
      k.dst ∧ s.svc.hbmResetting = [] ∧ localRoom s 1 = true ∧ k.op = opWrMasked ∧
      let p := opened s k
      let u := openWin p.src.toNat p.seq (takeLocal k s)
      let v := u.onWin p.src.toNat (accountSeq s.svc.now p.seq)
      ecc ≠ .mirror ∧ p.mask = 0 ∧ p.release = true ∧ authCheck p u = .ok ∧ seqClass (u.win p.src.toNat) p.seq = .fresh ∧ check7Bad p = false ∧
        tenantGone p.tenant.toNat v = false ∧ tgtTranslate v p.tenant.toNat p.offset.toNat (accessOf p) = .inl a ∧ findEntry v.xlat.tgt p.tenant.toNat
        p.offset.toNat = some x ∧ homeClosed (touchCache 48 x v) port = false ∧ mayLand ((touchCache 48 x v).win p.src.toNat) p = false) ∧
    (∃ (src : Nat) (seq : BitVec 16) (ecc : Ecc) (x : Held) (s : State), s.svc.mod = .ready ∧ s.svc.hbmResetting = [] ∧ (s.win src).held.find? (fun h
      => h.pkt.seq == seq) = some x ∧ x.pkt.op = opWrMasked ∧ x.pkt.mask = 0 ∧ mayLand (s.win src) x.pkt = true) :=
  ⟨⟨(pk opWrMasked (mkNode 0 false 3) (mkNode 0 true 0) (fun p => { p with seq := 5, offset := 0xFF80 })), 0, .uncorrectable, plane,
     by and_intros <;> decide +kernel⟩,
   ⟨0, 0xFF80,
     (pk opWrMasked (mkNode 0 false 3) (mkNode 0 true 0) (fun p => { p with seq := 5, offset := 0xFF80, data := List.replicate 128 0, sideBit := true, side := List.replicate 16 0, release := true })),
     .clean, ({ tenant := 0, addr := 0, entry := 0xF }),
     ({ plane with home := { exported := true, wins := [(3, { low := 3, last := 4999999999 })] }, xlat := { tgt := [{ tenant := 0, addr := 0, entry := 0xF }] } }),
     by decide +kernel, by decide +kernel, by decide +kernel, by decide +kernel, by decide +kernel, by decide +kernel, by decide +kernel,
     by decide +kernel, by decide +kernel, by decide +kernel, by decide +kernel, by decide +kernel, by decide +kernel, rfl,
     by and_intros <;> decide +kernel⟩,
   ⟨3, 5, .clean,
     ({ pkt := pk opWrMasked (mkNode 0 false 3) (mkNode 0 true 0) (fun p => { p with seq := 5, offset := 0xFF80, data := List.replicate 128 0, sideBit := true, side := List.replicate 16 0, release := true }), port := 0 }),
     ({ plane with home := { exported := true, wins := [(3, { low := 6, held := [{ pkt := pk opWrMasked (mkNode 0 false 3) (mkNode 0 true 0) (fun p => { p with seq := 5, offset := 0xFF80, data := List.replicate 128 0, sideBit := true, side := List.replicate 16 0, release := true }), port := 0 }] })] } }),
     by and_intros <;> decide +kernel⟩⟩

theorem witness_HomeEventsComplete :
    (∃ (src : Nat) (seq : BitVec 16) (ecc : Ecc) (x : Held) (s : State), s.svc.mod = .ready ∧ s.svc.hbmResetting = [] ∧ (s.win src).held.find? (fun h
      => h.pkt.seq == seq) = some x ∧ mayLand (s.win src) x.pkt = true) ∧
    (∃ (src : Nat) (s : State), s.svc.mod = .ready) ∧
    (∃ (src : Nat) (w : SrcWin) (s : State), s.svc.mod = .ready ∧ s.home.wins.find src = some w ∧ w.held = [] ∧ w.last + 20000000 ≤ s.svc.now) ∧
    (∃ s : State, s.home.hotWindow ≠ s.svc.now / 1000) ∧
    (∃ (h : MHdr) (s : State), Serves h [1, 0] s) ∧
    (∃ (h : MHdr) (on : Bool) (s : State), Serves h [1] s ∧ findTrans .export_ s.mbx.trans = none ∧ s.home.exported ≠ on) ∧
    (∃ (h : MHdr) (on : Bool) (s : State), Serves h [1] s ∧ findTrans .export_ s.mbx.trans = none ∧ s.home.exported = on) ∧
    (∃ (h : MHdr) (on : Bool) (t : Transition) (s : State), Serves h [1] s ∧ findTrans .export_ s.mbx.trans = some t) ∧
    (∃ (t : Transition) (s : State), findTrans .export_ s.mbx.trans = some t ∧ s.svc.handover = false) :=
  ⟨⟨3, 5, .clean,
     ({ pkt := pk opWrLine (mkNode 0 false 3) (mkNode 0 true 0) (fun p => { p with seq := 5, offset := 0xFF80, data := List.replicate 128 0, release := true }), port := 0 }),
     ({ plane with home := { exported := true, wins := [(3, { low := 6, held := [{ pkt := pk opWrLine (mkNode 0 false 3) (mkNode 0 true 0) (fun p => { p with seq := 5, offset := 0xFF80, data := List.replicate 128 0, release := true }), port := 0 }] })] } }),
     by and_intros <;> decide +kernel⟩,
   ⟨3, plane, by decide +kernel⟩,
   ⟨3, ({ low := 3, last := 4980000000 }), ({ plane with home := { wins := [(3, { low := 3, last := 4980000000 })] } }),
     by and_intros <;> decide +kernel⟩,
   ⟨plane, by decide +kernel⟩,
   ⟨(hdr 0), plane, by unfold Serves Listens; decide +kernel⟩,
   ⟨(hdr 1), true, plane, by unfold Serves Listens; decide +kernel, by and_intros <;> decide +kernel⟩,
   ⟨(hdr 1), false, plane, by unfold Serves Listens; decide +kernel, by and_intros <;> decide +kernel⟩,
   ⟨(hdr 1), true, ({ key := .export_, hdr := hdr 1, opcode := 0x0203 }),
     (plane.onMbx (fun b => { b with trans := [{ key := .export_, hdr := hdr 1, opcode := 0x0203 }] })), by unfold Serves Listens; decide +kernel,
     by decide +kernel⟩,
   ⟨({ key := .export_, hdr := hdr 1, opcode := 0x0203 }),
     (plane.onMbx (fun b => { b with trans := [{ key := .export_, hdr := hdr 1, opcode := 0x0203 }] })), by and_intros <;> decide +kernel⟩⟩

theorem witness_SluiceJudgesHeldReleases :
    (∃ (port st : Nat) (p : Packet) (f : Failure) (ecc : Ecc) (s : State), lowestFailure (s.win p.src.toNat).low (spoilers (s.win p.src.toNat) p) =
      some f ∧ f.status = some st ∧ p.release = true) ∧
    (∃ (w : SrcWin) (p : Packet) (f : Failure) (q : BitVec 16), (q, p.tenant.toNat) ∈ w.early ∧ seqLt w.low f.seq q = true ∧ seqLt w.low q p.seq =
      true) ∧
    (∃ (port : Nat) (p : Packet) (s : State), readsLine p = false) ∧
    (∃ (src : Nat) (q : BitVec 16) (rest : List (BitVec 16)) (s : State), expiredHoles s.svc.now s.home.reqTimeout (s.win src) = q :: rest) ∧
    (∃ (src : Nat) (q : BitVec 16) (rest : List (BitVec 16)) (s : State), expiredHoles s.svc.now s.home.reqTimeout (s.win src) = q :: rest ∧ ∃ n, n ≠
      src) :=
  ⟨⟨0, 0x07,
     (pk opWrLine (mkNode 0 false 3) (mkNode 0 true 0) (fun p => { p with seq := 5, offset := 0xFF80, data := List.replicate 128 0, release := true })),
     ({ seq := 4, tenant := 0, status := some 0x07 }), .clean,
     ({ plane with home := { wins := [(3, { low := 3, failures := [{ seq := 4, tenant := 0, status := some 0x07 }] })] } }),
     by and_intros <;> decide +kernel⟩,
   ⟨({ low := 3, early := [(6, 0)] }), (pk opWrLine (mkNode 0 false 3) (mkNode 0 true 0) (fun p => { p with seq := 9 })),
     ({ seq := 4, tenant := 0, status := some 0x07 }), 6, by and_intros <;> decide +kernel⟩,
   ⟨0, (pk opWrLine (mkNode 0 false 3) (mkNode 0 true 0) id), plane, by decide +kernel⟩,
   ⟨3, 3, ([]), ({ plane with home := { wins := [(3, { low := 3, above := [(4, 4999900000)] })] } }), by decide +kernel⟩,
   ⟨3, 3, ([]), ({ plane with home := { wins := [(3, { low := 3, above := [(4, 4999900000)] })] } }), by decide +kernel, 4, by decide +kernel⟩⟩

theorem witness_ReSendRuleHolds :
    (∃ (r : Request) (st : Nat), r.attempts ≠ 0 ∧ st ≠ 0x01 ∧ st ≠ 0x06) ∧
    (∃ (r : Request) (st : Nat), r.attempts ≠ 0 ∧ (st = 0x01 ∨ st = 0x06) ∧ r.pkt.op = opAtomic) ∧
    (∃ (r : Request) (st : Nat), r.attempts ≠ 0 ∧ (st = 0x01 ∨ st = 0x06) ∧ idempotent r.pkt = true ∧ r.attempts < 4) ∧
    (∃ (r : Request) (st : Nat), r.attempts ≠ 0 ∧ (st = 0x01 ∨ st = 0x06) ∧ idempotent r.pkt = true ∧ 4 ≤ r.attempts) :=
  ⟨⟨({ pkt := pk opRdLine (mkNode 0 false 3) (mkNode 0 true 0) (fun p => { p with seq := 5, offset := 0xFF80, tag := 9 }), purpose := .window 0 0 false true, attempts := 1, sentAt := 4999900000 }),
     0, by and_intros <;> decide +kernel⟩,

     ⟨({ pkt := pk opAtomic (mkNode 0 false 3) (mkNode 0 true 0) (fun p => { p with seq := 5, offset := 0xFF80, tag := 9 }), purpose := .window 0 0 false true, attempts := 1, sentAt := 4999900000 }),
     6, by and_intros <;> decide +kernel⟩,

     ⟨({ pkt := pk opWrMasked (mkNode 0 false 3) (mkNode 0 true 0) (fun p => { p with seq := 5, offset := 0xFF80, tag := 9 }), purpose := .window 0 0 false true, attempts := 3, sentAt := 4999900000 }),
     1, by and_intros <;> decide +kernel⟩,

     ⟨({ pkt := pk opRdLine (mkNode 0 false 3) (mkNode 0 true 0) (fun p => { p with seq := 5, offset := 0xFF80, tag := 9 }), purpose := .window 0 0 false true, attempts := 4, sentAt := 4999900000 }),
     1, by and_intros <;> decide +kernel⟩⟩

theorem witness_ResponsesComplete :
    (∃ (port : Nat) (k : Packet) (s : State), (isPort port = true ∨ port = 0xFFFF) ∧ s.svc.mod = .ready ∧ k.dst = selfNode s ∧
      let p := opened (takeLocal k s) k
      let u := takeLocal k s
      ∃ tag r, acceptResponse port p u = .request tag r) ∧
    (∃ (port : Nat) (k : Packet) (s : State), (isPort port = true ∨ port = 0xFFFF) ∧ s.svc.mod = .ready ∧ k.dst = selfNode s ∧
      let p := opened (takeLocal k s) k
      let u := takeLocal k s
      acceptResponse port p u = .stale) ∧
    (∃ (port : Nat) (k : Packet) (s : State), (isPort port = true ∨ port = 0xFFFF) ∧ s.svc.mod = .ready ∧ k.dst = selfNode s ∧
      let p := opened (takeLocal k s) k
      let u := takeLocal k s
      acceptResponse port p u = .staleKey) ∧
    (∃ (port : Nat) (k : Packet) (s : State), (isPort port = true ∨ port = 0xFFFF) ∧ s.svc.mod = .ready ∧ k.dst = selfNode s ∧
      let p := opened (takeLocal k s) k
      let u := takeLocal k s
      acceptResponse port p u = .badTag) ∧
    (∃ (port : Nat) (k : Packet) (s : State), (isPort port = true ∨ port = 0xFFFF) ∧ s.svc.mod = .ready ∧ k.dst = selfNode s ∧
      let p := opened (takeLocal k s) k
      let u := takeLocal k s
      acceptResponse port p u = .malformed) ∧
    (∃ (port : Nat) (p : Packet) (s : State), s.req.out.find p.tag.toNat = none ∧ responseBad p = false ∧ pastFence p.tenant.toNat s = false ∧
      authCheck p s = .ok) ∧
    (∃ (port tag : Nat) (r : Request) (p : Packet) (s : State), acceptResponse port p s = .request tag r) ∧
    (∃ (tag : BitVec 16) (r : Request) (s : State), s.svc.mod = .ready ∧ s.req.out.find tag.toNat = some r ∧ r.due = false ∧ r.timing = true ∧
      r.sentAt + s.home.reqTimeout ≤ s.svc.now) :=
  ⟨⟨0xFFFF, (pk opRdData (mkNode 0 true 0) (mkNode 0 true 0) (fun p => { p with tag := 9, data := List.replicate 128 0 })),
     ({ plane with req := { out := [(9, { pkt := pk opRdLine (mkNode 0 true 0) (mkNode 0 true 0) (fun p => { p with tag := 9 }), purpose := .jobRead 0 0 0 0, attempts := 1, sentAt := 4999900000, timing := true })] } }),
     by decide +kernel, by decide +kernel, by decide +kernel, 9,
     ({ pkt := pk opRdLine (mkNode 0 true 0) (mkNode 0 true 0) (fun p => { p with tag := 9 }), purpose := .jobRead 0 0 0 0, attempts := 1, sentAt := 4999900000, timing := true }),
     rfl⟩,
   ⟨0, (pk opCmpl (mkNode 0 true 0) (mkNode 0 true 0) (fun p => { p with tag := 9 })), plane, by decide +kernel, by decide +kernel, by decide +kernel,
     rfl⟩,
   ⟨0, (pk opCmpl (mkNode 0 true 0) (mkNode 0 true 0) (fun p => { p with tag := 9 })),
     ({ plane with req := { out := [(9, { pkt := pk opWrLine (mkNode 0 true 0) (mkNode 0 true 0) (fun p => { p with tag := 9 }), purpose := .jobRead 0 0 0 0, attempts := 1, sentAt := 4999900000, timing := true })] }, sec := { tenants := [(0, { conf := true, memKey := 1, rev := some { t0 := 4800000000, fence := 100000000, stage := .erasing } })] } }),
     by decide +kernel, by decide +kernel, by decide +kernel, rfl⟩,
   ⟨0, (pk opRdData (mkNode 0 true 0) (mkNode 0 true 0) (fun p => { p with tag := 9, data := List.replicate 128 0 })),
     ({ plane with req := { out := [(9, { pkt := pk opRdLine (mkNode 0 true 0) (mkNode 0 true 0) (fun p => { p with tag := 9 }), purpose := .jobRead 0 0 0 0, attempts := 1, sentAt := 4999900000, timing := true })] }, sec := { tenants := [(0, { conf := true, memKey := 1 })] } }),
     by decide +kernel, by decide +kernel, by decide +kernel, rfl⟩,
   ⟨0, (pk opAtomicData (mkNode 0 true 0) (mkNode 0 true 0) (fun p => { p with tag := 9, data := List.replicate 128 0, release := true })),
     ({ plane with req := { out := [(9, { pkt := pk opAtomic (mkNode 0 true 0) (mkNode 0 true 0) (fun p => { p with tag := 9 }), purpose := .jobRead 0 0 0 0, attempts := 1, sentAt := 4999900000, timing := true })] } }),
     by decide +kernel, by decide +kernel, by decide +kernel, rfl⟩,
   ⟨0, (pk opCmpl (mkNode 0 true 0) (mkNode 0 true 0) (fun p => { p with tag := 9 })), plane, by and_intros <;> decide +kernel⟩,
   ⟨0, 9,
     ({ pkt := pk opWrLine (mkNode 0 true 0) (mkNode 0 true 0) (fun p => { p with tag := 9 }), purpose := .jobRead 0 0 0 0, attempts := 1, sentAt := 4999900000, timing := true }),
     (pk opCmpl (mkNode 0 true 0) (mkNode 0 true 0) (fun p => { p with tag := 9 })),
     ({ plane with req := { out := [(9, { pkt := pk opWrLine (mkNode 0 true 0) (mkNode 0 true 0) (fun p => { p with tag := 9 }), purpose := .jobRead 0 0 0 0, attempts := 1, sentAt := 4999900000, timing := true })] } }),
     by decide +kernel⟩,
   ⟨9,
     ({ pkt := pk opWrLine (mkNode 0 true 0) (mkNode 0 true 0) (fun p => { p with tag := 9 }), purpose := .jobRead 0 0 0 0, attempts := 1, sentAt := 4999900000, timing := true }),
     ({ plane with req := { out := [(9, { pkt := pk opWrLine (mkNode 0 true 0) (mkNode 0 true 0) (fun p => { p with tag := 9 }), purpose := .jobRead 0 0 0 0, attempts := 1, sentAt := 4999900000, timing := true })] } }),
     by and_intros <;> decide +kernel⟩⟩

theorem witness_WindowCommandsComplete :
    (∃ (h : MHdr) (w : Nat) (d : WinDesc) (s : State), Serves h [0] s ∧ s.svc.bridge = true ∧ s.svc.node ≠ none ∧ w ≤ 15 ∧ winBad s d = false ∧
      findTrans (.window w) s.mbx.trans = none ∧ (s.window w).desc.en = false ∧ (s.window w).desc ≠ d) ∧
    (∃ (h : MHdr) (w : Nat) (d : WinDesc) (s : State), Serves h [0] s ∧ s.svc.bridge = true ∧ s.svc.node ≠ none ∧ w ≤ 15 ∧ winBad s d = false ∧
      findTrans (.window w) s.mbx.trans = none ∧ (s.window w).desc.en = true ∧ (s.window w).desc ≠ d) ∧
    (∃ (h : MHdr) (w : Nat) (d : WinDesc) (s : State), Serves h [0] s ∧ s.svc.bridge = true ∧ s.svc.node ≠ none ∧ w ≤ 15 ∧ winBad s d = false ∧
      findTrans (.window w) s.mbx.trans = none ∧ (s.window w).desc = d) ∧
    (∃ (h : MHdr) (w : Nat) (d : WinDesc) (s : State), Serves h [0] s ∧ s.svc.bridge = true ∧ s.svc.node = none ∧ w ≤ 15) ∧
    (∃ (h : MHdr) (w : Nat) (d : WinDesc) (t : Transition) (s : State), Serves h [0] s ∧ s.svc.bridge = true ∧ s.svc.node ≠ none ∧ w ≤ 15 ∧ winBad s d
      = false ∧ findTrans (.window w) s.mbx.trans = some t) ∧
    (∃ (h : MHdr) (w : Nat) (s : State), Serves h [0] s ∧ s.svc.bridge = true ∧ w ≤ 15 ∧ findTrans (.window w) s.mbx.trans = none ∧ (s.window
      w).desc.en = true) ∧
    (∃ (h : MHdr) (w : Nat) (s : State), Serves h [0] s ∧ s.svc.bridge = true ∧ w ≤ 15 ∧ findTrans (.window w) s.mbx.trans = none ∧ (s.window
      w).desc.en = false) ∧
    (∃ (w : Nat) (t : Transition) (s : State), s.svc.mod = .ready ∧ s.svc.handover = false ∧ findTrans (.window w) s.mbx.trans = some t ∧ windowBusy s
      w = false) ∧
    (∃ (h : MHdr) (w : Nat) (s : State), Serves h [0] s ∧ s.svc.bridge = false) :=
  ⟨⟨(hdr 0), 15,
     ({ en := true, size := 524288, target := 1, tbase := 0, tenant := 0, uncached := false, syncBase := 1, syncLen := 524287, syncScope := 2, failVec := 2047 }),
     ((bridge.onSec (fun e => { e with tenants := [(0, { conf := false, memKey := 1 })] }))), by unfold Serves Listens; decide +kernel,
     by and_intros <;> decide +kernel⟩,
   ⟨(hdr 0), 15,
     ({ en := true, size := 524288, target := 1, tbase := 0, tenant := 0, uncached := false, syncBase := 1, syncLen := 524287, syncScope := 2, failVec := 2047 }),
     ((bridge.onSec (fun e => { e with tenants := [(0, { conf := false, memKey := 1 })] })).onWindow 15 (fun w => { w with desc := { en := true, size := 262144, target := 1, tbase := 0, tenant := 0, uncached := false, syncBase := 1, syncLen := 524287, syncScope := 2, failVec := 2047 } })),
     by unfold Serves Listens; decide +kernel, by and_intros <;> decide +kernel⟩,
   ⟨(hdr 0), 15,
     ({ en := true, size := 524288, target := 1, tbase := 0, tenant := 0, uncached := false, syncBase := 1, syncLen := 524287, syncScope := 2, failVec := 2047 }),
     ((bridge.onSec (fun e => { e with tenants := [(0, { conf := false, memKey := 1 })] })).onWindow 15 (fun w => { w with desc := { en := true, size := 524288, target := 1, tbase := 0, tenant := 0, uncached := false, syncBase := 1, syncLen := 524287, syncScope := 2, failVec := 2047 } })),
     by unfold Serves Listens; decide +kernel, by and_intros <;> decide +kernel⟩,
   ⟨(hdr 0), 15,
     ({ en := true, size := 524288, target := 1, tbase := 0, tenant := 0, uncached := false, syncBase := 1, syncLen := 524287, syncScope := 2, failVec := 2047 }),
     (((bridge.onSec (fun e => { e with tenants := [(0, { conf := false, memKey := 1 })] })).onSvc (fun v => { v with node := none }))),
     by unfold Serves Listens; decide +kernel, by and_intros <;> decide +kernel⟩,
   ⟨(hdr 0), 15,
     ({ en := true, size := 524288, target := 1, tbase := 0, tenant := 0, uncached := false, syncBase := 1, syncLen := 524287, syncScope := 2, failVec := 2047 }),
     ({ key := .window 15, hdr := hdr 0, opcode := 0x0502 }),
     (((bridge.onSec (fun e => { e with tenants := [(0, { conf := false, memKey := 1 })] }))).onMbx (fun b => { b with trans := [{ key := .window 15, hdr := hdr 0, opcode := 0x0502 }] })),
     by unfold Serves Listens; decide +kernel, by and_intros <;> decide +kernel⟩,
   ⟨(hdr 0), 15,
     ((bridge.onWindow 15 (fun w => { w with desc := { en := true, size := 524288, target := 1, tbase := 0, tenant := 0, uncached := false, syncBase := 1, syncLen := 524287, syncScope := 2, failVec := 2047 } }))),
     by unfold Serves Listens; decide +kernel, by and_intros <;> decide +kernel⟩,
   ⟨(hdr 0), 15, bridge, by unfold Serves Listens; decide +kernel, by and_intros <;> decide +kernel⟩,
   ⟨15, ({ key := .window 15, hdr := hdr 0, opcode := 0x0502 }),
     ((bridge).onMbx (fun b => { b with trans := [{ key := .window 15, hdr := hdr 0, opcode := 0x0502 }] })), by and_intros <;> decide +kernel⟩,
   ⟨(hdr 0), 15, plane, by unfold Serves Listens; decide +kernel, by decide +kernel⟩⟩

theorem witness_HostAccessesComplete :
    (∃ (dpa : Nat) (data : List Byte) (be : BitVec 64) (s : State), memReaches s dpa = true) ∧
    (∃ (r : HostReq) (s : State), s.host.waiting = []) ∧
    (∃ (w dpa : Nat) (line half : Nat) (c : CacheLine) (s : State), windowMap (s.window w) (dpa % 2 ^ 40) = some (line, half) ∧ inSync (s.window
      w).desc (dpa % 2 ^ 40) = false ∧ (s.window w).desc.uncached = false ∧ s.host.cache.find? (sameLine (s.window w).desc.tenant (s.window
      w).desc.target line) = some c ∧ ideBlocks s 1 = false) ∧
    (∃ (w dpa : Nat) (s : State), windowMap (s.window w) (dpa % 2 ^ 40) = none ∧ ideBlocks s 1 = false) ∧
    (∃ (dpa : Nat) (s : State), memReaches s dpa = true) :=
  ⟨⟨(2 ^ 44 - 1), ([]), 0, ((bridge.onHost (fun h => { h with hdm := [(0, { base := 0, size := 2 ^ 44, committed := true })] }))), by decide +kernel⟩,
   ⟨({ dpa := 64, write := false, data := [], be := 0 }),
     ((bridge.onWindow 15 (fun w => { w with desc := { en := true, size := 524288, target := 1, tbase := 0, tenant := 0, uncached := false, syncBase := 1, syncLen := 524287, syncScope := 2, failVec := 2047 } }))),
     by decide +kernel⟩,
   ⟨15, (15 * 2 ^ 40 + 64), 0, 1, ({ tenant := 0, node := 1, offset := 0, data := List.replicate 128 1, wins := [15] }),
     ((bridge.onWindow 15 (fun w => { w with desc := { en := true, size := 524288, target := 1, tbase := 0, tenant := 0, uncached := false, syncBase := 1, syncLen := 524287, syncScope := 2, failVec := 2047 } })).onHost (fun h => { h with cache := [{ tenant := 0, node := 1, offset := 0, data := List.replicate 128 1, wins := [15] }] })),
     by and_intros <;> decide +kernel⟩,
   ⟨15, (2 ^ 44 - 1), ((bridge.onHost (fun h => { h with hdm := [(0, { base := 0, size := 2 ^ 44, committed := true })] }))),
     by and_intros <;> decide +kernel⟩,
   ⟨(2 ^ 44 - 1), ((bridge.onHost (fun h => { h with hdm := [(0, { base := 0, size := 2 ^ 44, committed := true })] }))), by decide +kernel⟩⟩

theorem witness_HostLinkCommandsComplete :
    (∃ (sev : Nat) (l : List Nat) (s : State), s.svc.mod = .ready ∧ ioReaches s = true) ∧
    (∃ (sev : Nat) (l : List Nat) (s : State), s.svc.mod = .ready ∧ ioReaches s = true) ∧
    (∃ (s : State),
      let op := leNat (memGetN s.host.cxlRegs Config.deviceCommandAt 2)
      op ∉ [0x0100, 0x0101, 0x0102, 0x0103, 0x0400, 0x0401, 0x4000, 0x4200]) ∧
    (∃ (dec base size ways : Nat) (lock : Bool) (s : State), dec < 4 ∧ ioReaches s = true ∧ ((s.host.hdm.look dec {}).committed && (s.host.hdm.look
      dec {}).lock) = false) ∧
    (∃ (s : State), s.svc.mod = .ready ∧ s.host.perst = false) ∧
    (∃ (n : Nat) (s : State), s.host.ide.find n = some .secure ∧ s.host.linkUp = true) ∧
    (∃ (n x : Nat) (start : Bool) (s : State), s.svc.mod = .ready ∧ s.host.linkUp = true ∧ s.host.ideSession = some x ∧ n < 2) :=
  ⟨⟨3, ([]), ((plane.onHost (fun h => { h with linkUp := true }))), by and_intros <;> decide +kernel⟩,
   ⟨3, ([]), ((plane.onHost (fun h => { h with linkUp := true }))), by and_intros <;> decide +kernel⟩,
   ⟨((plane.onHost (fun h => { h with linkUp := true }))), by decide +kernel⟩,
   ⟨3, (2 ^ 28), (2 ^ 44 - 2 ^ 28), 1, true, ((plane.onHost (fun h => { h with linkUp := true }))), by and_intros <;> decide +kernel⟩,
   ⟨bridge, by and_intros <;> decide +kernel⟩,
   ⟨1, ((plane.onHost (fun h => { h with linkUp := true })).onHost (fun h => { h with ide := [(1, .secure)] })), by and_intros <;> decide +kernel⟩,
   ⟨1, 5, true, ((plane.onHost (fun h => { h with linkUp := true })).onHost (fun h => { h with ideSession := some 5 })),
     by and_intros <;> decide +kernel⟩⟩

theorem witness_MailboxRegistersComplete :
    (∃ (m : Nat) (s : State), m < 8 ∧ boxReached m s = true ∧ (s.box m).busy = false ∧ s.svc.handover = false) ∧
    (∃ (m : Nat) (s : State),
      let b := (s.box m).buf
      let op := leNat (memGetN b 0 2)
      op ≠ 0x0105 ∧ op ≠ 0x0106 ∧
      let got := parse (bufferHdr m b true) op (leNat (memGetN b 8 4)) (memGetN b 16 4080) false []
      ∃ i, got = some (i, true)) ∧
    (∃ (m : Nat) (s : State),
      let b := (s.box m).buf
      let op := leNat (memGetN b 0 2)
      op ≠ 0x0105 ∧ op ≠ 0x0106 ∧
      let got := parse (bufferHdr m b true) op (leNat (memGetN b 8 4)) (memGetN b 16 4080) false []
      got = none ∧ s.svc.mod = .ready) ∧
    (∃ (m : Nat) (s : State), m < 8 ∧ boxReached m s = true ∧ (s.box m).busy = true) ∧
    (∃ (m : Nat) (s : State), m < 8 ∧ boxReached m s = true ∧ (s.box m).busy = false ∧ s.svc.handover = true) ∧
    (∃ (m : Nat) (v : BitVec 32) (s : State), m < 8 ∧ m ≠ 2 ∧ boxReached m s = true ∧ v.getLsbD 0 = true) ∧
    (∃ (m : Nat) (v : BitVec 32) (s : State), m < 8 ∧ boxReached m s = true ∧ (s.box m).waiting = []) ∧
    (∃ (bar o : Nat) (v : BitVec 64) (s : State), regReached s bar = true ∧ o % 4 = 0) ∧
    (∃ (bar o : Nat) (v : BitVec 64) (s : State), regReached s bar = true ∧ o % 8 = 0) ∧
    (∃ (bar o : Nat) (v : BitVec 64) (s : State), regReached s bar = true ∧ ∃ w, w ≠ 32 ∧ w ≠ 64) ∧
    (∃ (r : Nat) (v : BitVec 32) (s : State), s.svc.mod = .ready ∧ ioReaches s = true ∧ s.host.shadows.find r = some v) ∧
    (∃ (r : Nat) (s : State), s.svc.mod = .ready ∧ ioReaches s = true ∧ s.host.shadows.find r = none) :=
  ⟨⟨7, ((plane.onHost (fun h => { h with linkUp := true }))), by and_intros <;> decide +kernel⟩,
   ⟨7, (plane.onBox 7 (fun b => { b with buf := memSetN (memSetN (memSetN [] 0 (leBytes 0x0001 2)) 4 (leBytes 7 4)) 8 (leBytes 0 4) })),
     by decide +kernel, by decide +kernel,
     (.deviceInfo (bufferHdr 7 (memSetN (memSetN (memSetN [] 0 (leBytes 0x0001 2)) 4 (leBytes 7 4)) 8 (leBytes 0 4)) true)), rfl⟩,
   ⟨7, (plane.onBox 7 (fun b => { b with buf := memSetN (memSetN [] 0 (leBytes 0x0FFF 2)) 4 (leBytes 7 4) })), by decide +kernel, by decide +kernel,
     rfl, by decide +kernel⟩,
   ⟨7, ((plane.onHost (fun h => { h with linkUp := true })).onBox 7 (fun b => { b with busy := true })), by and_intros <;> decide +kernel⟩,
   ⟨7, ((plane.onHost (fun h => { h with linkUp := true })).onSvc (fun v => { v with handover := true })), by and_intros <;> decide +kernel⟩,
   ⟨7, 1, ((plane.onHost (fun h => { h with linkUp := true }))), by and_intros <;> decide +kernel⟩,
   ⟨7, 64, ((plane.onHost (fun h => { h with linkUp := true }))), by and_intros <;> decide +kernel⟩,
   ⟨3, 4, 0, plane, by and_intros <;> decide +kernel⟩,
   ⟨0, 8, 0, ((plane.onHost (fun h => { h with linkUp := true }))), by and_intros <;> decide +kernel⟩,
   ⟨0, 8, 0, ((plane.onHost (fun h => { h with linkUp := true }))), by decide +kernel, 16, by and_intros <;> decide +kernel⟩,
   ⟨0, 5, ((plane.onHost (fun h => { h with linkUp := true })).onHost (fun h => { h with shadows := [(0, 5)] })), by and_intros <;> decide +kernel⟩,
   ⟨0, ((plane.onHost (fun h => { h with linkUp := true }))), by and_intros <;> decide +kernel⟩⟩

theorem witness_WriteOneClearsExactlyThoseBits :
    (∃ (v : BitVec 32) (s : State), s.svc.bridge = true ∧ ∃ w, w < 16) ∧
    (∃ (v : BitVec 32) (s : State), s.svc.bridge = false ∧ ∃ o, 0x40000 ≤ o ∧ o < 0x40204) :=
  ⟨⟨0, bridge, by decide +kernel, 15, by decide +kernel⟩,
   ⟨0, plane, by decide +kernel, 0x40203, by and_intros <;> decide +kernel⟩⟩

theorem witness_TranslationCommandsComplete :
    (∃ (h : MHdr) (base size : Nat) (s : State), Serves h [0] s ∧ 2 ^ 26 ≤ size ∧ size ≤ 2 ^ 32 ∧ base % 2 ^ 21 = 0 ∧ size % 2 ^ 21 = 0 ∧ base + size
      ≤ s.svc.fwBase ∧ (∀ f, f ∈ (cfgNow s.flash).retired → ¬ (base ≤ f * 65536 ∧ f * 65536 < base + size))) ∧
    (∃ (h : MHdr) (s : State), Serves h [0] s) ∧
    (∃ (h : MHdr) (kind : Nat) (ups : List XUpd) (s : State), Serves h [0] s ∧ kind ≤ 1 ∧ ups ≠ [] ∧ ups.length ≤ 240 ∧ (kind = 0 → s.svc.node ≠ none)
      ∧ overlapUpdates s kind ups = []) ∧
    (∃ (h : MHdr) (ups : List XUpd) (s : State), Serves h [0] s ∧ ups ≠ [] ∧ ups.length ≤ 240 ∧ s.svc.node = none) ∧
    (∃ (h : MHdr) (kind t a n : Nat) (s : State), Serves h [0] s ∧ kind ≤ 1 ∧ (s.tenant t).isSome = true ∧ rangeBad s kind t a n = false ∧ overlapKeys
      s kind t a n = []) ∧
    (∃ (h : MHdr) (kind t a n : Nat) (ups : List XUpd) (s : State), Serves h [0] s ∧ kind ≤ 1 ∧ s.svc.node ≠ none ∧ (s.tenant t).isSome = true ∧
      rangeBad s kind t a n = false ∧ overlapKeys s kind t a n ≠ []) ∧
    (∃ (h : MHdr) (kind t a n : Nat) (ups : List XUpd) (s : State), Serves h [0] s ∧ kind ≤ 1 ∧ s.svc.node ≠ none ∧ ups ≠ [] ∧ ups.length ≤ 240 ∧
      overlapUpdates s kind ups ≠ []) ∧
    (∃ (i : Instr) (s : State), (∃ x ∈ s.mbx.trans, x.queued = some i)) ∧
    (∃ (kind t a n : Nat) (x : Transition) (s : State), s.svc.mod = .ready ∧ s.svc.handover = false ∧ findTrans (.xlat kind t a n) s.mbx.trans = some
      x ∧ (kind ≠ 0 ∨ rangeQuiet t a n s = true)) :=
  ⟨⟨(hdr 0), 0x2E9E00000, (2 ^ 32), ({ plane with svc := { plane.svc with fwBase := 0x3E9E00000 } }), by unfold Serves Listens; decide +kernel,
     by decide +kernel, by decide +kernel, by decide +kernel, by decide +kernel, by decide +kernel,
     (by intro f h; have e : (cfgNow plane.flash).retired = [] := (by decide +kernel); exact absurd (show f ∈ (cfgNow plane.flash).retired from h) (by rw [e]; exact List.not_mem_nil))⟩,
   ⟨(hdr 0), plane, by unfold Serves Listens; decide +kernel⟩,
   ⟨(hdr 0), 1, (List.replicate 240 { tenant := 5, addr := 0, entry := 0xF }), plane, by unfold Serves Listens; decide +kernel,
     by and_intros <;> decide +kernel⟩,
   ⟨(hdr 0), ([{ tenant := 5, addr := 0, entry := 0xF }]), (plane.onSvc (fun v => { v with node := none })), by unfold Serves Listens; decide +kernel,
     by and_intros <;> decide +kernel⟩,
   ⟨(hdr 0), 1, 5, 0, (2 ^ 38), ((plane.onSec (fun e => { e with tenants := [(5, { conf := false, memKey := 1 })] }))),
     by unfold Serves Listens; decide +kernel, by and_intros <;> decide +kernel⟩,
   ⟨(hdr 0), 1, 5, 0, 65536, ([{ tenant := 5, addr := 0, entry := 0xF }]),
     ((plane.onSec (fun e => { e with tenants := [(5, { conf := false, memKey := 1 })] })).onMbx (fun b => { b with trans := [{ key := .xlat 1 5 0 65536, hdr := hdr 0, opcode := 0x0604 }] })),
     by unfold Serves Listens; decide +kernel, by and_intros <;> decide +kernel⟩,
   ⟨(hdr 0), 1, 5, 0, 65536, ([{ tenant := 5, addr := 0, entry := 0xF }]),
     (plane.onMbx (fun b => { b with trans := [{ key := .xlat 1 5 0 65536, hdr := hdr 0, opcode := 0x0604 }] })),
     by unfold Serves Listens; decide +kernel, by and_intros <;> decide +kernel⟩,
   ⟨(.deviceInfo (hdr 0)),
     (plane.onMbx (fun b => { b with trans := [{ key := .xlat 1 5 0 65536, hdr := hdr 0, opcode := 0x0604, queued := some (.deviceInfo (hdr 0)) }] })),
     (⟨_, List.mem_singleton.mpr rfl, rfl⟩)⟩,
   ⟨1, 5, 0, 65536, ({ key := .xlat 1 5 0 65536, hdr := hdr 0, opcode := 0x0604 }),
     (plane.onMbx (fun b => { b with trans := [{ key := .xlat 1 5 0 65536, hdr := hdr 0, opcode := 0x0604 }] })), by and_intros <;> decide +kernel⟩⟩

theorem witness_InvalidationRemovesTheRange :
    (∃ (kind t a n x : Nat) (s : State), a ≤ x ∧ x < a + n ∧ ∃ y, y ∈ treeOf kind (removeRange kind t a n s).xlat) ∧
    (∃ (kind t a n x : Nat) (s : State), a ≤ x ∧ x < a + n ∧ ∃ y, y ∈ treeOf kind s.xlat ∧ y.tenant ≠ t) :=
  ⟨⟨0, 5, 0, 65536, 65535, (plane.onXlat (fun x => { x with src := [{ tenant := 5, addr := 65536, entry := 0xF }] })), by decide +kernel,
     by decide +kernel, ({ tenant := 5, addr := 65536, entry := 0xF }), by decide +kernel⟩,
   ⟨0, 6, 0, 65536, 65535, (plane.onXlat (fun x => { x with src := [{ tenant := 5, addr := 65536, entry := 0xF }] })), by decide +kernel,
     by decide +kernel, ({ tenant := 5, addr := 65536, entry := 0xF }), by and_intros <;> decide +kernel⟩⟩

theorem witness_FaultHandlingCompletes :
    (∃ (h : MHdr) (base vec timeout : Nat) (s : State), Serves h [0] s ∧ base % 4096 = 0 ∧ vec ≤ 2047 ∧ 100000000 ≤ timeout ∧ timeout ≤ 10000000000) ∧
    (∃ (h : MHdr) (id : BitVec 32) (deny : Bool) (f : PendFault) (s : State), Serves h [0] s ∧ s.xlat.faults.find? (fun f => f.id == some id) = some
      f) ∧
    (∃ (h : MHdr) (id : BitVec 32) (deny : Bool) (s : State), Serves h [0] s ∧ s.xlat.faults.find? (fun f => f.id == some id) = none) ∧
    (∃ (v : BitVec 32) (r : FaultRing) (s : State), s.svc.mod = .ready ∧ ioReaches s = true ∧ s.xlat.ring = some r) ∧
    (∃ (c : Bool) (index context t fva access : Nat) (w : Waiter) (s : State), (if c then index < 16 ∧ context < 4 else index < 32) ∧ s.svc.mod =
      .ready ∧ newWaiter s c index context t (fva / 65536) access = some w ∧ srcTranslate s t fva access ≠ .fault) ∧
    (∃ (c : Bool) (index context t fva access : Nat) (w : Waiter) (s : State), (if c then index < 16 ∧ context < 4 else index < 32) ∧ s.svc.mod =
      .ready ∧ newWaiter s c index context t (fva / 65536) access = some w ∧ srcTranslate s t fva access = .fault ∧ isRevoking s t = true) ∧
    (∃ (c : Bool) (index context t fva access : Nat) (w : Waiter) (s : State), (if c then index < 16 ∧ context < 4 else index < 32) ∧ s.svc.mod =
      .ready ∧ newWaiter s c index context t (fva / 65536) access = some w ∧ srcTranslate s t fva access = .fault ∧ isRevoking s t = false) ∧
    (∃ (t page : Nat) (w : Waiter) (s : State), s.xlat.ring = none) ∧
    (∃ (c : Bool) (index context t fva : Nat) (f : PendFault) (r : FaultRing) (w : Waiter) (s : State), s.svc.mod = .ready ∧ s.xlat.faults.find? (fun
      f => f.tenant == t && f.page == fva / 65536) = some f ∧ s.xlat.ring = some r ∧ f.waiters.find? (fun w => w.cluster == c && w.index == index &&
      w.context == context) = some w ∧ w.at_ + r.timeout ≤ s.svc.now) :=
  ⟨⟨(hdr 0), 4096, 2047, 10000000000, ((plane.onHost (fun h => { h with linkUp := true }))), by unfold Serves Listens; decide +kernel,
     by and_intros <;> decide +kernel⟩,
   ⟨(hdr 0), 3, true,
     ({ tenant := 5, page := 1, waiters := [{ cluster := false, index := 31, context := 7, access := 0, at_ := 0 }], first := { cluster := false, index := 31, context := 7, access := 0, at_ := 0 }, id := some 3 }),
     (((plane.onHost (fun h => { h with linkUp := true })).onXlat (fun x => { x with ring := some { base := 0, vec := 2047, timeout := 10 ^ 9 }, faults := [{ tenant := 5, page := 1, waiters := [{ cluster := false, index := 31, context := 7, access := 0, at_ := 0 }], first := { cluster := false, index := 31, context := 7, access := 0, at_ := 0 }, id := some 3 }] }))),
     by unfold Serves Listens; decide +kernel, by decide +kernel⟩,
   ⟨(hdr 0), 3, true, ((plane.onHost (fun h => { h with linkUp := true }))), by unfold Serves Listens; decide +kernel, by decide +kernel⟩,
   ⟨5, ({ base := 0, vec := 2047, timeout := 10 ^ 9 }),
     (((plane.onHost (fun h => { h with linkUp := true })).onXlat (fun x => { x with ring := some { base := 0, vec := 2047, timeout := 10 ^ 9 }, faults := [{ tenant := 5, page := 1, waiters := [{ cluster := false, index := 31, context := 7, access := 0, at_ := 0 }], first := { cluster := false, index := 31, context := 7, access := 0, at_ := 0 }, id := some 3 }] }))),
     by and_intros <;> decide +kernel⟩,
   ⟨false, 31, 7, 5, 65536, 0, ({ cluster := false, index := 31, context := 7, access := 0, at_ := 5000000000 }),
     ({ plane with queues := { qps := [(7, { tenant := 5, sqFva := 0, sqLog := 6, cqFva := 0, cqLog := 6, lineMode := false, dbFva := 0, mover := 31, vec := 0, jobs := [{ index := 0, op := 1, desc := { fence := false, rel := false, vol := false, cqIrq := false, scope := 0, len := 128, src := 0, dst := 65536, user := 0, arg := 0, pattern := 0, rsv := false }, fault := some (65536, 0) }] })] }, xlat := { src := [{ tenant := 5, addr := 65536, entry := 0xF }] } }),
     by and_intros <;> decide +kernel⟩,
   ⟨false, 31, 7, 5, 65536, 0, ({ cluster := false, index := 31, context := 7, access := 0, at_ := 5000000000 }),
     ({ plane with queues := { qps := [(7, { tenant := 5, sqFva := 0, sqLog := 6, cqFva := 0, cqLog := 6, lineMode := false, dbFva := 0, mover := 31, vec := 0, jobs := [{ index := 0, op := 1, desc := { fence := false, rel := false, vol := false, cqIrq := false, scope := 0, len := 128, src := 0, dst := 65536, user := 0, arg := 0, pattern := 0, rsv := false }, fault := some (65536, 0) }] })] }, sec := { tenants := [(5, { conf := false, memKey := 1, rev := some { t0 := 0, fence := 100000000 } })] } }),
     by and_intros <;> decide +kernel⟩,
   ⟨false, 31, 7, 5, 65536, 0, ({ cluster := false, index := 31, context := 7, access := 0, at_ := 5000000000 }),
     ({ plane with queues := { qps := [(7, { tenant := 5, sqFva := 0, sqLog := 6, cqFva := 0, cqLog := 6, lineMode := false, dbFva := 0, mover := 31, vec := 0, jobs := [{ index := 0, op := 1, desc := { fence := false, rel := false, vol := false, cqIrq := false, scope := 0, len := 128, src := 0, dst := 65536, user := 0, arg := 0, pattern := 0, rsv := false }, fault := some (65536, 0) }] })] } }),
     by and_intros <;> decide +kernel⟩,
   ⟨5, 1, ({ cluster := false, index := 31, context := 7, access := 0, at_ := 0 }), plane, by decide +kernel⟩,
   ⟨false, 31, 7, 5, 65536,
     ({ tenant := 5, page := 1, waiters := [{ cluster := false, index := 31, context := 7, access := 0, at_ := 0 }], first := { cluster := false, index := 31, context := 7, access := 0, at_ := 0 }, id := some 3 }),
     ({ base := 0, vec := 2047, timeout := 10 ^ 9 }), ({ cluster := false, index := 31, context := 7, access := 0, at_ := 0 }),
     (((plane.onHost (fun h => { h with linkUp := true })).onXlat (fun x => { x with ring := some { base := 0, vec := 2047, timeout := 10 ^ 9 }, faults := [{ tenant := 5, page := 1, waiters := [{ cluster := false, index := 31, context := 7, access := 0, at_ := 0 }], first := { cluster := false, index := 31, context := 7, access := 0, at_ := 0 }, id := some 3 }] }))),
     by and_intros <;> decide +kernel⟩⟩

theorem witness_QueuePairsComplete :
    (∃ (h : MHdr) (a : QpArgs) (s : State), Serves h [0, 4, 5, 6, 7] s ∧ tenantOk h a.tenant s = true ∧ isRevoking s a.tenant = false ∧ qpArgsBad a s
      = false) ∧
    (∃ (h : MHdr) (n : Nat) (q : Qp) (s : State), Serves h [0, 4, 5, 6, 7] s ∧ s.qp n = some q ∧ tenantOk h q.tenant s = true ∧ findTrans (.qp n)
      s.mbx.trans = none) ∧
    (∃ (h : MHdr) (n : Nat) (q : Qp) (x : Transition) (s : State), Serves h [0, 4, 5, 6, 7] s ∧ s.qp n = some q ∧ tenantOk h q.tenant s = true ∧
      findTrans (.qp n) s.mbx.trans = some x) ∧
    (∃ (n : Nat) (q : Qp) (t : Transition) (s : State), s.svc.mod = .ready ∧ s.svc.handover = false ∧ findTrans (.qp n) s.mbx.trans = some t ∧ s.qp n
      = some q ∧ q.jobs = []) ∧
    (∃ (n : Nat) (v : BitVec 32) (q : Qp) (s : State), s.svc.mod = .ready ∧ ioReaches s = true ∧ s.qp n = some q ∧ q.lineMode = false) ∧
    (∃ (n : Nat) (v : BitVec 32) (s : State), regMode s n = false) :=
  ⟨⟨(hdr 0),
     ({ qpn := 65535, tenant := 5, sqFva := 64 * 4096, sqLog := 12, cqFva := 32 * 64, cqLog := 6, lineMode := false, dbFva := 0, mover := 31, vec := 2047 }),
     ((plane.onSec (fun e => { e with tenants := [(5, { conf := false, memKey := 1 })] }))), by unfold Serves Listens; decide +kernel,
     by and_intros <;> decide +kernel⟩,
   ⟨(hdr 0), 7, ({ tenant := 5, sqFva := 0, sqLog := 6, cqFva := 0, cqLog := 6, lineMode := false, dbFva := 0, mover := 31, vec := 0 }),
     ({ plane with queues := { qps := [(7, { tenant := 5, sqFva := 0, sqLog := 6, cqFva := 0, cqLog := 6, lineMode := false, dbFva := 0, mover := 31, vec := 0 })] } }),
     by unfold Serves Listens; decide +kernel, by and_intros <;> decide +kernel⟩,
   ⟨(hdr 0), 7, ({ tenant := 5, sqFva := 0, sqLog := 6, cqFva := 0, cqLog := 6, lineMode := false, dbFva := 0, mover := 31, vec := 0 }),
     ({ key := .qp 7, hdr := hdr 0, opcode := 0x0701 }),
     (({ plane with queues := { qps := [(7, { tenant := 5, sqFva := 0, sqLog := 6, cqFva := 0, cqLog := 6, lineMode := false, dbFva := 0, mover := 31, vec := 0 })] } }).onMbx (fun b => { b with trans := [{ key := .qp 7, hdr := hdr 0, opcode := 0x0701 }] })),
     by unfold Serves Listens; decide +kernel, by and_intros <;> decide +kernel⟩,
   ⟨7, ({ tenant := 5, sqFva := 0, sqLog := 6, cqFva := 0, cqLog := 6, lineMode := false, dbFva := 0, mover := 31, vec := 0 }),
     ({ key := .qp 7, hdr := hdr 0, opcode := 0x0701 }),
     (({ plane with queues := { qps := [(7, { tenant := 5, sqFva := 0, sqLog := 6, cqFva := 0, cqLog := 6, lineMode := false, dbFva := 0, mover := 31, vec := 0 })] } }).onMbx (fun b => { b with trans := [{ key := .qp 7, hdr := hdr 0, opcode := 0x0701 }] })),
     by and_intros <;> decide +kernel⟩,
   ⟨7, 64, ({ tenant := 5, sqFva := 0, sqLog := 6, cqFva := 0, cqLog := 6, lineMode := false, dbFva := 0, mover := 31, vec := 0 }),
     ({ plane with queues := { qps := [(7, { tenant := 5, sqFva := 0, sqLog := 6, cqFva := 0, cqLog := 6, lineMode := false, dbFva := 0, mover := 31, vec := 0 })] }, host := { linkUp := true } }),
     by and_intros <;> decide +kernel⟩,
   ⟨7, 64, plane, by decide +kernel⟩⟩

theorem witness_DescriptorsComplete :
    (∃ (n : Nat) (d : Desc) (q : Qp) (s u : State), s.svc.mod = .ready ∧ s.qp n = some q ∧ mayStart s q d = true ∧ d.rsv = false ∧ d.badOp = false ∧
      d.scope ≠ 3#2 ∧ ringGives (ringRead q s) 0 d = some u) ∧
    (∃ (n : Nat) (d : Desc) (q : Qp) (s u : State), s.svc.mod = .ready ∧ s.qp n = some q ∧ mayStart s q d = true ∧ d.rsv = false ∧ d.badOp = false ∧
      d.scope ≠ 3#2 ∧ ringGives (ringRead q s) 1 d = some u) ∧
    (∃ (n : Nat) (d : Desc) (q : Qp) (s u : State), s.svc.mod = .ready ∧ s.qp n = some q ∧ mayStart s q d = true ∧ d.rsv = false ∧ d.badOp = false ∧
      d.scope ≠ 3#2 ∧ ringGives (ringRead q s) 2 d = some u) ∧
    (∃ (n : Nat) (d : Desc) (q : Qp) (s u : State), s.svc.mod = .ready ∧ s.qp n = some q ∧ mayStart s q d = true ∧ d.rsv = false ∧ d.badOp = false ∧
      d.scope ≠ 3#2 ∧ ringGives (ringRead q s) 3 d = some u) ∧
    (∃ (n : Nat) (d : Desc) (q : Qp) (s u : State), s.svc.mod = .ready ∧ s.qp n = some q ∧ mayStart s q d = true ∧ d.rsv = false ∧ d.badOp = false ∧
      d.scope ≠ 3#2 ∧ ringGives (ringRead q s) 4 d = some u) ∧
    (∃ (n : Nat) (d : Desc) (q : Qp) (s u : State), s.svc.mod = .ready ∧ s.qp n = some q ∧ mayStart s q d = true ∧ (d.rsv = true ∨ d.badOp = true ∨
      d.scope = 3#2) ∧ ringGives (ringRead q s) 0 d = some u) ∧
    (∃ (n : Nat) (d : Desc) (q : Qp) (s u : State), s.svc.mod = .ready ∧ s.qp n = some q ∧ mayStart s q d = true ∧ (d.rsv = true ∨ d.badOp = true ∨
      d.scope = 3#2) ∧ ringGives (ringRead q s) 1 d = some u) ∧
    (∃ (n : Nat) (d : Desc) (q : Qp) (s u : State), s.svc.mod = .ready ∧ s.qp n = some q ∧ mayStart s q d = true ∧ (d.rsv = true ∨ d.badOp = true ∨
      d.scope = 3#2) ∧ ringGives (ringRead q s) 2 d = some u) ∧
    (∃ (n : Nat) (d : Desc) (q : Qp) (s u : State), s.svc.mod = .ready ∧ s.qp n = some q ∧ mayStart s q d = true ∧ (d.rsv = true ∨ d.badOp = true ∨
      d.scope = 3#2) ∧ ringGives (ringRead q s) 3 d = some u) ∧
    (∃ (n : Nat) (d : Desc) (q : Qp) (s u : State), s.svc.mod = .ready ∧ s.qp n = some q ∧ mayStart s q d = true ∧ (d.rsv = true ∨ d.badOp = true ∨
      d.scope = 3#2) ∧ ringGives (ringRead q s) 4 d = some u) ∧
    (∃ (n op : Nat) (d : Desc) (row : Instr) (q : Qp) (s : State), s.svc.mod = .ready ∧ s.qp n = some q ∧ mayStart s q d = true ∧ (op, row) ∈ [(0,
      Instr.nop n d), (1, .copy n d), (2, .fill n d), (3, .atomicDescriptor n d), (4, .compute n d)] ∧ ∃ a, ringRead q s = .fault a) ∧
    (∃ (n op : Nat) (d : Desc) (row : Instr) (q : Qp) (s : State), s.svc.mod = .ready ∧ s.qp n = some q ∧ mayStart s q d = true ∧ (op, row) ∈ [(0,
      Instr.nop n d), (1, .copy n d), (2, .fill n d), (3, .atomicDescriptor n d), (4, .compute n d)] ∧ ringRead q s = .bad) ∧
    (∃ (n op : Nat) (d : Desc) (row : Instr) (q : Qp) (s : State), s.svc.mod = .ready ∧ s.qp n = some q ∧ mayStart s q d = true ∧ (op, row) ∈ [(0,
      Instr.nop n d), (1, .copy n d), (2, .fill n d), (3, .atomicDescriptor n d), (4, .compute n d)] ∧ ringRead q s = .waits) ∧
    (∃ (n op : Nat) (d : Desc) (row : Instr) (q : Qp) (s : State), s.svc.mod = .ready ∧ s.qp n = some q ∧ mayStart s q d = true ∧ (op, row) ∈ [(0,
      Instr.nop n d), (1, .copy n d), (2, .fill n d), (3, .atomicDescriptor n d), (4, .compute n d)] ∧ ∃ b t, ringRead q s = .here b t ∧ descOf b ≠
      (op, d)) ∧
    (∃ (n : Nat) (d : Desc) (q : Qp) (s : State), s.svc.mod = .ready ∧ s.qp n = some q ∧ mayStart s q d = false) ∧
    (∃ (n : Nat) (i : BitVec 32) (q : Qp) (j : Job) (s : State), s.svc.mod = .ready ∧ jobOf s n i = some (q, j)) :=
  ⟨⟨7,
     ({ fence := false, rel := false, vol := false, cqIrq := false, scope := 0, len := 0, src := 0, dst := 0, user := 0, arg := 0, pattern := 0, rsv := false }),
     ({ ringQp with sqFva := 0 }),
     ({ plane with queues := { qps := [(7, { ringQp with sqFva := 0 })] }, xlat := { src := [{ tenant := 5, addr := 0, entry := BitVec.ofNat 64 (2 ^ 49 + 0xF) }], tgt := [{ tenant := 5, addr := 0, entry := 0xF }] } }),
     ((moverTranslate ({ ringQp with sqFva := 0 }) 0 0 ({ plane with queues := { qps := [(7, { ringQp with sqFva := 0 })] }, xlat := { src := [{ tenant := 5, addr := 0, entry := BitVec.ofNat 64 (2 ^ 49 + 0xF) }], tgt := [{ tenant := 5, addr := 0, entry := 0xF }] } })).2),
     by and_intros <;> decide +kernel⟩,
   ⟨7,
     ({ fence := false, rel := false, vol := false, cqIrq := false, scope := 0, len := 128, src := 0, dst := 65536, user := 0, arg := 0, pattern := 0, rsv := false }),
     ({ ringQp with sqFva := 0 }),
     ({ plane with queues := { qps := [(7, { ringQp with sqFva := 0 })] }, xlat := { src := [{ tenant := 5, addr := 0, entry := 0xF }] } }),
     ((moverTranslate ({ ringQp with sqFva := 0 }) 0 0 ({ plane with queues := { qps := [(7, { ringQp with sqFva := 0 })] }, xlat := { src := [{ tenant := 5, addr := 0, entry := 0xF }] } })).2),
     by and_intros <;> decide +kernel⟩,
   ⟨7,
     ({ fence := false, rel := false, vol := false, cqIrq := false, scope := 0, len := 128, src := 0, dst := 65536, user := 0, arg := 0, pattern := 0, rsv := false }),
     ({ ringQp with sqFva := 0 }),
     ({ plane with queues := { qps := [(7, { ringQp with sqFva := 0 })] }, xlat := { src := [{ tenant := 5, addr := 0, entry := 0xF }] } }),
     ((moverTranslate ({ ringQp with sqFva := 0 }) 0 0 ({ plane with queues := { qps := [(7, { ringQp with sqFva := 0 })] }, xlat := { src := [{ tenant := 5, addr := 0, entry := 0xF }] } })).2),
     by and_intros <;> decide +kernel⟩,
   ⟨7,
     ({ fence := false, rel := false, vol := false, cqIrq := false, scope := 0, len := 128, src := 0, dst := 65536, user := 0, arg := 0, pattern := 0, rsv := false }),
     ({ ringQp with sqFva := 0 }),
     ({ plane with queues := { qps := [(7, { ringQp with sqFva := 0 })] }, xlat := { src := [{ tenant := 5, addr := 0, entry := 0xF }] } }),
     ((moverTranslate ({ ringQp with sqFva := 0 }) 0 0 ({ plane with queues := { qps := [(7, { ringQp with sqFva := 0 })] }, xlat := { src := [{ tenant := 5, addr := 0, entry := 0xF }] } })).2),
     by and_intros <;> decide +kernel⟩,
   ⟨7,
     ({ fence := false, rel := false, vol := false, cqIrq := false, scope := 0, len := 128, src := 0, dst := 65536, user := 0, arg := 0, pattern := 0, rsv := false }),
     ({ ringQp with sqFva := 0 }),
     ({ plane with queues := { qps := [(7, { ringQp with sqFva := 0 })] }, xlat := { src := [{ tenant := 5, addr := 0, entry := 0xF }] } }),
     ((moverTranslate ({ ringQp with sqFva := 0 }) 0 0 ({ plane with queues := { qps := [(7, { ringQp with sqFva := 0 })] }, xlat := { src := [{ tenant := 5, addr := 0, entry := 0xF }] } })).2),
     by and_intros <;> decide +kernel⟩,
   ⟨7,
     ({ fence := false, rel := false, vol := false, cqIrq := false, scope := 3, len := 128, src := 0, dst := 65536, user := 0, arg := 0, pattern := 0, rsv := false }),
     ({ ringQp with sqFva := 0 }),
     ({ plane with queues := { qps := [(7, { ringQp with sqFva := 0 })] }, xlat := { src := [{ tenant := 5, addr := 0, entry := 0xF }] } }),
     ((moverTranslate ({ ringQp with sqFva := 0 }) 0 0 ({ plane with queues := { qps := [(7, { ringQp with sqFva := 0 })] }, xlat := { src := [{ tenant := 5, addr := 0, entry := 0xF }] } })).2),
     by and_intros <;> decide +kernel⟩,
   ⟨7,
     ({ fence := false, rel := false, vol := false, cqIrq := false, scope := 0, len := 128, src := 0, dst := 65536, user := 0, arg := 0, pattern := 0, rsv := true }),
     ({ ringQp with sqFva := 0 }),
     ({ plane with queues := { qps := [(7, { ringQp with sqFva := 0 })] }, xlat := { src := [{ tenant := 5, addr := 0, entry := 0xF }] } }),
     ((moverTranslate ({ ringQp with sqFva := 0 }) 0 0 ({ plane with queues := { qps := [(7, { ringQp with sqFva := 0 })] }, xlat := { src := [{ tenant := 5, addr := 0, entry := 0xF }] } })).2),
     by and_intros <;> decide +kernel⟩,
   ⟨7,
     ({ fence := false, rel := false, vol := false, cqIrq := false, scope := 3, len := 128, src := 0, dst := 65536, user := 0, arg := 0, pattern := 0, rsv := false }),
     ({ ringQp with sqFva := 0 }),
     ({ plane with queues := { qps := [(7, { ringQp with sqFva := 0 })] }, xlat := { src := [{ tenant := 5, addr := 0, entry := 0xF }] } }),
     ((moverTranslate ({ ringQp with sqFva := 0 }) 0 0 ({ plane with queues := { qps := [(7, { ringQp with sqFva := 0 })] }, xlat := { src := [{ tenant := 5, addr := 0, entry := 0xF }] } })).2),
     by and_intros <;> decide +kernel⟩,
   ⟨7,
     ({ fence := false, rel := false, vol := false, cqIrq := false, scope := 0, len := 128, src := 0, dst := 65536, user := 0, arg := 0, pattern := 0, rsv := true }),
     ({ ringQp with sqFva := 0 }),
     ({ plane with queues := { qps := [(7, { ringQp with sqFva := 0 })] }, xlat := { src := [{ tenant := 5, addr := 0, entry := 0xF }] } }),
     ((moverTranslate ({ ringQp with sqFva := 0 }) 0 0 ({ plane with queues := { qps := [(7, { ringQp with sqFva := 0 })] }, xlat := { src := [{ tenant := 5, addr := 0, entry := 0xF }] } })).2),
     by and_intros <;> decide +kernel⟩,
   ⟨7,
     ({ fence := false, rel := false, vol := false, cqIrq := false, scope := 3, len := 128, src := 0, dst := 65536, user := 0, arg := 0, pattern := 0, rsv := false }),
     ({ ringQp with sqFva := 0 }),
     ({ plane with queues := { qps := [(7, { ringQp with sqFva := 0 })] }, xlat := { src := [{ tenant := 5, addr := 0, entry := 0xF }] } }),
     ((moverTranslate ({ ringQp with sqFva := 0 }) 0 0 ({ plane with queues := { qps := [(7, { ringQp with sqFva := 0 })] }, xlat := { src := [{ tenant := 5, addr := 0, entry := 0xF }] } })).2),
     by and_intros <;> decide +kernel⟩,
   ⟨7, 1,
     ({ fence := false, rel := false, vol := false, cqIrq := false, scope := 0, len := 128, src := 0, dst := 65536, user := 0, arg := 0, pattern := 0, rsv := false }),
     (.copy 7 ({ fence := false, rel := false, vol := false, cqIrq := false, scope := 0, len := 128, src := 0, dst := 65536, user := 0, arg := 0, pattern := 0, rsv := false })),
     ({ ringQp with sqFva := (2 ^ 48 - 64) }), ({ plane with queues := { qps := [(7, { ringQp with sqFva := (2 ^ 48 - 64) })] } }), by decide +kernel,
     by decide +kernel, by decide +kernel, by decide +kernel, (2 ^ 48 - 64), by decide +kernel⟩,
   ⟨7, 2,
     ({ fence := false, rel := false, vol := false, cqIrq := false, scope := 0, len := 128, src := 0, dst := 65536, user := 0, arg := 0, pattern := 0, rsv := false }),
     (.fill 7 ({ fence := false, rel := false, vol := false, cqIrq := false, scope := 0, len := 128, src := 0, dst := 65536, user := 0, arg := 0, pattern := 0, rsv := false })),
     ({ ringQp with sqFva := (2 ^ 48) }), ({ plane with queues := { qps := [(7, { ringQp with sqFva := (2 ^ 48) })] } }),
     by and_intros <;> decide +kernel⟩,
   ⟨7, 3,
     ({ fence := false, rel := false, vol := false, cqIrq := false, scope := 0, len := 128, src := 0, dst := 65536, user := 0, arg := 0, pattern := 0, rsv := false }),
     (.atomicDescriptor 7 ({ fence := false, rel := false, vol := false, cqIrq := false, scope := 0, len := 128, src := 0, dst := 65536, user := 0, arg := 0, pattern := 0, rsv := false })),
     ringQp, ringWaits, by decide +kernel, by decide +kernel, by decide +kernel, by decide +kernel, ringWaits_read⟩,
   ⟨7, 4,
     ({ fence := false, rel := false, vol := false, cqIrq := false, scope := 0, len := 128, src := 0, dst := 65536, user := 0, arg := 0, pattern := 0, rsv := false }),
     (.compute 7 ({ fence := false, rel := false, vol := false, cqIrq := false, scope := 0, len := 128, src := 0, dst := 65536, user := 0, arg := 0, pattern := 0, rsv := false })),
     ({ ringQp with sqFva := 0 }),
     ({ plane with queues := { qps := [(7, { ringQp with sqFva := 0 })] }, xlat := { src := [{ tenant := 5, addr := 0, entry := BitVec.ofNat 64 (2 ^ 49 + 0xF) }], tgt := [{ tenant := 5, addr := 0, entry := 0xF }] } }),
     by decide +kernel, by decide +kernel, by decide +kernel, by decide +kernel, (List.replicate 64 0),
     ((moverTranslate ({ ringQp with sqFva := 0 }) 0 0 ({ plane with queues := { qps := [(7, { ringQp with sqFva := 0 })] }, xlat := { src := [{ tenant := 5, addr := 0, entry := BitVec.ofNat 64 (2 ^ 49 + 0xF) }], tgt := [{ tenant := 5, addr := 0, entry := 0xF }] } })).2),
     by and_intros <;> decide +kernel⟩,
   ⟨7,
     ({ fence := false, rel := false, vol := false, cqIrq := false, scope := 0, len := 128, src := 0, dst := 65536, user := 0, arg := 0, pattern := 0, rsv := false }),
     ({ tenant := 5, sqFva := 0, sqLog := 6, cqFva := 0, cqLog := 6, lineMode := false, dbFva := 0, mover := 31, vec := 0 }),
     ({ plane with queues := { qps := [(7, { tenant := 5, sqFva := 0, sqLog := 6, cqFva := 0, cqLog := 6, lineMode := false, dbFva := 0, mover := 31, vec := 0 })] } }),
     by and_intros <;> decide +kernel⟩,
   ⟨7, 0,
     ({ tenant := 5, sqFva := 0, sqLog := 6, cqFva := 0, cqLog := 6, lineMode := false, dbFva := 0, mover := 31, vec := 0, jobs := [{ index := 0, op := 0, desc := { fence := false, rel := false, vol := false, cqIrq := false, scope := 0, len := 0, src := 0, dst := 65536, user := 0, arg := 0, pattern := 0, rsv := false }, complete := true }] }),
     ({ index := 0, op := 0, desc := { fence := false, rel := false, vol := false, cqIrq := false, scope := 0, len := 0, src := 0, dst := 65536, user := 0, arg := 0, pattern := 0, rsv := false }, complete := true }),
     ({ plane with queues := { qps := [(7, { tenant := 5, sqFva := 0, sqLog := 6, cqFva := 0, cqLog := 6, lineMode := false, dbFva := 0, mover := 31, vec := 0, jobs := [{ index := 0, op := 0, desc := { fence := false, rel := false, vol := false, cqIrq := false, scope := 0, len := 0, src := 0, dst := 65536, user := 0, arg := 0, pattern := 0, rsv := false }, complete := true }] })] } }),
     by and_intros <;> decide +kernel⟩⟩

theorem witness_TrunkCommandsComplete :
    (∃ (h : MHdr) (mask : BitVec 8) (routes : List Nat) (s : State), Serves h [1] s ∧ s.svc.bridge = false ∧ routes.length = ((List.range 8).filter
      (fun k => mask.getLsbD k)).length ∧ (∀ r ∈ routes, r ≤ 2)) ∧
    (∃ (h : MHdr) (port : Nat) (off : Bool) (cir cbs ebs : Nat) (s : State), Serves h [1] s ∧ isPort port = true ∧ portAbsent s port = false ∧ (off =
      false → 1 ≤ cir ∧ cir ≤ 256000 ∧ cbs ≤ 16777216 ∧ ebs ≤ 16777216)) ∧
    (∃ (h : MHdr) (port queue pr pb : Nat) (s : State), Serves h [1] s ∧ isTrunk port = true ∧ portAbsent s port = false ∧ 3 ≤ queue ∧ queue ≤ 7 ∧ 1 ≤
      pr ∧ pr ≤ 256000 ∧ pb ≤ 16777216) ∧
    (∃ (h : MHdr) (port : Nat) (entries : List (BitVec 32)) (base : Nat) (s : State), Serves h [1] s ∧ isTrunk port = true ∧ portAbsent s port = false
      ∧ entries ≠ [] ∧ entries.length ≤ 64 ∧ (∀ e ∈ entries, e.toNat % 8 = 7 ∧ 32 ≤ e.toNat / 256) ∧ base < s.svc.now + 100000) ∧
    (∃ (h : MHdr) (port : Nat) (entries : List (BitVec 32)) (base : Nat) (s : State), Serves h [1] s ∧ isTrunk port = true ∧ portAbsent s port = false
      ∧ entries ≠ [] ∧ entries.length ≤ 64 ∧ (∀ e ∈ entries, e.toNat % 8 = 7 ∧ 32 ≤ e.toNat / 256) ∧ s.svc.now + 100000 ≤ base ∧ (∀ g, (s.trunk
      port).pending = some g → s.svc.now + 100000 < g.base)) ∧
    (∃ (h : MHdr) (port : Nat) (entries : List (BitVec 32)) (base : Nat) (s : State), Serves h [1] s ∧ isTrunk port = true ∧ portAbsent s port = false
      ∧ entries ≠ [] ∧ entries.length ≤ 64 ∧ (∀ e ∈ entries, e.toNat % 8 = 7 ∧ 32 ≤ e.toNat / 256) ∧ s.svc.now + 100000 ≤ base ∧ (∃ g, (s.trunk
      port).pending = some g ∧ g.base ≤ s.svc.now + 100000)) ∧
    (∃ (h : MHdr) (port queue rq burst tokens : Nat) (s : State), Serves h [1] s ∧ isTrunk port = true ∧ portAbsent s port = false ∧ 3 ≤ queue ∧ queue
      ≤ 7 ∧ rq ≤ 256000 ∧ burst ≤ 1048576 ∧ tokens ≤ 1) ∧
    (∃ (now : Nat) (x : TrunkQueue), x.shaperNext = none) ∧
    (∃ (now : Nat) (x : TrunkQueue), now < x.sendingUntil) ∧
    (∃ (now : Nat) (x : TrunkQueue), ∃ y, x.shaperNext = some y ∧ x.sendingUntil ≤ now) ∧
    (∃ (h : MHdr) (period : Nat) (s : State), Serves h [1] s ∧ s.svc.bridge = false ∧ 1000 ≤ period ∧ period ≤ 10000000) ∧
    (∃ (old s : State) (port queue : Nat), sampleP old = sampleP s) ∧
    (∃ (old s : State) (port queue : Nat), sampleP old ≠ sampleP s ∧ s.svc.bridge = false ∧ isTrunk port = true ∧ queue < 8) ∧
    (∃ (h : MHdr) (port queue : Nat) (clear : Bool) (s : State), Serves h [1] s ∧ isTrunk port = true ∧ portAbsent s port = false ∧ queue ≤ 7) ∧
    (∃ (port : Nat) (s : State), isTrunk port = true ∧
      let t := s.trunk port
      let e := t.entryAt + gateInterval (gateNow t)
      e ≤ s.svc.now ∧ (∀ g, t.pending = some g → e < g.base)) ∧
    (∃ (port : Nat) (s : State), isTrunk port = true ∧
      let t := s.trunk port
      let e := t.entryAt + gateInterval (gateNow t)
      s.svc.now < e) ∧
    (∃ (port : Nat) (s : State), isTrunk port = true ∧
      let t := s.trunk port
      let e := t.entryAt + gateInterval (gateNow t)
      ∃ g, t.pending = some g ∧ g.base ≤ e) ∧
    (∃ (port : Nat) (s : State), isTrunk port = true ∧
      let t := s.trunk port
      t.pending = none) ∧
    (∃ (port : Nat) (s : State), isTrunk port = true ∧
      let t := s.trunk port
      ∃ g, t.pending = some g ∧ g.base ≤ s.svc.now) ∧
    (∃ (port : Nat) (s : State), isTrunk port = true ∧
      let t := s.trunk port
      ∃ g, t.pending = some g ∧ s.svc.now < g.base) ∧
    (∃ (port queue : Nat) (s : State), isTrunk port = true ∧ queue < 8) ∧
    (∃ (p now : Nat) (x : TrunkQueue), p ≠ 0 ∧
      let e := (x.win.start / p + 1) * p
      now < e) ∧
    (∃ (p now : Nat) (x : TrunkQueue), p ≠ 0 ∧
      let e := (x.win.start / p + 1) * p
      e ≤ now) :=
  ⟨⟨(hdr 1), 0x81, ([0, 2]), plane, by unfold Serves Listens; decide +kernel, by decide +kernel, by decide +kernel, (by simp)⟩,
   ⟨(hdr 1), 528, false, 256000, 16777216, 0, plane, by unfold Serves Listens; decide +kernel, by decide +kernel, by decide +kernel,
     (fun _ => by decide)⟩,
   ⟨(hdr 1), 528, 7, 256000, 16777216, plane, by unfold Serves Listens; decide +kernel, by and_intros <;> decide +kernel⟩,
   ⟨(hdr 1), 528, ([0x20FF]), 5000099999, plane, by unfold Serves Listens; decide +kernel, by decide +kernel, by decide +kernel, by decide +kernel,
     by decide +kernel, (by simp), by decide +kernel⟩,
   ⟨(hdr 1), 528, (List.replicate 64 0x20FF), 5000100000, plane, by unfold Serves Listens; decide +kernel, by decide +kernel, by decide +kernel,
     by decide +kernel, by decide +kernel, (by simp), by decide +kernel, (by intro g h; change none = some g at h; cases h)⟩,
   ⟨(hdr 1), 528, ([0x20FF]), 5000100000, (plane.onTrunk 528 (fun t => { t with pending := some { entries := [0x20FF], base := 5000100000 } })),
     by unfold Serves Listens; decide +kernel, by decide +kernel, by decide +kernel, by decide +kernel, by decide +kernel, (by simp),
     by decide +kernel, (⟨{ entries := [0x20FF], base := 5000100000 }, rfl, by decide +kernel⟩)⟩,
   ⟨(hdr 1), 528, 7, 256000, 1048576, 1, plane, by unfold Serves Listens; decide +kernel, by and_intros <;> decide +kernel⟩,
   ⟨1000, ({}), by decide +kernel⟩,
   ⟨1000, ({ sendingUntil := 1001 }), by decide +kernel⟩,
   ⟨1000, ({ shaperNext := some none, sendingUntil := 1000 }), none, by and_intros <;> decide +kernel⟩,
   ⟨(hdr 1), 10000000, plane, by unfold Serves Listens; decide +kernel, by and_intros <;> decide +kernel⟩,
   ⟨plane, plane, 528, 7, by decide +kernel⟩,
   ⟨(plane.onSvc (fun v => { v with samplePeriod := 2000 })), plane, 528, 7, by and_intros <;> decide +kernel⟩,
   ⟨(hdr 1), 528, 7, true, plane, by unfold Serves Listens; decide +kernel, by and_intros <;> decide +kernel⟩,
   ⟨528, plane, by decide +kernel, by decide +kernel, (by intro g h; change none = some g at h; cases h)⟩,
   ⟨528, (plane.onTrunk 528 (fun t => { t with entryAt := 5000000000 })), by and_intros <;> decide +kernel⟩,
   ⟨528, (plane.onTrunk 528 (fun t => { t with pending := some { entries := [0x20FF], base := 0 } })), by decide +kernel,
     ({ entries := [0x20FF], base := 0 }), by and_intros <;> decide +kernel⟩,
   ⟨528, plane, by and_intros <;> decide +kernel⟩,
   ⟨528, (plane.onTrunk 528 (fun t => { t with pending := some { entries := [0x20FF], base := 5000000000 } })), by decide +kernel,
     ({ entries := [0x20FF], base := 5000000000 }), by and_intros <;> decide +kernel⟩,
   ⟨528, (plane.onTrunk 528 (fun t => { t with pending := some { entries := [0x20FF], base := 5000000001 } })), by decide +kernel,
     ({ entries := [0x20FF], base := 5000000001 }), by and_intros <;> decide +kernel⟩,
   ⟨528, 7, plane, by and_intros <;> decide +kernel⟩,
   ⟨2000, 1000, ({}), by and_intros <;> decide +kernel⟩,
   ⟨1000, 1000, ({}), by and_intros <;> decide +kernel⟩⟩

theorem witness_MessagesComplete :
    (∃ (port : Nat) (p : Packet) (ecc : Ecc) (s : State), (isPort port = true ∨ port = outLocal) ∧ s.svc.mod = .ready ∧ (p.dst = selfNode s ∨ p.mcast
      = true) ∧ p.op = opMsgSend ∧
      let k := opened s p
      let u := takeLocal p s
      authCheck k u = .ok ∧ flagsBad k = false ∧ k.offset.toNat % 128 = 0 ∧ tenantGone k.tenant.toNat u = false ∧ s.svc.streams.find k.src.toNat =
        none) ∧
    (∃ (port : Nat) (p : Packet) (ecc : Ecc) (s : State), (isPort port = true ∨ port = outLocal) ∧ s.svc.mod = .ready ∧ (p.dst = selfNode s ∨ p.mcast
      = true) ∧ p.op = opMsgSend ∧
      let k := opened s p
      let u := takeLocal p s
      let below := fun (high : BitVec 16) => (high - k.seq).toNat
      authCheck k u = .ok ∧ flagsBad k = false ∧ k.offset.toNat % 128 = 0 ∧ tenantGone k.tenant.toNat u = false ∧ ∃ high m, s.svc.streams.find
        k.src.toNat = some (high, m) ∧ ∃ st, below high < 4096 ∧ m.find k.seq.toNat = some st) ∧
    (∃ (port : Nat) (p : Packet) (ecc : Ecc) (s : State), (isPort port = true ∨ port = outLocal) ∧ s.svc.mod = .ready ∧ (p.dst = selfNode s ∨ p.mcast
      = true) ∧ p.op = opMsgSend ∧
      let k := opened s p
      let u := takeLocal p s
      let below := fun (high : BitVec 16) => (high - k.seq).toNat
      authCheck k u = .ok ∧ flagsBad k = false ∧ k.offset.toNat % 128 = 0 ∧ tenantGone k.tenant.toNat u = false ∧ ∃ high m, s.svc.streams.find
        k.src.toNat = some (high, m) ∧ 4096 ≤ below high ∧ below high < 8192 ∧ msgRestart k = false) ∧
    (∃ (port : Nat) (p : Packet) (ecc : Ecc) (s : State), (isPort port = true ∨ port = outLocal) ∧ s.svc.mod = .ready ∧ (p.dst = selfNode s ∨ p.mcast
      = true) ∧ p.op = opMsgSend ∧
      let k := opened s p
      let u := takeLocal p s
      let below := fun (high : BitVec 16) => (high - k.seq).toNat
      authCheck k u = .ok ∧ flagsBad k = false ∧ k.offset.toNat % 128 = 0 ∧ tenantGone k.tenant.toNat u = false ∧ ∃ high m, s.svc.streams.find
        k.src.toNat = some (high, m) ∧ (below high < 4096 → m.find k.seq.toNat = none) ∧ (msgRestart k = true ∨ below high < 4096 ∨ 8192 ≤ below
        high)) ∧
    (∃ (port : Nat) (p : Packet) (ecc : Ecc) (row : Instr) (s : State), (isPort port = true ∨ port = outLocal) ∧ s.svc.mod = .ready ∧ (p.dst =
      selfNode s ∨ p.mcast = true) ∧ (row = .msgSend port p ecc ∧ p.op = opMsgSend ∨ row = .msgAck port p ∧ p.op = opMsgAck) ∧
      let k := opened s p
      let u := takeLocal p s
      authCheck k u = .ok ∧ (flagsBad k = true ∨ k.offset.toNat % 128 ≠ 0)) ∧
    (∃ (port : Nat) (p : Packet) (ecc : Ecc) (row : Instr) (s : State), (isPort port = true ∨ port = outLocal) ∧ s.svc.mod = .ready ∧ (p.dst =
      selfNode s ∨ p.mcast = true) ∧ (row = .msgSend port p ecc ∧ p.op = opMsgSend ∨ row = .msgAck port p ∧ p.op = opMsgAck) ∧
      let k := opened s p
      let u := takeLocal p s
      authCheck k u = .ok ∧ flagsBad k = false ∧ k.offset.toNat % 128 = 0 ∧ tenantGone k.tenant.toNat u = true) ∧
    (∃ (port : Nat) (p : Packet) (ecc : Ecc) (row : Instr) (s : State), (isPort port = true ∨ port = outLocal) ∧ s.svc.mod = .ready ∧ (p.dst =
      selfNode s ∨ p.mcast = true) ∧ (row = .msgSend port p ecc ∧ p.op = opMsgSend ∨ row = .msgAck port p ∧ p.op = opMsgAck) ∧
      let k := opened s p
      let u := takeLocal p s
      authCheck k u = .stale) ∧
    (∃ (port : Nat) (p : Packet) (ecc : Ecc) (row : Instr) (s : State), (isPort port = true ∨ port = outLocal) ∧ s.svc.mod = .ready ∧ (p.dst =
      selfNode s ∨ p.mcast = true) ∧ (row = .msgSend port p ecc ∧ p.op = opMsgSend ∨ row = .msgAck port p ∧ p.op = opMsgAck) ∧
      let k := opened s p
      let u := takeLocal p s
      authCheck k u = .fail) ∧
    (∃ (port : Nat) (p : Packet) (s : State), (isPort port = true ∨ port = outLocal) ∧ s.svc.mod = .ready ∧ (p.dst = selfNode s ∨ p.mcast = true) ∧
      p.op = opMsgAck ∧
      let k := opened s p
      let u := takeLocal p s
      authCheck k u = .ok ∧ flagsBad k = false ∧ k.offset.toNat % 128 = 0 ∧ tenantGone k.tenant.toNat u = false) ∧
    (∃ (peer : Nat) (seq : BitVec 16) (k : Packet) (first last : Nat) (busy : Bool) (s : State), s.svc.mod = .ready ∧ openSend s peer seq = some (k,
      first, last, busy)) ∧
    (∃ (peer : Nat) (seq : BitVec 16) (s : State), openSend s peer seq = none) ∧
    (∃ (port : Nat) (p : Packet) (s : State), isTrunk port = true ∧ s.svc.mod = .ready ∧ s.svc.node ≠ none ∧ s.svc.bridge = false ∧ p.isMsg = true ∧
      srcOk s port p = true ∧ malformed2 p = false ∧
      let n := portSelf s port
      p.dst = n ∧ unknownDst s (nodePair n) p = false) ∧
    (∃ (port : Nat) (p : Packet) (s : State), isTrunk port = true ∧ s.svc.mod = .ready ∧ s.svc.node ≠ none ∧ s.svc.bridge = false ∧ p.isMsg = true ∧
      srcOk s port p = true ∧ malformed2 p = false ∧
      let n := portSelf s port
      nodePair p.dst = nodePair n ∧ nodeInfra p.dst = false ∧ p.dst ≠ n ∧ (s.port (nodeIndex p.dst)).coreDown = false) ∧
    (∃ (port : Nat) (p : Packet) (s : State), isTrunk port = true ∧ s.svc.mod = .ready ∧ s.svc.node ≠ none ∧ s.svc.bridge = false ∧ p.isMsg = true ∧
      srcOk s port p = true ∧ malformed2 p = false ∧
      let n := portSelf s port
      let east := port == 528
      let near := fun (a b : Nat) => ringDist s east (nodePair n) (nodePair p.dst) = some a ∧ ringDist s east (nodePair n) (nodePair p.src) = some b ∧ a < b
      nodePair p.dst ≠ nodePair n ∧ crossesTo n p.dst = true ∧ (∃ a b, near a b) ∧ (s.port (if east then 512 else 528)).coreDown = false) ∧
    (∃ (port : Nat) (p : Packet) (s : State), isTrunk port = true ∧ s.svc.mod = .ready ∧ s.svc.node ≠ none ∧ s.svc.bridge = false ∧ p.isMsg = true ∧
      srcOk s port p = true ∧ malformed2 p = false ∧
      let n := portSelf s port
      let east := port == 528
      let near := fun (a b : Nat) => ringDist s east (nodePair n) (nodePair p.dst) = some a ∧ ringDist s east (nodePair n) (nodePair p.src) = some b ∧ a < b
      nodePair p.dst ≠ nodePair n ∧ crossesTo n p.dst = true ∧ (¬ ∃ a b, near a b)) :=
  ⟨⟨0, (pk opMsgSend (mkNode 0 false 3) (mkNode 0 true 0) (fun p => { p with seq := 5, data := List.replicate 128 0 })), .clean, plane,
     by and_intros <;> decide +kernel⟩,
   ⟨0, (pk opMsgSend (mkNode 0 false 3) (mkNode 0 true 0) (fun p => { p with seq := 5, data := List.replicate 128 0 })), .clean,
     (plane.onSvc (fun v => { v with streams := [(3, (4100, [(5, 4)]))] })), by decide +kernel, by decide +kernel, by decide +kernel,
     by decide +kernel, by decide +kernel, by decide +kernel, by decide +kernel, by decide +kernel, 4100, ([(5, 4)]), by decide +kernel, 4,
     by and_intros <;> decide +kernel⟩,
   ⟨0, (pk opMsgSend (mkNode 0 false 3) (mkNode 0 true 0) (fun p => { p with seq := 5, data := List.replicate 128 0 })), .clean,
     (plane.onSvc (fun v => { v with streams := [(3, (4101, []))] })), by decide +kernel, by decide +kernel, by decide +kernel, by decide +kernel,
     by decide +kernel, by decide +kernel, by decide +kernel, by decide +kernel, 4101, ([]), by and_intros <;> decide +kernel⟩,
   ⟨0, (pk opMsgSend (mkNode 0 false 3) (mkNode 0 true 0) (fun p => { p with seq := 5, data := List.replicate 128 0 })), .clean,
     (plane.onSvc (fun v => { v with streams := [(3, (8197, []))] })), by decide +kernel, by decide +kernel, by decide +kernel, by decide +kernel,
     by decide +kernel, by decide +kernel, by decide +kernel, by decide +kernel, 8197, ([]), by decide +kernel, (fun _ => rfl), by decide +kernel⟩,
   ⟨0, (pk opMsgSend (mkNode 0 false 3) (mkNode 0 true 0) (fun p => { p with seq := 5, data := List.replicate 128 0, release := true })), .clean,
     (.msgSend 0 (pk opMsgSend (mkNode 0 false 3) (mkNode 0 true 0) (fun p => { p with seq := 5, data := List.replicate 128 0, release := true })) .clean),
     plane, by decide +kernel, by decide +kernel, by decide +kernel, (.inl ⟨rfl, rfl⟩), by and_intros <;> decide +kernel⟩,
   ⟨0, (pk opMsgSend (mkNode 0 false 3) (mkNode 0 true 0) (fun p => { p with seq := 5, data := List.replicate 128 0 })), .clean,
     (.msgSend 0 (pk opMsgSend (mkNode 0 false 3) (mkNode 0 true 0) (fun p => { p with seq := 5, data := List.replicate 128 0 })) .clean),
     ({ plane with sec := { revoked := [(0, false)] } }), by decide +kernel, by decide +kernel, by decide +kernel, (.inl ⟨rfl, rfl⟩),
     by and_intros <;> decide +kernel⟩,
   ⟨0, (pk opMsgSend (mkNode 0 false 3) (mkNode 0 true 0) (fun p => { p with seq := 5, data := List.replicate 128 0 })), .clean,
     (.msgSend 0 (pk opMsgSend (mkNode 0 false 3) (mkNode 0 true 0) (fun p => { p with seq := 5, data := List.replicate 128 0 })) .clean),
     ({ plane with sec := { revoked := [(0, true)] } }), by decide +kernel, by decide +kernel, by decide +kernel, (.inl ⟨rfl, rfl⟩),
     by decide +kernel⟩,
   ⟨0, (pk opMsgSend (mkNode 0 false 3) (mkNode 0 true 0) (fun p => { p with seq := 5, data := List.replicate 128 0 })), .clean,
     (.msgSend 0 (pk opMsgSend (mkNode 0 false 3) (mkNode 0 true 0) (fun p => { p with seq := 5, data := List.replicate 128 0 })) .clean),
     ({ plane with sec := { tenants := [(0, { conf := true, memKey := 1 })] } }), by decide +kernel, by decide +kernel, by decide +kernel,
     (.inl ⟨rfl, rfl⟩), by decide +kernel⟩,
   ⟨0, (pk opMsgAck (mkNode 0 false 3) (mkNode 0 true 0) (fun p => { p with seq := 5 })),
     (plane.onSvc (fun v => { v with sends := [(3, 5, pk opMsgSend (mkNode 0 true 0) (mkNode 0 false 3) (fun p => { p with seq := 5 }), 4900000000, 4999000000, false)] })),
     by and_intros <;> decide +kernel⟩,
   ⟨3, 5, (pk opMsgSend (mkNode 0 true 0) (mkNode 0 false 3) (fun p => { p with seq := 5 })), 4900000000, 4999000000, false,
     (plane.onSvc (fun v => { v with sends := [(3, 5, pk opMsgSend (mkNode 0 true 0) (mkNode 0 false 3) (fun p => { p with seq := 5 }), 4900000000, 4999000000, false)] })),
     by and_intros <;> decide +kernel⟩,
   ⟨3, 5, plane, by decide +kernel⟩,
   ⟨528, (pk opMsgSend (mkNode 1 true 0) (mkNode 0 true 0) (fun p => { p with data := List.replicate 128 0 })),
     (plane.onSvc (fun v => { v with ring := some 0x07 })), by and_intros <;> decide +kernel⟩,
   ⟨528, (pk opMsgSend (mkNode 1 true 0) (mkNode 0 false 3) (fun p => { p with data := List.replicate 128 0 })),
     ((plane.onSvc (fun v => { v with ring := some 0x07 })).onPort 3 (fun q => { q with coreDown := false })), by and_intros <;> decide +kernel⟩,
   ⟨528, (pk opMsgSend (mkNode 2 true 0) (mkNode 1 true 0) (fun p => { p with data := List.replicate 128 0 })),
     ((plane.onSvc (fun v => { v with ring := some 0x07 })).onPort 512 (fun q => { q with coreDown := false })), by decide +kernel, by decide +kernel,
     by decide +kernel, by decide +kernel, by decide +kernel, by decide +kernel, by decide +kernel, by decide +kernel, by decide +kernel,
     (⟨1, 2, by decide +kernel, by decide +kernel, by decide +kernel⟩), by decide +kernel⟩,
   ⟨528, (pk opMsgSend (mkNode 1 true 0) (mkNode 2 true 0) (fun p => { p with data := List.replicate 128 0 })),
     (plane.onSvc (fun v => { v with ring := some 0x07 })), by decide +kernel, by decide +kernel, by decide +kernel, by decide +kernel,
     by decide +kernel, by decide +kernel, by decide +kernel, by decide +kernel, by decide +kernel,
     (by rintro ⟨a, b, h1, h2, h3⟩; have e1 : some a = some 2 := h1.symm.trans (by decide +kernel); have e2 : some b = some 1 := h2.symm.trans (by decide +kernel); injection e1; injection e2; omega)⟩⟩

theorem witness_MaskHandshakeCompletes :
    (∃ (h : MHdr) (e : Nat) (bits : BitVec 32) (s : State), Serves h [1] s ∧ s.svc.bridge = false ∧ e < 8192) ∧
    (∃ (port : Nat) (p : Packet) (s : State), (isPort port = true ∨ port = outLocal) ∧ s.svc.mod = .ready ∧ (p.dst = selfNode s ∨ p.mcast = true) ∧
      let k := opened s p
      p.op = opMaskSet ∧ flagsBad k = false ∧ k.offset.toNat % 128 = 0) ∧
    (∃ (port : Nat) (p : Packet) (s : State), (isPort port = true ∨ port = outLocal) ∧ s.svc.mod = .ready ∧ (p.dst = selfNode s ∨ p.mcast = true) ∧
      let k := opened s p
      p.op = opMaskAck ∧ flagsBad k = false ∧ k.offset.toNat % 128 = 0) ∧
    (∃ (port : Nat) (p : Packet) (s : State), (isPort port = true ∨ port = outLocal) ∧ s.svc.mod = .ready ∧ (p.dst = selfNode s ∨ p.mcast = true) ∧
      let k := opened s p
      (flagsBad k = true ∨ k.offset.toNat % 128 ≠ 0) ∧ p.op = opMaskSet) ∧
    (∃ (port : Nat) (p : Packet) (s : State), (isPort port = true ∨ port = outLocal) ∧ s.svc.mod = .ready ∧ (p.dst = selfNode s ∨ p.mcast = true) ∧
      let k := opened s p
      (flagsBad k = true ∨ k.offset.toNat % 128 ≠ 0) ∧ p.op = opMaskAck) ∧
    (∃ (i : Nat) (bits : BitVec 32) (r : Requester) (k : Nat), k < 64 ∧ i < 64) :=
  ⟨⟨(hdr 1), 8191, 0, plane, by unfold Serves Listens; decide +kernel, by and_intros <;> decide +kernel⟩,
   ⟨0, (pk opMaskSet (mkNode 0 true 63) (mkNode 0 false 0) (fun p => { p with oparg := 5 })), bridge, by and_intros <;> decide +kernel⟩,
   ⟨0, (pk opMaskAck (mkNode 0 false 3) (mkNode 0 true 0) (fun p => { p with oparg := 5 })), plane, by and_intros <;> decide +kernel⟩,
   ⟨0, (pk opMaskSet (mkNode 0 true 63) (mkNode 0 false 0) (fun p => { p with oparg := 5, release := true })), bridge,
     by and_intros <;> decide +kernel⟩,
   ⟨0, (pk opMaskAck (mkNode 0 false 3) (mkNode 0 true 0) (fun p => { p with oparg := 5, offset := 1 })), plane, by and_intros <;> decide +kernel⟩,
   ⟨63, 0, ({}), 63, by and_intros <;> decide +kernel⟩⟩

theorem witness_TenantLifeCycleCompletes :
    (∃ (h : MHdr) (t : Nat) (conf : Bool) (s : State), Serves h [0] s ∧ t ≤ 1023) ∧
    (∃ (h : MHdr) (t fence : Nat) (s : State), Serves h [0] s ∧ t ≤ 1023 ∧ 100000 ≤ fence ∧ fence ≤ 100000000 ∧ findTrans (.tenant t) s.mbx.trans =
      none ∧ (s.tenant t = none ∨ isRevoking s t = true)) ∧
    (∃ (h : MHdr) (t fence : Nat) (s : State), Serves h [0] s ∧ t ≤ 1023 ∧ 100000 ≤ fence ∧ fence ≤ 100000000 ∧ findTrans (.tenant t) s.mbx.trans =
      none ∧ (s.tenant t).isSome = true ∧ isRevoking s t = false) ∧
    (∃ (h : MHdr) (t fence : Nat) (s : State), Serves h [0] s ∧ t ≤ 1023 ∧ 100000 ≤ fence ∧ fence ≤ 100000000 ∧ ∃ x, findTrans (.tenant t) s.mbx.trans
      = some x) ∧
    (∃ (t : Nat) (s : State), ∃ x r, s.tenant t = some x ∧ x.rev = some r ∧ r.stage = .fencing ∧ r.t0 + r.fence ≤ s.svc.now) ∧
    (∃ (t : Nat) (s : State), ∃ x r, s.tenant t = some x ∧ x.rev = some r ∧ (r.stage = .erasing ∨ s.svc.now < r.t0 + r.fence)) ∧
    (∃ (t : Nat) (s : State), isRevoking s t = false) ∧
    (∃ (t : Nat) (x : Tenant) (r : Revocation) (s : State), s.tenant t = some x ∧ x.rev = some r ∧ r.stage = .fencing) ∧
    (∃ (t : Nat) (x : Tenant) (r : Revocation) (s : State), s.tenant t = some x ∧ x.rev = some r ∧ r.stage = .erasing ∧ findTrans (.tenant t)
      s.mbx.trans = none) ∧
    (∃ (t : Nat) (x : Tenant) (r : Revocation) (s : State), s.tenant t = some x ∧ x.rev = some r ∧ r.stage = .erasing ∧ ∃ y, findTrans (.tenant t)
      s.mbx.trans = some y ∧ s.svc.handover = false ∧ y.queued = none) ∧
    (∃ (t : Nat) (x : Tenant) (r : Revocation) (s : State), s.tenant t = some x ∧ x.rev = some r ∧ r.stage = .erasing ∧ ∃ y, findTrans (.tenant t)
      s.mbx.trans = some y ∧ s.svc.handover = false ∧ ∃ h f, y.queued = some (.tenantRevoke h t f)) ∧
    (∃ (t : Nat) (x : Tenant) (s : State), s.tenant t = some x) ∧
    (∃ (t : Nat) (x : Tenant) (s : State), s.tenant t = some x) ∧
    (∃ (t : Nat) (x : Tenant) (s : State), s.tenant t = some x) ∧
    (∃ (t : Nat) (x : Tenant) (s : State), s.tenant t = some x) ∧
    (∃ (t : Nat) (x : Tenant) (s : State), s.tenant t = some x) ∧
    (∃ (t : Nat) (x : Tenant) (s : State), s.tenant t = some x ∧ ∃ u, u ≠ t) :=
  ⟨⟨(hdr 0), 1023, true, plane, by unfold Serves Listens; decide +kernel, by decide +kernel⟩,
   ⟨(hdr 0), 1023, 100000, plane, by unfold Serves Listens; decide +kernel, by decide +kernel, by decide +kernel, by decide +kernel,
     by decide +kernel, (.inl rfl)⟩,
   ⟨(hdr 0), 1023, 100000000, ({ plane with sec := { tenants := [(1023, { conf := false, memKey := 1 })] } }),
     by unfold Serves Listens; decide +kernel, by and_intros <;> decide +kernel⟩,
   ⟨(hdr 0), 1023, 100000, ((plane).onMbx (fun b => { b with trans := [{ key := .tenant 1023, hdr := hdr 0, opcode := 0x0A02 }] })),
     by unfold Serves Listens; decide +kernel, by decide +kernel, by decide +kernel, by decide +kernel,
     ({ key := .tenant 1023, hdr := hdr 0, opcode := 0x0A02 }), by decide +kernel⟩,
   ⟨1023,
     ({ plane with sec := { tenants := [(1023, { conf := false, memKey := 1, rev := some { t0 := 4900000000, fence := 100000000, stage := .fencing } })] } }),
     ({ conf := false, memKey := 1, rev := some { t0 := 4900000000, fence := 100000000, stage := .fencing } }),
     ({ t0 := 4900000000, fence := 100000000, stage := .fencing }), by and_intros <;> decide +kernel⟩,
   ⟨1023,
     ({ plane with sec := { tenants := [(1023, { conf := false, memKey := 1, rev := some { t0 := 4900000001, fence := 100000000, stage := .fencing } })] } }),
     ({ conf := false, memKey := 1, rev := some { t0 := 4900000001, fence := 100000000, stage := .fencing } }),
     ({ t0 := 4900000001, fence := 100000000, stage := .fencing }), by and_intros <;> decide +kernel⟩,
   ⟨1023, plane, by decide +kernel⟩,
   ⟨1023, ({ conf := false, memKey := 1, rev := some { t0 := 4900000000, fence := 100000000, stage := .fencing } }),
     ({ t0 := 4900000000, fence := 100000000, stage := .fencing }),
     ({ plane with sec := { tenants := [(1023, { conf := false, memKey := 1, rev := some { t0 := 4900000000, fence := 100000000, stage := .fencing } })] } }),
     by and_intros <;> decide +kernel⟩,
   ⟨1023, ({ conf := false, memKey := 1, rev := some { t0 := 4900000000, fence := 100000000, stage := .erasing } }),
     ({ t0 := 4900000000, fence := 100000000, stage := .erasing }),
     ({ plane with sec := { tenants := [(1023, { conf := false, memKey := 1, rev := some { t0 := 4900000000, fence := 100000000, stage := .erasing } })] } }),
     by and_intros <;> decide +kernel⟩,
   ⟨1023, ({ conf := false, memKey := 1, rev := some { t0 := 4900000000, fence := 100000000, stage := .erasing } }),
     ({ t0 := 4900000000, fence := 100000000, stage := .erasing }),
     (({ plane with sec := { tenants := [(1023, { conf := false, memKey := 1, rev := some { t0 := 4900000000, fence := 100000000, stage := .erasing } })] } }).onMbx (fun b => { b with trans := [{ key := .tenant 1023, hdr := hdr 0, opcode := 0x0A02 }] })),
     by decide +kernel, by decide +kernel, by decide +kernel, ({ key := .tenant 1023, hdr := hdr 0, opcode := 0x0A02 }),
     by and_intros <;> decide +kernel⟩,
   ⟨1023, ({ conf := false, memKey := 1, rev := some { t0 := 4900000000, fence := 100000000, stage := .erasing } }),
     ({ t0 := 4900000000, fence := 100000000, stage := .erasing }),
     (({ plane with sec := { tenants := [(1023, { conf := false, memKey := 1, rev := some { t0 := 4900000000, fence := 100000000, stage := .erasing } })] } }).onMbx (fun b => { b with trans := [{ key := .tenant 1023, hdr := hdr 0, opcode := 0x0A02, queued := some (.tenantRevoke (hdr 0) 1023 100000) }] })),
     by decide +kernel, by decide +kernel, by decide +kernel,
     ({ key := .tenant 1023, hdr := hdr 0, opcode := 0x0A02, queued := some (.tenantRevoke (hdr 0) 1023 100000) }), by decide +kernel,
     by decide +kernel, (hdr 0), 100000, by decide +kernel⟩,
   ⟨1023, ({ conf := false, memKey := 1 }), ({ plane with sec := { tenants := [(1023, { conf := false, memKey := 1 })] } }), by decide +kernel⟩,
   ⟨1023, ({ conf := false, memKey := 1 }), ({ plane with sec := { tenants := [(1023, { conf := false, memKey := 1 })] } }), by decide +kernel⟩,
   ⟨1023, ({ conf := false, memKey := 1 }), ({ plane with sec := { tenants := [(1023, { conf := false, memKey := 1 })] } }), by decide +kernel⟩,
   ⟨1023, ({ conf := false, memKey := 1 }), ({ plane with sec := { tenants := [(1023, { conf := false, memKey := 1 })] } }), by decide +kernel⟩,
   ⟨1023, ({ conf := false, memKey := 1 }), ({ plane with sec := { tenants := [(1023, { conf := false, memKey := 1 })] } }), by decide +kernel⟩,
   ⟨1023, ({ conf := false, memKey := 1 }), ({ plane with sec := { tenants := [(1023, { conf := false, memKey := 1 })] } }), by decide +kernel, 0,
     by decide +kernel⟩⟩

theorem witness_KeyAgreementCompletes :
    (∃ (h : MHdr) (t peer slot : Nat) (d : BitVec 256) (s : State), Listens h s ∧ h.mbx ∈ [3, 4, 5, 6, 7] ∧ h.flags &&& ~~~ 3 = 0 ∧ t < 1024 ∧ peer <
      8192 ∧ slot < 4 ∧ tenantOk h t s = true ∧ isRevoking s t = false ∧ s.tenant t = none) ∧
    (∃ (h : MHdr) (t peer slot : Nat) (d : BitVec 256) (s : State), Listens h s ∧ h.mbx ∈ [3, 4, 5, 6, 7] ∧ h.flags &&& ~~~ 3 = 0 ∧ t < 1024 ∧ peer <
      8192 ∧ slot < 4 ∧ tenantOk h t s = true ∧ isRevoking s t = false ∧
      let clear := h.flags.getLsbD 0
      ∃ x, s.tenant t = some x ∧ clear = true) ∧
    (∃ (h : MHdr) (t peer slot : Nat) (d : BitVec 256) (s : State), Listens h s ∧ h.mbx ∈ [3, 4, 5, 6, 7] ∧ h.flags &&& ~~~ 3 = 0 ∧ t < 1024 ∧ peer <
      8192 ∧ slot < 4 ∧ tenantOk h t s = true ∧ isRevoking s t = false ∧
      let clear := h.flags.getLsbD 0
      ∃ x, s.tenant t = some x ∧ clear = false ∧ s.svc.node ≠ none ∧ peer = (selfNode s).toNat) ∧
    (∃ (h : MHdr) (t peer slot : Nat) (d : BitVec 256) (s : State), Listens h s ∧ h.mbx ∈ [3, 4, 5, 6, 7] ∧ h.flags &&& ~~~ 3 = 0 ∧ t < 1024 ∧ peer <
      8192 ∧ slot < 4 ∧ tenantOk h t s = true ∧ isRevoking s t = false ∧
      let clear := h.flags.getLsbD 0
      ∃ x, s.tenant t = some x ∧ clear = false ∧ (s.svc.node = none ∨ peer ≠ (selfNode s).toNat)) ∧
    (∃ (t peer slot : Nat) (e : KeyEx) (s : State), s.svc.mod = .ready ∧ findEx s t peer slot = some e) ∧
    (∃ (t peer slot : Nat) (s : State), findEx s t peer slot = none) ∧
    (∃ (port : Nat) (p : Packet) (s : State), (isPort port = true ∨ port = outLocal) ∧ s.svc.mod = .ready ∧ (p.dst = selfNode s ∨ p.mcast = true) ∧
      p.op = opKeyMsg ∧
      let k := opened s p
      let u := takeLocal p s
      let t := k.tenant.toNat
      pastFence t u = true) ∧
    (∃ (port : Nat) (p : Packet) (s : State), (isPort port = true ∨ port = outLocal) ∧ s.svc.mod = .ready ∧ (p.dst = selfNode s ∨ p.mcast = true) ∧
      p.op = opKeyMsg ∧
      let k := opened s p
      let u := takeLocal p s
      let t := k.tenant.toNat
      pastFence t u = false ∧ (flagsBad k = true ∨ k.offset.toNat % 128 ≠ 0 ∨ keyBad k = true)) ∧
    (∃ (port : Nat) (p : Packet) (s : State), (isPort port = true ∨ port = outLocal) ∧ s.svc.mod = .ready ∧ (p.dst = selfNode s ∨ p.mcast = true) ∧
      p.op = opKeyMsg ∧
      let k := opened s p
      let u := takeLocal p s
      let t := k.tenant.toNat
      pastFence t u = false ∧ flagsBad k = false ∧ k.offset.toNat % 128 = 0 ∧ keyBad k = false ∧ (s.tenant t = none ∨ isRevoking s t = true)) ∧
    (∃ (port : Nat) (p : Packet) (s : State), (isPort port = true ∨ port = outLocal) ∧ s.svc.mod = .ready ∧ (p.dst = selfNode s ∨ p.mcast = true) ∧
      p.op = opKeyMsg ∧
      let k := opened s p
      let u := takeLocal p s
      let t := k.tenant.toNat
      pastFence t u = false ∧ flagsBad k = false ∧ k.offset.toNat % 128 = 0 ∧ keyBad k = false ∧ (s.tenant t).isSome = true ∧ isRevoking s t = false) ∧
    (∃ (port : Nat) (k : Packet) (s : State),
      let ex := findEx s k.tenant.toNat k.src.toNat (k.arg 8 2)
      let xid := BitVec.ofNat 16 (k.arg 16 16)
      (∃ e, ex = some e ∧ e.xid ≠ none ∧ e.xid ≠ some xid)) ∧
    (∃ (port : Nat) (k : Packet) (s : State),
      let ex := findEx s k.tenant.toNat k.src.toNat (k.arg 8 2)
      ex = none ∧ k.arg 0 4 ≠ 0) ∧
    (∃ (port : Nat) (k : Packet) (s : State),
      let ex := findEx s k.tenant.toNat k.src.toNat (k.arg 8 2)
      let xid := BitVec.ofNat 16 (k.arg 16 16)
      (ex = none ∧ k.arg 0 4 = 0 ∨ (∃ e, ex = some e ∧ (e.xid = none ∨ e.xid = some xid)) ∧ k.arg 0 4 ≤ 1)) ∧
    (∃ (port : Nat) (k : Packet) (s : State),
      let ex := findEx s k.tenant.toNat k.src.toNat (k.arg 8 2)
      let xid := BitVec.ofNat 16 (k.arg 16 16)
      ∃ e, ex = some e ∧ (e.xid = none ∨ e.xid = some xid) ∧ k.arg 0 4 = 2) ∧
    (∃ (port : Nat) (k : Packet) (s : State),
      let ex := findEx s k.tenant.toNat k.src.toNat (k.arg 8 2)
      let xid := BitVec.ofNat 16 (k.arg 16 16)
      ∃ e, ex = some e ∧ (e.xid = none ∨ e.xid = some xid) ∧ ∃ d, k.arg 0 4 = 3 ∧ derive_ s e = some d ∧ e.delivered = true) ∧
    (∃ (port : Nat) (k : Packet) (s : State),
      let ex := findEx s k.tenant.toNat k.src.toNat (k.arg 8 2)
      let xid := BitVec.ofNat 16 (k.arg 16 16)
      ∃ e, ex = some e ∧ (e.xid = none ∨ e.xid = some xid) ∧ k.arg 0 4 = 4) :=
  ⟨⟨(hdr 3), 1023, 8191, 3, 0, plane, by unfold Listens; decide +kernel, by and_intros <;> decide +kernel⟩,
   ⟨({ hdr 3 with flags := 1 }), 1023, 8191, 3, 0, ({ plane with sec := { tenants := [(1023, { conf := false, memKey := 1 })] } }),
     by unfold Listens; decide +kernel, by decide +kernel, by decide +kernel, by decide +kernel, by decide +kernel, by decide +kernel,
     by decide +kernel, by decide +kernel, ({ conf := false, memKey := 1 }), by and_intros <;> decide +kernel⟩,
   ⟨({ hdr 3 with flags := 2 }), 1023, ((selfNode plane).toNat), 3, 0,
     ({ plane with sec := { tenants := [(1023, { conf := false, memKey := 1 })] } }), by unfold Listens; decide +kernel, by decide +kernel,
     by decide +kernel, by decide +kernel, by decide +kernel, by decide +kernel, by decide +kernel, by decide +kernel,
     ({ conf := false, memKey := 1 }), by and_intros <;> decide +kernel⟩,
   ⟨(hdr 3), 1023, 8191, 3, 0, ({ plane with sec := { tenants := [(1023, { conf := false, memKey := 1 })] } }), by unfold Listens; decide +kernel,
     by decide +kernel, by decide +kernel, by decide +kernel, by decide +kernel, by decide +kernel, by decide +kernel, by decide +kernel,
     ({ conf := false, memKey := 1 }), by and_intros <;> decide +kernel⟩,
   ⟨1023, 3, 3, ({ tenant := 1023, peer := 3, slot := 3, hdr := some (hdr 3), ekDigest := 0, send := false, startAt := 4900000000 }),
     ({ plane with sec := { tenants := [(1023, { conf := false, memKey := 1 })], exs := [{ tenant := 1023, peer := 3, slot := 3, hdr := some (hdr 3), ekDigest := 0, send := false, startAt := 4900000000 }] } }),
     by and_intros <;> decide +kernel⟩,
   ⟨1023, 8191, 3, ({ plane with sec := { tenants := [(1023, { conf := false, memKey := 1 })] } }), by decide +kernel⟩,
   ⟨0, (pk opKeyMsg (mkNode 0 false 3) (mkNode 0 true 0) (fun p => { p with tenant := 1023, oparg := 590592, data := List.replicate 128 0 })),
     ({ plane with sec := { tenants := [(1023, { conf := true, memKey := 1, rev := some { t0 := 4900000000, fence := 100000000, stage := .erasing } })] } }),
     by and_intros <;> decide +kernel⟩,
   ⟨0, (pk opKeyMsg (mkNode 0 false 3) (mkNode 0 true 0) (fun p => { p with tenant := 1023, oparg := 590597, data := List.replicate 128 0 })),
     ({ plane with sec := { tenants := [(1023, { conf := false, memKey := 1 })] } }), by and_intros <;> decide +kernel⟩,
   ⟨0, (pk opKeyMsg (mkNode 0 false 3) (mkNode 0 true 0) (fun p => { p with tenant := 1023, oparg := 590592, data := List.replicate 128 0 })), plane,
     by and_intros <;> decide +kernel⟩,
   ⟨0, (pk opKeyMsg (mkNode 0 false 3) (mkNode 0 true 0) (fun p => { p with tenant := 1023, oparg := 590592, data := List.replicate 128 0 })),
     ({ plane with sec := { tenants := [(1023, { conf := false, memKey := 1 })] } }), by and_intros <;> decide +kernel⟩,
   ⟨0, (pk opKeyMsg (mkNode 0 false 3) (mkNode 0 true 0) (fun p => { p with tenant := 1023, oparg := 590592, data := List.replicate 128 0 })),
     ({ plane with sec := { tenants := [(1023, { conf := false, memKey := 1 })], exs := [{ tenant := 1023, peer := 3, slot := 3, hdr := some (hdr 3), ekDigest := 0, send := false, startAt := 4900000000, xid := some 8 }] } }),
     (⟨{ tenant := 1023, peer := 3, slot := 3, hdr := some (hdr 3), ekDigest := 0, send := false, startAt := 4900000000, xid := some 8 }, rfl, by decide +kernel, by decide +kernel⟩)⟩,
   ⟨0, (pk opKeyMsg (mkNode 0 false 3) (mkNode 0 true 0) (fun p => { p with tenant := 1023, oparg := 590593, data := List.replicate 128 0 })),
     ({ plane with sec := { tenants := [(1023, { conf := false, memKey := 1 })] } }), by and_intros <;> decide +kernel⟩,
   ⟨0, (pk opKeyMsg (mkNode 0 false 3) (mkNode 0 true 0) (fun p => { p with tenant := 1023, oparg := 590593, data := List.replicate 128 0 })),
     ({ plane with sec := { tenants := [(1023, { conf := false, memKey := 1 })], exs := [{ tenant := 1023, peer := 3, slot := 3, hdr := some (hdr 3), ekDigest := 0, send := false, startAt := 4900000000, xid := some 9 }] } }),
     (.inr ⟨⟨{ tenant := 1023, peer := 3, slot := 3, hdr := some (hdr 3), ekDigest := 0, send := false, startAt := 4900000000, xid := some 9 }, rfl, .inr rfl⟩, by decide +kernel⟩)⟩,
   ⟨0, (pk opKeyMsg (mkNode 0 false 3) (mkNode 0 true 0) (fun p => { p with tenant := 1023, oparg := 590594, data := List.replicate 128 0 })),
     ({ plane with sec := { tenants := [(1023, { conf := false, memKey := 1 })], exs := [{ tenant := 1023, peer := 3, slot := 3, hdr := some (hdr 3), ekDigest := 0, send := false, startAt := 4900000000 }] } }),
     ({ tenant := 1023, peer := 3, slot := 3, hdr := some (hdr 3), ekDigest := 0, send := false, startAt := 4900000000 }),
     by and_intros <;> decide +kernel⟩,
   ⟨0, (pk opKeyMsg (mkNode 0 false 3) (mkNode 0 true 0) (fun p => { p with tenant := 1023, oparg := 590595, data := List.replicate 128 0 })),
     ({ plane with sec := { tenants := [(1023, { conf := false, memKey := 1 })], exs := [{ tenant := 1023, peer := 3, slot := 3, hdr := some (hdr 3), ekDigest := 0, send := false, startAt := 4900000000, xid := some 9, eks := (List.range 10).map (fun i => (i, [])), cts := (List.range 9).map (fun i => (i, [])), ekSent := some [], rnd := some 1, delivered := true }] } }),
     ({ tenant := 1023, peer := 3, slot := 3, hdr := some (hdr 3), ekDigest := 0, send := false, startAt := 4900000000, xid := some 9, eks := (List.range 10).map (fun i => (i, [])), cts := (List.range 9).map (fun i => (i, [])), ekSent := some [], rnd := some 1, delivered := true }),
     by decide +kernel, by decide +kernel,
     ((derive_ ({ plane with sec := { tenants := [(1023, { conf := false, memKey := 1 })], exs := [{ tenant := 1023, peer := 3, slot := 3, hdr := some (hdr 3), ekDigest := 0, send := false, startAt := 4900000000, xid := some 9, eks := (List.range 10).map (fun i => (i, [])), cts := (List.range 9).map (fun i => (i, [])), ekSent := some [], rnd := some 1, delivered := true }] } }) { tenant := 1023, peer := 3, slot := 3, hdr := some (hdr 3), ekDigest := 0, send := false, startAt := 4900000000, xid := some 9, eks := (List.range 10).map (fun i => (i, [])), cts := (List.range 9).map (fun i => (i, [])), ekSent := some [], rnd := some 1, delivered := true }).get (by decide +kernel)),
     by decide +kernel, ((Option.some_get _).symm), by decide +kernel⟩,
   ⟨0, (pk opKeyMsg (mkNode 0 false 3) (mkNode 0 true 0) (fun p => { p with tenant := 1023, oparg := 590596, data := List.replicate 128 0 })),
     ({ plane with sec := { tenants := [(1023, { conf := false, memKey := 1 })], exs := [{ tenant := 1023, peer := 3, slot := 3, hdr := some (hdr 3), ekDigest := 0, send := false, startAt := 4900000000, xid := some 9 }] } }),
     ({ tenant := 1023, peer := 3, slot := 3, hdr := some (hdr 3), ekDigest := 0, send := false, startAt := 4900000000, xid := some 9 }),
     by and_intros <;> decide +kernel⟩⟩

theorem witness_AttestationCompletes :
    (∃ (h : MHdr) (nonce : BitVec 256) (offset : Nat) (s : State), (Serves h [3, 2] s ∨ s.svc.mod = .recovery ∧ s.svc.handover = false ∧
      ((s.reed.loading.find 2).isSome || (s.box 2).stalled.isSome) = false ∧ h.mbx = 2 ∧ h.flags = 0) ∧ offset = 0) ∧
    (∃ (h : MHdr) (nonce : BitVec 256) (offset : Nat) (s : State), (Serves h [3, 2] s ∨ s.svc.mod = .recovery ∧ s.svc.handover = false ∧
      ((s.reed.loading.find 2).isSome || (s.box 2).stalled.isSome) = false ∧ h.mbx = 2 ∧ h.flags = 0) ∧ ∃ r, offset ≠ 0 ∧ offset ≤ r.length ∧ (s.box
      h.mbx).report = some (nonce, r)) ∧
    (∃ (h : MHdr) (nonce : BitVec 256) (offset : Nat) (s : State), (Serves h [3, 2] s ∨ s.svc.mod = .recovery ∧ s.svc.handover = false ∧
      ((s.reed.loading.find 2).isSome || (s.box 2).stalled.isSome) = false ∧ h.mbx = 2 ∧ h.flags = 0) ∧ offset ≠ 0 ∧ (∀ x, (s.box h.mbx).report = some
      x → x.1 ≠ nonce ∨ x.2.length < offset)) ∧
    (∃ (h : MHdr) (nonce : BitVec 256) (t offset : Nat) (s : State), Serves h [3, 4, 5, 6, 7] s ∧ tenantOk h t s = true ∧ (s.tenant t).isSome = true ∧
      offset = 0) ∧
    (∃ (h : MHdr) (nonce : BitVec 256) (t offset : Nat) (s : State), Serves h [3, 4, 5, 6, 7] s ∧ tenantOk h t s = true ∧ (s.tenant t).isSome = true ∧
      ∃ r, offset ≠ 0 ∧ offset ≤ r.length ∧ (s.box h.mbx).report = some (nonce, r)) ∧
    (∃ (h : MHdr) (nonce : BitVec 256) (t offset : Nat) (s : State), Serves h [3, 4, 5, 6, 7] s ∧ tenantOk h t s = true ∧ (s.tenant t).isSome = true ∧
      offset ≠ 0 ∧ (∀ x, (s.box h.mbx).report = some x → x.1 ≠ nonce ∨ x.2.length < offset)) ∧
    (∃ (h : MHdr) (t fva len : Nat) (s : State), Serves h [3, 4, 5, 6, 7] s ∧ tenantOk h t s = true ∧ (s.tenant t).isSome = true ∧ isRevoking s t =
      false ∧ len % 128 = 0 ∧ len ≤ 2 ^ 40 ∧ fva < 2 ^ 64) ∧
    (∃ (t : Nat) (d : DigestJob) (s : State), s.svc.mod = .ready ∧ s.sec.digests.find? (fun d => d.tenant == t) = some d ∧ d.left = 0 ∧ ∃ b u, d.bad =
      false ∧ regionRead d s = (.bytes b [], u)) ∧
    (∃ (t : Nat) (d : DigestJob) (s : State), s.svc.mod = .ready ∧ s.sec.digests.find? (fun d => d.tenant == t) = some d ∧ d.left = 0 ∧ ∃ b far u,
      d.bad = false ∧ far ≠ [] ∧ regionRead d s = (.bytes b far, u)) ∧
    (∃ (t : Nat) (d : DigestJob) (s : State), s.svc.mod = .ready ∧ s.sec.digests.find? (fun d => d.tenant == t) = some d ∧ d.left = 0 ∧ ∃ a u, d.bad =
      false ∧ regionRead d s = (.waits a, u)) ∧
    (∃ (t : Nat) (d : DigestJob) (s : State), s.svc.mod = .ready ∧ s.sec.digests.find? (fun d => d.tenant == t) = some d ∧ d.left = 0 ∧ ∃ u, d.bad =
      false ∧ regionRead d s = (.fails, u)) ∧
    (∃ (t : Nat) (d : DigestJob) (s : State), s.svc.mod = .ready ∧ s.sec.digests.find? (fun d => d.tenant == t) = some d ∧ d.left = 0 ∧ d.bad = true) ∧
    (∃ (t : Nat) (s : State), (∀ d, s.sec.digests.find? (fun d => d.tenant == t) = some d → d.left ≠ 0)) ∧
    (∃ (h : MHdr) (ek ct : List Byte) (s : State), Serves h [3] s ∧ ek.length = 1184 ∧ ct.length = 1088) ∧
    (∃ s : State, s.svc.mod = .ready ∧ s.host.ideOpening = none) ∧
    (∃ s : State, s.svc.mod = .ready ∧ ∃ h ek ct, s.host.ideOpening = some (h, ek, ct)) :=
  ⟨⟨(hdr 2), 5, 0, plane, by unfold Serves Listens; decide +kernel, by decide +kernel⟩,
   ⟨(hdr 3), 5, 100, (plane.onBox 3 (fun b => { b with report := some (5, List.replicate 100 0) })), by unfold Serves Listens; decide +kernel,
     (List.replicate 100 0), by and_intros <;> decide +kernel⟩,
   ⟨(hdr 3), 5, 1, plane, by unfold Serves Listens; decide +kernel, by decide +kernel, (by intro x h; change none = some x at h; cases h)⟩,
   ⟨(hdr 3), 5, 5, 0, ((plane.onSec (fun e => { e with tenants := [(5, { conf := false, memKey := 1 })] }))),
     by unfold Serves Listens; decide +kernel, by and_intros <;> decide +kernel⟩,
   ⟨(hdr 3), 5, 5, 100,
     ((plane.onSec (fun e => { e with tenants := [(5, { conf := false, memKey := 1 })] })).onBox 3 (fun b => { b with report := some (5, List.replicate 100 0) })),
     by unfold Serves Listens; decide +kernel, by decide +kernel, by decide +kernel, (List.replicate 100 0), by and_intros <;> decide +kernel⟩,
   ⟨(hdr 3), 5, 5, 1, ((plane.onSec (fun e => { e with tenants := [(5, { conf := false, memKey := 1 })] }))),
     by unfold Serves Listens; decide +kernel, by decide +kernel, by decide +kernel, by decide +kernel,
     (by intro x h; change none = some x at h; cases h)⟩,
   ⟨(hdr 3), 5, (2 ^ 64 - 1), (2 ^ 40), ((plane.onSec (fun e => { e with tenants := [(5, { conf := false, memKey := 1 })] }))),
     by unfold Serves Listens; decide +kernel, by and_intros <;> decide +kernel⟩,
   ⟨0, ({ tenant := 0, fva := 0, len := 128, hdr := hdr 3 }),
     ({ opPlane (oper 0 id) with sec := { digests := [{ tenant := 0, fva := 0, len := 128, hdr := hdr 3 }] } }), by decide +kernel, by decide +kernel,
     by decide +kernel, (List.replicate 128 0),
     ((regionRead ({ tenant := 0, fva := 0, len := 128, hdr := hdr 3 }) ({ opPlane (oper 0 id) with sec := { digests := [{ tenant := 0, fva := 0, len := 128, hdr := hdr 3 }] } })).2),
     by decide +kernel, (Prod.ext (by decide +kernel) rfl)⟩,
   ⟨0, ({ tenant := 0, fva := 0, len := 128, hdr := hdr 3 }),
     ({ opPlane (oper 0 id) with sec := { digests := [{ tenant := 0, fva := 0, len := 128, hdr := hdr 3 }] }, xlat := { src := [{ tenant := 0, addr := 0, entry := 0xF }] } }),
     by decide +kernel, by decide +kernel, by decide +kernel, (List.replicate 128 0), ([(0, 0, 0)]),
     ((regionRead ({ tenant := 0, fva := 0, len := 128, hdr := hdr 3 }) ({ opPlane (oper 0 id) with sec := { digests := [{ tenant := 0, fva := 0, len := 128, hdr := hdr 3 }] }, xlat := { src := [{ tenant := 0, addr := 0, entry := 0xF }] } })).2),
     by decide +kernel, by decide +kernel, (Prod.ext (by decide +kernel) rfl)⟩,
   ⟨0, ({ tenant := 0, fva := 0, len := 128, hdr := hdr 3 }),
     ({ opPlane (oper 0 id) with sec := { digests := [{ tenant := 0, fva := 0, len := 128, hdr := hdr 3 }] }, xlat := {} }), by decide +kernel,
     by decide +kernel, by decide +kernel, 0,
     ((regionRead ({ tenant := 0, fva := 0, len := 128, hdr := hdr 3 }) ({ opPlane (oper 0 id) with sec := { digests := [{ tenant := 0, fva := 0, len := 128, hdr := hdr 3 }] }, xlat := {} })).2),
     by decide +kernel, (Prod.ext (by decide +kernel) rfl)⟩,
   ⟨0, ({ tenant := 0, fva := 0, len := 128, hdr := hdr 3 }),
     ({ opPlane (oper 0 id) with sec := { digests := [{ tenant := 0, fva := 0, len := 128, hdr := hdr 3 }] }, xlat := { src := [{ tenant := 0, addr := 0, entry := 1 }] } }),
     by decide +kernel, by decide +kernel, by decide +kernel,
     ((regionRead ({ tenant := 0, fva := 0, len := 128, hdr := hdr 3 }) ({ opPlane (oper 0 id) with sec := { digests := [{ tenant := 0, fva := 0, len := 128, hdr := hdr 3 }] }, xlat := { src := [{ tenant := 0, addr := 0, entry := 1 }] } })).2),
     by decide +kernel, (Prod.ext (by decide +kernel) rfl)⟩,
   ⟨0, ({ tenant := 0, fva := 0, len := 128, hdr := hdr 3, bad := true }),
     ({ opPlane (oper 0 id) with sec := { digests := [{ tenant := 0, fva := 0, len := 128, hdr := hdr 3, bad := true }] } }),
     by and_intros <;> decide +kernel⟩,
   ⟨5, plane, (by intro d h; change none = some d at h; cases h)⟩,
   ⟨(hdr 3), (List.replicate 1184 0), (List.replicate 1088 0), plane, by unfold Serves Listens; decide +kernel, by and_intros <;> decide +kernel⟩,
   ⟨plane, by and_intros <;> decide +kernel⟩,
   ⟨(plane.onHost (fun x => { x with ideOpening := some (hdr 3, [], []) })), by decide +kernel, (hdr 3), ([]), ([]), by decide +kernel⟩⟩

theorem witness_ServiceCommandsComplete :
    (∃ (h : MHdr) (count : Nat) (clear mode : Bool) (unit : Nat) (s : State), (Serves h [0, 1, 2] s ∨ s.svc.mod = .recovery ∧ s.svc.handover = false ∧
      ((s.reed.loading.find 2).isSome || (s.box 2).stalled.isSome) = false ∧ h.mbx = 2 ∧ h.flags = 0) ∧ count ≤ 127 ∧ (mode = true → unitExists (unit
      / 4096) (unit % 4096) = true)) ∧
    (∃ (h : MHdr) (kind i : Nat) (s : State), Serves h [0, 1] s ∧ (kind = 1 ∧ i < 16 ∨ kind = 2 ∧ i < 32 ∨ kind = 3 ∧ i < 64) ∧ findTrans (.unit kind
      i) s.mbx.trans = none) ∧
    (∃ (h : MHdr) (kind i : Nat) (s : State), Serves h [0, 1] s ∧ (kind = 1 ∧ i < 16 ∨ kind = 2 ∧ i < 32 ∨ kind = 3 ∧ i < 64) ∧ ∃ x, findTrans (.unit
      kind i) s.mbx.trans = some x) ∧
    (∃ (h : MHdr) (p : Nat) (s : State), Serves h [0, 1] s ∧ isPort p = true ∧ portAbsent s p = false ∧ findTrans (.port p) s.mbx.trans = none) ∧
    (∃ (h : MHdr) (p : Nat) (s : State), Serves h [0, 1] s ∧ isPort p = true ∧ portAbsent s p = false ∧ ∃ x, findTrans (.port p) s.mbx.trans = some x) ∧
    (∃ (h : MHdr) (kind c : Nat) (s : State), Serves h [0, 1] s ∧ 4 ≤ kind) ∧
    (∃ (k : FnKey) (st : Nat) (r : List Byte) (run : Instr → State → State) (t : Transition) (s : State), findTrans k s.mbx.trans = some t ∧
      s.svc.handover = false) ∧
    (∃ (k : FnKey) (st : Nat) (r : List Byte) (run : Instr → State → State) (t : Transition) (s : State), findTrans k s.mbx.trans = some t ∧
      s.svc.handover = true) ∧
    (∃ (c : Nat) (ok : Bool) (s : State), s.svc.mod = .ready ∧ c < 16) ∧
    (∃ (c : Nat) (ok : Bool) (s : State), s.svc.mod = .ready ∧ c < 32) ∧
    (∃ (c : Nat) (ok : Bool) (s : State), s.svc.mod = .ready ∧ c < 64) ∧
    (∃ (c : Nat) (ok : Bool) (s : State), s.svc.mod = .ready ∧ isPort c = true ∧ findTrans (.port c) s.mbx.trans = none) ∧
    (∃ (c : Nat) (ok : Bool) (s : State), s.svc.mod = .ready ∧ ∃ t, isPort c = true ∧ findTrans (.port c) s.mbx.trans = some t) ∧
    (∃ (c : Nat) (s : State), c < 16 ∧ s.svc.mod = .ready) ∧
    (∃ (h : MHdr) (addr : Nat) (bad : List Nat) (s : State), Serves h [0, 1] s ∧ addr < 2 ^ 38 ∧
      let f := addr / 65536
      (cfgNow s.flash).retired.contains f = true) ∧
    (∃ (h : MHdr) (addr : Nat) (bad : List Nat) (s : State), Serves h [0, 1] s ∧ addr < 2 ^ 38 ∧
      let f := addr / 65536
      (cfgNow s.flash).retired.contains f = false ∧ s.svc.removedAt ≠ none) ∧
    (∃ (h : MHdr) (addr : Nat) (bad : List Nat) (s : State), Serves h [0, 1] s ∧ addr < 2 ^ 38 ∧
      let f := addr / 65536
      (cfgNow s.flash).retired.contains f = false ∧ s.svc.removedAt = none ∧ 1024 ≤ (cfgNow s.flash).retired.length) ∧
    (∃ (h : MHdr) (addr : Nat) (bad : List Nat) (s : State), Serves h [0, 1] s ∧ addr < 2 ^ 38 ∧
      let f := addr / 65536
      (cfgNow s.flash).retired.contains f = false ∧ s.svc.removedAt = none ∧ (cfgNow s.flash).retired.length < 1024 ∧ ∃ t u l, frameTenants f s = t ::
        u :: l) ∧
    (∃ (h : MHdr) (addr : Nat) (bad : List Nat) (s : State), Serves h [0, 1] s ∧ addr < 2 ^ 38 ∧
      let f := addr / 65536
      (cfgNow s.flash).retired.contains f = false ∧ s.svc.removedAt = none ∧ (cfgNow s.flash).retired.length < 1024 ∧ ∃ t, frameTenants f s = [t]) ∧
    (∃ (h : MHdr) (addr : Nat) (bad : List Nat) (s : State), Serves h [0, 1] s ∧ addr < 2 ^ 38 ∧
      let f := addr / 65536
      (cfgNow s.flash).retired.contains f = false ∧ s.svc.removedAt = none ∧ (cfgNow s.flash).retired.length < 1024 ∧ frameTenants f s = []) ∧
    (∃ (i : Instr) (h : MHdr) (key f : Nat) (bad : List Nat) (s : State), spareFrames f s = []) ∧
    (∃ (i : Instr) (h : MHdr) (key f : Nat) (bad : List Nat) (s : State), ∃ x l, spareFrames f s = x :: l ∧ (frameWaits s f = true ∨ frameWaits s x =
      true)) ∧
    (∃ (i : Instr) (h : MHdr) (key f : Nat) (bad : List Nat) (s : State), ∃ x l, spareFrames f s = x :: l ∧ frameWaits s f = false ∧ frameWaits s x =
      false) ∧
    (∃ (h : MHdr) (f : Nat) (s : State), ∃ g, s.home.moved.find f = some g) ∧
    (∃ (h : MHdr) (f : Nat) (s : State), s.home.moved.find f = none) ∧
    (∃ s : State, beatOver s = false) ∧
    (∃ s : State, beatOver s = true ∧ s.svc.handover = true) ∧
    (∃ s : State, beatOver s = true ∧ s.svc.handover = false ∧ s.svc.misses ≠ 2) ∧
    (∃ s : State, beatOver s = true ∧ s.svc.handover = false ∧ s.svc.misses = 2) :=
  ⟨⟨(hdr 2), 127, true, true, (4096 + 528), plane, by unfold Serves Listens; decide +kernel, by and_intros <;> decide +kernel⟩,
   ⟨(hdr 0), 3, 63, plane, by unfold Serves Listens; decide +kernel, by and_intros <;> decide +kernel⟩,
   ⟨(hdr 0), 3, 63, (plane.onMbx (fun b => { b with trans := [{ key := .unit 3 63, hdr := hdr 1, opcode := 0x0902 }] })),
     by unfold Serves Listens; decide +kernel, by decide +kernel, ({ key := .unit 3 63, hdr := hdr 1, opcode := 0x0902 }), by decide +kernel⟩,
   ⟨(hdr 0), 528, plane, by unfold Serves Listens; decide +kernel, by and_intros <;> decide +kernel⟩,
   ⟨(hdr 0), 528, (plane.onMbx (fun b => { b with trans := [{ key := .port 528, hdr := hdr 1, opcode := 0x0902 }] })),
     by unfold Serves Listens; decide +kernel, by decide +kernel, by decide +kernel, ({ key := .port 528, hdr := hdr 1, opcode := 0x0902 }),
     by decide +kernel⟩,
   ⟨(hdr 0), 4, 0, plane, by unfold Serves Listens; decide +kernel, by decide +kernel⟩,
   ⟨(.unit 3 63), 0, ([]), (fun _ s => s), ({ key := .unit 3 63, hdr := hdr 1, opcode := 0x0902 }),
     (plane.onMbx (fun b => { b with trans := [{ key := .unit 3 63, hdr := hdr 1, opcode := 0x0902 }] })), by and_intros <;> decide +kernel⟩,
   ⟨(.unit 3 63), 0, ([]), (fun _ s => s), ({ key := .unit 3 63, hdr := hdr 1, opcode := 0x0902 }),
     ((plane.onMbx (fun b => { b with trans := [{ key := .unit 3 63, hdr := hdr 1, opcode := 0x0902 }] })).onSvc (fun v => { v with handover := true })),
     by and_intros <;> decide +kernel⟩,
   ⟨15, true, plane, by and_intros <;> decide +kernel⟩,
   ⟨31, true, plane, by and_intros <;> decide +kernel⟩,
   ⟨63, true, plane, by and_intros <;> decide +kernel⟩,
   ⟨528, true, plane, by and_intros <;> decide +kernel⟩,
   ⟨528, true, (plane.onMbx (fun b => { b with trans := [{ key := .port 528, hdr := hdr 1, opcode := 0x0902 }] })), by decide +kernel,
     ({ key := .port 528, hdr := hdr 1, opcode := 0x0902 }), by and_intros <;> decide +kernel⟩,
   ⟨15, plane, by and_intros <;> decide +kernel⟩,
   ⟨(hdr 0), 65535, ([]), ({ plane with flash := { copyA := { valid := true, retired := [0] } } }), by unfold Serves Listens; decide +kernel,
     by and_intros <;> decide +kernel⟩,
   ⟨(hdr 0), 65535, ([]), (plane.onSvc (fun v => { v with removedAt := some 4900000000 })), by unfold Serves Listens; decide +kernel,
     by and_intros <;> decide +kernel⟩,
   ⟨(hdr 0), 65535, ([]), ({ plane with flash := { copyA := { valid := true, retired := List.replicate 1024 5 } } }),
     by unfold Serves Listens; decide +kernel, by and_intros <;> decide +kernel⟩,
   ⟨(hdr 0), 65535, ([]),
     ({ plane with svc := { plane.svc with fwBase := 2 ^ 38 - 65536 }, xlat := { tgt := [{ tenant := 5, addr := 0, entry := 0xF }, { tenant := 6, addr := 0, entry := 0xF }] } }),
     by unfold Serves Listens; decide +kernel, by decide +kernel, by decide +kernel, by decide +kernel, by decide +kernel, 5, 6, ([]),
     by decide +kernel⟩,
   ⟨(hdr 0), 65535, ([]),
     ({ plane with svc := { plane.svc with fwBase := 2 ^ 38 - 65536 }, xlat := { tgt := [{ tenant := 5, addr := 0, entry := 0xF }] } }),
     by unfold Serves Listens; decide +kernel, by decide +kernel, by decide +kernel, by decide +kernel, by decide +kernel, 5, by decide +kernel⟩,
   ⟨(hdr 0), 65535, ([]), plane, by unfold Serves Listens; decide +kernel, by and_intros <;> decide +kernel⟩,
   ⟨(.hbmPageRetire (hdr 0) 0 []), (hdr 0), 5, 3, ([]),
     ({ plane with svc := { plane.svc with fwBase := 2 ^ 38 - 65536 }, xlat := { tgt := [{ tenant := 5, addr := 0, entry := 0xF }] }, home := { spares := (List.range 16).map (fun i => 2 ^ 22 - 16 + i) } }),
     by decide +kernel⟩,
   ⟨(.hbmPageRetire (hdr 0) 0 []), (hdr 0), 5, 3, ([]), frameBusy, (2 ^ 22 - 16), ((List.range 15).map (fun i => 2 ^ 22 - 15 + i)), by decide +kernel,
     (.inl frameBusy_waits)⟩,
   ⟨(.hbmPageRetire (hdr 0) 0 []), (hdr 0), 5, 3, ([]), plane, (2 ^ 22 - 16), ((List.range 15).map (fun i => 2 ^ 22 - 15 + i)),
     by and_intros <;> decide +kernel⟩,
   ⟨(hdr 0), 3, ({ plane with home := { moved := [(3, 7)] } }), 7, by decide +kernel⟩,
   ⟨(hdr 0), 3, plane, by decide +kernel⟩,
   ⟨plane, by decide +kernel⟩,
   ⟨(plane.onSvc (fun v => { v with heartbeat := some 4990000000, beatBase := 4990000000, handover := true })), by and_intros <;> decide +kernel⟩,
   ⟨(plane.onSvc (fun v => { v with heartbeat := some 4990000000, beatBase := 4990000000, misses := 1 })), by and_intros <;> decide +kernel⟩,
   ⟨(plane.onSvc (fun v => { v with heartbeat := some 4990000000, beatBase := 4990000000, misses := 2 })), by and_intros <;> decide +kernel⟩⟩

theorem witness_FirmwareCompletes :
    (∃ (h : MHdr) (offset : Nat) (b : List Byte) (last : Bool) (s : State), (Serves h [0, 2] s ∨ s.svc.mod = .recovery ∧ s.svc.handover = false ∧
      ((s.reed.loading.find 2).isSome || (s.box 2).stalled.isSome) = false ∧ h.mbx = 2 ∧ h.flags = 0) ∧ b.length ≤ 4032) ∧
    (∃ (sig : Bool) (svn floor : Nat) (s : State), (s.svc.staging = none ∨ 63 < svn ∨ svn < floor)) ∧
    (∃ (sig : Bool) (svn floor : Nat) (s : State), ∃ h, s.svc.staging = some h ∧ svn ≤ 63 ∧ floor ≤ svn) ∧
    (∃ (h : MHdr) (s : State), (Serves h [0, 2] s ∨ s.svc.mod = .recovery ∧ s.svc.handover = false ∧ ((s.reed.loading.find 2).isSome || (s.box
      2).stalled.isSome) = false ∧ h.mbx = 2 ∧ h.flags = 0) ∧ findTrans .firmware s.mbx.trans = none) ∧
    (∃ (h : MHdr) (s : State), (Serves h [0, 2] s ∨ s.svc.mod = .recovery ∧ s.svc.handover = false ∧ ((s.reed.loading.find 2).isSome || (s.box
      2).stalled.isSome) = false ∧ h.mbx = 2 ∧ h.flags = 0) ∧ ∃ x, findTrans .firmware s.mbx.trans = some x) ∧
    (∃ (k : Nat) (s : State), (s.svc.handover = false ∨ (k ≠ 0 ∧ k ≠ 2 ∧ k ≠ 3))) ∧
    (∃ (k : Nat) (s : State), s.svc.handover = true ∧ (k = 0 ∨ k = 2 ∨ k = 3)) ∧
    (∃ (m : Nat) (s : State), (s.box m).stalled = none) ∧
    (∃ s : State, s.mbx.frozen = [] ∧ (∀ t ∈ s.mbx.trans, t.ended = none)) :=
  ⟨⟨(hdr 2), 0, (List.replicate 4032 0), true, plane, by unfold Serves Listens; decide +kernel, by decide +kernel⟩,
   ⟨true, 63, 0, plane, by decide +kernel⟩,
   ⟨true, 63, 63, (plane.onSvc (fun v => { v with staging := some (hdr 0) })), (hdr 0), by and_intros <;> decide +kernel⟩,
   ⟨(hdr 2), (plane.onSvc (fun v => { v with mod := .recovery })), by unfold Serves Listens; decide +kernel, by decide +kernel⟩,
   ⟨(hdr 0), (plane.onMbx (fun b => { b with trans := [{ key := .firmware, hdr := hdr 1, opcode := 0x0903 }] })),
     by unfold Serves Listens; decide +kernel, ({ key := .firmware, hdr := hdr 1, opcode := 0x0903 }), by decide +kernel⟩,
   ⟨3, plane, by decide +kernel⟩,
   ⟨3, (plane.onSvc (fun v => { v with handover := true })), by and_intros <;> decide +kernel⟩,
   ⟨7, plane, by decide +kernel⟩,
   ⟨plane, by decide +kernel, (by decide +kernel)⟩⟩

theorem witness_PowerCommandsComplete :
    (∃ (h : MHdr) (cap slew : Nat) (s : State), Serves h [1, 2] s ∧ cap ≤ 800 ∧ slew ≤ 1000 ∧ (cap = 0 ∨ brakeNow s ≤ 1000 * cap)) ∧
    (∃ (h : MHdr) (cap slew : Nat) (s : State), Serves h [1, 2] s ∧ (800 < cap ∨ 1000 < slew ∨ (cap ≠ 0 ∧ 1000 * cap < brakeNow s))) ∧
    (∃ (c slew : Nat) (s : State), s.pwr.pin ≤ c) ∧
    (∃ (c slew : Nat) (s : State), c < s.pwr.pin ∧ s.pwr.pin - c ≤ 50000 * slew) ∧
    (∃ (c slew : Nat) (s : State), c < s.pwr.pin ∧ 50000 * slew < s.pwr.pin - c) ∧
    (∃ (h : MHdr) (floor down up : Nat) (s : State), Serves h [1] s ∧ (floor = 0 ∨ (200 ≤ floor ∧ floor ≤ 650)) ∧ down ≤ 50 ∧ up ≤ 50) ∧
    (∃ (h : MHdr) (s : State), Serves h [1, 0] s) ∧
    (∃ (h : MHdr) (s : State), Serves h [0, 1, 2, 3, 4, 5, 6, 7] s) :=
  ⟨⟨(hdr 2), 800, 1000, plane, by unfold Serves Listens; decide +kernel, by and_intros <;> decide +kernel⟩,
   ⟨(hdr 1), 177, 1000, plane, by unfold Serves Listens; decide +kernel, by decide +kernel⟩,
   ⟨100000, 1000, ({ plane with pwr := { pin := 100000 } }), by decide +kernel⟩,
   ⟨100000, 2, ({ plane with pwr := { pin := 200000 } }), by and_intros <;> decide +kernel⟩,
   ⟨100000, 1, ({ plane with pwr := { pin := 150001 } }), by and_intros <;> decide +kernel⟩,
   ⟨(hdr 1), 650, 50, 50, plane, by unfold Serves Listens; decide +kernel, by and_intros <;> decide +kernel⟩,
   ⟨(hdr 0), plane, by unfold Serves Listens; decide +kernel⟩,
   ⟨(hdr 7), plane, by unfold Serves Listens; decide +kernel⟩⟩

theorem witness_PinEventsComplete :
    (∃ (mv : Nat) (s : State), 60000 ≤ mv ∧ mv ≤ 80000) ∧
    (∃ (mv : Nat) (s : State), (mv < 60000 ∨ 80000 < mv) ∧ mv ≠ 0) ∧
    (∃ (mv : Nat) (s : State), mv = 0) ∧
    (∃ s : State, s.pwr.railsOn = true ∧ s.pwr.powerGood = false) ∧
    (∃ s : State, (s.pwr.railsOn = false ∨ s.pwr.powerGood = true)) ∧
    (∃ s : State, s.svc.removedAt = none) ∧
    (∃ s : State, ∃ t, s.svc.removedAt = some t) ∧
    (∃ (t : Temps) (s : State), (limiting s = false ∨ s.pwr.throttled = false)) ∧
    (∃ (t : Temps) (s : State), limiting s = true ∧ s.pwr.throttled = true ∧ hotAt 100 95 t = true) ∧
    (∃ (t : Temps) (s : State), limiting s = true ∧ s.pwr.throttled = true ∧ hotAt 99 94 t = false) ∧
    (∃ (t : Temps) (s : State), limiting s = true ∧ s.pwr.throttled = true ∧ hotAt 100 95 t = false ∧ hotAt 99 94 t = true) ∧
    (∃ (t : Temps) (s : State), (s.pwr.railsOn = false ∨ hotAt 105 105 t = false)) ∧
    (∃ (t : Temps) (s : State), s.pwr.railsOn = true ∧ hotAt 105 105 t = true) :=
  ⟨⟨80000, plane, by and_intros <;> decide +kernel⟩,
   ⟨80001, plane, by and_intros <;> decide +kernel⟩,
   ⟨0, plane, by decide +kernel⟩,
   ⟨({ plane with pwr := { powerGood := false } }), by and_intros <;> decide +kernel⟩,
   ⟨plane, by decide +kernel⟩,
   ⟨plane, by decide +kernel⟩,
   ⟨(plane.onSvc (fun v => { v with removedAt := some 4900000000 })), 4900000000, by decide +kernel⟩,
   ⟨({ junction := 0, hbm := [0, 0, 0, 0], inlet := 0 }), plane, by decide +kernel⟩,
   ⟨({ junction := 0, hbm := [95, 0, 0, 0], inlet := 0 }), ({ plane with pwr := { throttled := true } }), by and_intros <;> decide +kernel⟩,
   ⟨({ junction := 98, hbm := [93, 0, 0, 0], inlet := 0 }), ({ plane with pwr := { throttled := true } }), by and_intros <;> decide +kernel⟩,
   ⟨({ junction := 99, hbm := [94, 0, 0, 0], inlet := 0 }), ({ plane with pwr := { throttled := true } }), by and_intros <;> decide +kernel⟩,
   ⟨({ junction := 104, hbm := [104, 0, 0, 0], inlet := 0 }), plane, by decide +kernel⟩,
   ⟨({ junction := 105, hbm := [0, 0, 0, 0], inlet := 0 }), plane, by and_intros <;> decide +kernel⟩⟩

theorem witness_ExactSumIgnoresOrder :
    (∃ (fmt : Nat) (l m : List (Nat × Nat)), fmt ≤ 8 ∧ (∀ t ∈ l, t.2 ≤ 0xF6 ∨ t.2 = 0xFF) ∧ l.length ≤ 2 ^ 31 ∧ l.Perm m) :=
   ⟨8, ([(0x7, 0xF6), (0x9, 0xFF)]), ([(0x9, 0xFF), (0x7, 0xF6)]), by decide +kernel, (by simp), by decide +kernel, (List.Perm.swap _ _ _)⟩

theorem witness_GroupAndProgramCommandsComplete :
    (∃ (h : MHdr) (p : GroupPart) (s : State), Serves h [1] s ∧ s.svc.bridge = false ∧ isRevoking s p.tenant = false ∧ partBad s p = true) ∧
    (∃ (h : MHdr) (p : GroupPart) (s : State), Serves h [1] s ∧ s.svc.bridge = false ∧ isRevoking s p.tenant = false ∧ partBad s p = false ∧
      (s.svc.node = none ∨ opInFlight s p.group = true)) ∧
    (∃ (h : MHdr) (p : GroupPart) (s : State), Serves h [1] s ∧ s.svc.bridge = false ∧ isRevoking s p.tenant = false ∧ partBad s p = false ∧
      s.svc.node ≠ none ∧ opInFlight s p.group = false ∧ stagedFor s p = none) ∧
    (∃ (h : MHdr) (p : GroupPart) (s : State), Serves h [1] s ∧ s.svc.bridge = false ∧ isRevoking s p.tenant = false ∧ partBad s p = false ∧
      s.svc.node ≠ none ∧ opInFlight s p.group = false ∧ ∃ l, stagedFor s p = some l) ∧
    (∃ (p : GroupPart) (s : State), p.first = 0) ∧
    (∃ (p : GroupPart) (s : State), p.first ≠ 0 ∧ s.coll.staged.find p.group = none) ∧
    (∃ (p : GroupPart) (s : State), ∃ e, p.first ≠ 0 ∧ s.coll.staged.find p.group = some e) ∧
    (∃ (h : MHdr) (g : Nat) (s : State), Serves h [1] s ∧ s.svc.bridge = false) ∧
    (∃ (h : MHdr) (g k gen : Nat) (s : State), Serves h [1] s ∧ s.svc.bridge = false ∧ removalOk s g k = true ∧ gen ≤ 15 ∧ opInFlight s g = false) ∧
    (∃ (h : MHdr) (g k gen : Nat) (s : State), Serves h [1] s ∧ s.svc.bridge = false ∧ removalOk s g k = true ∧ gen ≤ 15 ∧ opInFlight s g = true) ∧
    (∃ (h : MHdr) (p mask t : Nat) (s : State), Serves h [1] s ∧ p ≤ 15 ∧ mask ≤ 65535 ∧ (mask = 0 ∨ (s.tenant t).isSome = true)) ∧
    (∃ (h : MHdr) (p slot addr : Nat) (len : ImageRef) (q : Partition) (s : State), Serves h [1, 4, 5, 6, 7] s ∧ slot ≤ 15 ∧ s.reed.parts.find p =
      some q ∧ tenantOk h q.tenant s = true ∧ isRevoking s q.tenant = false ∧ (s.reed.images.find (16 * slot + p)).isSome = true) ∧
    (∃ (h : MHdr) (p slot addr : Nat) (len : ImageRef) (q : Partition) (s : State), Serves h [1, 4, 5, 6, 7] s ∧ slot ≤ 15 ∧ s.reed.parts.find p =
      some q ∧ tenantOk h q.tenant s = true ∧ isRevoking s q.tenant = false ∧ s.reed.images.find (16 * slot + p) = none ∧ loadWaits s q.tenant addr
      len.len = true) ∧
    (∃ (h : MHdr) (p slot addr : Nat) (len : ImageRef) (q : Partition) (s : State), Serves h [1, 4, 5, 6, 7] s ∧ slot ≤ 15 ∧ s.reed.parts.find p =
      some q ∧ tenantOk h q.tenant s = true ∧ isRevoking s q.tenant = false ∧
      let r := readHere q.tenant len.ecc { hdr := h, partition := p, slot := slot, addr := addr, len := len.len } s
      let far := farLines r.2 q.tenant r.1
      s.reed.images.find (16 * slot + p) = none ∧ loadWaits s q.tenant addr len.len = false ∧ (r.1.bad = true ∨ far = [])) ∧
    (∃ (h : MHdr) (p slot addr : Nat) (len : ImageRef) (q : Partition) (s : State), Serves h [1, 4, 5, 6, 7] s ∧ slot ≤ 15 ∧ s.reed.parts.find p =
      some q ∧ tenantOk h q.tenant s = true ∧ isRevoking s q.tenant = false ∧
      let r := readHere q.tenant len.ecc { hdr := h, partition := p, slot := slot, addr := addr, len := len.len } s
      let far := farLines r.2 q.tenant r.1
      s.reed.images.find (16 * slot + p) = none ∧ loadWaits s q.tenant addr len.len = false ∧ r.1.bad = false ∧ far ≠ []) ∧
    (∃ (l : Loading) (q : Partition) (s : State), s.reed.parts.find l.partition = some q ∧
      let key := 16 * l.slot + l.partition
      (s.reed.images.find key).isSome = true) ∧
    (∃ (l : Loading) (q : Partition) (s : State), s.reed.parts.find l.partition = some q ∧
      let key := 16 * l.slot + l.partition
      s.reed.images.find key = none ∧ l.bad = true) ∧
    (∃ (l : Loading) (q : Partition) (s : State), s.reed.parts.find l.partition = some q ∧
      let b := (List.range l.lines.length).flatMap (fun i => l.lines.look i [])
      let key := 16 * l.slot + l.partition
      s.reed.images.find key = none ∧ l.bad = false ∧ (imageOk b (clustersOf q.mask).length = false ∨ 61440 < textBytes s l.partition + leAt b 8 4)) ∧
    (∃ (l : Loading) (q : Partition) (s : State), s.reed.parts.find l.partition = some q ∧
      let b := (List.range l.lines.length).flatMap (fun i => l.lines.look i [])
      let key := 16 * l.slot + l.partition
      s.reed.images.find key = none ∧ l.bad = false ∧ imageOk b (clustersOf q.mask).length = true ∧ textBytes s l.partition + leAt b 8 4 ≤ 61440) ∧
    (∃ (h : MHdr) (id : Nat) (s : State), Serves h [1, 4, 5, 6, 7] s ∧ (∀ q, s.reed.parts.find (id % 16) = some q → tenantOk h q.tenant s = true) ∧ id
      ≤ 65535) ∧
    (∃ (h : MHdr) (a : MemberArmArgs) (s : State), Serves h [0, 4, 5, 6, 7] s ∧ s.svc.bridge = true ∧ tenantOk h a.tenant s = true ∧ isRevoking s
      a.tenant = false ∧ armBad a s = false) :=
  ⟨⟨(hdr 1), ({ group := 9, gen := 16, last := true, tenant := 0, n := 2, first := 0, recs := members }), (opPlane (oper 0 id)),
     by unfold Serves Listens; decide +kernel, by and_intros <;> decide +kernel⟩,
   ⟨(hdr 1), ({ group := 9, gen := 15, last := true, tenant := 0, n := 2, first := 0, recs := members }), (opPlane (oper 0 id)),
     by unfold Serves Listens; decide +kernel, by and_intros <;> decide +kernel⟩,
   ⟨(hdr 1),
     ({ group := 4095, gen := 15, last := true, tenant := 0, n := 2, first := 1, recs := [{ member := 4, resultLen := 128, resultBase := 0 }] }),
     (opPlane (oper 0 id)), by unfold Serves Listens; decide +kernel, by and_intros <;> decide +kernel⟩,
   ⟨(hdr 1), ({ group := 4095, gen := 15, last := true, tenant := 0, n := 2, first := 0, recs := members }), (opPlane (oper 0 id)),
     by unfold Serves Listens; decide +kernel, by decide +kernel, by decide +kernel, by decide +kernel, by decide +kernel, by decide +kernel, ([]),
     by decide +kernel⟩,
   ⟨({ group := 4095, gen := 15, last := true, tenant := 0, n := 2, first := 0, recs := members }), (opPlane (oper 0 id)), by decide +kernel⟩,
   ⟨({ group := 4095, gen := 15, last := true, tenant := 0, n := 2, first := 1, recs := [{ member := 4, resultLen := 128, resultBase := 0 }] }),
     (opPlane (oper 0 id)), by and_intros <;> decide +kernel⟩,
   ⟨({ group := 4095, gen := 15, last := true, tenant := 0, n := 2, first := 1, recs := [{ member := 4, resultLen := 128, resultBase := 0 }] }),
     ({ plane with coll := { staged := [(4095, { gen := 15, tenant := 0, n := 2, recs := [{ member := 3, resultLen := 128, resultBase := 0 }] })] } }),
     ({ gen := 15, tenant := 0, n := 2, recs := [{ member := 3, resultLen := 128, resultBase := 0 }] }), by and_intros <;> decide +kernel⟩,
   ⟨(hdr 1), 9, (opPlane (oper 0 id)), by unfold Serves Listens; decide +kernel, by decide +kernel⟩,
   ⟨(hdr 1), 9, 1, 15, (opPlane (oper 0 (fun o => { o with phase := .closed }))), by unfold Serves Listens; decide +kernel,
     by and_intros <;> decide +kernel⟩,
   ⟨(hdr 1), 9, 1, 15, (opPlane (oper 0 id)), by unfold Serves Listens; decide +kernel, by and_intros <;> decide +kernel⟩,
   ⟨(hdr 1), 15, 0x8000, 5, ((plane.onSec (fun e => { e with tenants := [(5, { conf := false, memKey := 1 })] }))),
     by unfold Serves Listens; decide +kernel, by and_intros <;> decide +kernel⟩,
   ⟨(hdr 1), 2, 0, 0, ({ len := 328, ecc := .clean }), ({ mask := 1, tenant := 0 }), (opPlane (oper 0 id)), by unfold Serves Listens; decide +kernel,
     by and_intros <;> decide +kernel⟩,
   ⟨(hdr 1), 2, 15, 0, ({ len := 328, ecc := .clean }), ({ mask := 1, tenant := 0 }), loadBusy, by unfold Serves Listens; decide +kernel,
     by decide +kernel, by decide +kernel, by decide +kernel, by decide +kernel, by decide +kernel, loadBusy_waits⟩,
   ⟨(hdr 1), 2, 15, 0, ({ len := 328, ecc := .clean }), ({ mask := 1, tenant := 0 }), imagePlane, by unfold Serves Listens; decide +kernel,
     by and_intros <;> decide +kernel⟩,
   ⟨(hdr 1), 2, 15, 0, ({ len := 328, ecc := .clean }), ({ mask := 1, tenant := 0 }),
     ({ imagePlane with xlat := { src := [{ tenant := 0, addr := 0, entry := 0x2F }] } }), by unfold Serves Listens; decide +kernel,
     by and_intros <;> decide +kernel⟩,
   ⟨({ hdr := hdr 1, partition := 2, slot := 0, addr := 0, len := 328 }), ({ mask := 1, tenant := 0 }), (opPlane (oper 0 id)),
     by and_intros <;> decide +kernel⟩,
   ⟨({ hdr := hdr 1, partition := 2, slot := 15, addr := 0, len := 328, lines := [(0, leastImage)], bad := true }), ({ mask := 1, tenant := 0 }),
     imagePlane, by and_intros <;> decide +kernel⟩,
   ⟨({ hdr := hdr 1, partition := 2, slot := 15, addr := 0, len := 328 }), ({ mask := 1, tenant := 0 }), imagePlane, by and_intros <;> decide +kernel⟩,
   ⟨({ hdr := hdr 1, partition := 2, slot := 15, addr := 0, len := 328, lines := [(0, leastImage)] }), ({ mask := 1, tenant := 0 }), imagePlane,
     by and_intros <;> decide +kernel⟩,
   ⟨(hdr 1), 2, (opPlane (oper 0 id)), by unfold Serves Listens; decide +kernel,
     (by intro q h; have e : (opPlane (oper 0 id)).reed.parts.find (2 % 16) = some { mask := 1, tenant := 0 } := (by decide +kernel); rw [e] at h; injection h with h; subst h; decide +kernel),
     by decide +kernel⟩,
   ⟨(hdr 0),
     ({ group := 4095, gen := 15, tenant := 5, members := members, digest := 0, position := 1, prog := { prog 0 with group := 4095 }, opid := 5, timeout := 600000000000 }),
     (bridge.onSec (fun e => { e with tenants := [(5, { conf := false, memKey := 1 })] })), by unfold Serves Listens; decide +kernel,
     by and_intros <;> decide +kernel⟩⟩

theorem witness_OperationCommandsComplete :
    (∃ (h : MHdr) (a : OpStartArgs) (s : State), Serves h [1, 4, 5, 6, 7] s ∧ s.svc.bridge = false ∧ groupDenied h a.group s = false ∧ programDenied h
      a.progId s = false ∧ (∀ e, s.coll.groups.find a.group = some e → isRevoking s e.tenant = false) ∧ startBad a s = true) ∧
    (∃ (h : MHdr) (a : OpStartArgs) (s : State), Serves h [1, 4, 5, 6, 7] s ∧ s.svc.bridge = false ∧ groupDenied h a.group s = false ∧ programDenied h
      a.progId s = false ∧ (∀ e, s.coll.groups.find a.group = some e → isRevoking s e.tenant = false) ∧ startBad a s = false) ∧
    (∃ (h : MHdr) (a : OpStartArgs) (s : State), Serves h [1, 4, 5, 6, 7] s ∧ (groupDenied h a.group s = true ∨ programDenied h a.progId s = true)) ∧
    (∃ (h : MHdr) (g : Nat) (s : State), Serves h [1, 4, 5, 6, 7] s ∧ s.svc.bridge = false ∧ groupDenied h g s = false) ∧
    (∃ (h : MHdr) (s : State), Serves h [1, 4, 5, 6, 7] s) :=
  ⟨⟨(hdr 1), ({ opid := 6, group := 8, digest := 0, progId := 2, imageDigest := 0, timeout := 600000000000, args := List.replicate 64 0 }),
     (opPlane (oper 0 (fun o => { o with phase := .closed }))), by unfold Serves Listens; decide +kernel, by decide +kernel, by decide +kernel,
     by decide +kernel, (by intro e h; change none = some e at h; cases h), by decide +kernel⟩,
   ⟨(hdr 1), ({ opid := 6, group := 9, digest := 0, progId := 2, imageDigest := 0, timeout := 600000000000, args := List.replicate 64 0 }),
     (opPlane (oper 0 (fun o => { o with phase := .closed }))), by unfold Serves Listens; decide +kernel, by decide +kernel, by decide +kernel,
     by decide +kernel,
     (by intro e h; have x : (opPlane (oper 0 (fun o => { o with phase := .closed }))).coll.groups.find ({ opid := 6, group := 9, digest := 0, progId := 2, imageDigest := 0, timeout := 600000000000, args := List.replicate 64 0 } : OpStartArgs).group = some entry := (by decide +kernel); rw [x] at h; injection h with h; subst h; decide +kernel),
     by decide +kernel⟩,
   ⟨(hdr 4), ({ opid := 6, group := 9, digest := 0, progId := 2, imageDigest := 0, timeout := 600000000000, args := List.replicate 64 0 }),
     (opPlane (oper 0 (fun o => { o with phase := .closed }))), by unfold Serves Listens; decide +kernel, by decide +kernel⟩,
   ⟨(hdr 1), 9, (opPlane (oper 0 (fun o => { o with phase := .closed }))), by unfold Serves Listens; decide +kernel, by and_intros <;> decide +kernel⟩,
   ⟨(hdr 1), (opPlane (oper 0 (fun o => { o with phase := .closed }))), by unfold Serves Listens; decide +kernel⟩⟩

theorem witness_PlaneTrafficCompletes :
    (∃ (port : Nat) (p : Packet) (ecc : Ecc) (x : Instr × Nat) (s : State), x ∈ [(.redPut port p ecc, opRedPut), (.redRes port p, opRedRes),
      (.redCredit port p, opRedCredit), (.opDone port p, opOpDone), (.opAbort port p, opOpAbort), (.ringPart port { pkt := p, ecc := ecc },
      opRingPart), (.ringRes port p, opRingRes), (.msgSend port p ecc, opMsgSend), (.msgAck port p, opMsgAck), (.maskSet port p, opMaskSet), (.maskAck
      port p, opMaskAck), (.keyMsg port p, opKeyMsg)] ∧ (isPort port = true ∨ port = outLocal) ∧ (s.svc.mod ≠ .ready ∨ (p.dst ≠ selfNode s ∧ p.mcast =
      false) ∨ p.op ≠ x.2)) ∧
    (∃ (port : Nat) (p : Packet) (ecc : Ecc) (x : Instr × Nat) (s : State), x ∈ [(.redPut port p ecc, opRedPut), (.redRes port p, opRedRes),
      (.redCredit port p, opRedCredit), (.opDone port p, opOpDone), (.opAbort port p, opOpAbort), (.ringPart port { pkt := p, ecc := ecc },
      opRingPart), (.ringRes port p, opRingRes), (.msgSend port p ecc, opMsgSend), (.msgAck port p, opMsgAck), (.maskSet port p, opMaskSet), (.maskAck
      port p, opMaskAck), (.keyMsg port p, opKeyMsg)] ∧ isPort port = false ∧ port ≠ outLocal) ∧
    (∃ (port : Nat) (p : Packet) (ecc : Ecc) (s : State), (isPort port = true ∨ port = outLocal) ∧ s.svc.mod = .ready ∧ (p.dst = selfNode s ∨ p.mcast
      = true) ∧ p.op = opRedPut ∧
      let k := opened s p
      let u := takeLocal p s
      openOp u k = none) ∧
    (∃ (port : Nat) (p : Packet) (ecc : Ecc) (s : State), (isPort port = true ∨ port = outLocal) ∧ s.svc.mod = .ready ∧ (p.dst = selfNode s ∨ p.mcast
      = true) ∧ p.op = opRedPut ∧
      let k := opened s p
      let u := takeLocal p s
      ∃ op, openOp u k = some op ∧ authCheck k u = .stale) ∧
    (∃ (port : Nat) (p : Packet) (ecc : Ecc) (s : State), (isPort port = true ∨ port = outLocal) ∧ s.svc.mod = .ready ∧ (p.dst = selfNode s ∨ p.mcast
      = true) ∧ p.op = opRedPut ∧
      let k := opened s p
      let u := takeLocal p s
      ∃ op, openOp u k = some op ∧ authCheck k u = .fail) ∧
    (∃ (port : Nat) (p : Packet) (ecc : Ecc) (s : State), (isPort port = true ∨ port = outLocal) ∧ s.svc.mod = .ready ∧ (p.dst = selfNode s ∨ p.mcast
      = true) ∧ p.op = opRedPut ∧
      let k := opened s p
      let u := takeLocal p s
      ∃ op, openOp u k = some op ∧ authCheck k u = .ok ∧ flagsBad k = true) ∧
    (∃ (port : Nat) (p : Packet) (ecc : Ecc) (s : State), (isPort port = true ∨ port = outLocal) ∧ s.svc.mod = .ready ∧ (p.dst = selfNode s ∨ p.mcast
      = true) ∧ p.op = opRedPut ∧
      let k := opened s p
      let u := takeLocal p s
      ∃ op, openOp u k = some op ∧ authCheck k u = .ok ∧ flagsBad k = false ∧ (chunkOf op k.chunk = none ∨ positionOf u k.group k.src = none)) ∧
    (∃ (port : Nat) (p : Packet) (ecc : Ecc) (s : State), (isPort port = true ∨ port = outLocal) ∧ s.svc.mod = .ready ∧ (p.dst = selfNode s ∨ p.mcast
      = true) ∧ p.op = opRedPut ∧
      let k := opened s p
      let u := takeLocal p s
      ∃ op, openOp u k = some op ∧ authCheck k u = .ok ∧ flagsBad k = false ∧ ∃ x pos, chunkOf op k.chunk = some x ∧ positionOf u k.group k.src = some
        pos) ∧
    (∃ (g c : Nat) (ecc : Ecc) (s : State), s.svc.mod = .ready ∧ runningChunk s g c = none) ∧
    (∃ (g c : Nat) (ecc : Ecc) (s : State), s.svc.mod = .ready ∧ ∃ op x, runningChunk s g c = some (op, x) ∧ (x.formed = true ∨ x.emitted ≠ [])) ∧
    (∃ (g c : Nat) (ecc : Ecc) (s : State), s.svc.mod = .ready ∧ ∃ op x, runningChunk s g c = some (op, x) ∧
      let r := scratchCheck (elemCluster s op 0) (slotWords g op c 0 (chunkElems op.prog) s) ecc s
      x.formed = false ∧ x.emitted = [] ∧ r.1 = false) ∧
    (∃ (g c : Nat) (ecc : Ecc) (s : State), s.svc.mod = .ready ∧ ∃ op x, runningChunk s g c = some (op, x) ∧
      let r := scratchCheck (elemCluster s op 0) (slotWords g op c 0 (chunkElems op.prog) s) ecc s
      x.formed = false ∧ x.emitted = [] ∧ r.1 = true) ∧
    (∃ (g c : Nat) (s : State), runningChunk s g c = none) ∧
    (∃ (g c : Nat) (s : State), ∃ op x, runningChunk s g c = some (op, x) ∧
      let v := syncOpen g c 0 (inElems op.prog c) s
      ∃ op x, runningChunk v g c = some (op, x) ∧
      let n := memberCount v g
      (chunkReady op n x = false ∨ isStalled op c = true)) ∧
    (∃ (g c : Nat) (s : State), ∃ op x, runningChunk s g c = some (op, x) ∧
      let v := syncOpen g c 0 (inElems op.prog c) s
      ∃ op x, runningChunk v g c = some (op, x) ∧
      let n := memberCount v g
      chunkReady op n x = true ∧ isStalled op c = false ∧ isRing op = true) ∧
    (∃ (g c : Nat) (s : State), ∃ op x, runningChunk s g c = some (op, x) ∧
      let v := syncOpen g c 0 (inElems op.prog c) s
      ∃ op x, runningChunk v g c = some (op, x) ∧
      let n := memberCount v g
      chunkReady op n x = true ∧ isStalled op c = false ∧ isRing op = false) ∧
    (∃ (g c : Nat) (s : State), (∀ op x, runningChunk s g c = some (op, x) → op.prog.weighted = false)) ∧
    (∃ (g c i : Nat) (s : State), s.svc.mod = .ready) ∧
    (∃ (g c : Nat) (op : Op) (x : Chunk) (s : State), s.op g = some op ∧ chunkOf op c = some x) ∧
    (∃ (port : Nat) (p : Packet) (ecc : Ecc) (row : Instr) (s : State), (isPort port = true ∨ port = outLocal) ∧ s.svc.mod = .ready ∧ (p.dst =
      selfNode s ∨ p.mcast = true) ∧ (row = .ringPart port { pkt := p, ecc := ecc } ∧ p.op = opRingPart ∨ row = .ringRes port p ∧ p.op = opRingRes) ∧
      let k := opened s p
      let u := takeLocal p s
      authCheck k u = .stale) ∧
    (∃ (port : Nat) (p : Packet) (ecc : Ecc) (row : Instr) (s : State), (isPort port = true ∨ port = outLocal) ∧ s.svc.mod = .ready ∧ (p.dst =
      selfNode s ∨ p.mcast = true) ∧ (row = .ringPart port { pkt := p, ecc := ecc } ∧ p.op = opRingPart ∨ row = .ringRes port p ∧ p.op = opRingRes) ∧
      let k := opened s p
      let u := takeLocal p s
      authCheck k u = .fail) ∧
    (∃ (port : Nat) (p : Packet) (ecc : Ecc) (row : Instr) (s : State), (isPort port = true ∨ port = outLocal) ∧ s.svc.mod = .ready ∧ (p.dst =
      selfNode s ∨ p.mcast = true) ∧ (row = .ringPart port { pkt := p, ecc := ecc } ∧ p.op = opRingPart ∨ row = .ringRes port p ∧ p.op = opRingRes) ∧
      let k := opened s p
      let u := takeLocal p s
      authCheck k u = .ok ∧ flagsBad k = true) ∧
    (∃ (port : Nat) (p : Packet) (ecc : Ecc) (row : Instr) (s : State), (isPort port = true ∨ port = outLocal) ∧ s.svc.mod = .ready ∧ (p.dst =
      selfNode s ∨ p.mcast = true) ∧ (row = .ringPart port { pkt := p, ecc := ecc } ∧ p.op = opRingPart ∨ row = .ringRes port p ∧ p.op = opRingRes) ∧
      let k := opened s p
      let u := takeLocal p s
      authCheck k u = .ok ∧ flagsBad k = false ∧ ringOp u k = none) ∧
    (∃ (port : Nat) (p : Packet) (ecc : Ecc) (row : Instr) (s : State), (isPort port = true ∨ port = outLocal) ∧ s.svc.mod = .ready ∧ (p.dst =
      selfNode s ∨ p.mcast = true) ∧ (row = .ringPart port { pkt := p, ecc := ecc } ∧ p.op = opRingPart ∨ row = .ringRes port p ∧ p.op = opRingRes) ∧
      let k := opened s p
      let u := takeLocal p s
      authCheck k u = .ok ∧ flagsBad k = false ∧ ∃ g op, ringOp u k = some (g, op) ∧ ringSlot u op k.chunk k.pidx = false) ∧
    (∃ (port : Nat) (p : Packet) (ecc : Ecc) (row : Instr) (s : State), (isPort port = true ∨ port = outLocal) ∧ s.svc.mod = .ready ∧ (p.dst =
      selfNode s ∨ p.mcast = true) ∧ (row = .ringPart port { pkt := p, ecc := ecc } ∧ p.op = opRingPart ∨ row = .ringRes port p ∧ p.op = opRingRes) ∧
      let k := opened s p
      let u := takeLocal p s
      authCheck k u = .ok ∧ flagsBad k = false ∧ ∃ g op, ringOp u k = some (g, op) ∧ ringSlot u op k.chunk k.pidx = true) ∧
    (∃ (g c : Nat) (s : State), s.svc.mod = .ready ∧ (∀ op, s.op g = some op → chunkOf op c = none)) ∧
    (∃ (g c : Nat) (s : State), s.svc.mod = .ready ∧ ∃ op x, s.op g = some op ∧ chunkOf op c = some x) ∧
    (∃ (g : Nat) (s : State), s.svc.mod = .ready ∧ s.op g = none) ∧
    (∃ (g : Nat) (s : State), s.svc.mod = .ready ∧ ∃ op, s.op g = some op) ∧
    (∃ (port : Nat) (p : Packet) (s : State), (isPort port = true ∨ port = outLocal) ∧ s.svc.mod = .ready ∧ s.svc.bridge = false ∧ (p.dst = selfNode s
      ∨ p.mcast = true) ∧ p.op = opRedCredit) ∧
    (∃ (port : Nat) (p : Packet) (s : State), (isPort port = true ∨ port = outLocal) ∧ s.svc.mod = .ready ∧ s.svc.bridge = false ∧ (p.dst = selfNode s
      ∨ p.mcast = true) ∧ p.op = opOpDone) ∧
    (∃ (port : Nat) (p : Packet) (s : State), (isPort port = true ∨ port = outLocal) ∧ s.svc.mod = .ready ∧ s.svc.bridge = false ∧ (p.dst = selfNode s
      ∨ p.mcast = true) ∧ p.op = opRedRes) ∧
    (∃ (port : Nat) (p : Packet) (s : State), (isPort port = true ∨ port = outLocal) ∧ s.svc.mod = .ready ∧ s.svc.bridge = false ∧ (p.dst = selfNode s
      ∨ p.mcast = true) ∧ p.op = opOpAbort) :=
  ⟨⟨0, (collPk opRedPut (mkNode 0 false 3) (mkNode 0 true 0) (0) (fun p => { p with data := List.replicate 128 0 })), .clean,
     ((.redPut 0 (collPk opRedPut (mkNode 0 false 3) (mkNode 0 true 0) (0) (fun p => { p with data := List.replicate 128 0 })) .clean, opRedPut)),
     bridge, (List.mem_cons_self ..), by and_intros <;> decide +kernel⟩,
   ⟨513, (collPk opRedPut (mkNode 0 false 3) (mkNode 0 true 0) (0) (fun p => { p with data := List.replicate 128 0 })), .clean,
     ((.redPut 513 (collPk opRedPut (mkNode 0 false 3) (mkNode 0 true 0) (0) (fun p => { p with data := List.replicate 128 0 })) .clean, opRedPut)),
     (opPlane (oper 0 id)), (List.mem_cons_self ..), by and_intros <;> decide +kernel⟩,
   ⟨0, (collPk opRedPut (mkNode 0 false 3) (mkNode 0 true 0) (0) (fun p => { p with data := List.replicate 128 0 })), .clean, plane,
     by and_intros <;> decide +kernel⟩,
   ⟨0, (collPk opRedPut (mkNode 0 false 3) (mkNode 0 true 0) (0) (fun p => { p with data := List.replicate 128 0 })), .clean,
     ((opPlane (oper 0 id)).onSec (fun e => { tenants := [], revoked := [(0, true)] })), by decide +kernel, by decide +kernel, by decide +kernel,
     by decide +kernel, (oper 0 id), by and_intros <;> decide +kernel⟩,
   ⟨0, (collPk opRedPut (mkNode 0 false 3) (mkNode 0 true 0) (0) (fun p => { p with data := List.replicate 128 0 })), .clean,
     ((opPlane (oper 0 id)).onSec (fun e => { e with tenants := [(0, { conf := true, memKey := 1 })] })), by decide +kernel, by decide +kernel,
     by decide +kernel, by decide +kernel, (oper 0 id), by and_intros <;> decide +kernel⟩,
   ⟨0, (collPk opRedPut (mkNode 0 false 3) (mkNode 0 true 0) (0) (fun p => { p with release := true, data := List.replicate 128 0 })), .clean,
     (opPlane (oper 0 id)), by decide +kernel, by decide +kernel, by decide +kernel, by decide +kernel, (oper 0 id), by and_intros <;> decide +kernel⟩,
   ⟨0, (collPk opRedPut (mkNode 0 false 3) (mkNode 0 true 0) (0) (fun p => { p with offset := p.offset + 1, data := List.replicate 128 0 })), .clean,
     (opPlane (oper 0 id)), by decide +kernel, by decide +kernel, by decide +kernel, by decide +kernel, (oper 0 id), by and_intros <;> decide +kernel⟩,
   ⟨0, (collPk opRedPut (mkNode 0 false 3) (mkNode 0 true 0) (0) (fun p => { p with data := List.replicate 128 0 })), .clean, (opPlane (oper 0 id)),
     by decide +kernel, by decide +kernel, by decide +kernel, by decide +kernel, (oper 0 id), by decide +kernel, by decide +kernel, by decide +kernel,
     ({ idx := 0, last := 4999000000 }), 0, by and_intros <;> decide +kernel⟩,
   ⟨9, 0, .clean, plane, by and_intros <;> decide +kernel⟩,
   ⟨9, 0, .clean, (opPlane (oper 0 (fun o => { o with chunks := [{ idx := 0, last := 4999000000, formed := true }] }))), by decide +kernel,
     (oper 0 (fun o => { o with chunks := [{ idx := 0, last := 4999000000, formed := true }] })), ({ idx := 0, last := 4999000000, formed := true }),
     by and_intros <;> decide +kernel⟩,
   ⟨9, 0, .uncorrectable, (opPlane (oper 0 id)), by decide +kernel, (oper 0 id), ({ idx := 0, last := 4999000000 }), by and_intros <;> decide +kernel⟩,
   ⟨9, 0, .clean, (opPlane (oper 0 (fun o => { o with chunks := [{ idx := 0, last := 4999000000, got := [(0, 0), (1, 0)] }] }))), by decide +kernel,
     (oper 0 (fun o => { o with chunks := [{ idx := 0, last := 4999000000, got := [(0, 0), (1, 0)] }] })),
     ({ idx := 0, last := 4999000000, got := [(0, 0), (1, 0)] }), by and_intros <;> decide +kernel⟩,
   ⟨9, 0, plane, by decide +kernel⟩,
   ⟨9, 0, (opPlane (oper 0 id)), (oper 0 id), ({ idx := 0, last := 4999000000 }), by decide +kernel, (oper 0 id), ({ idx := 0, last := 4999000000 }),
     by and_intros <;> decide +kernel⟩,
   ⟨9, 0,
     (opPlane (oper 6 (fun o => { o with chunks := [{ idx := 0, last := 4999000000, got := [(0, 0), (1, 0)] }], gathered := [(0, ([], []))], prog := { o.prog with k := 2, ring := [0, 1] } }))),
     (oper 6 (fun o => { o with chunks := [{ idx := 0, last := 4999000000, got := [(0, 0), (1, 0)] }], gathered := [(0, ([], []))], prog := { o.prog with k := 2, ring := [0, 1] } })),
     ({ idx := 0, last := 4999000000, got := [(0, 0), (1, 0)] }), by decide +kernel,
     (oper 6 (fun o => { o with chunks := [{ idx := 0, last := 4999000000, got := [(0, 0), (1, 0)] }], gathered := [(0, ([], []))], prog := { o.prog with k := 2, ring := [0, 1] } })),
     ({ idx := 0, last := 4999000000, got := [(0, 0), (1, 0)] }), by and_intros <;> decide +kernel⟩,
   ⟨9, 0, (opPlane (oper 0 (fun o => { o with chunks := [{ idx := 0, last := 4999000000, got := [(0, 0), (1, 0)] }] }))),
     (oper 0 (fun o => { o with chunks := [{ idx := 0, last := 4999000000, got := [(0, 0), (1, 0)] }] })),
     ({ idx := 0, last := 4999000000, got := [(0, 0), (1, 0)] }), by decide +kernel,
     (oper 0 (fun o => { o with chunks := [{ idx := 0, last := 4999000000, got := [(0, 0), (1, 0)] }] })),
     ({ idx := 0, last := 4999000000, got := [(0, 0), (1, 0)] }), by and_intros <;> decide +kernel⟩,
   ⟨9, 0, plane, (by intro o x h; change none = some (o, x) at h; cases h)⟩,
   ⟨9, 0, 0, (opPlane (oper 0 id)), by decide +kernel⟩,
   ⟨9, 0, (oper 0 id), ({ idx := 0, last := 4999000000 }), (opPlane (oper 0 id)), by and_intros <;> decide +kernel⟩,
   ⟨528, (collPk opRingPart (mkNode 1 true 0) (mkNode 0 true 0) (0) (fun p => { p with data := List.replicate 128 0 })), .clean,
     (.ringPart 528 { pkt := collPk opRingPart (mkNode 1 true 0) (mkNode 0 true 0) (0) (fun p => { p with data := List.replicate 128 0 }), ecc := .clean }),
     ((opPlane (oper 6 (fun o => { o with prog := { o.prog with k := 2, ring := [0, 1] } }))).onSec (fun e => { tenants := [], revoked := [(0, true)] })),
     by decide +kernel, by decide +kernel, by decide +kernel, (.inl ⟨rfl, rfl⟩), by decide +kernel⟩,
   ⟨528, (collPk opRingPart (mkNode 1 true 0) (mkNode 0 true 0) (0) (fun p => { p with data := List.replicate 128 0 })), .clean,
     (.ringPart 528 { pkt := collPk opRingPart (mkNode 1 true 0) (mkNode 0 true 0) (0) (fun p => { p with data := List.replicate 128 0 }), ecc := .clean }),
     ((opPlane (oper 6 (fun o => { o with prog := { o.prog with k := 2, ring := [0, 1] } }))).onSec (fun e => { e with tenants := [(0, { conf := true, memKey := 1 })] })),
     by decide +kernel, by decide +kernel, by decide +kernel, (.inl ⟨rfl, rfl⟩), by decide +kernel⟩,
   ⟨528, (collPk opRingPart (mkNode 1 true 0) (mkNode 0 true 0) (0) (fun p => { p with release := true, data := List.replicate 128 0 })), .clean,
     (.ringPart 528 { pkt := collPk opRingPart (mkNode 1 true 0) (mkNode 0 true 0) (0) (fun p => { p with release := true, data := List.replicate 128 0 }), ecc := .clean }),
     (opPlane (oper 6 (fun o => { o with prog := { o.prog with k := 2, ring := [0, 1] } }))), by decide +kernel, by decide +kernel, by decide +kernel,
     (.inl ⟨rfl, rfl⟩), by and_intros <;> decide +kernel⟩,
   ⟨528, (collPk opRingPart (mkNode 1 true 0) (mkNode 0 true 0) (0) (fun p => { p with data := List.replicate 128 0 })), .clean,
     (.ringPart 528 { pkt := collPk opRingPart (mkNode 1 true 0) (mkNode 0 true 0) (0) (fun p => { p with data := List.replicate 128 0 }), ecc := .clean }),
     plane, by decide +kernel, by decide +kernel, by decide +kernel, (.inl ⟨rfl, rfl⟩), by and_intros <;> decide +kernel⟩,
   ⟨528, (collPk opRingPart (mkNode 1 true 0) (mkNode 0 true 0) (1) (fun p => { p with data := List.replicate 128 0 })), .clean,
     (.ringPart 528 { pkt := collPk opRingPart (mkNode 1 true 0) (mkNode 0 true 0) (1) (fun p => { p with data := List.replicate 128 0 }), ecc := .clean }),
     (opPlane (oper 6 (fun o => { o with prog := { o.prog with k := 2, ring := [0, 1] } }))), by decide +kernel, by decide +kernel, by decide +kernel,
     (.inl ⟨rfl, rfl⟩), by decide +kernel, by decide +kernel, 9, (oper 6 (fun o => { o with prog := { o.prog with k := 2, ring := [0, 1] } })),
     by and_intros <;> decide +kernel⟩,
   ⟨528, (collPk opRingPart (mkNode 1 true 0) (mkNode 0 true 0) (0) (fun p => { p with data := List.replicate 128 0 })), .clean,
     (.ringPart 528 { pkt := collPk opRingPart (mkNode 1 true 0) (mkNode 0 true 0) (0) (fun p => { p with data := List.replicate 128 0 }), ecc := .clean }),
     (opPlane (oper 6 (fun o => { o with prog := { o.prog with k := 2, ring := [0, 1] } }))), by decide +kernel, by decide +kernel, by decide +kernel,
     (.inl ⟨rfl, rfl⟩), by decide +kernel, by decide +kernel, 9, (oper 6 (fun o => { o with prog := { o.prog with k := 2, ring := [0, 1] } })),
     by and_intros <;> decide +kernel⟩,
   ⟨9, 0, plane, by decide +kernel, (by intro o h; change none = some o at h; cases h)⟩,
   ⟨9, 0, (opPlane (oper 0 id)), by decide +kernel, (oper 0 id), ({ idx := 0, last := 4999000000 }), by and_intros <;> decide +kernel⟩,
   ⟨9, plane, by and_intros <;> decide +kernel⟩,
   ⟨9, (opPlane (oper 0 id)), by decide +kernel, (oper 0 id), by decide +kernel⟩,
   ⟨0, (collPk opRedCredit (mkNode 0 false 3) (mkNode 0 true 0) (1) (id)), (opPlane (oper 0 id)), by and_intros <;> decide +kernel⟩,
   ⟨0, (collPk opOpDone (mkNode 0 false 3) (mkNode 0 true 0) (0) (id)), (opPlane (oper 0 id)), by and_intros <;> decide +kernel⟩,
   ⟨0, (collPk opRedRes (mkNode 0 false 3) (mkNode 0 true 0) (0) (id)), (opPlane (oper 0 id)), by and_intros <;> decide +kernel⟩,
   ⟨0, (collPk opOpAbort (mkNode 0 false 3) (mkNode 0 true 0) (6) (id)), (opPlane (oper 0 id)), by and_intros <;> decide +kernel⟩⟩

theorem witness_AbortRecordOnlyFalls :
    (∃ (g : Nat) (r : AbortRec) (op : Op) (s : State), s.op g = some op ∧ recLowers op.record r = false) ∧
    (∃ (g : Nat) (r : AbortRec) (op : Op) (s : State), s.op g = some op ∧ recLowers op.record r = true) ∧
    (∃ (g : Nat) (r : AbortRec) (op : Op) (s : State), s.op g = some op ∧ ∃ (reason : Nat) (chunk : Option Nat), (op.record ≠ none ∨ op.phase ≠
      .running)) ∧
    (∃ (g : Nat) (r : AbortRec) (op : Op) (s : State), s.op g = some op ∧ ∃ a b : AbortRec, a ≠ b) ∧
    (∃ (g : Nat) (r : AbortRec) (op : Op) (s : State), s.op g = some op ∧ ∃ a b c : AbortRec, recLt a b = true ∧ recLt b c = true) :=
  ⟨⟨9, ({ origin := 1, reason := 6, chunk := 0 }), (oper 0 (fun o => { o with record := some { origin := 1, reason := 6, chunk := 0 } })),
     (opPlane (oper 0 (fun o => { o with record := some { origin := 1, reason := 6, chunk := 0 } }))), by and_intros <;> decide +kernel⟩,
   ⟨9, ({ origin := 0, reason := 6, chunk := 0 }), (oper 0 (fun o => { o with record := some { origin := 1, reason := 6, chunk := 0 } })),
     (opPlane (oper 0 (fun o => { o with record := some { origin := 1, reason := 6, chunk := 0 } }))), by and_intros <;> decide +kernel⟩,
   ⟨9, ({ origin := 1, reason := 6, chunk := 0 }), (oper 0 (fun o => { o with record := some { origin := 1, reason := 6, chunk := 0 } })),
     (opPlane (oper 0 (fun o => { o with record := some { origin := 1, reason := 6, chunk := 0 } }))), by decide +kernel, 6, none, by decide +kernel⟩,
   ⟨9, ({ origin := 1, reason := 6, chunk := 0 }), (oper 0 (fun o => { o with record := some { origin := 1, reason := 6, chunk := 0 } })),
     (opPlane (oper 0 (fun o => { o with record := some { origin := 1, reason := 6, chunk := 0 } }))), by decide +kernel,
     ({ origin := 0, reason := 6, chunk := 0 }), ({ origin := 1, reason := 6, chunk := 0 }), by decide +kernel⟩,
   ⟨9, ({ origin := 1, reason := 6, chunk := 0 }), (oper 0 (fun o => { o with record := some { origin := 1, reason := 6, chunk := 0 } })),
     (opPlane (oper 0 (fun o => { o with record := some { origin := 1, reason := 6, chunk := 0 } }))), by decide +kernel,
     ({ origin := 0, reason := 6, chunk := 0 }), ({ origin := 1, reason := 6, chunk := 0 }), ({ origin := 2, reason := 6, chunk := 0 }),
     by and_intros <;> decide +kernel⟩⟩

theorem witness_MemberTrafficCompletes :
    (∃ (port : Nat) (p : Packet) (row : Instr) (s : State), (isPort port = true ∨ port = outLocal) ∧ s.svc.mod = .ready ∧ s.svc.bridge = true ∧ (p.dst
      = selfNode s ∨ p.mcast = true) ∧ (row = .redCredit port p ∧ p.op = opRedCredit ∨ row = .opDone port p ∧ p.op = opOpDone ∨ row = .opAbort port p
      ∧ p.op = opOpAbort ∨ row = .redRes port p ∧ p.op = opRedRes) ∧ p.op = opRedCredit) ∧
    (∃ (port : Nat) (p : Packet) (row : Instr) (s : State), (isPort port = true ∨ port = outLocal) ∧ s.svc.mod = .ready ∧ s.svc.bridge = true ∧ (p.dst
      = selfNode s ∨ p.mcast = true) ∧ (row = .redCredit port p ∧ p.op = opRedCredit ∨ row = .opDone port p ∧ p.op = opOpDone ∨ row = .opAbort port p
      ∧ p.op = opOpAbort ∨ row = .redRes port p ∧ p.op = opRedRes) ∧ p.op = opOpDone) ∧
    (∃ (port : Nat) (p : Packet) (row : Instr) (s : State), (isPort port = true ∨ port = outLocal) ∧ s.svc.mod = .ready ∧ s.svc.bridge = true ∧ (p.dst
      = selfNode s ∨ p.mcast = true) ∧ (row = .redCredit port p ∧ p.op = opRedCredit ∨ row = .opDone port p ∧ p.op = opOpDone ∨ row = .opAbort port p
      ∧ p.op = opOpAbort ∨ row = .redRes port p ∧ p.op = opRedRes) ∧ p.op = opOpAbort) ∧
    (∃ (port : Nat) (p : Packet) (row : Instr) (s : State), (isPort port = true ∨ port = outLocal) ∧ s.svc.mod = .ready ∧ s.svc.bridge = true ∧ (p.dst
      = selfNode s ∨ p.mcast = true) ∧ (row = .redCredit port p ∧ p.op = opRedCredit ∨ row = .opDone port p ∧ p.op = opOpDone ∨ row = .opAbort port p
      ∧ p.op = opOpAbort ∨ row = .redRes port p ∧ p.op = opRedRes) ∧ p.op = opRedRes ∧ s.svc.hbmResetting ≠ []) ∧
    (∃ (port : Nat) (p : Packet) (row : Instr) (s : State), (isPort port = true ∨ port = outLocal) ∧ s.svc.mod = .ready ∧ s.svc.bridge = true ∧ (p.dst
      = selfNode s ∨ p.mcast = true) ∧ (row = .redCredit port p ∧ p.op = opRedCredit ∨ row = .opDone port p ∧ p.op = opOpDone ∨ row = .opAbort port p
      ∧ p.op = opOpAbort ∨ row = .redRes port p ∧ p.op = opRedRes) ∧ p.op = opRedRes ∧ s.svc.hbmResetting = []) ∧
    (∃ (g n : Nat) (s : State), s.member g = none) ∧
    (∃ (g n : Nat) (s : State), ∃ m, s.member g = some m ∧ m.toSend.find? (fun x => mayContribute s m x.1) = none) ∧
    (∃ (g n : Nat) (s : State), ∃ m, s.member g = some m ∧ ∃ x, m.toSend.find? (fun x => mayContribute s m x.1) = some x) ∧
    (∃ (g : Nat) (s : State), s.svc.mod = .ready ∧ s.member g = none) ∧
    (∃ (g : Nat) (s : State), s.svc.mod = .ready ∧ ∃ m, s.member g = some m ∧ ∃ r, lackingPlane m = some r) ∧
    (∃ (g : Nat) (s : State), s.svc.mod = .ready ∧ ∃ m, s.member g = some m ∧ lackingPlane m = none) ∧
    (∃ (g : Nat) (s : State), s.svc.mod = .ready ∧ ∃ m, s.member g = some m ∧ m.phase = .aborting) ∧
    (∃ (g : Nat) (s : State), s.svc.mod = .ready ∧ ∃ m, s.member g = some m ∧ m.phase ≠ .aborting) ∧
    (∃ (g : Nat) (m : MemberOp) (s : State), s.member g = some m) :=
  ⟨⟨0, (collPk opRedCredit (mkNode 0 true 0) (mkNode 0 false 0) (255) (id)),
     (.redCredit 0 (collPk opRedCredit (mkNode 0 true 0) (mkNode 0 false 0) (255) (id))), (armed id), by decide +kernel, by decide +kernel,
     by decide +kernel, by decide +kernel, (.inl ⟨rfl, rfl⟩), by decide +kernel⟩,
   ⟨0, (collPk opOpDone (mkNode 0 true 0) (mkNode 0 false 0) (0) (id)), (.opDone 0 (collPk opOpDone (mkNode 0 true 0) (mkNode 0 false 0) (0) (id))),
     (armed id), by decide +kernel, by decide +kernel, by decide +kernel, by decide +kernel, (.inr (.inl ⟨rfl, rfl⟩)), by decide +kernel⟩,
   ⟨0, (collPk opOpAbort (mkNode 0 true 0) (mkNode 0 false 0) (6) (id)),
     (.opAbort 0 (collPk opOpAbort (mkNode 0 true 0) (mkNode 0 false 0) (6) (id))), (armed id), by decide +kernel, by decide +kernel,
     by decide +kernel, by decide +kernel, (.inr (.inr (.inl ⟨rfl, rfl⟩))), by decide +kernel⟩,
   ⟨0, (collPk opRedRes (mkNode 0 true 0) (mkNode 0 false 0) (0) (fun p => { p with data := List.replicate 128 0 })),
     (.redRes 0 (collPk opRedRes (mkNode 0 true 0) (mkNode 0 false 0) (0) (fun p => { p with data := List.replicate 128 0 }))),
     ((armed id).onSvc (fun v => { v with hbmResetting := [63] })), by decide +kernel, by decide +kernel, by decide +kernel, by decide +kernel,
     (.inr (.inr (.inr ⟨rfl, rfl⟩))), by and_intros <;> decide +kernel⟩,
   ⟨0, (collPk opRedRes (mkNode 0 true 0) (mkNode 0 false 0) (0) (fun p => { p with data := List.replicate 128 0 })),
     (.redRes 0 (collPk opRedRes (mkNode 0 true 0) (mkNode 0 false 0) (0) (fun p => { p with data := List.replicate 128 0 }))), (armed id),
     by decide +kernel, by decide +kernel, by decide +kernel, by decide +kernel, (.inr (.inr (.inr ⟨rfl, rfl⟩))), by and_intros <;> decide +kernel⟩,
   ⟨9, 0, bridge, by decide +kernel⟩,
   ⟨9, 0, (armed id), ({ opid := 5, gen := 1, tenant := 0, members := members, position := 0, prog := prog 0 }), by and_intros <;> decide +kernel⟩,
   ⟨9, 0,
     ((phased 0 .up (armed (fun m => { m with phase := .running, toSend := [(0, 0)] }))).onSec (fun e => { e with tenants := [(0, { conf := false, memKey := 1 })] })),
     ({ opid := 5, gen := 1, tenant := 0, members := members, position := 0, prog := prog 0, phase := .running, toSend := [(0, 0)] }),
     by decide +kernel, ((0, 0)), by decide +kernel⟩,
   ⟨9, bridge, by and_intros <;> decide +kernel⟩,
   ⟨9, (armed id), by decide +kernel, ({ opid := 5, gen := 1, tenant := 0, members := members, position := 0, prog := prog 0 }), by decide +kernel, 0,
     by decide +kernel⟩,
   ⟨9, (armed (fun m => { m with dones := [0] })), by decide +kernel,
     ({ opid := 5, gen := 1, tenant := 0, members := members, position := 0, prog := prog 0, dones := [0] }), by and_intros <;> decide +kernel⟩,
   ⟨9, (armed (fun m => { m with phase := .aborting })), by decide +kernel,
     ({ opid := 5, gen := 1, tenant := 0, members := members, position := 0, prog := prog 0, phase := .aborting }), by and_intros <;> decide +kernel⟩,
   ⟨9, (armed (fun m => { m with phase := .running })), by decide +kernel,
     ({ opid := 5, gen := 1, tenant := 0, members := members, position := 0, prog := prog 0, phase := .running }), by and_intros <;> decide +kernel⟩,
   ⟨9, ({ opid := 5, gen := 1, tenant := 0, members := members, position := 0, prog := prog 0, dones := [0] }),
     (armed (fun m => { m with dones := [0] })), by decide +kernel⟩⟩

theorem witness_ScalarInstructionsComplete :
    (∃ (x : Issue) (ecc : Ecc) (w : BitVec 64) (row : Instr) (s : State), instrOfWord x ecc w = some row ∧ isCtx x.id = false) ∧
    (∃ (x : Issue) (ecc : Ecc) (w : BitVec 64) (row : Instr) (s : State), instrOfWord x ecc w = some row ∧ isCtx x.id = true ∧ issues s x.id = false) ∧
    (∃ (x : Issue) (ecc : Ecc) (w : BitVec 64) (row : Instr) (s : State), instrOfWord x ecc w = some row ∧ isCtx x.id = true ∧ issues s x.id = true ∧
      x.parity = true) ∧
    (∃ (x : Issue) (ecc : Ecc) (w : BitVec 64) (row : Instr) (s : State), instrOfWord x ecc w = some row ∧ isCtx x.id = true ∧ issues s x.id = true ∧
      x.parity = false ∧ nextInstr x ecc s = none) ∧
    (∃ (x : Issue) (ecc : Ecc) (w : BitVec 64) (row : Instr) (s : State), instrOfWord x ecc w = some row ∧ isCtx x.id = true ∧ ∃ r, issues s x.id =
      true ∧ x.parity = false ∧ nextInstr x ecc s = some r ∧ r ≠ row) ∧
    (∃ (x : Issue) (s : State), ∃ (f : SI) (ecc : Ecc), Runs (.ld x f ecc) x ecc s) :=
  ⟨⟨({ cluster := 16, ctx := 0 }), .clean, 0x63, (.waitc { cluster := 16, ctx := 0 } { d := 0, a := 0, b := 0, rsv := false }), (textPlane [0x63]),
     by and_intros <;> decide +kernel⟩,
   ⟨iss0, .clean, 0x63, (.waitc iss0 { d := 0, a := 0, b := 0, rsv := false }), plane, by and_intros <;> decide +kernel⟩,
   ⟨({ cluster := 0, ctx := 0, parity := true }), .clean, 0x63,
     (.waitc { cluster := 0, ctx := 0, parity := true } { d := 0, a := 0, b := 0, rsv := false }), (textPlane [0x63]),
     by and_intros <;> decide +kernel⟩,
   ⟨iss0, .clean, 0x63, (.waitc iss0 { d := 0, a := 0, b := 0, rsv := false }), (textPlane [0xFF]), by and_intros <;> decide +kernel⟩,
   ⟨iss0, .clean, 0x63, (.waitc iss0 { d := 0, a := 0, b := 0, rsv := false }), (textPlane [0x66]), by decide +kernel, by decide +kernel,
     (.fence iss0 { d := 0, a := 0, b := 0, rsv := false }), by and_intros <;> decide +kernel⟩,
   ⟨iss0, (textPlane [0x8000010b]), ({ d := 1, a := 0, imm := 8192 }), .clean, by unfold Runs; decide +kernel⟩⟩

theorem witness_ScalarRegistersReadBack :
    (∃ (x : CtxId) (d : BitVec 5) (v : BitVec 64) (s : State), d = 0) ∧
    (∃ (x : CtxId) (d : BitVec 5) (v : BitVec 64) (s : State), d ≠ 0) ∧
    (∃ (x : CtxId) (d : BitVec 5) (v : BitVec 64) (s : State), ∃ r : BitVec 5, r ≠ d) :=
  ⟨⟨ctx0, 0, 5, (ctxPlane id), by decide +kernel⟩,
   ⟨ctx0, 31, 5, (ctxPlane id), by decide +kernel⟩,
   ⟨ctx0, 31, 5, (ctxPlane id), 30, by decide +kernel⟩⟩

theorem witness_VectorInstructionsComplete :
    (∃ (x : Issue) (s : State), ∃ (f : SI) (ecc : Ecc), Runs (.vld x f ecc) x ecc s) :=
   ⟨iss0, (textPlane [0x80000f20]), ({ d := 15, a := 0, imm := 8192 }), .clean, by unfold Runs; decide +kernel⟩

theorem witness_StreamInstructionsComplete :
    (∃ (x : Issue) (s : State), ∃ f : ST, Runs (.hst x f) x .clean s) ∧
    (∃ (x : Issue) (s : State), ∃ (f : ST) (ecc : Ecc), Runs (.hld x f ecc) x ecc s) ∧
    (∃ (x : Issue) (s : State), ∃ f : ST, Runs (.waitt x f) x .clean s) ∧
    (∃ (x : Issue) (s : State), ∃ f : SR, Runs (.fence x f) x .clean s) ∧
    (∃ (x : Issue) (s : State),
      let c := s.ctx x.id
      ∃ f : SR, Runs (.waitc x f) x .clean s ∧ (f.rsv = true ∨ ∃ q i, c.job = some (.job q i))) ∧
    (∃ (x : Issue) (s : State),
      let c := s.ctx x.id
      let u := endMark x.id (fetched x s)
      ∃ f : SR, Runs (.waitc x f) x .clean s ∧ ∃ g, f.rsv = false ∧ c.job = some (.op g) ∧ takeChunk x.id g f.d.toNat u = none) ∧
    (∃ (x : Issue) (s : State),
      let c := s.ctx x.id
      let u := endMark x.id (fetched x s)
      ∃ f : SR, Runs (.waitc x f) x .clean s ∧ ∃ g, f.rsv = false ∧ c.job = some (.op g) ∧ ∃ t, takeChunk x.id g f.d.toNat u = some t) ∧
    (∃ (x : Issue) (s : State),
      let c := s.ctx x.id
      ∃ f : ST, Runs (.emit x f) x .clean s ∧ (f.rsv = true ∨ ∃ q i, c.job = some (.job q i))) ∧
    (∃ (x : Issue) (s : State),
      let c := s.ctx x.id
      let u := endMark x.id (fetched x s)
      ∃ f : ST, Runs (.emit x f) x .clean s ∧
      let a := (sreg c f.addr).toNat
      let n := (sreg c f.len).toNat
      ∃ g, f.rsv = false ∧ c.job = some (.op g) ∧ inWork u c a n = false) ∧
    (∃ (x : Issue) (s : State),
      let c := s.ctx x.id
      let u := endMark x.id (fetched x s)
      ∃ f : ST, Runs (.emit x f) x .clean s ∧
      let a := (sreg c f.addr).toNat
      let n := (sreg c f.len).toNat
      ∃ g, f.rsv = false ∧ c.job = some (.op g) ∧ inWork u c a n = true ∧ x.ecc = .uncorrectable) ∧
    (∃ (x : Issue) (s : State),
      let c := s.ctx x.id
      let u := endMark x.id (fetched x s)
      let seen := if x.ecc = .corrected then recordCorrected kCluster x.cluster u else u
      ∃ f : ST, Runs (.emit x f) x .clean s ∧
      let a := (sreg c f.addr).toNat
      let n := (sreg c f.len).toNat
      ∃ g, f.rsv = false ∧ c.job = some (.op g) ∧ inWork u c a n = true ∧ x.ecc ≠ .uncorrectable ∧ ((seen.op g).bind (fun op => (ctxChunk seen x.id
        op).bind (chunkOf op))) = none) ∧
    (∃ (x : Issue) (s : State),
      let c := s.ctx x.id
      let u := endMark x.id (fetched x s)
      let seen := if x.ecc = .corrected then recordCorrected kCluster x.cluster u else u
      ∃ f : ST, Runs (.emit x f) x .clean s ∧
      let a := (sreg c f.addr).toNat
      let n := (sreg c f.len).toNat
      ∃ g, f.rsv = false ∧ c.job = some (.op g) ∧ inWork u c a n = true ∧ x.ecc ≠ .uncorrectable ∧ ∃ op y, seen.op g = some op ∧ (ctxChunk seen x.id
        op).bind (chunkOf op) = some y) ∧
    (∃ (x : Issue) (s : State), ∃ f : SI, Runs (.idle x f) x .clean s) ∧
    (∃ (x : CtxId) (s : State), isCtx x = false) ∧
    (∃ (x : CtxId) (s : State), isCtx x = true) ∧
    (∃ (x : CtxId) (s : State),
      let c := s.ctx x
      c.marks = []) ∧
    (∃ (x : CtxId) (s : State),
      let c := s.ctx x
      c.marks ≠ []) ∧
    (∃ (x : CtxId) (s : State),
      let c := s.ctx x
      ∃ tag, isCtx x = true ∧ c.streams.find? (fun t => t.tag == tag) = none) ∧
    (∃ (x : CtxId) (s : State),
      let c := s.ctx x
      ∃ (tag : Nat) (t : Stream), isCtx x = true ∧ c.streams.find? (fun t => t.tag == tag) = some t ∧ (s.svc.mod ≠ .ready ∨ t.faulting = true)) ∧
    (∃ (x : CtxId) (s : State),
      let c := s.ctx x
      ∃ (tag : Nat) (t : Stream), isCtx x = true ∧ c.streams.find? (fun t => t.tag == tag) = some t ∧ s.svc.mod = .ready ∧ t.faulting = false) :=
  ⟨⟨iss0, (textPlane [0x20c4161] (fun c => { c with sregs := [(1, 8192), (2, 0), (3, 128)] })),
     ({ addr := 1, ext := 2, len := 3, tag := 4, rsv := false }), by unfold Runs; decide +kernel⟩,
   ⟨iss0, (textPlane [0x20c4160] (fun c => { c with sregs := [(1, 8192), (2, 0), (3, 128)] })),
     ({ addr := 1, ext := 2, len := 3, tag := 4, rsv := false }), .clean, by unfold Runs; decide +kernel⟩,
   ⟨iss0,
     (textPlane [0x20c4162] (fun c => { c with sregs := [(1, 8192), (2, 0), (3, 128)], streams := [{ tag := 4, hst := true, scratch := 8192, fva := 0, len := 128 }] })),
     ({ addr := 1, ext := 2, len := 3, tag := 4, rsv := false }), by unfold Runs; decide +kernel⟩,
   ⟨iss0, (textPlane [0x66]), ({ d := 0, a := 0, b := 0, rsv := false }), by unfold Runs; decide +kernel⟩,
   ⟨iss0, (textPlane [0x800063]), ({ d := 0, a := 0, b := 0, rsv := true }), by unfold Runs; decide +kernel, (.inl rfl)⟩,
   ⟨iss0, (textPlane [0x63]), ({ d := 0, a := 0, b := 0, rsv := false }), by unfold Runs; decide +kernel, 9, by and_intros <;> decide +kernel⟩,
   ⟨iss0, (textPlane [0x563] id (oper 0 (fun o => { o with chunks := [{ idx := 0, last := 4999000000, got := [(0, 0), (1, 0)] }] }))),
     ({ d := 5, a := 0, b := 0, rsv := false }), by unfold Runs; decide +kernel, 9, by decide +kernel, by decide +kernel,
     ((takeChunk ctx0 9 5 (textPlane [0x563] id (oper 0 (fun o => { o with chunks := [{ idx := 0, last := 4999000000, got := [(0, 0), (1, 0)] }] })))).get (by decide +kernel)),
     ((Option.some_get _).symm)⟩,
   ⟨iss0, (textPlane [0x10000064]), ({ addr := 0, ext := 0, len := 0, tag := 0, rsv := true }), by unfold Runs; decide +kernel, (.inl rfl)⟩,
   ⟨iss0, (textPlane [0x20c4164] (fun c => { c with sregs := [(1, 8191), (2, 0), (3, 128)] })),
     ({ addr := 1, ext := 2, len := 3, tag := 4, rsv := false }), by unfold Runs; decide +kernel, 9, by and_intros <;> decide +kernel⟩,
   ⟨({ cluster := 0, ctx := 0, ecc := .uncorrectable }), (textPlane [0x20c4164] (fun c => { c with sregs := [(1, 8192), (2, 0), (3, 128)] })),
     ({ addr := 1, ext := 2, len := 3, tag := 4, rsv := false }), by unfold Runs; decide +kernel, 9, by and_intros <;> decide +kernel⟩,
   ⟨iss0, (textPlane [0x20c4164] (fun c => { c with sregs := [(1, 8192), (2, 0), (3, 128)] })),
     ({ addr := 1, ext := 2, len := 3, tag := 4, rsv := false }), by unfold Runs; decide +kernel, 9, by and_intros <;> decide +kernel⟩,
   ⟨iss0, (textPlane [0x20c4164] (fun c => { c with sregs := [(1, 8192), (2, 0), (3, 128)], taken := 1 })),
     ({ addr := 1, ext := 2, len := 3, tag := 4, rsv := false }), by unfold Runs; decide +kernel, 9, by decide +kernel, by decide +kernel,
     by decide +kernel, by decide +kernel, (oper 0 id), ({ idx := 0, last := 4999000000 }), by and_intros <;> decide +kernel⟩,
   ⟨iss0, (textPlane [0x65]), ({ d := 0, a := 0, imm := 0 }), by unfold Runs; decide +kernel⟩,
   ⟨({ cluster := 16, ctx := 0 }), plane, by decide +kernel⟩,
   ⟨({ cluster := 15, ctx := 3 }), plane, by decide +kernel⟩,
   ⟨ctx0, (ctxPlane id), by decide +kernel⟩,
   ⟨ctx0, (ctxPlane (fun c => { c with marks := [5000000000] })), by decide +kernel⟩,
   ⟨ctx0, (ctxPlane id), 4, by and_intros <;> decide +kernel⟩,
   ⟨ctx0, (ctxPlane (fun c => { c with streams := [{ tag := 4, hst := true, scratch := 8192, fva := 0, len := 128, faulting := true }] })), 4,
     ({ tag := 4, hst := true, scratch := 8192, fva := 0, len := 128, faulting := true }), by and_intros <;> decide +kernel⟩,
   ⟨ctx0, (ctxPlane (fun c => { c with streams := [{ tag := 4, hst := true, scratch := 8192, fva := 0, len := 128 }] })), 4,
     ({ tag := 4, hst := true, scratch := 8192, fva := 0, len := 128 }), by and_intros <;> decide +kernel⟩⟩

theorem witness_BallastSettingsFollowTheRule :
    (∃ (h : MHdr) (floor down up : Nat) (s : State), Listens h s ∧ h.mbx ∉ [1]) ∧
    (∃ (h : MHdr) (floor down up : Nat) (s : State), Serves h [1] s ∧ ((floor = 0 ∨ (200 ≤ floor ∧ floor ≤ 650)) ∧ (down = 0 ∨ (1 ≤ down ∧ down ≤ 50))
      ∧ (up = 0 ∨ (1 ≤ up ∧ up ≤ 50)))) ∧
    (∃ (h : MHdr) (floor down up : Nat) (s : State), Serves h [1] s ∧ (¬((floor = 0 ∨ (200 ≤ floor ∧ floor ≤ 650)) ∧ (down = 0 ∨ (1 ≤ down ∧ down ≤
      50)) ∧ (up = 0 ∨ (1 ≤ up ∧ up ≤ 50))))) ∧
    (∃ (pin floor down up : Nat) (s : State), (s.svc.mod = .ready ∨ s.svc.mod = .recovery) ∧ s.pwr.ballastNext = some (floor, down, up)) ∧
    (∃ (pin : Nat) (s : State), (s.svc.mod = .ready ∨ s.svc.mod = .recovery) ∧ s.pwr.ballastNext = none) ∧
    (∃ (h : MHdr) (s : State), Listens h s ∧ h.mbx ∉ [1, 0]) ∧
    (∃ (h : MHdr) (s : State), Serves h [1, 0] s) :=
  ⟨⟨(hdr 7), 200, 50, 0, plane, by unfold Listens; decide +kernel, by decide +kernel⟩,
   ⟨(hdr 1), 200, 50, 0, plane, by unfold Serves Listens; decide +kernel, by decide +kernel⟩,
   ⟨(hdr 1), 651, 50, 0, plane, by unfold Serves Listens; decide +kernel, by decide +kernel⟩,
   ⟨0, 200, 50, 0, ({ plane with pwr := { ballastNext := some (200, 50, 0) } }), by and_intros <;> decide +kernel⟩,
   ⟨0, plane, by and_intros <;> decide +kernel⟩,
   ⟨(hdr 7), plane, by unfold Listens; decide +kernel, by decide +kernel⟩,
   ⟨(hdr 0), plane, by unfold Serves Listens; decide +kernel⟩⟩

end Sys2Proof.Tests
end

section
/-! The write-one-to-clear registers of BAR0 (00 R6, 17 R465, R469, R470), each write of one reduced to the one field it changes, and the
units of the state after reset. -/

namespace Sys2Proof.Machine

open Sys2Proof

variable {s : State} {w o : Nat}

/-! ### Write-one-to-clear registers -/

/-- All ones clear the whole register. -/
@[simp] theorem clearBits_allOnes (r : BitVec 32) : clearBits r 0xFFFFFFFF#32 = 0 := by
  have h : ~~~0xFFFFFFFF#32 = 0#32 := by decide
  simp [clearBits, h]

/-- HOST_IRQ_CAUSE (17 R465). -/
theorem regWrite_irqCause (v : BitVec 32) (s : State) :
    regWrite 0 0x30008 v s = s.onHost (fun h => { h with irqCause := clearBits h.irqCause v }) := by
  simp [regWrite, bar0Write]

/-- ERR_SUMMARY (17 R465). -/
theorem regWrite_errSummary (v : BitVec 32) (s : State) :
    regWrite 0 0x30010 v s = s.onErr (fun e => { e with summary := clearBits e.summary v }) := by
  simp [regWrite, bar0Write]

/-- The addresses of the window block of BAR0 (17 R469) reach it and nothing else. -/
theorem regWrite_windowBlock (hlo : 0x40000 ≤ o) (hhi : o < 0x40204) (v : BitVec 32) (s : State) :
    regWrite 0 o v s = windowWrite (o - 0x40000) v s := by
  have hcxl : ¬ o < 0x20000 := by omega
  have htable : ¬ o < 0x28000 := by omega
  have hcause : o ≠ 0x30008 := by omega
  have hsummary : o ≠ 0x30010 := by omega
  have hfault : o ≠ 0x30028 := by omega
  simp [regWrite, bar0Write, hcxl, htable, hcause, hsummary, hfault, hlo, hhi]

/-- A part in the SWITCH personality has no windows, and their block ignores writes. -/
theorem windowWrite_switch (hb : s.svc.bridge = false) (o : Nat) (v : BitVec 32) : windowWrite o v s = s := by
  simp [windowWrite, hb]

/-- The first word of a window is its count of failed reads (17 R469). -/
theorem windowWrite_failRd (hb : s.svc.bridge = true) (hw : w < 16) (v : BitVec 32) :
    windowWrite (32 * w) v s = s.onWindow w (fun x => { x with failRd := clearBits x.failRd v }) := by
  have hpend : 32 * w ≠ 0x200 := by omega
  simp [windowWrite, hb, hpend]

/-- The second word of a window is its count of failed writes (17 R469). -/
theorem windowWrite_failWr (hb : s.svc.bridge = true) (w : Nat) (v : BitVec 32) :
    windowWrite (32 * w + 4) v s = s.onWindow w (fun x => { x with failWr := clearBits x.failWr v }) := by
  have hpend : 32 * w ≠ 0x200 - 4 := by omega
  have hword : (32 * w + 4) % 32 = 4 := by omega
  have hindex : (32 * w + 4) / 32 = w := by omega
  simp [windowWrite, hb, hpend, hword, hindex]

/-- HOST_WIN_FAIL_RD of a bridge's window. -/
theorem regWrite_failRd (hb : s.svc.bridge = true) (hw : w < 16) (v : BitVec 32) :
    regWrite 0 (0x40000 + 32 * w) v s = s.onWindow w (fun x => { x with failRd := clearBits x.failRd v }) := by
  rw [regWrite_windowBlock (by omega) (by omega), Nat.add_sub_cancel_left, windowWrite_failRd hb hw]

/-- HOST_WIN_FAIL_WR of a bridge's window. -/
theorem regWrite_failWr (hb : s.svc.bridge = true) (hw : w < 16) (v : BitVec 32) :
    regWrite 0 (0x40004 + 32 * w) v s = s.onWindow w (fun x => { x with failWr := clearBits x.failWr v }) := by
  have hoff : 0x40004 + 32 * w - 0x40000 = 32 * w + 4 := by omega
  rw [regWrite_windowBlock (by omega) (by omega), hoff, windowWrite_failWr hb]

/-- Settles O33: each register's write is one update of its own field by `clearBits`, and the window block of a SWITCH is inert. -/
theorem writeOneClearsExactlyThoseBits : Obligations.WriteOneClearsExactlyThoseBits := by
  unfold Obligations.WriteOneClearsExactlyThoseBits
  intro v s
  refine ⟨?cause, ?summary, fun hb w hw => ⟨?failRd, ?failWr, ?allOnes⟩, fun hb o hlo hhi => ?switch⟩
  case cause => rw [regWrite_irqCause]; rfl
  case summary => rw [regWrite_errSummary]; rfl
  case failRd => rw [regWrite_failRd hb hw, State.onWindow_self]; rfl
  case failWr => rw [regWrite_failWr hb hw, State.onWindow_self]; rfl
  case allOnes => simp [regWrite_failRd hb hw]
  case switch => rw [regWrite_windowBlock hlo hhi, windowWrite_switch hb]

/-! ### The state after reset -/

/-- No port is written at reset, so each reads as its defaults. -/
@[simp] theorem State.reset_port (p : Nat) : State.reset.port p = {} := rfl

/-- No window is written at reset, so each reads as its defaults. -/
@[simp] theorem State.reset_window (w : Nat) : State.reset.window w = {} := rfl

/-- No mailbox is written at reset, so each reads as its defaults. -/
@[simp] theorem State.reset_box (m : Nat) : State.reset.box m = {} := rfl

/-- Settles O2: the units' own fields read as the defaults written at them, and every port, window and mailbox as its defaults. -/
theorem resetLeavesSpecifiedValues : Obligations.ResetLeavesSpecifiedValues := by
  unfold Obligations.ResetLeavesSpecifiedValues
  intro s
  have hport (p : Nat) : (s.port p).enabled = false := by rw [State.reset_port]
  have hwindow (w : Nat) : (s.window w).desc.en = false ∧ (s.window w).failRd = 0 ∧ (s.window w).failWr = 0 := by
    rw [State.reset_window]; exact ⟨rfl, rfl, rfl⟩
  have hbox (m : Nat) : (s.box m).busy = false ∧ (s.box m).overrun = 0 ∧ (s.box m).head = 0 ∧ (s.box m).tail = 0 := by
    rw [State.reset_box]; exact ⟨rfl, rfl, rfl, rfl⟩
  exact ⟨-- svc
    rfl, rfl, rfl, rfl, rfl, rfl, rfl, rfl,
    -- home and sec
    rfl, rfl, rfl,
    -- err
    rfl, rfl, rfl,
    -- pwr and host
    rfl, rfl, rfl, rfl,
    hport, hwindow, hbox,
    -- coll, reed, xlat, queues and the queue of commands
    rfl, rfl, rfl, rfl, rfl, rfl, rfl⟩

end Sys2Proof.Machine
end

section
/-! Lane tests, loopbacks and transmit taps (02 R38, R40, R49, R50): what each command of a lane does where it is served, and the limits that
every request of the partner keeps. -/

namespace Sys2Proof.Machine

open Sys2Proof

variable {h : MHdr} {s : State} {lane : Nat}

/-! ### What a lane reads as after a completion -/

@[simp] theorem reply_lane (h : MHdr) (status : Nat) (result : List Byte) (s : State) (k : Nat) : (reply h status result s).lane k = s.lane k := by
  simp [State.lane]

@[simp] theorem finishEvent_lane (h : MHdr) (op status : Nat) (result : List Byte) (s : State) (k : Nat) :
    (finishEvent h op status result s).lane k = s.lane k := by
  simp [State.lane]

/-- A loopback command that is taken over only posts its completion. -/
@[simp] theorem dropLoop_lane (lane : Nat) (s : State) (k : Nat) : (dropLoop lane s).lane k = s.lane k := by
  unfold dropLoop
  split
  · exact finishEvent_lane ..
  · rfl

theorem isLane_iff : isLane lane = true ↔ lane < 560 := by simp [isLane]

/-! ### The lane commands (02 R49, R50) -/

theorem execLaneTestStart_serves (hs : Serves h [1] s) (hl : lane < 560) {pattern : Nat} (hp : pattern ≤ 6) (after : Bool) :
    execLaneTestStart h lane pattern after s = .next (if laneBusy s lane then reply h 2 [] s
      else reply h 0 [] (s.onLane lane (fun l => { l with test := startTest pattern after l.test }))) :=
  command_runs (row := { boxes := boxF }) hs rfl (by simp [isLane_iff.mpr hl, hp])

theorem execLaneTestRead_serves (hs : Serves h [1] s) (hl : lane < 560) (r : TestRead) :
    let t := s.onLane lane (fun l => runTest r.line (echoLine (.pattern r.line) l))
    let z := t.snap.lanes.look lane (0, 0)
    execLaneTestRead h lane r s = .next (reply h 0 (pack [.num 8 (coarse t (t.lane lane).test.errors z.1), .num 8 (coarse t (t.lane lane).test.compared z.2)])
      (if r.clear then t.onLane lane (fun l => { l with test := { l.test with errors := 0, compared := 0 } }) else t)) :=
  command_runs (row := { boxes := boxF }) hs rfl (by simp [isLane_iff.mpr hl])

/-- A loopback command is in progress, ends the one before, and the lane enters its loopback or, without signal for a far-end one, leaves the one it had. -/
theorem execLaneLoopbackSet_serves (hs : Serves h [1] s) (hl : lane < 560) {mode : Nat} (hm : mode ≤ 3) (trained : Bool) :
    let d := dropLoop lane (reply h 7 [] s)
    execLaneLoopbackSet h lane mode trained s = .next (
      if mode == 2 && !trained then finishEvent h 0x0106 8 (failCause (Config.causeByte 7)) (leaveLoop lane d)
      else if mode == 2 then enterLoop lane mode h d
      else finishEvent h 0x0106 0 [] (enterLoop lane mode h d)) :=
  command_runs (row := { boxes := boxF }) hs rfl (by simp [isLane_iff.mpr hl, hm])

/-- Settles O10: each command's law where it is served, and `enterLoop_spec` for what a loopback leaves. -/
theorem laneCommandsComplete : Obligations.LaneCommandsComplete := by
  unfold Obligations.LaneCommandsComplete
  have enters (h : MHdr) (lane mode : Nat) (s : State) (hm : mode ≤ 3) := enterLoop_spec lane mode h (dropLoop lane (reply h 7 [] s)) hm
  refine ⟨?start, ?busy, ?read, ?near, ?far, ?noSignal⟩
  case start =>
    intro h lane pattern after s hs hl hp hb
    refine (execLaneTestStart_serves hs hl hp after).trans ?_
    rw [hb]
    rfl
  case busy =>
    intro h lane pattern after s hs hl hp hb
    refine (execLaneTestStart_serves hs hl hp after).trans ?_
    rw [if_pos hb]
  case read =>
    intro h lane r s hs hl
    exact execLaneTestRead_serves hs hl r
  case near =>
    intro h lane mode trained s hs hl hm hne
    obtain ⟨hback, -, hother⟩ := enters h lane mode s hm
    refine ⟨(execLaneLoopbackSet_serves hs hl hm trained).trans ?_, ?_, fun k hk => (hother k hk).trans (by simp)⟩
    · simp [hne]
    · simpa [hne] using hback
  case far =>
    intro h lane s hs hl
    obtain ⟨hback, hstep, hother⟩ := enters h lane 2 s (by decide)
    obtain ⟨hone, hhdr⟩ := hstep rfl
    exact ⟨execLaneLoopbackSet_serves hs hl (by decide) true, hone, hhdr, hback, fun k hk => (hother k hk).trans (by simp)⟩
  case noSignal =>
    intro h lane s hs hl
    exact execLaneLoopbackSet_serves hs hl (by decide) false

/-! ### Transmit taps (02 R38, R40) -/

/-- The limits of 02 R38. -/
def TapsInRange (l : Lane) : Prop := l.tapA ≤ 16 ∧ l.tapB ≤ 24 ∧ l.tapA + l.tapB ≤ 24

/-- No request asks for a tap above its limit. -/
theorem tapWanted_le (req : Nat) {tap limit init : Nat} (ht : tap ≤ limit) (hi : init ≤ limit) : (tapWanted req tap limit init).1 ≤ limit := by
  unfold tapWanted
  split_ifs <;> dsimp only <;> omega

/-- A request is applied as a whole or not at all, and only where the sum allows it. -/
theorem applyTaps_inRange (pre post : Nat) {l : Lane} (hl : TapsInRange l) : TapsInRange (applyTaps pre post l) := by
  obtain ⟨ha, hb, hab⟩ := hl
  unfold applyTaps
  dsimp only
  split
  case isTrue hsum => exact ⟨tapWanted_le pre ha (by decide), tapWanted_le post hb (by decide), hsum⟩
  case isFalse => exact ⟨ha, hb, hab⟩

theorem takeRequest_inRange (pre post : Nat) {l : Lane} (hl : TapsInRange l) : TapsInRange (takeRequest pre post l) := by
  unfold takeRequest
  split
  · split
    · exact applyTaps_inRange pre post hl
    · exact hl
  · split_ifs <;> exact hl

/-- Settles O11: the taps move in `applyTaps` alone, which keeps the limits. -/
theorem tapsStayWithinLimits : Obligations.TapsStayWithinLimits :=
  fun pre post _ ha hb hsum => takeRequest_inRange pre post ⟨ha, hb, hsum⟩

end Sys2Proof.Machine
end

section
/-! Events of training (02 R44 to R47): what signal, a training frame, the bound of a step and the end of qualification do to a port and its lanes, one law per case. -/

namespace Sys2Proof.Machine

open Sys2Proof

variable {s : State} {p lane n k : Nat}

/-! ### What a valid frame leaves of a lane's loopback (02 R50) -/

/-- The part of a lane that a loopback command owns. -/
def loopOf (l : Lane) : Nat × Nat × Option MHdr := (l.loopback, l.loopStep, l.loopHdr)

@[simp] theorem loopOf_hear (now n : Nat) (f : BitVec 256) (l : Lane) : loopOf (hear now n f l) = loopOf l := rfl

@[simp] theorem loopOf_applyTaps (pre post : Nat) (l : Lane) : loopOf (applyTaps pre post l) = loopOf l := by
  unfold applyTaps; dsimp only; split <;> rfl

@[simp] theorem loopOf_takeRequest (pre post : Nat) (l : Lane) : loopOf (takeRequest pre post l) = loopOf l := by
  unfold takeRequest
  split
  · split
    · exact loopOf_applyTaps pre post l
    · rfl
  · split_ifs <;> rfl

@[simp] theorem loopOf_endTrial (e : Nat) (l : Lane) : loopOf (endTrial e l) = loopOf l := by
  unfold endTrial
  split
  · split <;> rfl
  · rfl

@[simp] theorem loopOf_adaptStep (e setting : Nat) (up : Bool) (l : Lane) : loopOf (adaptStep e setting up l) = loopOf l := by
  unfold adaptStep
  split
  · split <;> rfl
  · rfl

@[simp] theorem loopOf_tune (r : RxView) (ansA ansB : Nat) (l : Lane) : loopOf (tune r ansA ansB l) = loopOf l := by
  unfold tune
  dsimp only
  split
  · split <;> rfl
  · split
    · rfl
    · split
      · rfl
      · split
        · exact loopOf_endTrial ..
        · split
          · rfl
          · exact loopOf_adaptStep ..

@[simp] theorem loopOf_hearStep (now n : Nat) (f : BitVec 256) (r : RxView) (l : Lane) : loopOf (hearStep now n f r l) = loopOf l := by
  unfold hearStep
  dsimp only
  split <;> simp

@[simp] theorem loopOf_stepLane (n : Nat) (l : Lane) : loopOf (stepLane n l) = loopOf l := by
  unfold stepLane; dsimp only; split_ifs <;> rfl

/-- The step alone is set. -/
theorem loopOf_withStep (m : Nat) (l : Lane) : loopOf { l with loopStep := m } = ((loopOf l).1, m, (loopOf l).2.2) := rfl

/-! ### Signal (02 R45, R47) -/

/-- A port that waits or trains. -/
def Trains (q : Port) : Prop := q.phase = .waiting ∨ ∃ n, q.phase = .training n

/-- A lane of the port's own positions that sees signal joins, starts the training of a port that waits, and sends a frame. -/
theorem execSignalDetect_joins (hp : isPort p = true) (hl : isLane lane = true) (hm : mayTrain s p = true) (ht : Trains (s.port p))
    (hlo : laneOf p 0 ≤ lane) (hhi : lane < laneOf p (lanesOf (s.port p).width)) (hown : lane % 140 < 136) (hnew : (s.lane lane).port ≠ some p) :
    execSignalDetect p lane s = .next (sendFrame p lane (startTraining p (s.onLane lane (joinLane p (lane - laneOf p 0) (!gathers (s.port p)))))) := by
  have hspare : isSpare lane = false := by simp [isSpare, hown]
  obtain hw | ⟨n, hw⟩ := ht <;> simp [execSignalDetect, hp, hl, hm, hw, hlo, hhi, hspare, hnew]

/-- A spare that may stand in for the port joins it in standby; another is recorded as SPARE_MISMATCH. -/
theorem execSignalDetect_spare (hp : isPort p = true) (hl : isLane lane = true) (hm : mayTrain s p = true) (ht : Trains (s.port p))
    (hspare : 136 ≤ lane % 140) :
    execSignalDetect p lane s = .next (
      if spareFits s p lane then sendFrame p lane (s.onLane lane (fun l => { joinLane p 0 (!gathers (s.port p)) l with standby := true }))
      else recordErr kLane lane 0x11 1 [] (s.onLane lane (fun l => { l with signal := true }))) := by
  have hspare : isSpare lane = true := by simp [isSpare, hspare]
  obtain hw | ⟨n, hw⟩ := ht <;> simp [execSignalDetect, hp, hl, hm, hw, hspare]

/-! ### Training frames (02 R44, R45) -/

theorem frameStep_training {q : Port} (h : q.phase = .training n) : frameStep q = n := by simp [frameStep, h]

/-- A lane that takes the frames of its port: it serves the port, has not failed, is in no loopback that keeps the line's frames away, and trains for none. -/
structure TakesFrames (p : Nat) (l : Lane) : Prop where
  port : l.port = some p
  failed : l.failed = false
  notNearSerial : l.loopback ≠ 1
  notFarEnd : l.loopback ≠ 3
  notAlone : l.loopStep = 0

theorem TakesFrames.reaches {l : Lane} (h : TakesFrames p l) (f : BitVec 5440) : frameReaches l f = true := by
  simp [frameReaches, h.notNearSerial]

/-- A valid frame for such a lane restarts an attempt that has left step 1 where it says so, and is taken in steps 1 to 5 otherwise. -/
theorem execTrainingFrame_valid (hp : isPort p = true) (hl : isLane lane = true) (ht : (s.port p).phase = .training n) (hn : 1 ≤ n)
    (hlane : TakesFrames p (s.lane lane)) {f : BitVec 5440} (hf : frameValid (f.setWidth 256) = true) (r : RxView) :
    execTrainingFrame p lane f r s = .next (
      if f.getLsbD 73 = true ∧ 2 ≤ n then failAttempt p n false s
      else if n ≤ 5 ∧ (s.lane lane).leftOut = false then takeFrame p lane n (f.setWidth 256) r s
      else s) := by
  have hne : n ≠ 0 := by omega
  simp [execTrainingFrame, hp, hl, frameStep_training ht, ht, hne, hlane.port, hlane.failed, hlane.notFarEnd, hlane.notAlone, hlane.reaches, hf]

section
variable (hp : isPort p = true) (hl : isLane lane = true) (ht : (s.port p).phase = .training n) (hlane : TakesFrames p (s.lane lane))
  {f : BitVec 5440} (hf : frameValid (f.setWidth 256) = true) (r : RxView)
include hp hl ht hlane hf

/-- RESTART restarts an attempt that has left step 1. -/
theorem execTrainingFrame_restarts (hn : 2 ≤ n) (hrestart : f.getLsbD 73 = true) :
    execTrainingFrame p lane f r s = .next (failAttempt p n false s) :=
  (execTrainingFrame_valid hp hl ht (by omega) hlane hf r).trans (by rw [if_pos ⟨hrestart, hn⟩])

/-- In steps 1 to 5 a frame that asks for no restart, or finds the attempt in step 1, is taken. -/
theorem execTrainingFrame_taken (h1 : 1 ≤ n) (h5 : n ≤ 5) (hout : (s.lane lane).leftOut = false) (hrestart : f.getLsbD 73 = false ∨ n = 1) :
    execTrainingFrame p lane f r s = .next (takeFrame p lane n (f.setWidth 256) r s) := by
  have hgo : ¬ (f.getLsbD 73 = true ∧ 2 ≤ n) := by
    rintro ⟨h73, h2⟩
    obtain h | h := hrestart
    · exact absurd (h73.symm.trans h) (by decide)
    · omega
  rw [execTrainingFrame_valid hp hl ht h1 hlane hf r, if_neg hgo, if_pos ⟨h5, hout⟩]

end

/-- A lane of the port that is no spare hears the frame and answers it; step 2 learns the partner's number. -/
theorem takeFrame_lane (f : BitVec 256) (r : RxView) (hs : (s.lane lane).standby = false)
    (hnode : n = 2 → frameNodeOk s p (BitVec.ofNat 13 (fld f 80 13)) = true) :
    let t := s.onLane lane (hearStep s.svc.now n f r)
    takeFrame p lane n f r s = advance p (sendFrame p lane (if n = 2 then learnPartner p f t else t)) := by
  by_cases hn : n = 2
  · simp [takeFrame, hs, hn, hnode hn]
  · simp [takeFrame, hs, hn]

/-- A spare whose partner is the port's hears the frame and follows the partner's spare where that has taken a number; a foreign one is a mismatch. -/
theorem takeFrame_spare (f : BitVec 256) (r : RxView) (hs : (s.lane lane).standby = true) {x : Node} (hx : (s.port p).partner = some x) :
    let t := s.onLane lane (hearStep s.svc.now n f r)
    takeFrame p lane n f r s =
      if x = BitVec.ofNat 13 (fld f 80 13) then
        advance p (sendFrame p lane (if 2 ≤ n ∧ f.getLsbD 108 = false then followInTraining p lane (fld f 93 4) t else t))
      else spareMismatch lane s := by
  by_cases h : x = BitVec.ofNat 13 (fld f 80 13) <;> simp [takeFrame, hs, hx, h]

/-! ### A lane that trains alone (02 R50) -/

/-- The port at whose position the lane stands brings it its valid frames. -/
theorem execTrainingFrame_alone (hp : isPort p = true) (hl : isLane lane = true) (hfar : (s.lane lane).loopback ≠ 3) (hstep : (s.lane lane).loopStep ≠ 0)
    (hhome : p = homePort s lane) {f : BitVec 5440} (hf : frameValid (f.setWidth 256) = true) (r : RxView) :
    execTrainingFrame p lane f r s = .next (takeLoopFrame lane (f.setWidth 256) r s) := by
  subst hhome
  simp [execTrainingFrame, hp, hl, hfar, hstep, hf]

/-- A frame sent leaves the loopback that a lane is in or trains for. -/
@[simp] theorem loopOf_sendLoopFrame (lane : Nat) (s : State) : loopOf ((sendLoopFrame lane s).lane lane) = loopOf (s.lane lane) := by
  obtain ⟨_, _, e⟩ := sendLoopFrame_lane lane s
  rw [e]
  rfl

/-- Only the lane itself trains. -/
theorem takeLoopFrame_ne (f : BitVec 256) (r : RxView) (s : State) (hk : k ≠ lane) : (takeLoopFrame lane f r s).lane k = s.lane k := by
  unfold takeLoopFrame
  dsimp only
  split_ifs
  · rw [sendLoopFrame_ne _ hk, State.onLane_ne _ _ hk, State.onLane_ne _ _ hk]
  · split <;> simp [State.onLane_ne _ _ hk]
  · rw [sendLoopFrame_ne _ hk, State.onLane_ne _ _ hk]

section
variable {f : BitVec 256} {r : RxView} (hstep : (s.lane lane).loopStep = n)
include hstep

/-- While its receiver has not finished the step, the lane stays in it. -/
theorem takeLoopFrame_stays (hdone : stepDone n (hearStep s.svc.now n f r (s.lane lane)) = false) :
    loopOf ((takeLoopFrame lane f r s).lane lane) = loopOf (s.lane lane) := by
  subst hstep
  simp [takeLoopFrame, hdone]

/-- With both ends finished it goes on to the next step. -/
theorem takeLoopFrame_goes_on (hn : n < 5) (hdone : stepDone n (hearStep s.svc.now n f r (s.lane lane)) = true)
    (hready : (hearStep s.svc.now n f r (s.lane lane)).partnerReady = true) :
    loopOf ((takeLoopFrame lane f r s).lane lane) = ((s.lane lane).loopback, n + 1, (s.lane lane).loopHdr) := by
  subst hstep
  simp only [takeLoopFrame, State.onLane_self, hdone, hready, hn, Bool.and_self, if_true, loopOf_sendLoopFrame, loopOf_withStep, loopOf_stepLane,
    loopOf_hearStep]
  rfl

/-- At the end of step 5 it enters the loopback. -/
theorem takeLoopFrame_enters (hn : ¬ n < 5) (hdone : stepDone n (hearStep s.svc.now n f r (s.lane lane)) = true)
    (hready : (hearStep s.svc.now n f r (s.lane lane)).partnerReady = true) :
    loopOf ((takeLoopFrame lane f r s).lane lane) = (3, 0, none) := by
  subst hstep
  simp only [takeLoopFrame, State.onLane_self, hdone, hready, hn, Bool.and_self, if_true, if_false]
  split <;> simp [loopOf]

end

/-! ### The bound of a step (02 R45, R46) -/

/-- The first and second failure of an attempt restart it. -/
theorem failAttempt_restarts (own : Bool) (h : (s.port p).attempts < 2) :
    failAttempt p n own s = sendFrames p (onLanesOf p (fun l => { restartLane l with restartDue := own })
      (s.onPort p (restartPort s.svc.now ((s.port p).attempts + 1)))) := by
  have hk : ¬ 3 ≤ (s.port p).attempts + 1 := by omega
  simp [failAttempt, hk]

/-- A port given up has failed, and no other port changes. -/
theorem giveUp_port (p code sev event : Nat) (detail data : List Byte) (s : State) (x : Nat) :
    (giveUp p code sev event detail data s).port x =
      (s.onPort p (fun q => { q with phase := .failed, link := freshLink q, partner := none })).port x := by
  simp [giveUp, releaseLanes, onLanesOf, State.port]

/-- The third failure gives the port up. -/
theorem failAttempt_gives_up (own : Bool) (h : 2 ≤ (s.port p).attempts) :
    ((failAttempt p n own s).port p).phase = .failed ∧ ∀ x, x ≠ p → (failAttempt p n own s).port x = s.port x := by
  have hk : 3 ≤ (s.port p).attempts + 1 := by omega
  simp only [failAttempt, hk, if_true, giveUp_port]
  exact ⟨by simp, fun x hx => (State.onPort_ne _ _ hx).trans (State.onPort_ne _ _ hx)⟩

/-- Past its bound a step fails, and step 1 goes on with the lanes that have locked. -/
theorem execTrainingBoundExpiry_passed (hp : isPort p = true) (ht : (s.port p).phase = .training n) (hb : (s.port p).t0 + stepBound n ≤ s.svc.now) :
    execTrainingBoundExpiry p s = .next (boundPassed p n s) := by
  simp [execTrainingBoundExpiry, hp, ht, hb]

theorem boundPassed_fails (hn : n ≠ 1) : boundPassed p n s = failAttempt p n true s := by simp [boundPassed, hn]

theorem boundPassed_goes_on (h : bothDone (leaveOut p s) p 1 = true) : boundPassed p 1 s = goOn p 2 (leaveOut p s) := by simp [boundPassed, h]

/-! ### Qualification (02 R45 step 7, R46) -/

/-- At the end of the 10 ms the failed lanes are dropped, and the port goes on to step 8 where none of its own lanes has failed. -/
theorem execQualificationEnd_due (hp : isPort p = true) (ht : (s.port p).phase = .training 7) (hd : (s.port p).stepAt + 10000000 ≤ s.svc.now)
    (res : List QualRes) :
    let m := qualMask (sendDue p s) p res
    execQualificationEnd p res s = .next (
      if m % 2 ^ 16 = 0 then startInit p (qualDrop p m (sendDue p s)) else failAttempt p 7 true (qualDrop p m (sendDue p s))) := by
  have hlate : ¬ s.svc.now < (s.port p).stepAt + 10000000 := by omega
  simp [execQualificationEnd, hp, atStep, ht, hlate]

end Sys2Proof.Machine
end

section
/-! Lanes in service (02 R34 to R36, R41 to R43, R48, 03 R80): what markers, measurements, a spare's boundary and a lost signal do, one law per case. -/

namespace Sys2Proof

/-- After a write a map holds the entry written and entries it held before. -/
theorem Map.mem_put {α : Type} {m : Map α} {q : Nat} {v : α} {x : Nat × α} (hx : x ∈ Map.put m q v) : x = (q, v) ∨ x ∈ m := by
  induction m with
  | nil => simpa [Map.put] using hx
  | cons y m ih =>
    obtain ⟨k, w⟩ := y
    simp only [Map.put] at hx
    split_ifs at hx
    · simpa using hx
    · exact (List.mem_cons.mp hx).imp_right (List.mem_cons_of_mem _)
    · obtain rfl | hx := List.mem_cons.mp hx
      · exact .inr (List.mem_cons_self ..)
      · exact (ih hx).imp_right (List.mem_cons_of_mem _)

end Sys2Proof

namespace Sys2Proof.Machine

open Sys2Proof

variable {s : State} {p lane n k : Nat}

/-! ### Markers (02 R34 to R36) -/

/-- What a lane sends again leaves all that its receiver holds. -/
theorem echoLine_keeps (x : LineItem) (l : Lane) : ∃ a, echoLine x l = { l with line := a } := by
  unfold echoLine
  split
  · exact ⟨_, rfl⟩
  · exact ⟨l.line, rfl⟩

section
variable (x : LineItem) (l : Lane)

@[simp] theorem echoLine_port : (echoLine x l).port = l.port := by obtain ⟨a, e⟩ := echoLine_keeps x l; rw [e]
@[simp] theorem echoLine_locked : (echoLine x l).locked = l.locked := by obtain ⟨a, e⟩ := echoLine_keeps x l; rw [e]
@[simp] theorem echoLine_markPos : (echoLine x l).markPos = l.markPos := by obtain ⟨a, e⟩ := echoLine_keeps x l; rw [e]
@[simp] theorem echoLine_badMarkers : (echoLine x l).badMarkers = l.badMarkers := by obtain ⟨a, e⟩ := echoLine_keeps x l; rw [e]

end

section
variable {b : BlockHead} {w : BitVec 256} (hl : isLane lane = true) (hport : (s.lane lane).port = some p)
include hl hport

/-- A valid marker at its place is taken; in step 6 it gives the lane its number, and a port whose lanes idle sends what is due; one that a spare sends under a
lane's number is followed. -/
theorem execAlignmentMarker_valid (hw : markerValid b.bit w = true) (hpos : (s.lane lane).locked = true → b.pos = (s.lane lane).markPos) :
    let t := ((s.onLane lane (echoLine (.block b.bit w))).onLane lane (goodMarker s.svc.now b.pos w)).onLane lane (fun l =>
      if (s.port p).phase == .training 6 && !l.standby then { l with logical := fld w 72 4 } else l)
    let u := sendDue p t
    execAlignmentMarker lane b w s = .next (advance p (if fld w 64 8 = 1 then followSpare p lane (fld w 72 4) u else u)) := by
  have hplace : ((s.lane lane).locked && b.pos != (s.lane lane).markPos) = false := by
    cases h : (s.lane lane).locked
    · rfl
    · simp [hpos h]
  simp [execAlignmentMarker, hl, hport, hw, hplace, atStep]

/-- A block at the place of a lane in lock that is no marker counts, and the fourth in a row loses the lock. -/
theorem execAlignmentMarker_missed (hw : markerValid b.bit w = false) (hlock : (s.lane lane).locked = true) (hpos : b.pos = (s.lane lane).markPos) :
    let e := s.onLane lane (echoLine (.block b.bit w))
    execAlignmentMarker lane b w s = .next (if (s.lane lane).badMarkers < 3 then e.onLane lane (fun l => { l with badMarkers := l.badMarkers + 1 })
      else loseLock lane e) := by
  simp [execAlignmentMarker, hl, hport, hw, hlock, hpos]

/-- While a lane seeks lock such a block forgets the place. -/
theorem execAlignmentMarker_forgets (hw : markerValid b.bit w = false) (hlock : (s.lane lane).locked = false) :
    execAlignmentMarker lane b w s = .next ((s.onLane lane (echoLine (.block b.bit w))).onLane lane (fun l => { l with places := l.places.del b.pos })) := by
  simp [execAlignmentMarker, hl, hport, hw, hlock]

/-- Four periods without a marker: the lane loses lock, which a port that is up answers as a lane out and step 8 as a failure. -/
theorem execMarkerLockLoss_due (hlock : (s.lane lane).locked = true) (hd : (s.lane lane).markerAt + 1310720 ≤ s.svc.now) :
    let t := s.onLane lane (fun l => { l with locked := false, goodMarkers := 0, badMarkers := 0, places := [] })
    execMarkerLockLoss lane s = .next (if linkUp (s.port p) ∧ sends p (s.lane lane) then laneOut p lane t
      else if (s.port p).phase = .training 8 ∧ inUse p (s.lane lane) then failAttempt p 8 true t else t) := by
  have hlate : ¬ s.svc.now < (s.lane lane).markerAt + 1310720 := by omega
  simp [execMarkerLockLoss, hl, hlock, hlate, loseLock, hport, atStep]

end

/-- The third marker in a row at a place follows two there within a period. -/
theorem three_le_placeCount_iff {now pos : Nat} {l : Lane} :
    3 ≤ placeCount now pos l ↔ ∃ n at_, l.places.find pos = some (n, at_) ∧ 2 ≤ n ∧ now ≤ at_ + 491520 := by
  unfold placeCount
  cases l.places.find pos with
  | none => simp
  | some x =>
    obtain ⟨n, at_⟩ := x
    by_cases h : now ≤ at_ + 491520 <;> simp [h]

/-- A seed of 0 is never taken (02 R34). -/
theorem goodMarker_scrambler (now pos : Nat) {w : BitVec 256} (l : Lane) (h : BitVec.ofNat 31 (fld w 80 31) ≠ 0) :
    (goodMarker now pos w l).scrambler = BitVec.ofNat 31 (fld w 80 31) := by
  simp only [goodMarker, beq_iff_eq, if_neg h]

/-- A lane in lock stays in it, and one that seeks it gains it by the third marker in a row at its place. -/
theorem goodMarker_locked (now pos : Nat) (w : BitVec 256) (l : Lane) :
    (goodMarker now pos w l).locked = (l.locked || decide (3 ≤ placeCount now pos l)) := rfl

/-! ### Lanes that fail (02 R43, R48) -/

/-- A lane that fails brings no spare. -/
theorem standbyOf_onLane_none (h : standbyOf s p = none) (lane : Nat) {f : Lane → Lane} (hf : (f (s.lane lane)).failed = true) :
    standbyOf (s.onLane lane f) p = none := by
  simp only [standbyOf, Option.map_eq_none_iff, List.find?_eq_none] at h ⊢
  intro x hx
  obtain rfl | hx := Map.mem_put hx
  · have hout : sends p (f (s.lane lane)) = false := by simp [sends, hf]
    show ¬ (sends p (f (s.lane lane)) && _ && _) = true
    simp [hout]
  · exact h x hx

theorem substitute_none (h : standbyOf s p = none) : substitute p k s = s := by simp [substitute, h]

theorem substitute_some {x : Nat} (h : standbyOf s p = some x) : substitute p k s =
    (s.onLane x (fun l => { l with standby := false, logical := k, sendAs := sendNumber s p k })).onPort p
      (fun q => { q with spareUsed := true, pendingSpare := none }) := by
  simp [substitute, h]

/-- The last lane of a port that is up, with no spare, takes the port down. -/
theorem laneOut_last (hup : (s.port p).phase = .up) (hw : (s.port p).widthNow = 0) (hpend : (s.port p).pendingSpare = none) (hnone : standbyOf s p = none)
    (hs : (s.lane lane).standby = false) :
    laneOut p lane s = linkDown p 6 0 ((s.onLane lane (fun l => { l with failed := true, standby := false, locked := false })).onPort p
      (fun q => { q with pendingSpare := none })) := by
  have hstill := standbyOf_onLane_none hnone lane (f := fun l => { l with failed := true, standby := false, locked := false }) rfl
  simp [laneOut, hup, hw, hpend, hs, hstill, substitute_none hstill, causeLane]

/-- A marker is the next block of the spare: it takes the failed lane's number. -/
theorem execSpareSubstitution_boundary {x : Nat} (hp : isPort p = true) (hpend : (s.port p).pendingSpare = some k) (hx : standbyOf s p = some x)
    (hm : toMarker (s.lane x).tx = 0) : execSpareSubstitution p s = .next (substitute p k s) := by
  simp [execSpareSubstitution, hp, hpend, hx, hm]

/-! ### Measurements and loss of signal (02 R41 to R43, 03 R80) -/

/-- A measurement of a lane in data mode adapts its receiver, and takes the lane out where the third in a row is below 16 or the errors are too many. -/
theorem execBackgroundAdaptation_measures (hl : isLane lane = true) (hport : (s.lane lane).port = some p) (hd : inData (s.port p) = true)
    (hf : (s.lane lane).failed = false) (ho : (s.lane lane).leftOut = false) (hs ws : List Nat) (e : BitErrors) (k : Nat) (up : Bool) :
    let t := s.onLane lane (adapt s.svc.now (efomFrom hs ws) k up)
    execBackgroundAdaptation lane hs ws e k up s = .next (if 3 ≤ (t.lane lane).lowEfom ∨ e.bits < 10000 * e.errors then
        laneFails p lane (recordErr kLane lane 0x10 1 (leBytes (efomFrom hs ws) 2 ++ [if 3 ≤ (t.lane lane).lowEfom then 0 else 1]) t)
      else t) := by
  simp [execBackgroundAdaptation, hl, hport, hd, hf, ho]

section
variable (hp : isPort p = true) (hl : isLane lane = true) (hport : (s.lane lane).port = some p)
include hp hl hport

/-- Loss of signal takes a port that is up down. -/
theorem execLos_up (hup : linkUp (s.port p) = true) :
    execLos p lane s = .next (linkDown p 0 0 (s.onLane lane (fun l => { restartLane l with signal := false }))) := by
  simp [execLos, hp, hl, hport, hup, causeLos]

/-- In training it is the lane's loss alone while another one sees signal. -/
theorem execLos_training (ht : (s.port p).phase = .training n) :
    (s.onLane lane (fun l => { restartLane l with signal := false })).lanes.any (fun x => x.2.port == some p && x.2.signal) = true →
      execLos p lane s = .next (s.onLane lane (fun l => { restartLane l with signal := false })) := by
  intro hany
  have hdown : linkUp (s.port p) = false := by simp [linkUp, ht]
  simp [execLos, hp, hl, hport, hdown, ht, hany]

end

/-! ### The statement -/

/-- Settles O12: each event's law, case by case, for training and for lanes in service. -/
theorem trainingAndLaneEventsComplete : Obligations.TrainingAndLaneEventsComplete := by
  unfold Obligations.TrainingAndLaneEventsComplete
  have trains {s : State} {p n : Nat} (h : (s.port p).phase = .waiting ∨ (s.port p).phase = .training n) : Trains (s.port p) := h.imp_right (⟨n, ·⟩)
  refine ⟨⟨?joins, ?standby, ?mismatch, ?frame, ?restart, ?spareFrame, ?alone, ?boundRestarts, ?boundGivesUp, ?boundGoesOn, ?qualified, ?dropped⟩,
    ?marker, ?counts, ?missed, ?forgets, ?lockLoss, ?lastLane, ?measures, ?substitutes, ?losUp, ?losTraining⟩
  case joins =>
    intro p lane n s hp hl hm ht hlo hhi hown hnew
    exact execSignalDetect_joins hp hl hm (trains ht) hlo hhi hown hnew
  case standby =>
    intro p lane n s hp hl hm ht hspare hfits
    refine (execSignalDetect_spare hp hl hm (trains ht) hspare).trans ?_
    rw [if_pos hfits]
    rfl
  case mismatch =>
    intro p lane n s hp hl hm ht hspare hfits
    refine (execSignalDetect_spare hp hl hm (trains ht) hspare).trans ?_
    rw [hfits]
    rfl
  case frame =>
    intro p lane n f r s hp hl ht h1 h5 hport hfail hs hout hnear hfar halone hf hrestart hnode
    refine (execTrainingFrame_taken hp hl ht ⟨hport, hfail, hnear, hfar, halone⟩ hf r h1 h5 hout hrestart).trans ?_
    rw [takeFrame_lane _ r hs hnode]
  case restart =>
    intro p lane n f r s hp hl ht h2 hport hfail hnear hfar halone hf hrestart
    exact execTrainingFrame_restarts hp hl ht ⟨hport, hfail, hnear, hfar, halone⟩ hf r h2 hrestart
  case spareFrame =>
    intro p lane n f r x s hp hl ht h1 h5 hport hfail hs hout hnear hfar halone hf hrestart hx
    refine (execTrainingFrame_taken hp hl ht ⟨hport, hfail, hnear, hfar, halone⟩ hf r h1 h5 hout hrestart).trans ?_
    rw [takeFrame_spare _ r hs hx]
    simp
  case alone =>
    intro p lane n f r s hp hl hfar hstep h1 hhome hf l
    refine ⟨_, execTrainingFrame_alone hp hl hfar (by omega) hhome hf r, fun k hk => takeLoopFrame_ne _ r s hk, fun h4 hdone hready => ?_,
      fun h5 hdone hready => ?_, fun hdone => ?_⟩
    · have e := takeLoopFrame_goes_on hstep (by omega) hdone hready
      exact ⟨congrArg (·.2.1) e, congrArg (·.1) e⟩
    · subst h5
      have e := takeLoopFrame_enters hstep (by decide) hdone hready
      exact ⟨congrArg (·.1) e, congrArg (·.2.1) e⟩
    · have e := takeLoopFrame_stays hstep hdone
      exact (congrArg (·.2.1) e).trans hstep
  case boundRestarts =>
    intro p n s hp ht hn hb ha
    refine (execTrainingBoundExpiry_passed hp ht hb).trans ?_
    rw [boundPassed_fails hn, failAttempt_restarts true ha]
    rfl
  case boundGivesUp =>
    intro p n s hp ht hn hb ha
    refine ⟨_, execTrainingBoundExpiry_passed hp ht hb, ?_⟩
    rw [boundPassed_fails hn]
    exact failAttempt_gives_up true ha
  case boundGoesOn =>
    intro p s hp ht hb hdone
    refine (execTrainingBoundExpiry_passed hp ht hb).trans ?_
    rw [boundPassed_goes_on hdone]
  case qualified =>
    intro p res s hp ht hd hm
    refine (execQualificationEnd_due hp ht hd res).trans ?_
    rw [hm]
    rfl
  case dropped =>
    intro p res s hp ht hd hm
    refine (execQualificationEnd_due hp ht hd res).trans ?_
    rw [if_neg hm]
  case marker =>
    intro lane p b w s hl hport hw hpos
    exact execAlignmentMarker_valid hl hport hw hpos
  case counts =>
    intro now pos w l
    refine ⟨rfl, rfl, rfl, rfl, goodMarker_scrambler now pos l, fun h => ?_, fun h => ?_⟩
    · simp [goodMarker_locked, h]
    · simp [goodMarker_locked, h, three_le_placeCount_iff]
  case missed =>
    intro lane p b w s hl hport hw hlock hpos
    exact execAlignmentMarker_missed hl hport hw hlock hpos
  case forgets =>
    intro lane p b w s hl hport hw hlock
    exact execAlignmentMarker_forgets hl hport hw hlock
  case lockLoss =>
    intro lane p s hl hport hlock hd
    exact execMarkerLockLoss_due hl hport hlock hd
  case lastLane =>
    intro lane p s hup hw hpend hnone hs
    exact laneOut_last hup hw hpend hnone hs
  case measures =>
    intro lane p hs ws e k up s hl hport hd hf ho
    exact execBackgroundAdaptation_measures hl hport hd hf ho hs ws e k up
  case substitutes =>
    intro p k x s hp hpend hx hm
    refine (execSpareSubstitution_boundary hp hpend hx hm).trans ?_
    rw [substitute_some hx]
  case losUp =>
    intro p lane s hp hl hport hup
    exact execLos_up hp hl hport hup
  case losTraining =>
    intro p lane n s hp hl hport ht
    exact execLos_training hp hl hport ht

end Sys2Proof.Machine
end

section
/-! What the link layer's shared operations leave of a port (03 R55 to R59, R64, R80): a flit that comes in, its link control, flits that go out, and what the
rest of the part does about a port that goes down. -/

namespace Sys2Proof

/-- Every entry of a map under a function of the key and the value. -/
theorem Map.find_each {α : Type} (m : Map α) (f : Nat → α → α) (q : Nat) : Map.find (Map.each m f) q = (Map.find m q).map (f q) := by
  induction m with
  | nil => rfl
  | cons x m ih =>
    obtain ⟨k, v⟩ := x
    show (if q = k then some (f k v) else Map.find (Map.each m f) q) = (if q = k then some v else Map.find m q).map (f q)
    by_cases h : q = k
    · simp [h]
    · simpa [h] using ih

/-- An absent entry reads as the default before and after, so that the default must be a fixed point. -/
theorem Map.look_each {α : Type} (m : Map α) {f : Nat → α → α} {q : Nat} {d : α} (h : f q d = d) : Map.look (Map.each m f) q d = f q (Map.look m q d) := by
  simp only [Map.look, Map.find_each]
  cases Map.find m q with
  | none => exact h.symm
  | some v => rfl

/-- What every step of a fold keeps the whole fold keeps. -/
theorem foldl_keeps {σ α β : Type} (f : σ → β) {g : σ → α → σ} (h : ∀ s a, f (g s a) = f s) (l : List α) (s : σ) : f (l.foldl g s) = f s :=
  List.foldlRecOn l g (motive := fun t => f t = f s) rfl (fun t ht a _ => (h t a).trans ht)

end Sys2Proof

namespace Sys2Proof.Machine

open Sys2Proof

variable {s : State} {p x : Nat}

/-! ### Ports read through the state's updates -/

/-- A read of a port depends on the ports alone. -/
theorem State.port_of_ports {s t : State} (h : t.ports = s.ports) (x : Nat) : t.port x = s.port x := by
  rw [State.port, State.port, h]

/-- Two updates of a port that give it the same value are one. -/
theorem State.onPort_congr {f g : Port → Port} (h : f (s.port p) = g (s.port p)) : s.onPort p f = s.onPort p g :=
  congrArg (fun v => { s with ports := s.ports.put p v }) h

/-- Two updates of a port's link that give it the same value are one. -/
theorem State.onLink_congr {f g : Link → Link} (h : f (s.port p).link = g (s.port p).link) : s.onLink p f = s.onLink p g :=
  State.onPort_congr (congrArg (fun l => { s.port p with link := l }) h)

/-! ### A flit that comes in (02 R32, 03 R64, R66) -/

section
variable (p : Nat) (s : State)

@[simp] theorem hearFlit_ports : (hearFlit p s).ports = s.ports := rfl
@[simp] theorem hearFlit_port : (hearFlit p s).port x = s.port x := rfl
@[simp] theorem hearFlit_svc : (hearFlit p s).svc = s.svc := rfl

/-- A lane that carries the port's flits has its descrambler run on, and no other. -/
theorem hearFlit_lane (k : Nat) : (hearFlit p s).lane k =
    if carriesFlits p (s.port p) (s.lane k) then { s.lane k with scrambler := scrambleSkip (2048 / (txLanes s p).length) (s.lane k).scrambler }
    else s.lane k :=
  Map.look_each s.lanes (f := fun _ l => if carriesFlits p (s.port p) l then { l with scrambler := scrambleSkip (2048 / (txLanes s p).length) l.scrambler } else l)
    (by simp [carriesFlits])

end

/-- A codeword that is sent again is its lane's matter alone. -/
theorem echoWord_frame (w : Option RxWord) (s : State) : ∃ ls, echoWord w s = { s with lanes := ls } := by
  cases w with
  | none => exact ⟨s.lanes, rfl⟩
  | some x => exact ⟨_, rfl⟩

section
variable (w : Option RxWord) (s : State)

@[simp] theorem echoWord_ports : (echoWord w s).ports = s.ports := by obtain ⟨ls, e⟩ := echoWord_frame w s; rw [e]
@[simp] theorem echoWord_port : (echoWord w s).port x = s.port x := State.port_of_ports (echoWord_ports w s) x
@[simp] theorem echoWord_svc : (echoWord w s).svc = s.svc := by obtain ⟨ls, e⟩ := echoWord_frame w s; rw [e]

end

section
variable (p : Nat) (d : List (BitVec 10 × Packet)) (s : State)

@[simp] theorem excludePort_ports (which : Delivery → Bool) : (excludePort p which s).ports = s.ports := rfl
@[simp] theorem excludePort_svc (which : Delivery → Bool) : (excludePort p which s).svc = s.svc := rfl

@[simp] theorem noteAcked_ports : (noteAcked p d s).ports = s.ports := foldl_keeps State.ports (fun s _ => excludePort_ports p s _) d s
@[simp] theorem noteAcked_port : (noteAcked p d s).port x = s.port x := State.port_of_ports (noteAcked_ports ..) x
@[simp] theorem noteAcked_svc : (noteAcked p d s).svc = s.svc := foldl_keeps State.svc (fun s _ => excludePort_svc p s _) d s

end

section
variable (p : Nat) (f : Flit) (s : State)

/-! Link control moves the transmitter's half of the link and XOFF; the receiver's half and the rest of the port stay. -/

@[simp] theorem takeLctl_svc : (takeLctl p f s).svc = s.svc := by simp [takeLctl]
@[simp] theorem takeLctl_phase : ((takeLctl p f s).port p).phase = (s.port p).phase := by simp [takeLctl, State.onLink]
@[simp] theorem takeLctl_expected : ((takeLctl p f s).port p).link.expected = (s.port p).link.expected := by simp [takeLctl, takeXoff]
@[simp] theorem takeLctl_retryWait : ((takeLctl p f s).port p).link.retryWait = (s.port p).link.retryWait := by simp [takeLctl, takeXoff]
@[simp] theorem takeLctl_linkUp : linkUp ((takeLctl p f s).port p) = linkUp (s.port p) := by simp [linkUp]

end

/-! ### Flits that go out (03 R59) -/

/-- A port but for what sending flits moves: the flits sent, a NAK that was due, and a spare that takes over at a marker within them. -/
def sendKept (q : Port) : Port := { q with sent := [], spareUsed := false, pendingSpare := none, link := { q.link with nakDue := false } }

/-- One state has come from another by sending on a port: its lanes have moved, and of the ports what sending moves of this one. -/
structure SendsOnly (p : Nat) (s t : State) : Prop where
  frame : ∃ ps ls, t = { s with ports := ps, lanes := ls }
  other : ∀ x, x ≠ p → t.port x = s.port x
  kept : sendKept (t.port p) = sendKept (s.port p)

namespace SendsOnly

theorem refl (p : Nat) (s : State) : SendsOnly p s s := ⟨⟨s.ports, s.lanes, rfl⟩, fun _ _ => rfl, rfl⟩

theorem trans {t u : State} (h : SendsOnly p s t) (h' : SendsOnly p t u) : SendsOnly p s u := by
  obtain ⟨ps, ls, e⟩ := h.frame
  obtain ⟨ps', ls', e'⟩ := h'.frame
  exact ⟨⟨ps', ls', by rw [e', e]⟩, fun x hx => (h'.other x hx).trans (h.other x hx), h'.kept.trans h.kept⟩

theorem onLane (p k : Nat) (f : Lane → Lane) (s : State) : SendsOnly p s (s.onLane k f) := ⟨⟨s.ports, _, rfl⟩, fun _ _ => rfl, rfl⟩

theorem onPort {f : Port → Port} (h : sendKept (f (s.port p)) = sendKept (s.port p)) : SendsOnly p s (s.onPort p f) :=
  ⟨⟨_, s.lanes, rfl⟩, fun _ hx => State.onPort_ne s f hx, by rwa [State.onPort_self]⟩

theorem foldl {α : Type} {g : State → α → State} (h : ∀ s a, SendsOnly p s (g s a)) (l : List α) (s : State) : SendsOnly p s (l.foldl g s) :=
  List.foldlRecOn l g (motive := SendsOnly p s) (refl p s) (fun t ht a _ => ht.trans (h t a))

theorem svc {t : State} (h : SendsOnly p s t) : t.svc = s.svc := by
  obtain ⟨ps, ls, e⟩ := h.frame
  rw [e]

theorem partner {t : State} (h : SendsOnly p s t) : (t.port p).partner = (s.port p).partner := (congrArg Port.partner h.kept :)

theorem initSeen {t : State} (h : SendsOnly p s t) : (t.port p).link.initSeen = (s.port p).link.initSeen := (congrArg (·.link.initSeen) h.kept :)

end SendsOnly

theorem substitute_sendsOnly (p k : Nat) (s : State) : SendsOnly p s (substitute p k s) := by
  unfold substitute
  split
  · exact .refl p s
  · exact (SendsOnly.onLane p _ _ s).trans (.onPort rfl)

theorem feedSpare_sendsOnly (p n : Nat) (s : State) : SendsOnly p s (feedSpare p n s) := by
  unfold feedSpare
  split
  · exact .onLane p _ _ s
  · exact .refl p s

theorem feedLanes_sendsOnly (p n : Nat) (bits : Nat → List Bool) (s : State) : SendsOnly p s (feedLanes p n bits s) := by
  unfold feedLanes
  dsimp only
  split
  · exact (((feedSpare_sendsOnly p _ s).trans (.foldl (fun s _ => .onLane p _ _ s) _ _)).trans (substitute_sendsOnly p _ _)).trans (.onLane p _ _ _)
  · exact (feedSpare_sendsOnly p n s).trans (.foldl (fun s _ => .onLane p _ _ s) _ _)

theorem putFlit_sendsOnly (p : Nat) (f : Flit) (s : State) : SendsOnly p s (putFlit p f s) := by
  unfold putFlit stripeFlit
  exact SendsOnly.trans (.onPort rfl) (feedLanes_sendsOnly p _ _ _)

theorem sendCtl_sendsOnly (p ctype param : Nat) (s : State) : SendsOnly p s (sendCtl p ctype param s) := by
  unfold sendCtl
  exact SendsOnly.trans (.onPort rfl) (putFlit_sendsOnly p _ _)

theorem sendCtls_sendsOnly (p ctype param n : Nat) (s : State) : SendsOnly p s (sendCtls p ctype param n s) := by
  induction n generalizing s with
  | zero => exact .refl p s
  | succ n ih => exact (sendCtl_sendsOnly p ctype param s).trans (ih _)

/-! ### What a port that goes down means elsewhere (06 R161, 08 R232 to R238) -/

@[simp] theorem writeFault_ports (k : Nat) (f : PendFault) (r : FaultRing) (s : State) : (writeFault k f r s).ports = s.ports := by simp [writeFault]

@[simp] theorem fillRing_ports (n : Nat) (s : State) : (fillRing n s).ports = s.ports := by
  induction n generalizing s with
  | zero => rfl
  | succ n ih =>
    unfold fillRing
    split
    · rfl
    split
    · rfl
    split
    · split
      · rw [ih, writeFault_ports]
      · rfl
    · rfl

@[simp] theorem settleWaiters_ports (s : State) : (settleWaiters s).ports = s.ports := by
  unfold settleWaiters
  split
  · rfl
  · simp [fillAll]

@[simp] theorem settlePhase_ports (s : State) : (settlePhase s).ports = s.ports := (congrArg State.ports (settlePhase_frame s) :)

@[simp] theorem freeContextsOf_ports (j : CtxJob) (s : State) : (freeContextsOf j s).ports = s.ports := by simp [freeContextsOf]

/-- A plane's operation may originate an abort, which is no matter of the ports. -/
@[simp] theorem keepRecord_ports (g : Nat) (r : AbortRec) (s : State) : (keepRecord g r s).ports = s.ports := by
  unfold keepRecord
  split
  · rfl
  · split <;> simp

@[simp] theorem originate_ports (g reason : Nat) (c : Option Nat) (s : State) : (originate g reason c s).ports = s.ports := by
  unfold originate
  split
  · rfl
  · split <;> simp

@[simp] theorem opPortDown_ports (p : Nat) (s : State) (g : Nat) : (opPortDown p s g).ports = s.ports := by
  unfold opPortDown
  split
  · rfl
  · split_ifs <;> simp

/-- A bridge's agent forwards its record through the core. -/
@[simp] theorem forwardRecord_ports (g : Nat) (m : MemberOp) (r : AbortRec) (e : Option Nat) (s : State) : (forwardRecord g m r e s).ports = s.ports :=
  foldl_keeps State.ports (fun s i => by split <;> simp) m.prog.planes s

@[simp] theorem memberRecord_ports (g : Nat) (r : AbortRec) (e : Option Nat) (s : State) : (memberRecord g r e s).ports = s.ports := by
  unfold memberRecord
  split
  · rfl
  · split <;> simp

@[simp] theorem memberPortDown_ports (r : Nat) (s : State) (g : Nat) : (memberPortDown r s g).ports = s.ports := by
  unfold memberPortDown
  split
  · rfl
  split
  · rfl
  split
  · split <;> simp
  · simp

@[simp] theorem collPortDown_ports (p : Nat) (s : State) : (collPortDown p s).ports = s.ports := by
  unfold collPortDown
  split
  · exact foldl_keeps State.ports (memberPortDown_ports p) _ s
  · exact foldl_keeps State.ports (opPortDown_ports p) _ s

@[simp] theorem bridgeDown_ports (p : Nat) (s : State) : (bridgeDown p s).ports = s.ports := by
  unfold bridgeDown
  dsimp only
  split_ifs <;> simp

end Sys2Proof.Machine
end

section
/-! A link that goes down (03 R69, R79 to R81): the port as every cause leaves it. -/

namespace Sys2Proof.Machine

open Sys2Proof

variable {s : State} {p x : Nat}

@[simp] theorem clearLanes_ports (p : Nat) (s : State) : (clearLanes p s).ports = s.ports := rfl

/-- A port whose lanes see no signal waits; one whose lanes do trains at once (03 R81). -/
theorem resumeTraining_port (p : Nat) (s : State) :
    resumeTraining p s = s ∨ resumeTraining p s = s.onPort p (fun q => { q with phase := .training 1, t0 := s.svc.now }) := by
  unfold resumeTraining
  split
  · exact .inr rfl
  · exact .inl rfl

/-- A local disable has sent its DOWN flits when the port goes down, and any other cause nothing. -/
def sentDown (p cause : Nat) (s : State) : State := if cause == causeLocal then sendCtls p ctDown 0 16 s else s

theorem sentDown_sendsOnly (p cause : Nat) (s : State) : SendsOnly p s (sentDown p cause s) := by
  unfold sentDown
  split
  · exact sendCtls_sendsOnly p _ _ _ s
  · exact .refl p s

/-- The ports once the link of one is down: what goes on elsewhere in the part leaves them alone. -/
theorem linkDown_port (p cause channel : Nat) (s : State) : ∃ d : State,
    (∀ x, d.port x = ((sentDown p cause s).onPort p (portAfterDown cause)).port x) ∧
    ∀ x, (linkDown p cause channel s).port x = (if cause == causeLocal then d else resumeTraining p d).port x := by
  unfold linkDown
  dsimp only
  refine ⟨_, fun x => State.port_of_ports ?_ x, fun x => State.port_of_ports ((bridgeDown_ports ..).trans (collPortDown_ports ..)) x⟩
  simp [sentDown]

/-- The other ports keep their links. -/
theorem linkDown_other (cause channel : Nat) (hx : x ≠ p) : (linkDown p cause channel s).port x = s.port x := by
  obtain ⟨d, hd, h⟩ := linkDown_port p cause channel s
  have hdx : d.port x = s.port x := (hd x).trans ((State.onPort_ne _ _ hx).trans ((sentDown_sendsOnly p cause s).other x hx))
  rw [h x]
  split
  · exact hdx
  · obtain e | e := resumeTraining_port p d
    · rw [e, hdx]
    · rw [e, State.onPort_ne _ _ hx, hdx]

/-- What sending moves, the port that goes down drops, but for the flits sent. -/
theorem portAfterDown_of_sendKept (cause : Nat) {q r : Port} (h : sendKept q = sendKept r) :
    portAfterDown cause q = { portAfterDown cause r with sent := q.sent } :=
  (congrArg (fun k => { portAfterDown cause k with sent := q.sent }) h :)

/-- The port itself is as `portAfterDown` leaves it, its last flits sent, and trains again where it may. -/
theorem linkDown_self (p cause channel : Nat) (s : State) : ∃ flits,
    (linkDown p cause channel s).port p = { portAfterDown cause (s.port p) with sent := flits } ∨
    cause ≠ 2 ∧ ∃ now, (linkDown p cause channel s).port p = { portAfterDown cause (s.port p) with sent := flits, phase := .training 1, t0 := now } := by
  obtain ⟨d, hd, h⟩ := linkDown_port p cause channel s
  have hdp := ((hd p).trans (State.onPort_self ..)).trans (portAfterDown_of_sendKept cause (sentDown_sendsOnly p cause s).kept)
  refine ⟨((sentDown p cause s).port p).sent, ?_⟩
  rw [h p]
  split_ifs with hc
  · exact .inl hdp
  · obtain e | e := resumeTraining_port p d
    · exact .inl (by rw [e, hdp])
    · exact .inr ⟨by simpa [causeLocal] using hc, d.svc.now, by rw [e, State.onPort_self, hdp]⟩

/-- Settles O15: the port is as `portAfterDown` leaves it, in training where the cause and its lanes allow. -/
theorem linkDownCountsAndHandsBack : Obligations.LinkDownCountsAndHandsBack := by
  unfold Obligations.LinkDownCountsAndHandsBack
  intro p cause channel s
  have hother : ∀ x, x ≠ p → (linkDown p cause channel s).port x = s.port x := fun x hx => linkDown_other cause channel hx
  obtain ⟨flits, e | ⟨hc, now, e⟩⟩ := linkDown_self p cause channel s
  · rw [e]
    refine ⟨rfl, rfl, rfl, rfl, rfl, rfl, Map.look_upd_self .., rfl, rfl, rfl, rfl, rfl, fun hc => ?_, fun hc => .inl ?_, hother⟩
    · simp [portAfterDown, hc, causeLocal]
    · simp [portAfterDown, hc, causeLocal]
  · rw [e]
    exact ⟨rfl, rfl, rfl, rfl, rfl, rfl, Map.look_upd_self .., rfl, rfl, rfl, rfl, rfl, fun h => absurd h hc, fun _ => .inr rfl, hother⟩

end Sys2Proof.Machine
end

section
/-! The receiver and the link timers (03 R64 to R67, R73), and control flits (03 R59, R75 to R80): what each does, one law per case. -/

namespace Sys2Proof.Machine

open Sys2Proof

variable {s : State} {p : Nat} {f : Flit}

/-! ### The receiver (03 R64 to R66) -/

/-- In NORMAL a retry is asked for. -/
theorem askRetry_normal (h : (s.port p).link.retryWait = false) :
    askRetry p s = s.onLink p (fun l => { l with nakDue := true, retryWait := true, retryAt := s.svc.now, retryCount := 0 }) :=
  State.onLink_congr (by simp [h])

/-- In RETRY_WAIT it has been, and the ports stay. -/
theorem askRetry_waiting (h : (s.port p).link.retryWait = true) (k : Nat) : (askRetry p s).port k = s.port k := by
  obtain rfl | hk := eq_or_ne k p
  · simp [askRetry, State.onLink, h]
  · exact State.onLink_ne s _ hk

section
variable (hp : isPort p = true) (hup : linkUp (s.port p) = true)
include hp hup

theorem execDataFlit_accepted (hcrc : f.crcOk = true) (hdata : f.isCtl = false) (hseq : f.fseq = (s.port p).link.expected) :
    execDataFlit p f s = .next (acceptPayload p f ((takeLctl p f (hearFlit p s)).onLink p (fun l =>
      { l with expected := l.expected + 1, retryWait := false, retryCount := 0 }))) := by
  simp [execDataFlit, hp, hup, hcrc, hdata, hseq]

theorem execDataFlit_outOfOrder (hcrc : f.crcOk = true) (hdata : f.isCtl = false) (hseq : f.fseq ≠ (s.port p).link.expected) :
    execDataFlit p f s = .next (askRetry p (takeLctl p f (hearFlit p s))) := by
  simp [execDataFlit, hp, hup, hcrc, hdata, hseq]

theorem execDataFlit_damaged (hcrc : f.crcOk = false) : execDataFlit p f s = .next (askRetry p (hearFlit p s)) := by
  simp [execDataFlit, hp, hup, hcrc, crcFailed]

end

/-- A flit of an uncorrectable codeword is lost whole. -/
theorem execCrcFailedFlit_lost {x : LostFlit} (hp : isPort x.port = true) (hup : linkUp (s.port x.port) = true) (hw : wordFails s x.word = true) :
    execCrcFailedFlit x s = .next (askRetry x.port (hearFlit x.port (echoWord x.word s))) := by
  simp [execCrcFailedFlit, hp, hup, hw, crcFailed]

/-- One of a codeword that the decoder corrects has not failed. -/
theorem execCrcFailedFlit_corrected {x : LostFlit} (hp : isPort x.port = true) (hw : wordFails s x.word = false) :
    execCrcFailedFlit x s = .next (hearFlit x.port (echoWord x.word s)) := by
  simp [execCrcFailedFlit, hp, hw]

/-! ### The timers (03 R65, R67, R73) -/

section
variable (hp : isPort p = true) (hup : (s.port p).phase = .up)
include hp hup

/-- The retry timer of the receiver asks again, and its eighth expiry takes the link down. -/
theorem execLinkRetryTimer_due (hw : (s.port p).link.retryWait = true) (hd : (s.port p).link.retryAt + 2000 ≤ s.svc.now) :
    let t := s.onLink p (fun l => { l with nakDue := true, retryAt := s.svc.now, retryCount := l.retryCount + 1 })
    execLinkRetryTimer p s = .next (if 7 ≤ (s.port p).link.retryCount then linkDown p 3 0 t else t) := by
  have hlate : ¬ s.svc.now < (s.port p).link.retryAt + 2000 := by omega
  simp [execLinkRetryTimer, hp, hup, hw, hlate, causeRetry]

/-- The transmitter's timer resends the whole buffer, and its eighth expiry in a row takes the link down. -/
theorem execRetryBufferTimer_due (hb : (s.port p).link.retryBuf ≠ []) (hd : (s.port p).link.txAt + 2000 ≤ s.svc.now) :
    let t := s.onLink p (fun l => { l with resend := l.retryBuf.length, txAt := s.svc.now, txExpiries := l.txExpiries + 1 })
    execRetryBufferTimer p s = .next (if 7 ≤ (s.port p).link.txExpiries then linkDown p 3 0 t else t) := by
  have hlate : ¬ s.svc.now < (s.port p).link.txAt + 2000 := by omega
  simp [execRetryBufferTimer, hp, hup, hb, hlate, causeRetry]

theorem execXoffWatchdog_due {v at_ : Nat} (hv : v < 6) (hx : (s.port p).link.xoffSince.find v = some at_) (hd : at_ + 1000000 ≤ s.svc.now) :
    execXoffWatchdog p v s = .next (linkDown p 4 v s) := by
  have hv' : ¬ 6 ≤ v := by omega
  simp [execXoffWatchdog, hp, hup, hv', hx, hd, causeXoff]

end

/-! ### Control flits (03 R59) -/

section
variable {kind : Nat} {act : State → State} (hp : isPort p = true) (hcrc : f.crcOk = true) (hctl : f.isCtl = true) (hk : f.ctype = kind)
include hp hcrc hctl hk

/-- A good control flit of its kind acts, once its link control has been taken where the link is up. -/
theorem control_acts : control p f kind act s = .next (act (if linkUp (s.port p) then takeLctl p f (hearFlit p s) else hearFlit p s)) := by
  simp only [control, hp, hcrc, hctl, hk, Bool.not_true, Bool.false_eq_true, if_false, Bool.or_self, bne_self_eq_false]
  rfl

theorem control_up (hup : linkUp (s.port p) = true) : control p f kind act s = .next (act (takeLctl p f (hearFlit p s))) := by
  rw [control_acts hp hcrc hctl hk, if_pos hup]

theorem control_training (ht : (s.port p).phase = .training 8) : control p f kind act s = .next (act (hearFlit p s)) := by
  rw [control_acts hp hcrc hctl hk, if_neg (by simp [linkUp, ht])]

end

/-! ### Link initialization (03 R75, R76) -/

@[simp] theorem initNodeOk_hearFlit (k : Nat) (n : Node) : initNodeOk (hearFlit p s) k n = initNodeOk s k n := rfl

/-- A plane, and a bridge with a number, takes none. -/
theorem takeNumber_svc (n : Node) (s : State) :
    (takeNumber n s).svc = if s.svc.bridge = true ∧ s.svc.node = none then { s.svc with node := some n } else s.svc := by
  unfold takeNumber
  simp only [Bool.and_eq_true, Option.isNone_iff_eq_none]
  split_ifs <;> rfl

theorem takeNumber_plane (n : Node) (hb : s.svc.bridge = false) : takeNumber n s = s := by simp [takeNumber, hb]

/-- All that follows the first INIT is flits sent. -/
theorem afterInit_sendsOnly (p : Nat) (first numbered : Bool) (s : State) : SendsOnly p s (afterInit p first numbered s) := by
  unfold afterInit
  split
  · exact .refl p s
  split
  · exact sendCtls_sendsOnly p _ _ _ s
  · exact (sendCtl_sendsOnly p _ _ s).trans (sendCtls_sendsOnly p _ _ _ _)

section
variable (hp : isPort p = true) (hcrc : f.crcOk = true) (hctl : f.isCtl = true) (ht : (s.port p).phase = .training 8)
include hp hcrc hctl ht

/-- A partner with other channels restarts training. -/
theorem execInit_channels (hk : f.ctype = 1) (hm : f.param / 2 ^ 13 % 64 ≠ channelMask p) :
    execInit p f s = .next (failAttempt p 8 true (hearFlit p s)) := by
  refine (control_training hp hcrc hctl hk ht).trans ?_
  simp [-Nat.reducePow, atStep, ht, hm]

/-- An INIT whose number and channels are right names the partner, and a bridge without a number takes this one. -/
theorem execInit_understood (hk : f.ctype = 1) (hm : f.param / 2 ^ 13 % 64 = channelMask p)
    (hn : initNodeOk s p (BitVec.ofNat 13 (f.param % 2 ^ 13)) = true) :
    let n : Node := BitVec.ofNat 13 (f.param % 2 ^ 13)
    let u := takeNumber n (hearFlit p s)
    execInit p f s = .next (afterInit p (!(s.port p).link.initSeen) (!s.svc.bridge || s.svc.node.isSome) (u.onPort p (fun q => { q with
      partner := some n
      self := if s.svc.bridge then some (u.svc.node.getD n) else q.self
      link := { q.link with initSeen := true, startCount := BitVec.ofNat 16 (f.param / 2 ^ 19) } }))) := by
  refine (control_training hp hcrc hctl hk ht).trans ?_
  simp [-Nat.reducePow, atStep, ht, hm, hn]
  rfl

theorem execInitAck_training (hk : f.ctype = 2) : execInitAck p f s = .next ((hearFlit p s).onLink p (fun l =>
    { l with initAcked := true, expected := 0, nextSeq := 0, xoffIn := 0, xoffOut := 0, xoffSince := [] })) := by
  refine (control_training hp hcrc hctl hk ht).trans ?_
  simp [atStep, ht]

/-- The stamp of a LOOP_PING goes back. -/
theorem execLoopPing_training (hk : f.ctype = 3) : execLoopPing p f s = .next (sendCtl p 4 (f.param % 2 ^ 64) (hearFlit p s)) := by
  refine (control_training hp hcrc hctl hk ht).trans ?_
  simp [atStep, ht, ctEcho]

/-- A loop before the sixteenth is measured. -/
theorem execLoopEcho_measures (hk : f.ctype = 4) (hl : (s.port p).link.loops.length < 15) :
    execLoopEcho p f s = .next ((hearFlit p s).onLink p (fun l => { l with loops := (s.port p).link.loops ++ [s.svc.now - f.param % 2 ^ 64] })) := by
  refine (control_training hp hcrc hctl hk ht).trans ?_
  have h1 : ¬ 16 ≤ (s.port p).link.loops.length := by omega
  have h2 : (s.port p).link.loops.length + 1 < 16 := by omega
  simp [atStep, ht, h1, h2]

/-- The sixteenth gives T_meas: above 400 ns initialization fails, else the buffers are reserved and INIT_ACK goes out. -/
theorem execLoopEcho_last (hk : f.ctype = 4) (hl : (s.port p).link.loops.length = 15) :
    let l := (s.port p).link.loops ++ [s.svc.now - f.param % 2 ^ 64]
    let t := (hearFlit p s).onLink p (fun k => { k with loops := l })
    execLoopEcho p f s = .next (if 400 < l.foldl max 0 then failAttempt p 8 true (recordErr kPort p 0x03 2 (leBytes (l.foldl max 0) 4) t)
      else sendCtl p 2 0 (t.onPort p (fun q => { q with link := { q.link with tMeas := l.foldl max 0, reserved := reserve p q (l.foldl max 0) } }))) := by
  refine (control_training hp hcrc hctl hk ht).trans ?_
  simp [atStep, ht, hl, ctInitAck]

end

/-! ### Width change and DOWN (03 R78, R80) -/

section
variable (hp : isPort p = true) (hcrc : f.crcOk = true) (hctl : f.isCtl = true) (hup : linkUp (s.port p) = true)
include hp hcrc hctl hup

theorem execWidthChange_up (hk : f.ctype = 5) :
    execWidthChange p f s = .next (takeMask p (BitVec.ofNat 16 (f.param % 2 ^ 16)) (takeLctl p f (hearFlit p s))) := by
  refine (control_up hp hcrc hctl hk hup).trans ?_
  simp [hup]

theorem execDown_up (hk : f.ctype = 6) : execDown p f s = .next (linkDown p 1 0 (takeLctl p f (hearFlit p s))) := by
  refine (control_up hp hcrc hctl hk hup).trans ?_
  simp [hup, causePartner]

end

section
variable (m : BitVec 16)

/-- The partner's mask starts the narrowing of a port that is up. -/
theorem takeMask_up (h : (s.port p).phase = .up) : takeMask p m s = startNarrowing p (s.onPort p (fun q => { q with partnerMask := some m })) := by
  simp [takeMask, h]

/-- With it a port that awaits it goes on. -/
theorem takeMask_awaited (h : (s.port p).phase ≠ .up) (hn : (s.port p).narrowStep = 0) :
    takeMask p m s = narrowGo p (s.onPort p (fun q => { q with partnerMask := some m })) := by
  simp [takeMask, h, hn]

/-- The same mask again says nothing new. -/
theorem takeMask_known (h : (s.port p).phase ≠ .up) (hn : (s.port p).narrowStep ≠ 0) (hm : (s.port p).partnerMask = some m) : takeMask p m s = s := by
  simp [takeMask, h, hn, hm]

end

/-! ### The statements -/

/-- Settles O14: the receiver's law for each kind of flit, and its timer's for each count. -/
theorem receiverFollowsRetryTable : Obligations.ReceiverFollowsRetryTable := by
  unfold Obligations.ReceiverFollowsRetryTable
  refine ⟨?accepted, ?outOfOrder, ?damaged, ?lost, ?lostAgain, ?corrected, ?heard, ?asksAgain, ?givesUp⟩
  case accepted =>
    intro p f s hp hcrc hup hdata hseq
    exact execDataFlit_accepted hp hup hcrc hdata (hseq.trans (takeLctl_expected ..))
  case outOfOrder =>
    intro p f s hp hcrc hup hdata hseq hwait
    refine (execDataFlit_outOfOrder hp hup hcrc hdata (takeLctl_expected p f s ▸ hseq)).trans ?_
    rw [askRetry_normal (by simpa using hwait)]
    simp
  case damaged =>
    intro p f s hp hcrc hup hwait
    refine (execDataFlit_damaged hp hup hcrc).trans ?_
    rw [askRetry_normal (by simpa using hwait), hearFlit_svc]
  case lost =>
    intro x s hp hup hw hwait
    refine (execCrcFailedFlit_lost hp hup hw).trans ?_
    rw [askRetry_normal (by simpa using hwait)]
    simp
  case lostAgain =>
    intro x s hp hup hw hwait
    refine ⟨_, execCrcFailedFlit_lost hp hup hw, fun k => ?_, ?_⟩
    · rw [askRetry_waiting (by simpa using hwait)]
      simp
    · obtain ⟨ls, e⟩ := echoWord_frame x.word s
      rw [e]
      rfl
  case corrected =>
    intro x s hp hw
    exact execCrcFailedFlit_corrected hp hw
  case heard =>
    intro p k s
    exact ⟨hearFlit_lane p s k, rfl⟩
  case asksAgain =>
    intro p s hp hup hwait hd hcount
    refine (execLinkRetryTimer_due hp hup hwait hd).trans ?_
    rw [if_neg (by omega)]
  case givesUp =>
    intro p s hp hup hwait hd hcount
    refine (execLinkRetryTimer_due hp hup hwait hd).trans ?_
    rw [if_pos hcount]

/-- Settles O16: the timers' laws, and those of the control flits by CTYPE. -/
theorem timersAndControlFlitsComplete : Obligations.TimersAndControlFlitsComplete := by
  unfold Obligations.TimersAndControlFlitsComplete
  refine ⟨⟨?resends, ?givesUp, ?xoff⟩, ?idle, ?initPlane, ?initBridge, ?channels, ?ack, ?ping, ?echo, ?lastEcho, ?width, ?masks, ?down⟩
  case resends =>
    intro p s hp hup hb hd hcount
    refine (execRetryBufferTimer_due hp hup hb hd).trans ?_
    rw [if_neg (by omega)]
  case givesUp =>
    intro p s hp hup hb hd hcount
    refine (execRetryBufferTimer_due hp hup hb hd).trans ?_
    rw [if_pos hcount]
  case xoff =>
    intro p v t s hp hv hup hx hd
    exact execXoffWatchdog_due hp hup hv hx hd
  case idle =>
    intro p f s hp hcrc hctl hk
    exact control_acts hp hcrc hctl hk
  case initPlane =>
    intro p f s hp hcrc hctl hk ht hm hn hb
    refine (execInit_understood hp hcrc hctl ht hk hm hn).trans ?_
    rw [takeNumber_plane _ (by simpa using hb)]
    simp only [afterInit, hb, Bool.not_not, Bool.not_false, Bool.true_or, Bool.false_eq_true, if_true, if_false]
    rfl
  case initBridge =>
    intro p f s hp hcrc hctl hk ht hm hn hb
    refine ⟨_, execInit_understood hp hcrc hctl ht hk hm hn, ?_⟩
    have hsends := afterInit_sendsOnly p (!(s.port p).link.initSeen) (!s.svc.bridge || s.svc.node.isSome)
    refine ⟨(hsends _).partner.trans (by simp), (hsends _).initSeen.trans (by simp), ?_⟩
    rw [(hsends _).svc, State.onPort_svc, takeNumber_svc]
    cases hnode : s.svc.node <;> simp [hb, hnode]
  case channels =>
    intro p f s hp hcrc hctl hk ht hm
    exact execInit_channels hp hcrc hctl ht hk hm
  case ack =>
    intro p f s hp hcrc hctl hk ht
    exact execInitAck_training hp hcrc hctl ht hk
  case ping =>
    intro p f s hp hcrc hctl hk ht
    exact execLoopPing_training hp hcrc hctl ht hk
  case echo =>
    intro p f s hp hcrc hctl hk ht hl
    exact execLoopEcho_measures hp hcrc hctl ht hk hl
  case lastEcho =>
    intro p f s hp hcrc hctl hk ht hl
    exact execLoopEcho_last hp hcrc hctl ht hk hl
  case width =>
    intro p f s hp hcrc hctl hk hup
    exact execWidthChange_up hp hcrc hctl hup hk
  case masks =>
    intro p m s
    exact ⟨takeMask_up m, takeMask_awaited m, takeMask_known m⟩
  case down =>
    intro p f s hp hcrc hctl hk hup
    exact execDown_up hp hcrc hctl hup hk

end Sys2Proof.Machine
end

section
/-! PORT_UP at a bridge that has taken another number since the port's INIT (01 R15, 10 R289): the port does not come up, its attempt fails. -/

namespace Sys2Proof.Machine

open Sys2Proof

variable {s : State} {p n : Nat}

@[simp] theorem sendFrames_ports (p : Nat) (s : State) : (sendFrames p s).ports = s.ports :=
  foldl_keeps (α := Nat × Lane) State.ports (fun s l => (rfl : (sendFrame p l.1 s).ports = s.ports)) _ s

/-- An attempt that fails leaves its port in training from step 1 again, or given up, and in neither case up. -/
theorem failAttempt_phase_ne_up (p n : Nat) (own : Bool) (s : State) : ((failAttempt p n own s).port p).phase ≠ .up := by
  by_cases h : (s.port p).attempts < 2
  · have hports : (failAttempt p n own s).ports = (s.onPort p (restartPort s.svc.now ((s.port p).attempts + 1))).ports := by
      rw [failAttempt_restarts own h, sendFrames_ports]
      rfl
    rw [State.port_of_ports hports, State.onPort_self]
    simp [restartPort]
  · simp [(failAttempt_gives_up own (by omega : 2 ≤ (s.port p).attempts)).1]

/-- Where the bridge's number is not the one that the port's partner has given, PORT_UP fails the attempt, and the port is not up. -/
theorem execPortUp_otherNumber (hp : isPort p = true) (ht : (s.port p).phase = .training 8) (hdone : initDone (s.port p).link = true)
    (hflush : (s.port p).flushing = false) (ho : otherNumber s p = true) : ∃ t, execPortUp p s = .next t ∧ (t.port p).phase ≠ .up := by
  refine ⟨_, ?_, failAttempt_phase_ne_up p 8 true (recordErr kPort p 0x04 3 (leBytes ((s.port p).partner.getD 0).toNat 2) s)⟩
  simp [execPortUp, hp, atStep, ht, hdone, hflush, ho]

/-- A bridge of pair 0 whose port 0 has run its initialization under a number of pair 1: its other ports have gone down since, and one of them has come up again
with the number of pair 0. -/
def renumberedBridge : State :=
  { svc := { mod := .ready, bridge := true, node := some (mkNode 0 false 0) }
    ports := [(0, { enabled := true, phase := .training 8, self := some (mkNode 1 false 0), partner := some (mkNode 1 false 0),
                    link := { initSeen := true, initAcked := true, loops := List.replicate 16 100, reserved := [(0, 64)] } })] }

/-- Refutes O17: the first clause has no premise on the number of a bridge, and PORT_UP on `renumberedBridge` fails the attempt, after which the port is not up. -/
theorem not_portUpAndNarrowingComplete : ¬ Obligations.PortUpAndNarrowingComplete := by
  unfold Obligations.PortUpAndNarrowingComplete
  rintro ⟨comesUp, -, -⟩
  obtain ⟨t, ht, hup, -⟩ := comesUp 0 renumberedBridge (by decide) (by decide) (by decide) (by decide)
  obtain ⟨u, hu, hdown⟩ :=
    execPortUp_otherNumber (s := renumberedBridge) (p := 0) (by decide) (by decide) (by decide) (by decide) (by decide)
  obtain rfl := Host.Outcome.next.inj (hu.symm.trans ht)
  exact hdown (by rw [State.port_of_ports (unsolicited_ports ..), hup])

end Sys2Proof.Machine
end

section
/-! Requests at the home (04 R90, R479, 05 R121 to R123, R127): what the home's checks make of a request, one law per outcome, in the order of the checks. -/

namespace Sys2Proof.Machine

open Sys2Proof

variable {s : State} {port a : Nat} {p k : Packet} {e ecc : Ecc}

/-! ### Checks 7 to 9 and the sluice -/

section
variable {dup : Bool}

theorem judge_malformed (h7 : check7Bad p = true) : judge dup port p e s = failRequest dup p stBadRequest s := by simp [judge, h7]

theorem judge_tenantGone (h7 : check7Bad p = false) (h8 : tenantGone p.tenant.toNat s = true) :
    judge dup port p e s = failRequest dup p stTenantRevoked s := by simp [judge, h7, h8]

/-- Where the walk finds no page, or one without the right, the request fails with the walk's status, and a damaged mirror is recorded. -/
theorem judge_noPage (h7 : check7Bad p = false) (h8 : tenantGone p.tenant.toNat s = false) {st : Nat}
    (h9 : tgtWalk e s p.tenant.toNat p.offset.toNat (accessOf p) = .inr st) :
    judge dup port p e s = failRequest dup p st (mirrorCheck e s) := by simp [judge, h7, h8, h9]

/-- What a request meets that has passed every check at an open home: it is applied at once, unless it is a RELEASE, which the sluice judges or holds. -/
def passedChecks (dup : Bool) (port : Nat) (p : Packet) (a : Nat) (e : Ecc) (s : State) : State :=
  if p.release && !dup then
    (if mayLand (s.win p.src.toNat) p then landRelease port p e s
     else s.onWin p.src.toNat (fun y => { y with held := y.held ++ [{ pkt := p, port := port }] }))
  else applyRequest dup p a e s

section
variable {x : XEntry} (h7 : check7Bad p = false) (h8 : tenantGone p.tenant.toNat s = false)
  (h9 : tgtWalk e s p.tenant.toNat p.offset.toNat (accessOf p) = .inl a) (hx : findEntry s.xlat.tgt p.tenant.toNat p.offset.toNat = some x)
include h7 h8 h9 hx

/-- The entry that translates the request becomes the newest of the home's cache, whether the home is open or not. -/
theorem judge_closed (hc : homeClosed (touchCache 48 x s) port = true) :
    judge dup port p e s = failRequest dup p stNotReady (touchCache 48 x s) := by simp [judge, h7, h8, h9, hx, hc]

theorem judge_passes (hc : homeClosed (touchCache 48 x s) port = false) :
    judge dup port p e s = passedChecks dup port p a e (touchCache 48 x s) := by
  simp only [judge, h7, h8, h9, hx, hc]
  rfl

end

theorem passedChecks_plain (hr : p.release = false) : passedChecks dup port p a e s = applyRequest dup p a e s := by simp [passedChecks, hr]

end

theorem passedChecks_lands (hr : p.release = true) (hl : mayLand (s.win p.src.toNat) p = true) :
    passedChecks false port p a e s = landRelease port p e s := by simp [passedChecks, hr, hl]

theorem passedChecks_held (hr : p.release = true) (hl : mayLand (s.win p.src.toNat) p = false) :
    passedChecks false port p a e s = s.onWin p.src.toNat (fun y => { y with held := y.held ++ [{ pkt := p, port := port }] }) := by
  simp [passedChecks, hr, hl]

/-! ### Check 6 and the sequence window (04 R479) -/

@[simp] theorem openWin_svc (src : Nat) (seq : BitVec 16) (s : State) : (openWin src seq s).svc = s.svc := by
  unfold openWin; split <;> rfl

@[simp] theorem noteFailure_svc (p : Packet) (st : Option Nat) (s : State) : (noteFailure p st s).svc = s.svc := by
  unfold noteFailure; split <;> rfl

@[simp] theorem noteEarly_svc (p : Packet) (s : State) : (noteEarly p s).svc = s.svc := by
  unfold noteEarly; split <;> rfl

/-- The part's own number is its firmware's. -/
theorem selfNode_of_svc {t : State} (h : t.svc = s.svc) : selfNode t = selfNode s := by rw [selfNode, selfNode, h]

theorem accountIf_fresh {src : Nat} {seq : BitVec 16} (h : seqClass (s.win src) seq = .fresh) :
    accountIf src seq s = s.onWin src (accountSeq s.svc.now seq) := by simp [accountIf, h]

section
variable (hauth : authCheck p (openWin p.src.toNat p.seq s) = .ok)
include hauth

theorem atHome_outside (hc : seqClass ((openWin p.src.toNat p.seq s).win p.src.toNat) p.seq = .outside) :
    atHome port p e s = answerCmpl p stBadRequest (openWin p.src.toNat p.seq s) := by simp [atHome, hauth, hc]

theorem atHome_duplicate (hc : seqClass ((openWin p.src.toNat p.seq s).win p.src.toNat) p.seq = .duplicate) :
    atHome port p e s = duplicate port p e (openWin p.src.toNat p.seq s) := by simp [atHome, hauth, hc]

/-- A fresh SEQ is accounted before checks 7 to 9. -/
theorem atHome_fresh (hc : seqClass ((openWin p.src.toNat p.seq s).win p.src.toNat) p.seq = .fresh) :
    atHome port p e s = judge false port p e ((openWin p.src.toNat p.seq s).onWin p.src.toNat (accountSeq s.svc.now p.seq)) := by
  simp [atHome, hauth, hc, accountIf_fresh hc]

end

/-- A fresh request that fails check 6 is accounted, is a failure for its tenant's next RELEASE, and the home answers in its own name (04 R113). -/
theorem atHome_authFail (hauth : authCheck p (openWin p.src.toNat p.seq s) = .fail)
    (hc : seqClass ((openWin p.src.toNat p.seq s).win p.src.toNat) p.seq = .fresh) :
    atHome port p e s = sprayVia none (planeCmpl (selfNode s) p stAuthFail)
      (noteEarly p (noteFailure p (some stAuthFail) ((openWin p.src.toNat p.seq s).onWin p.src.toNat (accountSeq s.svc.now p.seq)))) := by
  have hself (t : State) (h : t.svc = s.svc) : selfNode t = selfNode s := selfNode_of_svc h
  simp [atHome, hauth, hc, accountIf_fresh hc, hself]

/-! ### The four rows -/

/-- The row of the packet's opcode, of the four that bring the home a request, leads to a state. -/
def RequestRowsLeadTo (port : Nat) (k : Packet) (ecc : Ecc) (s t : State) : Prop :=
  (k.op = opRdLine → exec (.rdLine port k ecc) s = .next t) ∧ (k.op = opWrLine → exec (.wrLine port k) s = .next t) ∧
  (k.op = opWrMasked → exec (.wrMasked port k ecc) s = .next t) ∧ (k.op = opAtomic → exec (.atomic port k ecc) s = .next t)

section
variable (hp : isPort port = true ∨ port = 0xFFFF) (hm : s.svc.mod = .ready) (hn : s.svc.node = some k.dst) (hh : s.svc.hbmResetting = [])
  (hr : localRoom s 1 = true)
include hp hm hn hh hr

/-- A request that is addressed here reaches the home, where no channel of the HBM retrains and its answer has room. -/
theorem homeRow_runs {o : Nat} (ho : k.op = o) : homeRow o port k e s = .next (atHome port (opened s k) e (takeLocal k s)) := by
  have hport : (isPort port || port == outLocal) = true := by simpa [outLocal] using hp
  simp [homeRow, hport, isReady, hm, hn, ho, hh, hr]

/-- All four rows bring their request to the home; WR_LINE reads no word that could be damaged. -/
theorem requestRows_atHome {t : State} (ht : atHome port (opened s k) (if k.op = opWrLine then .clean else ecc) (takeLocal k s) = t) :
    RequestRowsLeadTo port k ecc s t := by
  have row {o : Nat} (ho : k.op = o) {x : Ecc} (hx : (if o = opWrLine then .clean else ecc) = x) : homeRow o port k x s = .next t := by
    rw [homeRow_runs hp hm hn hh hr ho, ← ht, ← hx, ho]
  exact ⟨fun ho => row ho rfl, fun ho => row ho rfl, fun ho => row ho rfl, fun ho => row ho rfl⟩

end

/-! ### Walks over a damaged mirror (15 R425) -/

theorem tgtWalk_eq (x : Ecc) (s : State) (t off access : Nat) :
    tgtWalk x s t off access = if x = .mirror then .inr stNotMapped else tgtTranslate s t off access := by simp [tgtWalk]

theorem mirrorCheck_sound {x : Ecc} (h : x ≠ .mirror) (s : State) : mirrorCheck x s = s := by simp [mirrorCheck, h]

/-- Settles O22: the rows lead to `atHome`, whose laws follow the order of the checks. -/
theorem homeRequestsComplete : Obligations.HomeRequestsComplete := by
  unfold Obligations.HomeRequestsComplete
  intro port k ecc s hp hm hn hh hr p e run u v
  have leads {t : State} (ht : atHome port p e (takeLocal k s) = t) : run t := requestRows_atHome hp hm hn hh hr ht
  refine ⟨fun hauth => ⟨?outside, ?duplicate, fun hc => ?fresh⟩, ?authFail, ?mirror⟩
  case outside => exact fun hc => leads (atHome_outside hauth hc)
  case duplicate => exact fun hc => leads (atHome_duplicate hauth hc)
  case fresh =>
    have judged {t : State} (ht : judge false port p e v = t) : run t := leads ((atHome_fresh hauth hc).trans ht)
    refine ⟨?malformed, ?gone, ?noPage, fun h7 h8 a x h9 hx => ⟨?closed, ?plain, ?lands, ?held⟩⟩
    case malformed => exact fun h7 => judged (judge_malformed h7)
    case gone => exact fun h7 h8 => judged (judge_tenantGone h7 h8)
    case noPage => exact fun h7 h8 st h9 => judged (judge_noPage h7 h8 h9)
    case closed => exact fun ho => judged (judge_closed h7 h8 h9 hx ho)
    case plain => exact fun ho hrel => judged ((judge_passes h7 h8 h9 hx ho).trans (passedChecks_plain hrel))
    case lands => exact fun ho hrel hl => judged ((judge_passes h7 h8 h9 hx ho).trans (passedChecks_lands hrel hl))
    case held => exact fun ho hrel hl => judged ((judge_passes h7 h8 h9 hx ho).trans (passedChecks_held hrel hl))
  case authFail => exact fun hauth hc => leads (atHome_authFail hauth hc)
  case mirror => exact fun x t off acc => ⟨tgtWalk_eq x s t off acc, fun hx => mirrorCheck_sound hx s⟩

end Sys2Proof.Machine
end

section
/-! Responses at the requester (04 R98, R112 to R116, 10 R294): what becomes of each class of response, what decides the class, and the timer of an attempt. -/

namespace Sys2Proof.Machine

open Sys2Proof

variable {s : State} {port : Nat} {p k : Packet}

/-! ### The class of a response -/

/-- Only a response that fits an outstanding request, with flags and status that a response may carry, is accepted. -/
theorem acceptResponse_request {tag : Nat} {r : Request} (h : acceptResponse port p s = .request tag r) :
    tag = p.tag.toNat ∧ s.req.out.find tag = some r ∧ responseBad p = false := by
  have sound : responseBad p = false := by
    by_contra hbad
    simp only [acceptResponse, eq_true_of_ne_false hbad, if_true] at h
    split_ifs at h
    split at h <;> cases h
  cases known : s.req.out.find p.tag.toNat with
  | none =>
    simp only [acceptResponse, known, sound, Bool.false_eq_true, if_false] at h
    split_ifs at h
    all_goals split at h <;> cases h
  | some x =>
    simp only [acceptResponse, known, sound, Bool.false_eq_true, if_false] at h
    split_ifs at h
    all_goals
      split at h <;> cases h
      exact ⟨rfl, known, sound⟩

/-- One that passes every check of its own but answers nothing outstanding is stale. -/
theorem acceptResponse_unknownTag (hfind : s.req.out.find p.tag.toNat = none) (hbad : responseBad p = false)
    (hfence : pastFence p.tenant.toNat s = false) (hauth : authCheck p s = .ok) : acceptResponse port p s = .stale := by
  simp [acceptResponse, hfind, hbad, hfence, hauth]

/-! ### The three rows -/

/-- What a response leaves, by its class: `s` is the state that it has left the core's queue in. -/
def responseTaken (port : Nat) (p : Packet) (s : State) : State :=
  match acceptResponse port p s with
  | .staleKey => discardStale port s
  | .badTag => discardUnsure port s
  | .malformed => discardMalformed port 7 p s
  | .stale => discardStale port (countStaleCmpl (planeAnswered port s))
  | .request tag r => takeResponse tag r p (planeAnswered port s)

/-- The row of the packet's opcode, of the three that bring a response, leads to a state. -/
def ResponseRowsLeadTo (port : Nat) (k : Packet) (s t : State) : Prop :=
  (k.op = opRdData → exec (.rdData port k) s = .next t) ∧ (k.op = opAtomicData → exec (.atomicData port k) s = .next t) ∧
  (k.op = opCmpl → exec (.cmpl port k) s = .next t)

section
variable (hp : isPort port = true ∨ port = 0xFFFF) (hm : s.svc.mod = .ready) (hd : k.dst = selfNode s)
include hp hm hd

theorem response_runs {o : Nat} (ho : k.op = o) :
    response o port k s = .next (responseTaken port (opened (takeLocal k s) k) (takeLocal k s)) := by
  have hport : (isPort port || port == 0xFFFF) = true := by simpa using hp
  simp only [response, hport, isReady, hm, hd, ho, bne_self_eq_false, beq_self_eq_true, Bool.not_true, Bool.or_false, Bool.false_eq_true, if_false]
  rfl

theorem responseRows_taken {t : State} (ht : responseTaken port (opened (takeLocal k s) k) (takeLocal k s) = t) : ResponseRowsLeadTo port k s t :=
  ht ▸ ⟨response_runs hp hm hd, response_runs hp hm hd, response_runs hp hm hd⟩

end

/-- What an accepted response says of its request: whether the home itself has answered, its status, its data, and CAS_HIT. -/
theorem takeResponse_eq (tag : Nat) (r : Request) (p : Packet) (s : State) :
    takeResponse tag r p s =
      attemptEnded tag r (p.src == r.pkt.dst) (if p.op = opCmpl then p.status.toNat else 0) (padTo 128 p.data) (p.arg 0 1 == 1) s := by
  simp [takeResponse, stOk]

/-! ### The timer of an attempt (10 R294) -/

theorem execRequestTimeout_due {tag : BitVec 16} {r : Request} (hm : s.svc.mod = .ready) (hfind : s.req.out.find tag.toNat = some r)
    (hdue : r.due = false) (htiming : r.timing = true) (hrun : r.sentAt + s.home.reqTimeout ≤ s.svc.now) :
    execRequestTimeout tag s = .next (attemptEnded tag.toNat r false stTimeout [] false (lastPlaneTimedOut r s)) := by
  simp [execRequestTimeout, isReady, hm, hfind, hdue, htiming, Nat.not_lt.mpr hrun]

/-- Settles O28: the rows lead to `responseTaken`, which the class of the response decides. -/
theorem responsesComplete : Obligations.ResponsesComplete := by
  unfold Obligations.ResponsesComplete
  refine ⟨?rows, ?unknownTag, ?accepted, ?timeout⟩
  case rows =>
    intro port k s hp hm hd p u v run
    have leads {t : State} (ht : responseTaken port p u = t) : run t := responseRows_taken hp hm hd ht
    refine ⟨fun tag r hc => ?request, fun hc => ?stale, fun hc => ?staleKey, fun hc => ?badTag, fun hc => ?malformed⟩
    all_goals
      refine leads ?_
      rw [responseTaken, hc]
    case request => exact takeResponse_eq tag r p v
    case stale => rfl
    case staleKey => rfl
    case badTag => rfl
  case unknownTag =>
    intro port p s hfind hbad hfence hauth
    exact acceptResponse_unknownTag hfind hbad hfence hauth
  case accepted =>
    intro port tag r p s hc
    exact acceptResponse_request hc
  case timeout =>
    intro tag r s hm hfind hdue htiming hrun
    exact execRequestTimeout_due hm hfind hdue htiming hrun

end Sys2Proof.Machine
end

section
/-! The spray-mask handshake (04 R87, 10 R292): the command, its two packets and its timer, and the mask that a MASK_SET leaves bit by bit. -/

namespace Sys2Proof.Machine

open Sys2Proof

variable {s : State} {h : MHdr} {port endpoint : Nat} {p : Packet} {bits : BitVec 32}

/-! ### The command -/

section
variable (hs : Serves h [1] s) (hb : s.svc.bridge = false)
include hs hb

/-- While no number is held the pair of the end-point is not looked at, and the command is BUSY (13 R478). -/
theorem execSprayMaskSet_unnumbered (he : endpoint < 8192) (hn : s.svc.node = none) : execSprayMaskSet h endpoint bits s = .next (reply h 2 [] s) :=
  (command_runs (row := { boxes := boxF }) hs hb (by simp [hn, he])).trans (by simp [hn, msBusy])

section
variable {n : Node} (hn : s.svc.node = some n)
include hn

/-- Another plane, or an end-point of another pair, is no end-point that the plane serves. -/
theorem execSprayMaskSet_foreign (hf : nodeInfra (BitVec.ofNat 13 endpoint) = true ∨ nodePair (BitVec.ofNat 13 endpoint) ≠ nodePair n) :
    execSprayMaskSet h endpoint bits s = .next (reply h 4 [] s) :=
  command_bad_arg (row := { boxes := boxF }) hs hb (by simpa [hn, selfNode] using Or.inr hf)

theorem execSprayMaskSet_sends (he : endpoint < 8192)
    (hf : ¬(nodeInfra (BitVec.ofNat 13 endpoint) = true ∨ nodePair (BitVec.ofNat 13 endpoint) ≠ nodePair n)) :
    execSprayMaskSet h endpoint bits s = .next (sendPacket none (mgtPacket opMaskSet s (BitVec.ofNat 13 endpoint) 0 bits [])
      (reply h 7 [] (s.onSvc (fun v => { v with masks := v.masks ++ [(endpoint, bits, h, v.now)] })))) := by
  refine (command_runs (row := { boxes := boxF }) hs hb ?_).trans ?_
  · simpa [hn, selfNode, he] using hf
  · simp [hn, accept, msInProgress]

end

end

/-! ### Its packets -/

section
variable {run : State → State}

theorem maskJudged_sound (hf : flagsBad p = false) (ho : p.offset.toNat % 128 = 0) : maskJudged port p run s = run s := by simp [maskJudged, hf, ho]

theorem maskJudged_malformed (hm : flagsBad p = true ∨ p.offset.toNat % 128 ≠ 0) : maskJudged port p run s = discardMalformed port 7 p s := by
  obtain hm | hm := hm <;> simp [maskJudged, hm]

end

/-- A mask is taken by a bridge, from a plane. -/
theorem maskTaker_iff : (!s.svc.bridge || !nodeInfra p.src || decide (64 ≤ nodeIndex p.src)) = false ↔
    s.svc.bridge = true ∧ nodeInfra p.src = true ∧ nodeIndex p.src < 64 := by
  simp [and_assoc]

section
variable (hp : isPort port = true ∨ port = outLocal) (hm : s.svc.mod = .ready) (hd : p.dst = selfNode s ∨ p.mcast = true)
include hp hm hd

section
variable (hf : flagsBad (opened s p) = false) (ho : (opened s p).offset.toNat % 128 = 0)
include hf ho

theorem execMaskSet_sound (hop : p.op = opMaskSet) : execMaskSet port p s = .next (
    if s.svc.bridge = true ∧ nodeInfra (opened s p).src = true ∧ nodeIndex (opened s p).src < 64 then
      sendPacket none (mgtPacket opMaskAck (takeLocal p s) (opened s p).src (opened s p).tenant.toNat (opened s p).oparg [])
        ((takeLocal p s).onReq (maskAfter (nodeIndex (opened s p).src) (opened s p).oparg))
    else discardStale port (takeLocal p s)) := by
  refine (agentRow_runs hp hm hd hop).trans (congrArg _ ((maskJudged_sound hf ho).trans ?_))
  by_cases ht : s.svc.bridge = true ∧ nodeInfra (opened s p).src = true ∧ nodeIndex (opened s p).src < 64
  · rw [if_pos ht, takeLocal_svc, maskTaker_iff.mpr ht]
    rfl
  · rw [if_neg ht, takeLocal_svc, eq_true_of_ne_false (mt maskTaker_iff.mp ht)]
    rfl

theorem execMaskAck_sound (hop : p.op = opMaskAck) : execMaskAck port p s = .next (
    match s.svc.masks.find? (fun m => m.1 == (opened s p).src.toNat && m.2.1 == (opened s p).oparg) with
    | some m => finishEvent m.2.2.1 0x0107 0 [] ((takeLocal p s).onSvc (fun v => { v with masks := v.masks.erase m }))
    | none => discardStale port (takeLocal p s)) :=
  (agentRow_runs hp hm hd hop).trans (congrArg _ ((maskJudged_sound hf ho).trans rfl))

end

section
variable (hbad : flagsBad (opened s p) = true ∨ (opened s p).offset.toNat % 128 ≠ 0)
include hbad

theorem execMaskSet_malformed (hop : p.op = opMaskSet) : execMaskSet port p s = .next (discardMalformed port 7 (opened s p) (takeLocal p s)) :=
  (agentRow_runs hp hm hd hop).trans (congrArg _ (maskJudged_malformed hbad))

theorem execMaskAck_malformed (hop : p.op = opMaskAck) : execMaskAck port p s = .next (discardMalformed port 7 (opened s p) (takeLocal p s)) :=
  (agentRow_runs hp hm hd hop).trans (congrArg _ (maskJudged_malformed hbad))

end

end

/-! ### The mask, bit by bit -/

/-- The number whose bits from `base` upward are the first `n` of a predicate, summed as `maskAfter` sums it. -/
def bitsFrom (base : Nat) (f : Nat → Bool) (n : Nat) : Nat := (List.range n).foldl (fun v k => if f k then v + 2 ^ (base + k) else v) 0

theorem bitsFrom_succ (base : Nat) (f : Nat → Bool) (n : Nat) :
    bitsFrom base f (n + 1) = bitsFrom base f n + 2 ^ base * (2 ^ n * (f n).toNat) := by
  cases hf : f n <;> simp [bitsFrom, List.range_succ, hf, pow_add]

/-- The base only shifts the number. -/
theorem bitsFrom_shift (base : Nat) (f : Nat → Bool) (n : Nat) : bitsFrom base f n = 2 ^ base * bitsFrom 0 f n := by
  induction n with
  | zero => rfl
  | succ n ih => rw [bitsFrom_succ, bitsFrom_succ, ih]; ring

theorem bitsFrom_lt (f : Nat → Bool) (n : Nat) : bitsFrom 0 f n < 2 ^ n := by
  induction n with
  | zero => exact Nat.one_pos
  | succ n ih =>
    rw [bitsFrom_succ, pow_succ]
    cases f n <;> simp <;> omega

theorem testBit_bitsFrom (f : Nat → Bool) (n k : Nat) : (bitsFrom 0 f n).testBit k = (decide (k < n) && f k) := by
  induction n with
  | zero => simp [bitsFrom]
  | succ n ih =>
    have hadd : bitsFrom 0 f (n + 1) = 2 ^ n * (f n).toNat + bitsFrom 0 f n := by rw [bitsFrom_succ, pow_zero, one_mul, Nat.add_comm]
    rw [hadd, Nat.testBit_two_pow_mul_add _ (bitsFrom_lt f n), ih]
    obtain hk | rfl | hk := lt_trichotomy k n
    · simp [hk, Nat.lt_succ_of_lt hk]
    · cases f k <;> simp
    · have hbit : k - n ≠ 0 := by omega
      have hout : ¬ k < n + 1 := by omega
      simp [Nat.not_lt_of_gt hk, hout, Nat.testBit_bool_toNat, hbit]

/-- The bits that a MASK_SET of plane `i` puts at the places of its domain: those it carries, but for another plane's bit that was cleared. -/
def maskBits (i : Nat) (bits : BitVec 32) (r : Requester) (k : Nat) : Bool :=
  bits.getLsbD k && !(r.cleared.contains (32 * (i / 32) + k) && 32 * (i / 32) + k != i)

section
variable {i : Nat} (bits : BitVec 32) (r : Requester)

/-- A plane of domain 0 sets the low half of the mask. -/
theorem maskAfter_low (hi : i / 32 = 0) :
    (maskAfter i bits r).mask = BitVec.ofNat 64 (2 ^ 32 * (r.mask.toNat / 2 ^ 32) + bitsFrom 0 (maskBits i bits r) 32) := by
  simp only [maskAfter, bitsFrom, maskBits, hi, beq_self_eq_true, if_true, mul_zero, Nat.mul_comm]

/-- A plane of domain 1 sets the high half. -/
theorem maskAfter_high (hi : i / 32 = 1) :
    (maskAfter i bits r).mask = BitVec.ofNat 64 (2 ^ 32 * bitsFrom 0 (maskBits i bits r) 32 + r.mask.toNat % 2 ^ 32) := by
  rw [← bitsFrom_shift, Nat.add_comm]
  simp only [maskAfter, bitsFrom, maskBits, hi]
  rfl

theorem maskAfter_getLsbD {k : Nat} (hk : k < 64) (hi : i < 64) : (maskAfter i bits r).mask.getLsbD k =
    if k / 32 = i / 32 then bits.getLsbD (k % 32) && !(r.cleared.contains k && k != i) else r.mask.getLsbD k := by
  have hplace (hd : k / 32 = i / 32) : maskBits i bits r (k % 32) = (bits.getLsbD (k % 32) && !(r.cleared.contains k && k != i)) := by
    rw [maskBits, ← hd, Nat.div_add_mod]
  have hdomain : i / 32 = 0 ∨ i / 32 = 1 := by omega
  obtain hd | hd := hdomain
  · rw [maskAfter_low bits r hd, BitVec.getLsbD_ofNat, Nat.testBit_two_pow_mul_add _ (bitsFrom_lt _ 32), testBit_bitsFrom]
    by_cases hlow : k < 32
    · have hsame : k / 32 = i / 32 := by omega
      rw [if_pos hsame, ← hplace hsame, Nat.mod_eq_of_lt hlow]
      simp [hk, hlow]
    · have hother : k / 32 ≠ i / 32 := by omega
      rw [if_neg hother, if_neg hlow, Nat.testBit_div_two_pow, Nat.sub_add_cancel (by omega), BitVec.testBit_toNat]
      simp [hk]
  · rw [maskAfter_high bits r hd, BitVec.getLsbD_ofNat, Nat.testBit_two_pow_mul_add _ (Nat.mod_lt _ (Nat.two_pow_pos 32)), testBit_bitsFrom]
    by_cases hlow : k < 32
    · have hother : k / 32 ≠ i / 32 := by omega
      rw [if_neg hother, if_pos hlow, Nat.testBit_mod_two_pow, BitVec.testBit_toNat]
      simp [hk, hlow]
    · have hsame : k / 32 = i / 32 := by omega
      have hplaced : k - 32 = k % 32 := by omega
      rw [if_pos hsame, if_neg hlow, ← hplace hsame, hplaced]
      simp [hk, Nat.mod_lt]

end

/-- Settles O41: the laws of the command, of the two packets and of the timer, and `maskAfter_getLsbD` for the bits. -/
theorem maskHandshakeCompletes : Obligations.MaskHandshakeCompletes := by
  unfold Obligations.MaskHandshakeCompletes
  refine ⟨?command, ?packets, ?timeout, ?bits⟩
  case command =>
    intro h e bits s hs hb he
    cases hn : s.svc.node with
    | none => exact execSprayMaskSet_unnumbered hs hb he hn
    | some n =>
      dsimp only
      split_ifs with hf
      · exact execSprayMaskSet_foreign hs hb hn hf
      · exact execSprayMaskSet_sends hs hb hn he hf
  case packets =>
    intro port p s hp hm hd k u
    exact ⟨fun hop hf ho => execMaskSet_sound hp hm hd hf ho hop, fun hop hf ho => execMaskAck_sound hp hm hd hf ho hop,
      fun hbad => ⟨execMaskSet_malformed hp hm hd hbad, execMaskAck_malformed hp hm hd hbad⟩⟩
  case timeout => intro e s; rfl
  case bits => exact fun i bits r k hk hi => maskAfter_getLsbD bits r hk hi

end Sys2Proof.Machine
end

section
/-! Timers and settings of the home (05 R122, R124, R128, R140, 10 R306), one law per row, and the sluice's judgement of a held RELEASE
(05 R124, R125, 15 R425, R438). -/

namespace Sys2Proof.Machine

open Sys2Proof

variable {s : State} {h : MHdr} {src port : Nat} {p : Packet}

/-! ### A source's window through the state's updates -/

@[simp] theorem State.onWin_win_self (src : Nat) (f : SrcWin → SrcWin) (s : State) : (s.onWin src f).win src = f (s.win src) :=
  Map.look_upd_self ..

theorem State.onWin_win_ne {n : Nat} (hn : n ≠ src) (f : SrcWin → SrcWin) (s : State) : (s.onWin src f).win n = s.win n :=
  Map.look_upd_ne _ _ _ _ hn

/-- A read of a window depends on the home alone. -/
theorem State.win_of_home {s t : State} (h : t.home = s.home) (n : Nat) : t.win n = s.win n := by rw [State.win, State.win, h]

@[simp] theorem noteEarly_hbm (p : Packet) (s : State) : (noteEarly p s).home.hbm = s.home.hbm := by unfold noteEarly; split <;> rfl

/-! ### Timers -/

/-- A held RELEASE that may land leaves the sluice and lands (05 R122). -/
theorem execReleaseLand_lands {seq : BitVec 16} {x : Held} (hm : s.svc.mod = .ready) (hh : s.svc.hbmResetting = [])
    (hx : (s.win src).held.find? (fun h => h.pkt.seq == seq) = some x) (hl : mayLand (s.win src) x.pkt = true) (ecc : Ecc) :
    execReleaseLand src seq ecc s = .next (landHeld x.port x.pkt ecc
      (s.onWin src (fun w => { w with held := w.held.filter (fun h => h.pkt.seq != seq) }))) := by
  simp [execReleaseLand, hx, isReady, hm, hh, hl]

theorem execHoleWriteOff_ready (hm : s.svc.mod = .ready) (src : Nat) : execHoleWriteOff src s = .next (writeOff src s) := by
  simp [execHoleWriteOff, whenReady, isReady, hm]

theorem execWindowStateDrop_idle {w : SrcWin} (hm : s.svc.mod = .ready) (hw : s.home.wins.find src = some w) (hheld : w.held = [])
    (hidle : w.last + 20000000 ≤ s.svc.now) :
    execWindowStateDrop src s = .next (s.onHome (fun v => { v with wins := v.wins.del src })) := by
  simp [execWindowStateDrop, hw, isReady, hm, hheld, hidle]

theorem execHotLineWindow_over (hw : s.home.hotWindow ≠ s.svc.now / 1000) : execHotLineWindow s = .next (closeHot s) := by
  simp [execHotLineWindow, hw]

/-! ### Settings -/

theorem execHotLineRead_serves (hs : Serves h [1, 0] s) :
    execHotLineRead h s = .next (reply h 0 (pack [.num 8 (coarse s s.home.hotCount s.snap.hot), .num 8 s.home.hotOffset, .num 2 s.home.hotTenant])
      (s.onHome (fun v => { v with hotCount := 0, hotOffset := 0, hotTenant := 0 }))) :=
  command_runs (row := { boxes := boxF ++ boxH }) hs rfl rfl

/-- A command marked T waits behind an unfinished transition of its function, and is BUSY behind one that waits already (13 R385). -/
theorem transition_waits {k : FnKey} {i : Instr} {run : State → State} {t : Transition} (hk : findTrans k s.mbx.trans = some t) :
    transition k i h run s = if t.queued.isSome then reply h 2 [] s else reply h 1 [] (s.onMbx (fun m =>
      { m with trans := m.trans.map (fun x => if x.key == k then { x with queued := some i } else x) })) := by
  simp only [transition, hk, msBusy, msQueued]

/-- Outside a live handover a transition that ends posts its completion, and the command that waits behind it runs (13 R385). -/
theorem endTrans_ends {k : FnKey} {t : Transition} (hk : findTrans k s.mbx.trans = some t) (hh : s.svc.handover = false) (st : Nat)
    (r : List Byte) (run : Instr → State → State) :
    let u := finishEvent t.hdr t.opcode st r (dropTrans k s)
    endTrans k st r run s = t.queued.elim u (fun i => run i u) := by
  cases hq : t.queued <;> simp [endTrans, hk, hh, hq]

theorem execHbmExportSet_serves (hs : Serves h [1] s) (on : Bool) :
    execHbmExportSet h on s = .next (transition .export_ (.hbmExportSet h on) h (runExport .buffer h on) s) :=
  command_runs (row := { boxes := boxF }) hs rfl rfl

theorem runExport_changes {on : Bool} (he : s.home.exported ≠ on) (via : Via) (h : MHdr) :
    runExport via h on s = beginTrans .export_ h 0x0203 (accept via h (s.onHome (fun v => { v with exported := on }))) := by
  simp [runExport, he]

theorem runExport_same {on : Bool} (he : s.home.exported = on) (via : Via) (h : MHdr) :
    runExport via h on s = finish via h 0x0203 msOk [] s := by
  simp [runExport, he]

theorem execExportTransitionEnd_open {t : Transition} (hk : findTrans .export_ s.mbx.trans = some t) :
    execExportTransitionEnd s = .next (endTrans .export_ msOk [] runQueuedExport (bumpEpoch s)) := by
  simp [execExportTransitionEnd, hk]

/-- Settles O25: the law of each timer's row, and of the export's transition. -/
theorem homeEventsComplete : Obligations.HomeEventsComplete := by
  unfold Obligations.HomeEventsComplete
  refine ⟨?lands, ?writeOff, ?drop, ?hotWindow, ?hotRead, ?changes, ?same, ?waits, ?ends⟩
  case lands => exact fun src seq ecc x s hm hh hx hl => execReleaseLand_lands hm hh hx hl ecc
  case writeOff => exact fun src s hm => execHoleWriteOff_ready hm src
  case drop => exact fun src w s hm hw hheld hidle => execWindowStateDrop_idle hm hw hheld hidle
  case hotWindow => exact fun s hw => execHotLineWindow_over hw
  case hotRead => exact fun h s hs => execHotLineRead_serves hs
  case changes =>
    intro h on s hs hk he
    refine (execHbmExportSet_serves hs on).trans ?_
    rw [transition_runs hk, runExport_changes he]
    rfl
  case same =>
    intro h on s hs hk he
    refine (execHbmExportSet_serves hs on).trans ?_
    rw [transition_runs hk, runExport_same he]
    rfl
  case waits =>
    intro h on t s hs hk
    refine (execHbmExportSet_serves hs on).trans ?_
    rw [transition_waits hk]
  case ends =>
    intro t s hk hh u
    refine (execExportTransitionEnd_open hk).trans ?_
    rw [endTrans_ends (s := bumpEpoch s) hk hh]
    cases t.queued <;> rfl

/-! ### Answers leave the home as it is -/

@[simp] theorem sprayVia_home (via : Option Nat) (p : Packet) (s : State) : (sprayVia via p s).home = s.home := by
  unfold sprayVia
  split
  · dsimp only; split <;> rfl
  · rfl

@[simp] theorem wearCheck_home (t slot ctr : Nat) (s : State) : (wearCheck t slot ctr s).home = s.home := by
  unfold wearCheck
  split
  · rfl
  · split <;> simp

@[simp] theorem sendPacket_home (via : Option Nat) (p : Packet) (s : State) : (sendPacket via p s).home = s.home := by
  unfold sendPacket
  dsimp only
  split
  · exact sprayVia_home ..
  · split
    · rfl
    · split <;> simp

@[simp] theorem answerCmpl_home (p : Packet) (status : Nat) (s : State) : (answerCmpl p status s).home = s.home := sendPacket_home ..

/-! ### Spoiled RELEASE requests (05 R125) -/

/-- A RELEASE that a failure with a status spoils is answered with it and is not applied. -/
theorem landRelease_spoiled {f : Failure} {st : Nat} (hf : lowestFailure (s.win p.src.toNat).low (spoilers (s.win p.src.toNat) p) = some f)
    (hst : f.status = some st) (port : Nat) (ecc : Ecc) : landRelease port p ecc s = answerCmpl p st (noteEarly p s) := by
  simp [landRelease, hf, hst]

/-- A RELEASE that has ended stands between the failures below it and every later RELEASE. -/
theorem not_mem_spoilers {w : SrcWin} {f : Failure} {q : BitVec 16} (hq : (q, p.tenant.toNat) ∈ w.early) (hf : seqLt w.low f.seq q = true)
    (hp : seqLt w.low q p.seq = true) : f ∉ spoilers w p := by
  intro hmem
  obtain ⟨-, hspoils⟩ := List.mem_filter.mp hmem
  have hbetween : w.early.any (fun e => e.2 == p.tenant.toNat && seqLt w.low f.seq e.1 && seqLt w.low e.1 p.seq) = true :=
    List.any_eq_true.mpr ⟨_, hq, by simp [hf, hp]⟩
  simp [hbetween] at hspoils

/-! ### The part's own retirement of a frame writes spare frames alone (15 R438) -/

/-- From one state to the other no window changes, and of the HBM nothing below its last 1 MiB, where the spare frames lie. -/
structure WritesSparesOnly (s t : State) : Prop where
  bytes : ∀ a, a < 2 ^ 38 - 2 ^ 20 → memGet t.home.hbm a = memGet s.home.hbm a
  wins : t.home.wins = s.home.wins

namespace WritesSparesOnly

variable {t u : State}

theorem of_eq (hb : t.home.hbm = s.home.hbm) (hw : t.home.wins = s.home.wins) : WritesSparesOnly s t := ⟨fun _ _ => by rw [hb], hw⟩

theorem refl (s : State) : WritesSparesOnly s s := of_eq rfl rfl

theorem trans (h : WritesSparesOnly s t) (k : WritesSparesOnly t u) : WritesSparesOnly s u :=
  ⟨fun a ha => (k.bytes a ha).trans (h.bytes a ha), k.wins.trans h.wins⟩

end WritesSparesOnly

@[simp] theorem hbmLine_home (key line : Nat) (s : State) : (hbmLine key line s).2.home = s.home := by
  unfold hbmLine
  split
  · split <;> rfl
  · rfl

theorem hbmStore_writesSparesOnly {line : Nat} (hl : 2 ^ 38 - 2 ^ 20 ≤ 128 * line) (key mask : Nat) (data : List Byte) (s : State) :
    WritesSparesOnly s (hbmStore key line mask data s) := by
  unfold hbmStore
  dsimp only
  split
  · exact .refl s
  · split
    · exact ⟨fun a ha => memGet_memSetN_ne _ _ _ _ (.inl (by omega)), rfl⟩
    · refine ⟨fun a ha => ?_, by simp⟩
      rw [State.onHome_home, hbmLine_home]
      exact memGet_memSetN_ne _ _ _ _ (.inl (by omega))

theorem copyChecked_writesSparesOnly {spare : Nat} (hg : 2 ^ 22 - 16 ≤ spare) (key f i : Nat) (c : Bool × State) :
    WritesSparesOnly c.2 (copyChecked key f spare i c) := by
  unfold copyChecked
  dsimp only
  split
  · have hread : WritesSparesOnly c.2 (hbmLine key (512 * f + i) c.2).2 := .of_eq (by simp) (by simp)
    exact hread.trans (hbmStore_writesSparesOnly (by omega) ..)
  · exact .of_eq rfl rfl

theorem spareFrames_le {f g : Nat} (hg : g ∈ spareFrames f s) : 2 ^ 22 - 16 ≤ g := by
  obtain ⟨i, -, rfl⟩ := List.mem_map.mp (List.mem_filter.mp hg).1
  exact Nat.le_add_right ..

/-- The lists of frames are no memory and no window. -/
theorem replaceFrame_writesSparesOnly (f g : Nat) (s : State) : WritesSparesOnly s (listRetired f (takeSpare f g s)) := .of_eq rfl rfl

theorem retireOwn_writesSparesOnly (f : Nat) (bad : Option Nat) (s : State) : WritesSparesOnly s (retireOwn f bad s) := by
  unfold retireOwn
  dsimp only
  split
  · exact .refl s
  · split
    · exact .refl s
    · rename_i g rest hspares
      have hg : 2 ^ 22 - 16 ≤ g := spareFrames_le (f := f) (s := s) (hspares ▸ List.mem_cons_self ..)
      have copied := List.foldlRecOn (List.range 512)
        (fun s i => copyChecked s.sec.fwKey f g i (bad != some i && readable s (128 * (512 * f + i)), s))
        (motive := WritesSparesOnly s) (.refl s) (fun t ht i _ => ht.trans (copyChecked_writesSparesOnly hg _ f i (_, t)))
      exact copied.trans (replaceFrame_writesSparesOnly f g _)

@[simp] theorem damagedAt_home (a : Nat) (s : State) : (damagedAt a s).home = s.home := by simp [damagedAt, adviseRetire]

/-- An uncorrectable word is never good, whatever the part does with its frame. -/
theorem eccCheck_uncorrectable (a : Nat) (s : State) :
    (eccCheck .uncorrectable a s).1 = false ∧ WritesSparesOnly s (eccCheck .uncorrectable a s).2 := by
  unfold eccCheck
  split
  · exact ⟨rfl, .refl s⟩
  · have hdamaged : WritesSparesOnly s (damagedAt a s) := .of_eq (by simp) (by simp)
    exact ⟨rfl, hdamaged.trans (retireOwn_writesSparesOnly ..)⟩

/-! ### A held RELEASE lands out of the sluice (15 R425) -/

theorem landHeld_clean (port : Nat) (p : Packet) (s : State) : landHeld port p .clean s = landRelease port p .clean s := by simp [landHeld]

/-- An uncorrectable word of the sluice ends a RELEASE that reads no line of its own with DATA_LOST. -/
theorem landHeld_uncorrectable (hr : readsLine p = false) (port : Nat) (s : State) :
    ∃ t, landHeld port p .uncorrectable s = answerCmpl p stDataLost (noteEarly p t) ∧ WritesSparesOnly s t := by
  obtain ⟨hbad, hkeeps⟩ := eccCheck_uncorrectable (fwAddress s.drawNat.2).1 (fwAddress s.drawNat.2).2
  have hdrawn : WritesSparesOnly s (fwAddress s.drawNat.2).2 := .of_eq rfl rfl
  exact ⟨_, by simp [landHeld, hr, hbad], hdrawn.trans hkeeps⟩

/-! ### Holes written off (05 R124) -/

@[simp] theorem accountSeq_held (now : Nat) (seq : BitVec 16) (w : SrcWin) : (accountSeq now seq w).held = w.held := rfl

@[simp] theorem accountSeq_expiries (now : Nat) (seq : BitVec 16) (w : SrcWin) : (accountSeq now seq w).expiries = w.expiries := rfl

/-- The held RELEASE requests above a hole. -/
def heldAbove (q : BitVec 16) (w : SrcWin) : List Held := w.held.filter (fun h => seqLt w.low q h.pkt.seq)

/-- A window after its holes `q` and `rest` are written off, with the RELEASE requests that go. -/
def writtenOff (now : Nat) (gone : List Held) (q : BitVec 16) (rest : List (BitVec 16)) (w : SrcWin) : SrcWin :=
  (q :: rest).foldl (fun w x => accountSeq now x w) { w with
    held := w.held.filter (fun h => !seqLt w.low q h.pkt.seq)
    early := w.early ++ gone.map (fun h => (h.pkt.seq, h.pkt.tenant.toNat))
    expiries := w.expiries + gone.length }

theorem writtenOff_held (now : Nat) (gone : List Held) (q : BitVec 16) (rest : List (BitVec 16)) (w : SrcWin) :
    (writtenOff now gone q rest w).held = w.held.filter (fun h => !seqLt w.low q h.pkt.seq) :=
  foldl_keeps SrcWin.held (fun w x => accountSeq_held now x w) ..

theorem writtenOff_expiries (now : Nat) (gone : List Held) (q : BitVec 16) (rest : List (BitVec 16)) (w : SrcWin) :
    (writtenOff now gone q rest w).expiries = w.expiries + gone.length :=
  foldl_keeps SrcWin.expiries (fun w x => accountSeq_expiries now x w) ..

section
variable {q : BitVec 16} {rest : List (BitVec 16)} (hq : expiredHoles s.svc.now s.home.reqTimeout (s.win src) = q :: rest)
include hq

/-- The window is written off, and every RELEASE discarded is recorded. -/
theorem writeOff_eq : writeOff src s = (heldAbove q (s.win src)).foldl
    (fun s _ => recordErr kHome 0 0x18 2 (leBytes src 2 ++ leBytes q.toNat 2) s) (s.onWin src (writtenOff s.svc.now (heldAbove q (s.win src)) q rest)) := by
  simp only [writeOff, hq]
  rfl

theorem writeOff_home : (writeOff src s).home = (s.onWin src (writtenOff s.svc.now (heldAbove q (s.win src)) q rest)).home := by
  rw [writeOff_eq hq]
  exact foldl_keeps State.home (fun s _ => recordErr_home s ..) ..

theorem writeOff_core : (writeOff src s).core = s.core := by
  rw [writeOff_eq hq]
  exact foldl_keeps State.core (fun s _ => recordErr_core s ..) ..

theorem writeOff_win_self : (writeOff src s).win src = writtenOff s.svc.now (heldAbove q (s.win src)) q rest (s.win src) :=
  (State.win_of_home (writeOff_home hq) src).trans (State.onWin_win_self ..)

theorem writeOff_win_ne {n : Nat} (hn : n ≠ src) : (writeOff src s).win n = s.win n :=
  (State.win_of_home (writeOff_home hq) n).trans (State.onWin_win_ne hn ..)

end

/-- Settles O26: the laws of a spoiled RELEASE, of a damaged sluice, and of the window written off. -/
theorem sluiceJudgesHeldReleases : Obligations.SluiceJudgesHeldReleases := by
  unfold Obligations.SluiceJudgesHeldReleases
  refine ⟨⟨?spoiled, ?once, ?damaged⟩, ?writeOff⟩
  case spoiled =>
    intro port st p f ecc s hf hst hrel t
    have ht : noteEarly p s = t := if_pos hrel
    have hland := landRelease_spoiled hf hst port ecc
    exact ⟨hland.trans (by rw [ht]), by simp [hland]⟩
  case once => exact fun w p f q hq hf hp => not_mem_spoilers hq hf hp
  case damaged =>
    intro port p s
    refine ⟨landHeld_clean port p s, fun hr => ?_⟩
    obtain ⟨t, hland, hkeeps⟩ := landHeld_uncorrectable hr port s
    exact ⟨t, hland, hkeeps.bytes, hkeeps.wins⟩
  case writeOff =>
    intro src q rest s hq t
    refine ⟨fun h hh => ?kept, ?counted, fun n hn => writeOff_win_ne hq hn, ?hbm, writeOff_core hq⟩
    case kept => simpa [t, writeOff_win_self hq, writtenOff_held] using hh
    case counted => rw [writeOff_win_self hq, writtenOff_expiries]; rfl
    case hbm => rw [writeOff_home hq]; rfl

end Sys2Proof.Machine
end

section
/-! The arbiters of the switch core (06 R164 to R168): what a decision of an arbiter in SAME_CYCLE mode comes to, and the core's operations that leave every arbiter
as it is. -/

namespace Sys2Proof.Machine

open Sys2Proof

variable {s : State}

/-! ### A decision with no choice made before (06 R166) -/

@[simp] theorem arbOf_onArb (key : Nat) (f : Arbiter → Arbiter) (s : State) : arbOf (onArb key f s) key = f (arbOf s key) := Map.look_upd_self ..

/-- An arbiter in SAME_CYCLE mode chooses nothing ahead. -/
theorem chooseNext_sameCycle {key : Nat} (hb : (arbOf s key).lastBeat = false) (later : Contest) : chooseNext key later s = s := by
  simp [chooseNext, hb]

section
variable {each : Bool} {key : Nat} {now : Contest} {next : Nat → Nat → Nat} {effect : Nat → State → State} {r : Nat}

/-- With no requester nothing happens. -/
theorem decideNow_idle (hc : (arbOf s key).chosen = none) (ha : now.asks s = []) :
    decideNow each key now next effect s = { win := none, gone := false, st := s } := by
  simp [decideNow, hc, ha]

theorem decide_idle (hc : (arbOf s key).chosen = none) (ha : now.asks s = []) (later : Contest) : decide_ each key now later next effect s = s := by
  simp [decide_, decideNow_idle hc ha]

/-- An arbiter after a grant to one of its requesters, and the position it leaves. -/
def granted (each : Bool) (asks : List Nat) (r pos : Nat) (a : Arbiter) : Arbiter := { arbCount each asks (some r) a with chosen := none, rr := pos }

section
variable (hc : (arbOf s key).chosen = none) (ha : now.asks s ≠ []) (hp : now.pick s (arbOf s key).rr (now.asks s) = some r)
include hc ha hp

/-- The policy's pick is granted at once. -/
theorem decideNow_grants : decideNow each key now next effect s =
    { win := some r, gone := false, st := effect r (onArb key (fun a => granted each (now.asks s) r (next a.rr r) a) s) } := by
  have hwin : arbWinner (arbOf s key) (now.asks s) (now.pick s) = some r := by simp [arbWinner, hc, hp]
  simp only [decideNow, hc, hwin, Option.isNone_none, Bool.and_true, List.isEmpty_iff, ha, if_false, Bool.false_eq_true]
  rfl

/-- So it is where the transfer takes one beat, when the effect leaves the arbiters alone. -/
theorem decide_grants (hb : (arbOf s key).lastBeat = false) (he : ∀ t, (effect r t).core.arbs = t.core.arbs) (later : Contest) :
    decide_ each key now later next effect s = effect r (onArb key (fun a => granted each (now.asks s) r (next a.rr r) a) s) := by
  have hmode (t : State) : arbOf (effect r t) key = arbOf t key := by rw [arbOf, arbOf, he]
  simp only [decide_, decideNow_grants hc ha hp, Option.isSome_some, Bool.or_true, if_true]
  exact chooseNext_sameCycle (by rw [hmode, arbOf_onArb]; exact hb) later

end

end

/-- Round robin picks nothing among no requesters. -/
theorem asks_of_rrPick {pos r : Nat} {es : List Nat} (h : rrPick pos es = some r) : es ≠ [] := by
  rintro rfl
  exact absurd h (by simp [rrPick])

end Sys2Proof.Machine
end

section
/-! Settings of the switch core, and the egress of a port (06 R157, R160, R165, R166, R168, 03 R59, R66 to R68): one law per case. -/

namespace Sys2Proof.Machine

open Sys2Proof

variable {s : State} {h : MHdr} {p : Nat}

/-! ### Settings -/

theorem execArbModeSet_serves (hs : Serves h [1] s) {inst mode : Nat} (hi : arbExists inst = true) (hm : mode ≤ 1) (hc : mode = 0 ∨ anyConf s = false) :
    execArbModeSet h inst mode s = .next (reply h 0 [] (onArb inst (fun a => { a with lastBeat := mode == 1 }) s)) :=
  command_runs (row := { boxes := boxF }) hs (by obtain rfl | hc := hc <;> simp [*]) (by simp [hi, hm])

theorem execArbModeSet_denied (hs : Serves h [1] s) (hc : anyConf s = true) (inst : Nat) : execArbModeSet h inst 1 s = .next (reply h 3 [] s) :=
  command_denied (row := { boxes := boxF }) hs (by simp [hc])

theorem execArbCountersRead_serves (hs : Serves h [1, 0] s) {inst : Nat} (hi : arbExists inst = true) (clear : Bool) :
    let a := arbOf s inst
    let z := s.snap.arbs.look inst {}
    let rs := (a.reqs.filter (arbCounted s z)).take 101
    execArbCountersRead h inst clear s = .next (reply h 0
      (pack [.num 8 (coarse s a.dead z.dead), .num 2 rs.length, .bytes (rs.flatMap (arbReqBytes s z))])
      (if clear then onArb inst (fun a => { a with
        reqs := a.reqs.each (fun k c => if rs.any (fun r => r.1 == k) then { current := c.current } else c), dead := 0 }) s else s)) :=
  command_runs (row := { boxes := boxF ++ boxH }) hs rfl (by simp [hi])

section
variable {o colour lo hi maxP w : Nat} (hs : Serves h [1] s) (ho : portAbsent s o = false)
include hs ho

theorem execRedProfileSet_serves (hport : isPort o = true ∨ o = 0xFFFF) (hcolour : colour ≤ 2) (hth : lo ≤ hi) (hp : maxP ≤ 65535)
    (hw : w ≤ 15 ∨ w = 0xFF) : execRedProfileSet h o colour lo hi maxP w s = .next (reply h 0 [] (s.onCore (fun c => { c with
      redProf := c.redProf.put (o * 4 + colour) { minTh := lo, maxTh := hi, maxP := maxP }
      redW := if w == 0xFF then c.redW else c.redW.put o w }))) := by
  have hunit : (isPort o || o == outLocal) = true := by simpa [outLocal] using hport
  refine command_runs (row := { boxes := boxF }) hs ho ?_
  simp [hunit, hcolour, hth, hp]
  omega

theorem execRedProfileSet_badW (hw : 15 < w) (hkeep : w ≠ 0xFF) : execRedProfileSet h o colour lo hi maxP w s = .next (reply h 4 [] s) :=
  command_bad_arg (row := { boxes := boxF }) hs ho (by simp [hw, hkeep])

end

/-! ### Flits that go out leave the link's own state (03 R59) -/

section
variable (p x : Nat) (s : State)

theorem substitute_link (k : Nat) : ((substitute p k s).port x).link = (s.port x).link := by
  unfold substitute
  split
  · rfl
  · obtain rfl | hx := eq_or_ne x p
    · simp
    · simp [State.onPort_ne _ _ hx]

theorem feedSpare_ports (n : Nat) : (feedSpare p n s).ports = s.ports := by
  unfold feedSpare
  split <;> rfl

theorem feedLanes_link (n : Nat) (bits : Nat → List Bool) : ((feedLanes p n bits s).port x).link = (s.port x).link := by
  have fed (l : List (Nat × Nat)) (f : Nat × Nat → Lane → Lane) (n : Nat) :
      (l.foldl (fun s y => s.onLane y.1 (f y)) (feedSpare p n s)).port x = s.port x :=
    State.port_of_ports ((foldl_keeps State.ports (fun s y => State.onLane_ports s y.1 (f y)) l _).trans (feedSpare_ports p s n)) x
  unfold feedLanes
  dsimp only
  split
  · rw [State.onLane_port, substitute_link, fed]
  · rw [fed]

theorem putFlit_link (f : Flit) : ((putFlit p f s).port x).link = (s.port x).link := by
  rw [putFlit, stripeFlit, feedLanes_link]
  obtain rfl | hx := eq_or_ne x p
  · simp
  · rw [State.onPort_ne _ _ hx]

end

@[simp] theorem noteSent_port (k : Packet) (s : State) (x : Nat) : (noteSent k s).port x = s.port x := by
  unfold noteSent
  split <;> rfl

@[simp] theorem chooseNext_port (key : Nat) (later : Contest) (s : State) (x : Nat) : (chooseNext key later s).port x = s.port x := by
  unfold chooseNext
  dsimp only
  split <;> rfl

/-- The payload of the next flit of a packet: its next 15 granules, padded with zeros (03 R60). -/
def nextPayload (l : Link) : List (BitVec 128) := l.txOpen.take 15 ++ List.replicate (15 - (l.txOpen.take 15).length) 0

/-- The next flit of a packet leaves its granules behind, takes the next FSEQ and joins the retry buffer. -/
theorem nextFlit_link (p : Nat) (first : Bool) (s : State) :
    let l := (s.port p).link
    let m := ((nextFlit p first s).port p).link
    m.txOpen = l.txOpen.drop 15 ∧ m.nextSeq = l.nextSeq + 1 ∧ m.nakDue = false ∧
    m.retryBuf.map Flit.pay = l.retryBuf.map Flit.pay ++ [nextPayload l] := by
  have hsent (f : Flit) (g : Link → Link) : ((putFlit p f (s.onLink p g)).port p).link = g (s.port p).link := by
    rw [putFlit_link, State.onLink_self_link]
  unfold nextFlit
  dsimp only
  split
  · split <;> simp [hsent, nextPayload, flitNow, mkFlit]
  · simp [hsent, nextPayload, flitNow, mkFlit]

theorem beat_link (p : Nat) (first : Bool) (s : State) : ((beat p first s).port p).link = ((nextFlit p first s).port p).link := by
  unfold beat
  dsimp only
  split <;> simp

/-! ### Flit boundaries (06 R165, 03 R66 to R68) -/

section
variable (hp : isPort p = true) (hm : s.svc.mod = .ready) (hup : (s.port p).phase = .up)
include hp hm hup

theorem execEgressDecision_resends (hr : 0 < (s.port p).link.resend) : execEgressDecision p s = .next (resendFlit p s) := by
  simp [execEgressDecision, hp, isReady, hm, hup, hr]

theorem execEgressDecision_open (hr : (s.port p).link.resend = 0) (ho : (s.port p).link.txOpen ≠ []) :
    execEgressDecision p s = .next (openBoundary p s) := by
  simp [execEgressDecision, hp, isReady, hm, hup, hr, ho]

theorem execEgressDecision_free (hr : (s.port p).link.resend = 0) (ho : (s.port p).link.txOpen = []) :
    execEgressDecision p s = .next (freeBoundary p s) := by
  simp [execEgressDecision, hp, isReady, hm, hup, hr, ho]

end

theorem resendFlit_due {f : Flit} {r : List Flit}
    (hd : (s.port p).link.retryBuf.drop ((s.port p).link.retryBuf.length - (s.port p).link.resend) = f :: r) :
    resendFlit p s = putFlit p (flitNow (s.port p).link f.hdr f.pay f.fseq f.fin) (s.onLink p (fun l =>
      { l with resend := l.resend - 1, nakDue := false, txAt := if l.resend == l.retryBuf.length then s.svc.now else l.txAt })) := by
  simp [resendFlit, hd]

/-- The state at a free flit boundary: the shapers of a trunk port stand as they do now. -/
def atFreeBoundary (p : Nat) (s : State) : State := if isTrunk p then advanceShapers p (now16 s) (gatesNow p s) else s

theorem freeBoundary_eq (p : Nat) (s : State) :
    let d := decideNow false (arbKey arbEgress p) (egressContest p) (fun rr _ => rr) (serveChannel p) (atFreeBoundary p s)
    freeBoundary p s = if (d.st.port p).link.txOpen.isEmpty then
        sendCtl p 0 0 (if d.gone then chooseNext (arbKey arbEgress p) (egressContest p) d.st else d.st)
      else beat p true d.st := rfl

theorem freeBoundary_idle (hc : (arbOf (atFreeBoundary p s) (arbKey arbEgress p)).chosen = none) (ha : egressAsks p (atFreeBoundary p s) = [])
    (ho : ((atFreeBoundary p s).port p).link.txOpen = []) : freeBoundary p s = sendCtl p 0 0 (atFreeBoundary p s) := by
  have hd := decideNow_idle (each := false) (now := egressContest p) (next := fun rr _ => rr) (effect := serveChannel p) hc ha
  simp [freeBoundary_eq, hd, ho]

/-- The packet that the arbiter picks is served, and its first flit goes out where it has started. -/
theorem freeBoundary_serves {vc : Nat} (hc : (arbOf (atFreeBoundary p s) (arbKey arbEgress p)).chosen = none)
    (ha : egressAsks p (atFreeBoundary p s) ≠ [])
    (hpick : egressPick p (atFreeBoundary p s) (egressAsks p (atFreeBoundary p s)) = some vc) :
    let u := atFreeBoundary p s
    let t := serveChannel p vc (onArb (arbKey arbEgress p) (fun a => granted false (egressAsks p u) vc a.rr a) u)
    freeBoundary p s = if (t.port p).link.txOpen.isEmpty then sendCtl p 0 0 t else beat p true t := by
  have hd := decideNow_grants (each := false) (now := egressContest p) (next := fun rr _ => rr) (effect := serveChannel p) hc ha hpick
  simp only [freeBoundary_eq, hd]
  rfl

/-! ### Residues (06 R157) -/

/-- What a grant of a line's residue arbiter does: the port takes its copy of the oldest entry that waits for it. -/
def takeCopy (line q : Nat) (s : State) : State :=
  match residueFor line q s with
  | some x => serveResidue line x q s
  | none => s

theorem takeCopy_served {line q : Nat} {x : McEntry} (h : residueFor line q s = some x) : takeCopy line q s = serveResidue line x q s := by
  simp [takeCopy, h]

theorem takeCopy_arbs (line q : Nat) (s : State) : (takeCopy line q s).core.arbs = s.core.arbs := by
  unfold takeCopy
  split <;> rfl

section
variable {line : Nat} (hl : line < 64) (hp : isPort p = true) (hm : s.svc.mod = .ready)
include hl hp hm

theorem execResidueService_none (hx : residueFor line p s = none) (hc : (arbOf s (arbKey arbResidue line)).chosen = none) :
    execResidueService line p s = .next s := by
  have hline : ¬ 64 ≤ line := by omega
  simp [execResidueService, hline, hp, isReady, hm, hx, hc]

theorem execResidueService_decides {x : McEntry} (hx : residueFor line p s = some x) : execResidueService line p s =
    .next (decide_ false (arbKey arbResidue line) (residueContest line p) (residueLater line) (fun rr _ => rr) (takeCopy line) s) := by
  have hunits : ¬ (decide (64 ≤ line) || !isPort p) = true := by simp [hp, Nat.not_le.mpr hl]
  have hready : ¬ (!isReady s || ((residueFor line p s).isNone && (arbOf s (arbKey arbResidue line)).chosen.isNone)) = true := by simp [isReady, hm, hx]
  exact (if_neg hunits).trans (congrArg Host.Outcome.next (if_neg hready))

/-- A ready port of the residue takes its copy of the oldest entry that waits for it. -/
theorem execResidueService_serves {q : Nat} {x y : McEntry} {rest : List Nat} (hx : residueFor line p s = some x) (hr : residueReady s x = q :: rest)
    (hc : (arbOf s (arbKey arbResidue line)).chosen = none) (hb : (arbOf s (arbKey arbResidue line)).lastBeat = false) (ha : residueAsks line s ≠ []) :
    let t := onArb (arbKey arbResidue line) (fun a => granted false (residueAsks line s) q a.rr a) s
    residueFor line q t = some y → execResidueService line p s = .next (serveResidue line y q t) := by
  intro t hy
  have hpick : (residueContest line p).pick s (arbOf s (arbKey arbResidue line)).rr ((residueContest line p).asks s) = some q := by
    simp [residueContest, hx, hr]
  have hgrant := decide_grants (each := false) (next := fun rr _ => rr) hc ha hpick hb (takeCopy_arbs line q) (residueLater line)
  rw [execResidueService_decides hl hp hm hx, hgrant]
  exact congrArg Host.Outcome.next (takeCopy_served hy)

end

/-! ### The statement -/

/-- Settles O18: each setting's law where it is served, and the laws of a flit boundary and of a residue's service by what is due. -/
theorem coreSettingsAndEgressComplete : Obligations.CoreSettingsAndEgressComplete := by
  unfold Obligations.CoreSettingsAndEgressComplete
  refine ⟨⟨?mode, ?modeDenied, ?counters, ?profile, ?badW⟩, ?resends, ?full, ?goesOn, ?idle, ?picks, ?residue, ?noResidue⟩
  case mode => exact fun h inst mode s hs hi hm hc => execArbModeSet_serves hs hi hm hc
  case modeDenied => exact fun h inst s hs hc => execArbModeSet_denied hs hc inst
  case counters => exact fun h inst clear s hs hi => execArbCountersRead_serves hs hi clear
  case profile =>
    intro h o colour lo hi p w s hs ho hport hcolour hth hp hw
    refine (execRedProfileSet_serves hs ho hport hcolour hth hp hw).trans ?_
    simp only [beq_iff_eq]
    rfl
  case badW => exact fun h o colour lo hi p w s hs ho hw hkeep => execRedProfileSet_badW hs ho hw hkeep
  case resends =>
    intro p f r s hp hm hup hr hd
    refine (execEgressDecision_resends hp hm hup hr).trans ?_
    rw [resendFlit_due hd]
  case full =>
    intro p s hp hm hup hr ho hfull
    refine (execEgressDecision_open hp hm hup hr ho).trans ?_
    rw [openBoundary, if_neg (by omega)]
    rfl
  case goesOn =>
    intro p s hp hm hup hr ho hroom f
    refine ⟨beat p false s, (execEgressDecision_open hp hm hup hr ho).trans ?_, ?_⟩
    · rw [openBoundary, if_pos hroom]
    · rw [beat_link]
      exact nextFlit_link p false s
  case idle =>
    intro p s hp ht hm hup hr ho ha hc
    have hu : atFreeBoundary p s = s := if_neg (by simp [ht])
    refine (execEgressDecision_free hp hm hup hr ho).trans ?_
    rw [freeBoundary_idle (by rwa [hu]) (by rwa [hu]) (by rwa [hu]), hu]
  case picks =>
    intro p vc s hp hm hup hr ho u ha hc _ hpick
    refine (execEgressDecision_free hp hm hup hr ho).trans ?_
    rw [freeBoundary_serves hc ha hpick]
    rfl
  case residue =>
    intro line p q x y rest s hl hp hm hx hready hc hb ha t hy
    exact execResidueService_serves hl hp hm hx hready hc hb ha hy
  case noResidue => exact fun line p s hl hp hm hx hc => execResidueService_none hl hp hm hx hc

end Sys2Proof.Machine
end

section
/-! Admission (06 R144, R146, R164): what becomes of the packet at the head of a channel, one law per case of its checks and its class. -/

namespace Sys2Proof.Machine

open Sys2Proof

variable {s : State} {p vc o : Nat} {k : Packet}

/-! ### Admission leaves the arbiters as they are -/

theorem takeHead_arbs (port : Nat) (x : Packet × Option Nat) (s : State) : (takeHead port x s).core.arbs = s.core.arbs := by
  unfold takeHead
  split
  · rfl
  · dsimp only
    split_ifs <;> rfl

theorem takeInLine_arbs (a : Nat) (s : State) : (takeInLine a s).2.core.arbs = s.core.arbs := by
  unfold takeInLine
  split <;> rfl

theorem takeOutLine_arbs (line out : Nat) (s : State) : (takeOutLine line out s).2.core.arbs = s.core.arbs := by
  unfold takeOutLine
  split <;> rfl

theorem voqPush_arbs (line out vc : Nat) (q : QPkt) (s : State) : (voqPush line out vc q s).core.arbs = s.core.arbs := by
  rw [voqPush, State.onCore_core]
  split <;> rfl

theorem enterVoq_arbs (line out : Nat) (g : Bool) (k : Packet) (s : State) : (enterVoq line out g k s).core.arbs = s.core.arbs := by
  unfold enterVoq
  rw [voqPush_arbs]
  split
  · rfl
  · exact takeOutLine_arbs ..

theorem admitHead_arbs (port vc : Nat) (s : State) : (admitHead port vc s).core.arbs = s.core.arbs := by
  unfold admitHead
  split
  · rfl
  · split
    · rfl
    · dsimp only
      rw [enterVoq_arbs]
      split <;> exact (takeInLine_arbs ..).trans (takeHead_arbs ..)

theorem admitOne_arbs (port vc a : Nat) (s : State) : (admitOne port vc a s).core.arbs = s.core.arbs := by
  unfold admitOne
  dsimp only
  split
  · exact admitHead_arbs ..
  · rfl

/-! ### The head of a channel of a port (06 R144, R146) -/

theorem ne_outLocal_of_isPort (hp : isPort p = true) : p ≠ outLocal := by
  rintro rfl
  exact absurd hp (by decide)

theorem execPacketAdmission_port (hp : isPort p = true) (hv : vc < 6) (hm : s.svc.mod = .ready) :
    execPacketAdmission p vc s = .next (admission p vc s) := by
  have hv' : ¬ 6 ≤ vc := by omega
  simp [execPacketAdmission, pumpAfter, hp, hv', isReady, hm, ne_outLocal_of_isPort hp]

theorem execPacketAdmission_local (hv : vc < 6) (hm : s.svc.mod = .ready) (hn : s.svc.node ≠ none) :
    execPacketAdmission 0xFFFF vc s = .next (contributeAll (pump (fillLocal (admission 0xFFFF vc s)))) := by
  have hv' : ¬ 6 ≤ vc := by omega
  simp [execPacketAdmission, pumpAfter, outLocal, hv', isReady, hm, hn]

theorem admission_none (hh : headOf p vc s = none) : admission p vc s = s := by simp [admission, hh]

section
variable {x : Packet × Option Nat} (hh : headOf p vc s = some x)
include hh

/-- A packet that fails a check leaves its buffer and turns into what the check makes of it. -/
theorem admission_refused {t u : State} (hc : checkPacket p x.2 x.1 s = .inl u) (hw : refusalWaits s x.1 = false)
    (ht : checkPacket p x.2 x.1 (takeHead p x s) = .inl t) : admission p vc s = t := by
  simp [admission, hh, hc, hw, ht]

variable (hc : checkPacket p x.2 x.1 s = .inr o)
include hc

theorem admission_classG (hg : isClassG s p o x.1 = true) : admission p vc s = admitG p o x s := by simp [admission, hh, hc, hg]

/-- For class M the arbiter of the packet's line decides. -/
theorem admission_classM (hg : isClassG s p o x.1 = false) :
    let line := (takeInLine p s).1
    admission p vc s =
      decide_ false (arbKey arbAdmission line) (admissionContest line) (admissionContest line) (fun _ r => r) (admitOne p vc) s := by
  simp [admission, hh, hc, hg]

end

/-- The one channel presented is admitted on its own port where it may be. -/
theorem admitOne_self (he : mayEnter p s vc = true) : admitOne p vc p s = admitHead p vc s := by simp [admitOne, he]

/-! ### Fixed attachments (06 R141) -/

theorem takeInLine_fixed (h : isSpread p = false) (s : State) : takeInLine p s = (fixedLine p, s) := by simp [takeInLine, h]

theorem takeOutLine_fixed (h : isSpread o = false) (line : Nat) (s : State) : takeOutLine line o s = (fixedLine o, s) := by simp [takeOutLine, h]

theorem enterVoq_fixed (h : isSpread o = false) (ho : o ≠ outMcast) (line : Nat) (g : Bool) (k : Packet) (s : State) :
    enterVoq line o g k s = voqPush line o k.vc.toNat { pkt := k, eline := fixedLine o, g := g } s := by
  simp [enterVoq, ho, takeOutLine_fixed h]

/-- A packet between fixed attachments goes from its receive buffer into the queue of its line, output and channel. -/
theorem admitHead_fixed (hp : isSpread p = false) (ho : isSpread o = false) (hm : o ≠ outMcast) (hk : k.mcast = false)
    (hh : headOf p vc s = some (k, none)) (hc : checkPacket p none k s = .inr o) :
    admitHead p vc s = voqPush (fixedLine p) o k.vc.toNat { pkt := k, eline := fixedLine o, g := false } (takeHead p (k, none) s) := by
  simp [admitHead, hh, hc, takeInLine_fixed hp, reservesNow, hk, enterVoq_fixed ho hm]

@[simp] theorem xoffUpdate_rx (p : Nat) (s : State) : ((xoffUpdate p s).port p).rx = (s.port p).rx := by simp [xoffUpdate]

theorem xoffUpdate_ne {x : Nat} (hx : x ≠ p) (s : State) : (xoffUpdate p s).port x = s.port x := State.onPort_ne _ _ hx

section
variable (hl : p ≠ outLocal) (x : Packet × Option Nat) (s : State)
include hl

theorem takeHead_rx : ((takeHead p x s).port p).rx = (s.port p).rx.erase x.1 := by
  simp only [takeHead, beq_iff_eq, hl, if_false]
  split_ifs <;> simp [State.onLink]

theorem takeHead_ne {y : Nat} (hy : y ≠ p) : (takeHead p x s).port y = s.port y := by
  simp only [takeHead, beq_iff_eq, hl, if_false]
  split_ifs
  · rw [xoffUpdate_ne hy, State.onPort_ne _ _ hy]
  · rw [State.onLink_ne _ _ hy, State.onPort_ne _ _ hy]
  · exact State.onPort_ne _ _ hy

end

/-! ### The statement -/

/-- Settles O19: the laws of admission by what the checks say and by class, and `decide_grants` for the arbiter of the line. -/
theorem admissionMovesOrWaits : Obligations.AdmissionMovesOrWaits := by
  unfold Obligations.AdmissionMovesOrWaits
  refine ⟨?empty, ?refused, ?classG, ?grants, ?waits, ?agents, ?moves⟩
  case empty =>
    intro p vc s hp hv hm hh
    refine (execPacketAdmission_port hp hv hm).trans ?_
    rw [admission_none hh]
  case refused =>
    intro p vc k t u s hp hv hm hh hc hw ht
    refine (execPacketAdmission_port hp hv hm).trans ?_
    rw [admission_refused hh hc hw ht]
  case classG =>
    intro p vc o k s hp hv hm hh hc hg
    refine (execPacketAdmission_port hp hv hm).trans ?_
    rw [admission_classG hh hc hg]
  case grants =>
    intro p vc o a k s hp hv hm hh hc hg line hchosen hb hpick
    refine (execPacketAdmission_port hp hv hm).trans ?_
    rw [admission_classM hh hc hg, decide_grants hchosen (asks_of_rrPick hpick) hpick hb (admitOne_arbs p vc a)]
    rfl
  case waits =>
    intro p vc o k s hp hv hm hh hc hg ha hchosen
    refine (execPacketAdmission_port hp hv hm).trans ?_
    rw [admission_classM hh hc hg, decide_idle hchosen ha]
  case agents => exact fun vc s hv hm hn => execPacketAdmission_local hv hm hn
  case moves =>
    intro p vc o k s hp hsp hso ho hk hh he hc u
    have hl := ne_outLocal_of_isPort hp
    exact ⟨(admitOne_self he).trans (admitHead_fixed hsp hso ho hk hh hc), takeHead_rx hl (k, none) s, fun x hx => takeHead_ne hl (k, none) s hx⟩

end Sys2Proof.Machine
end

section
/-! Stage 1 of the switch core (06 R150, R152): where a cell goes and under what number. -/

namespace Sys2Proof.Machine

open Sys2Proof

variable {s : State} {v : Voq} {q : QPkt} {rest : List QPkt} {j : Nat}

/-! ### A cell that leaves a virtual output queue -/

@[simp] theorem putCell_iqs_self (j : Nat) (c : Cell) (s : State) : (putCell j c s).core.iqs.look j [] = s.core.iqs.look j [] ++ [c] := by
  simp [putCell]

theorem putCell_iqs_ne {x : Nat} (hx : x ≠ j) (c : Cell) (s : State) : (putCell j c s).core.iqs.look x [] = s.core.iqs.look x [] := by
  simp [putCell, Map.look_upd_ne _ _ _ _ hx]

theorem sendCell_arbs (v : Voq) (j : Nat) (s : State) : (sendCell v j s).core.arbs = s.core.arbs := by
  unfold sendCell
  split
  · rfl
  · dsimp only
    split_ifs <;> rfl

/-- No other intermediate queue changes. -/
theorem sendCell_iqs_ne {x : Nat} (hx : x ≠ j) (v : Voq) (s : State) : (sendCell v j s).core.iqs.look x [] = s.core.iqs.look x [] := by
  unfold sendCell
  split
  · rfl
  · dsimp only
    split_ifs <;> exact putCell_iqs_ne hx _ _

section
variable (hq : v.pkts = q :: rest) (ho : v.out ≠ outMcast)
include hq ho

/-- A unicast cell joins its intermediate queue, in the present cycle, from its line, with the flow's next number. -/
theorem sendCell_iqs_self (j : Nat) (s : State) : ∃ c, (sendCell v j s).core.iqs.look j [] = s.core.iqs.look j [] ++ [c] ∧
    c.cycle = s.core.cycle ∧ c.line = v.line ∧ c.seq = s.core.flowTx.look (flowKey v.line v.out v.vc q.eline) 0 := by
  simp only [sendCell, hq, beq_iff_eq, ho, if_false]
  exact ⟨_, putCell_iqs_self .., rfl, rfl, rfl⟩

/-- The flow's number is used up. -/
theorem sendCell_flowTx (j : Nat) (s : State) : (sendCell v j s).core.flowTx.look (flowKey v.line v.out v.vc q.eline) 0 =
    s.core.flowTx.look (flowKey v.line v.out v.vc q.eline) 0 + 1 := by
  simp only [sendCell, hq, beq_iff_eq, ho, if_false]
  exact Map.look_put_self ..

end

/-! ### The arbiter of a line (06 R150, R164) -/

/-- What a grant of stage 1 does: the queue granted sends a cell to the intermediate queue that its line meets in this cycle. -/
def sendFrom (i r : Nat) (s : State) : State :=
  match s.core.voqs.find? (isVoq i (r / 8) (r % 8)) with
  | some v => sendCell v ((i + s.core.cycle) % 64) s
  | none => s

theorem sendFrom_arbs (i r : Nat) (s : State) : (sendFrom i r s).core.arbs = s.core.arbs := by
  unfold sendFrom
  split
  · exact sendCell_arbs ..
  · rfl

theorem sendFrom_found {i r : Nat} (h : s.core.voqs.find? (isVoq i (r / 8) (r % 8)) = some v) :
    sendFrom i r s = sendCell v ((i + s.core.cycle) % 64) s := by simp [sendFrom, h]

/-- A line with a packet decides. -/
theorem stage1_decides {i : Nat} (h : s.core.voqs.any (fun v => v.line == i) = true) :
    stage1 s i = decide_ true (arbKey arbStage1 i) (stage1Contest i) (stage1Contest i) stage1Next (sendFrom i) s :=
  if_neg (by simp [h])

theorem asks_of_stage1Pick {rr r : Nat} {es : List Nat} (h : stage1Pick rr es = some r) : es ≠ [] := by
  rintro rfl
  exact absurd h (by simp [stage1Pick, rrPick])

/-- Settles O21: the arbiter's grant changes the arbiters alone, and the cell that it lets go is `sendCell`'s. -/
theorem cellsFollowTheCyclicPattern : Obligations.CellsFollowTheCyclicPattern := by
  unfold Obligations.CellsFollowTheCyclicPattern
  intro i r v q rest s hc hb hany hpick hfind hline hout ho hq t
  let u := onArb (arbKey arbStage1 i) (fun a => granted true ((stage1Contest i).asks s) r (stage1Next a.rr r) a) s
  have ht : t = sendCell v ((i + s.core.cycle) % 64) u :=
    ((stage1_decides hany).trans (decide_grants hc (asks_of_stage1Pick hpick) hpick hb (sendFrom_arbs i r) _)).trans (sendFrom_found hfind)
  subst hline
  rw [ht]
  exact ⟨fun j hj => sendCell_iqs_ne hj v u, sendCell_iqs_self hq ho _ u, sendCell_flowTx hq ho _ u⟩

end Sys2Proof.Machine
end

section
/-! A core cycle (06 R150 to R152, R168, 15 R425): what its steps leave alone, and what an error in the packet buffers leaves alone. -/

namespace Sys2Proof.Machine

open Sys2Proof

variable {s : State}

/-! ### What delivery within the core leaves alone -/

/-- The state but for the core's queues and arbiters, the ports, the trunks' queues and the requests' timers; the cycle number stays. -/
def unmoved (s : State) : State := { s with core := { cycle := s.core.cycle }, ports := [], req := {}, svc := { s.svc with trunks := [] } }

/-- A port but for the packets that wait to leave. -/
def withoutTx (q : Port) : Port := { q with tx := [] }

/-- What delivery within the core leaves alone: every other part of the state, and of each port all but its egress queue. -/
def outside (s : State) : State × (Nat → Port) := (unmoved s, fun p => withoutTx (s.port p))

theorem outside_onCore {f : Core → Core} (h : (f s.core).cycle = s.core.cycle) : outside (s.onCore f) = outside s := by
  unfold outside unmoved
  rw [State.onCore_core, h]
  rfl

theorem outside_onPort {p : Nat} {f : Port → Port} (h : withoutTx (f (s.port p)) = withoutTx (s.port p)) : outside (s.onPort p f) = outside s := by
  refine Prod.ext rfl (funext fun x => ?_)
  obtain rfl | hx := eq_or_ne x p
  · exact (congrArg withoutTx (State.onPort_self s x f)).trans h
  · exact congrArg withoutTx (State.onPort_ne s f hx)

@[simp] theorem outside_onTrunk (p : Nat) (f : Trunk → Trunk) (s : State) : outside (s.onTrunk p f) = outside s := rfl

@[simp] theorem outside_onTq (p q : Nat) (f : TrunkQueue → TrunkQueue) (s : State) : outside (s.onTq p q f) = outside s := rfl

@[simp] theorem outside_noteSent (k : Packet) (s : State) : outside (noteSent k s) = outside s := by
  unfold noteSent
  split <;> rfl

/-! ### Arbiters -/

@[simp] theorem outside_onArb (key : Nat) (f : Arbiter → Arbiter) (s : State) : outside (onArb key f s) = outside s := outside_onCore rfl

@[simp] theorem outside_arbWaits (key : Nat) (asking : List Nat) (s : State) : outside (arbWaits key asking s) = outside s := by
  unfold arbWaits
  dsimp only
  split <;> simp

@[simp] theorem outside_chooseNext (key : Nat) (later : Contest) (s : State) : outside (chooseNext key later s) = outside s := by
  unfold chooseNext
  dsimp only
  split <;> simp

section
variable {effect : Nat → State → State} (h : ∀ r s, outside (effect r s) = outside s)
include h

/-- A decision leaves alone what its grant does. -/
theorem outside_decideNow (each : Bool) (key : Nat) (now : Contest) (next : Nat → Nat → Nat) (s : State) :
    outside (decideNow each key now next effect s).st = outside s := by
  unfold decideNow
  dsimp only
  split
  · rfl
  · dsimp only
    split <;> simp [h]

theorem outside_decide (each : Bool) (key : Nat) (now later : Contest) (next : Nat → Nat → Nat) (s : State) :
    outside (decide_ each key now later next effect s) = outside s := by
  unfold decide_
  dsimp only
  split <;> simp [outside_decideNow h]

end

/-! ### Loans and the two stages (06 R148, R150, R151, R156) -/

@[simp] theorem outside_returnLoans (s : State) : outside (returnLoans s) = outside s := outside_onCore rfl

@[simp] theorem outside_lendSlots (s : State) (e : Nat) : outside (lendSlots s e) = outside s := by
  unfold lendSlots
  split
  · rfl
  · refine outside_decide (fun i s => ?_) ..
    split
    · split
      · exact outside_onCore rfl
      · rfl
    · rfl

@[simp] theorem outside_putCell (j : Nat) (c : Cell) (s : State) : outside (putCell j c s) = outside s := outside_onCore rfl

@[simp] theorem outside_setVoq (line out vc : Nat) (pkts : List QPkt) (sent : Nat) (s : State) : outside (setVoq line out vc pkts sent s) = outside s :=
  outside_onCore rfl

@[simp] theorem outside_sendCell (v : Voq) (j : Nat) (s : State) : outside (sendCell v j s) = outside s := by
  unfold sendCell
  split
  · rfl
  · dsimp only
    split_ifs
    · simp
    · simp
    · rw [outside_putCell, outside_onCore rfl, outside_setVoq]

@[simp] theorem outside_sendFrom (i r : Nat) (s : State) : outside (sendFrom i r s) = outside s := by
  unfold sendFrom
  split <;> simp

@[simp] theorem outside_stage1 (s : State) (i : Nat) : outside (stage1 s i) = outside s := by
  unfold stage1
  split
  · rfl
  · exact outside_decide (outside_sendFrom i) ..

@[simp] theorem outside_swapCell (j : Nat) (c : Cell) (n : Option Cell) (s : State) : outside (swapCell j c n s) = outside s := outside_onCore rfl

@[simp] theorem outside_deliverCell (j e : Nat) (c : Cell) (s : State) : outside (deliverCell j e c s) = outside s :=
  (outside_onCore rfl).trans (outside_swapCell ..)

@[simp] theorem outside_mcFree (line : Nat) (s : State) : outside (mcFree line s) = outside s := outside_onCore rfl

@[simp] theorem outside_mcOffer (e : Nat) (p : Packet) (s : State) : outside (mcOffer e p s) = outside s := by
  unfold mcOffer
  dsimp only
  rw [outside_mcFree, outside_onCore rfl]
  exact foldl_keeps outside (fun _ _ => outside_onPort rfl) _ s

@[simp] theorem outside_copyCell (j e : Nat) (c : Cell) (s : State) : outside (copyCell j e c s) = outside s := by
  have hif (b : Bool) (k : Packet) (s : State) : outside (if b then mcOffer e k s else s) = outside s := by split <;> simp
  unfold copyCell
  cases c.ends with
  | nil => exact outside_swapCell ..
  | cons k _ => exact (hif ..).trans (outside_swapCell ..)

@[simp] theorem outside_stage2 (s : State) (j : Nat) : outside (stage2 s j) = outside s := by
  unfold stage2
  split
  · rfl
  · refine outside_decide (fun r s => ?_) ..
    dsimp only
    split <;> split <;> simp [outside_onCore]

/-! ### Outputs (06 R152, R173, 12 R359) -/

@[simp] theorem outside_outputTook (out : Nat) (k : Packet) (s : State) : outside (outputTook out k s) = outside s := by
  unfold outputTook
  split
  · exact (outside_returnLoans _).trans (outside_onCore rfl)
  · rfl

@[simp] theorem outside_settleGates (p n : Nat) (s : State) : outside (settleGates p n s) = outside s := by
  induction n generalizing s with
  | zero => rfl
  | succ n ih =>
    unfold settleGates
    dsimp only
    split
    · split_ifs
      · exact ih _
      · exact ih _
      · rfl
    · split_ifs
      · exact ih _
      · rfl

@[simp] theorem outside_gatesNow (p : Nat) (s : State) : outside (gatesNow p s) = outside s := outside_settleGates ..

theorem outside_trunkEnqueue {p : Nat} {transit : Bool} {k : Packet} {t : State} (h : trunkEnqueue p transit k s = some t) : outside t = outside s := by
  unfold trunkEnqueue at h
  dsimp only at h
  split_ifs at h <;> obtain rfl := Option.some.inj h <;> simp [trunkPush]

theorem outside_drainOne (p : Nat) (d : Drain) (k : Packet) : outside (drainOne p d k).st = outside d.st := by
  unfold drainOne
  dsimp only
  split
  · rfl
  · split
    · rename_i t ht
      exact (outside_outputTook ..).trans ((outside_trunkEnqueue ht).trans (outside_onPort rfl))
    · split <;> rfl

@[simp] theorem outside_drainTrunk (p : Nat) (s : State) : outside (drainTrunk p s) = outside s :=
  foldl_keeps (fun d : Drain => outside d.st) (outside_drainOne p) _ _

theorem outside_drainLocalOne (d : Drain) (k : Packet) : outside (drainLocalOne d k).st = outside d.st := by
  unfold drainLocalOne
  dsimp only
  split
  · rfl
  · split
    · rfl
    · simp [outside_onCore]

@[simp] theorem outside_drainLocal (s : State) : outside (drainLocal s) = outside s :=
  foldl_keeps (fun d : Drain => outside d.st) outside_drainLocalOne _ _

@[simp] theorem outside_toOutput (out : Nat) (k : Packet) (s : State) : outside (toOutput out k s) = outside s := by
  unfold toOutput
  dsimp only
  split_ifs
  · exact (outside_drainLocal _).trans (outside_onCore rfl)
  · exact (outside_drainTrunk ..).trans (outside_onPort rfl)
  · exact outside_onPort rfl

@[simp] theorem outside_release (s : State) (e : Nat) : outside (release s e) = outside s := by
  unfold release
  split
  · rfl
  · exact (foldl_keeps outside (fun s k => outside_toOutput _ k s) _ _).trans (outside_onCore rfl)

@[simp] theorem outside_outerWaits (s : State) : outside (outerWaits s) = outside s := by
  unfold outerWaits
  dsimp only
  rw [foldl_keeps outside (fun s q => outside_arbWaits ..), foldl_keeps outside (fun s e => outside_arbWaits ..),
    foldl_keeps outside (fun s l => outside_arbWaits ..)]

/-! ### An error in the packet buffers (15 R425) -/

/-- The parts of the state that an error leaves alone, with the operation whose packet it loses: no port, no lane, no mailbox, no key, and not the cycle. -/
def spared (s : State) : State :=
  { svc := s.svc, mbx := s.mbx, lanes := s.lanes, ports := s.ports, sec := s.sec, flash := s.flash, pending := s.pending, core := { cycle := s.core.cycle } }

theorem spared_onCore {f : Core → Core} (h : (f s.core).cycle = s.core.cycle) : spared (s.onCore f) = spared s := by
  unfold spared
  rw [State.onCore_core, h]
  rfl

@[simp] theorem spared_onHost (f : HostSide → HostSide) (s : State) : spared (s.onHost f) = spared s := rfl
@[simp] theorem spared_onXlat (f : Xlat → Xlat) (s : State) : spared (s.onXlat f) = spared s := rfl
@[simp] theorem spared_onReed (f : Reedbed → Reedbed) (s : State) : spared (s.onReed f) = spared s := rfl
@[simp] theorem spared_onOp (g : Nat) (f : Op → Op) (s : State) : spared (s.onOp g f) = spared s := rfl
@[simp] theorem spared_onMember (g : Nat) (f : MemberOp → MemberOp) (s : State) : spared (s.onMember g f) = spared s := rfl

@[simp] theorem spared_recordErr (kind index code sev : Nat) (detail : List Byte) (s : State) : spared (recordErr kind index code sev detail s) = spared s := by
  simp [spared]

@[simp] theorem spared_raiseVec (v : Nat) (s : State) : spared (raiseVec v s) = spared s := by simp [spared]

@[simp] theorem spared_noteSent (k : Packet) (s : State) : spared (noteSent k s) = spared s := by
  unfold noteSent
  split <;> rfl

@[simp] theorem spared_setVoq (line out vc : Nat) (pkts : List QPkt) (sent : Nat) (s : State) : spared (setVoq line out vc pkts sent s) = spared s :=
  spared_onCore rfl

@[simp] theorem spared_writeFault (k : Nat) (f : PendFault) (r : FaultRing) (s : State) : spared (writeFault k f r s) = spared s := by simp [writeFault]

@[simp] theorem spared_fillRing (n : Nat) (s : State) : spared (fillRing n s) = spared s := by
  induction n generalizing s with
  | zero => rfl
  | succ n ih =>
    unfold fillRing
    split
    · rfl
    split
    · rfl
    split
    · split
      · rw [ih, spared_writeFault]
      · rfl
    · rfl

@[simp] theorem spared_settleWaiters (s : State) : spared (settleWaiters s) = spared s := by
  unfold settleWaiters
  split
  · rfl
  · simp [fillAll]

@[simp] theorem spared_settlePhase (s : State) : spared (settlePhase s) = spared s := (congrArg spared (settlePhase_frame s) :)

@[simp] theorem spared_freeContextsOf (j : CtxJob) (s : State) : spared (freeContextsOf j s) = spared s := by simp [freeContextsOf]

@[simp] theorem spared_sendLocal (k : Packet) (s : State) : spared (sendLocal k s) = spared s := spared_onCore (by split <;> rfl)

@[simp] theorem spared_keepRecord (g : Nat) (r : AbortRec) (s : State) : spared (keepRecord g r s) = spared s := by
  unfold keepRecord
  split
  · rfl
  · split
    · rfl
    · simp [spared_onCore]

@[simp] theorem spared_originate (g reason : Nat) (c : Option Nat) (s : State) : spared (originate g reason c s) = spared s := by
  unfold originate
  split
  · rfl
  · split <;> simp

theorem spared_unmoved (s : State) : spared (unmoved s) = unmoved (spared s) := rfl

theorem spared_sramHit (h : SramHit) (s : State) : spared (sramHit h s) = spared s := by
  unfold sramHit
  split
  · rfl
  · dsimp only
    split
    · simp
    · split
      · simp
      · split_ifs <;> simp [spared_onCore]

theorem sramHit_corrected {h : SramHit} (hc : h.corrected = true) (s : State) : sramHit h s = recordCorrected kCore 0 s := if_pos hc

/-! ### The cycle -/

/-- The steps of a core cycle, but for the count of the cycle itself. -/
def cycleSteps (s : State) : State :=
  let s := (List.range 64).foldl lendSlots (returnLoans s)
  let s := (List.range 64).foldl stage2 s
  let s := (List.range 64).foldl stage1 s
  let s := (List.range 64).foldl release s
  drainTrunk 528 (drainTrunk 512 (drainLocal (outerWaits s)))

theorem outside_cycleSteps (s : State) : outside (cycleSteps s) = outside s := by
  unfold cycleSteps
  dsimp only
  rw [outside_drainTrunk, outside_drainTrunk, outside_drainLocal, outside_outerWaits, foldl_keeps outside outside_release, foldl_keeps outside outside_stage1,
    foldl_keeps outside outside_stage2, foldl_keeps outside outside_lendSlots, outside_returnLoans]

/-- The next cycle begins. -/
def nextCycle (s : State) : State :=
  s.onCore (fun c => { c with cycle := c.cycle + 1, arbs := c.arbs.each (fun _ a => { a with served := [] }) })

/-- The state that the steps of a cycle find: after the error, where there is one. -/
def afterHit (hit : Option SramHit) (s : State) : State := hit.elim s (fun h => sramHit h s)

theorem spared_afterHit (hit : Option SramHit) (s : State) : spared (afterHit hit s) = spared s := by
  cases hit with
  | none => rfl
  | some h => exact spared_sramHit h s

theorem execCoreCycle_ready (hm : s.svc.mod = .ready) (hit : Option SramHit) :
    execCoreCycle hit s = .next (nextCycle (cycleSteps (afterHit hit s))) := by
  have hready : ¬ (!isReady s) = true := by simp [isReady, hm]
  refine congrArg Host.Outcome.next ((if_neg hready).trans ?_)
  cases hit <;> rfl

/-- Settles O20: the steps leave alone what `outside` lists, and an error what `spared` lists. -/
theorem coreCycleAdvancesByOne : Obligations.CoreCycleAdvancesByOne := by
  unfold Obligations.CoreCycleAdvancesByOne
  intro hit s hm
  refine ⟨_, execCoreCycle_ready hm hit, ?_⟩
  generalize hu : afterHit hit s = u
  have hspared : spared u = spared s := hu ▸ spared_afterHit hit s
  have houtside := outside_cycleSteps u
  generalize hw : cycleSteps u = w at houtside ⊢
  obtain ⟨hstate, hport⟩ := Prod.mk.inj houtside
  have hkept : spared (unmoved w) = spared (unmoved s) := by rw [hstate, spared_unmoved, hspared, spared_unmoved]
  have hports (p : Nat) : withoutTx (w.port p) = withoutTx (s.port p) :=
    (congrFun hport p).trans (congrArg withoutTx (State.port_of_ports (congrArg State.ports hspared) p))
  refine ⟨congrArg (·.core.cycle + 1) hkept, congrArg (·.svc.now) hkept, congrArg (·.svc.node) hkept, congrArg (·.mbx) hkept, congrArg (·.lanes) hkept,
    congrArg (·.sec) hkept, congrArg (·.flash) hkept, congrArg (·.pending) hkept, fun hnone => ?clean,
    fun p => ⟨congrArg (·.rx) (hports p), congrArg (·.link) (hports p), congrArg (·.phase) (hports p)⟩, fun h hh hc => ?corrected⟩
  case clean =>
    subst hnone hu
    exact ⟨congrArg (·.reed) hstate, congrArg (·.pwr) hstate, congrArg (·.home) hstate, congrArg (·.xlat) hstate, congrArg (·.queues) hstate,
      congrArg (·.err) hstate⟩
  case corrected =>
    subst hh hu hw
    refine (execCoreCycle_ready (s := recordCorrected kCore 0 s) hm none).trans ?_
    rw [← sramHit_corrected hc]
    rfl

end Sys2Proof.Machine
end

section
/-! The exact sum (07 R182 to R184, R187, R188, R191): up to 2^31 contributions the accumulator is a function of their multiset. The reach of every
input format bounds one contribution by 2^128, so no partial sum reaches RANGE, and adding one by one builds `exactSum`, whose fields ignore order. -/

namespace Sys2Proof.Machine

open Sys2Proof

/-! ### How far a converted value reaches (07 R183, R186, R187) -/

/-- The largest exponent field of a finite value, where the field 0 counts as 1. -/
def topExp (f : Fmt) : Nat := max 1 (2 ^ (f.bits - 1 - f.frac) - 1 - b2n f.hasInf)

/-- The bits that hold every finite magnitude of a format under a scale, in units of 2^-160. -/
def magBits (f : Fmt) (scale : Nat) : Nat := f.frac + 1 + (topExp f + scale + 160 - (f.bias + 127 + f.frac))

theorem magBits_mono (f : Fmt) {s t : Nat} (h : s ≤ t) : magBits f s ≤ magBits f t := by
  unfold magBits
  omega

theorem expField_le_topExp {f : Fmt} {e : Nat} (he : e < 2 ^ (f.bits - 1 - f.frac))
    (hfin : ¬ (f.hasInf && e == 2 ^ (f.bits - 1 - f.frac) - 1) = true) : (if e == 0 then 1 else e) ≤ topExp f := by
  have hle : e ≤ 2 ^ (f.bits - 1 - f.frac) - 1 - b2n f.hasInf := by
    cases hinf : f.hasInf with
    | false => exact Nat.le_sub_one_of_lt he
    | true =>
      have hne : e ≠ 2 ^ (f.bits - 1 - f.frac) - 1 := by simpa [hinf] using hfin
      simp only [b2n, if_true]
      omega
  rw [topExp]
  split <;> omega

theorem significand_lt {t frac : Nat} (e : Nat) (ht : t < 2 ^ frac) : (if e == 0 then t else t + 2 ^ frac) < 2 ^ (frac + 1) := by
  rw [pow_succ]
  split <;> omega

theorem decodeFloat_magOf_lt (f : Fmt) (x scale : Nat) : (decodeFloat f x scale).magOf < 2 ^ magBits f scale := by
  unfold decodeFloat
  dsimp only
  split
  · split <;> exact Nat.two_pow_pos _
  · next hfin =>
    split
    · exact Nat.two_pow_pos _
    · have hsig := significand_lt (x / 2 ^ f.frac % 2 ^ (f.bits - 1 - f.frac)) (Nat.mod_lt x (Nat.two_pow_pos f.frac))
      have hexp := expField_le_topExp (Nat.mod_lt (x / 2 ^ f.frac) (Nat.two_pow_pos (f.bits - 1 - f.frac))) hfin
      rw [magBits, pow_add]
      exact Nat.mul_lt_mul_of_lt_of_le hsig (Nat.pow_le_pow_right two_pos (by omega)) (Nat.two_pow_pos _)

/-- The deepest reach of each floating-point code, a block at its largest valid scale: 2^128 in units of 2^-160. -/
theorem magBits_fmtOf_le : ∀ c ≤ 8, isIntFmt c = false → magBits (fmtOf c) (if isBlkFmt c then 0xF6 else 127) ≤ 288 := by decide

theorem toSigned_natAbs_le (w v : Nat) : (toSigned (w + 1) v).natAbs ≤ 2 ^ w := by
  have hv := Nat.mod_lt v (Nat.two_pow_pos (w + 1))
  unfold toSigned
  rw [Nat.add_sub_cancel]
  rw [pow_succ] at hv ⊢
  split <;> omega

theorem toSigned_scaled_lt (c x : Nat) : (toSigned (elemBits c) x).natAbs * 2 ^ 160 < 2 ^ 288 := by
  have hbits : ∃ w ≤ 31, elemBits c = w + 1 := by
    unfold elemBits
    split_ifs
    exacts [⟨31, by decide⟩, ⟨15, by decide⟩, ⟨3, by decide⟩, ⟨7, by decide⟩]
  obtain ⟨w, hw, hc⟩ := hbits
  have hv := hc ▸ toSigned_natAbs_le w x
  have hpow := Nat.pow_le_pow_right two_pos hw
  omega

/-- R183's bound on one contribution: a finite value of any input format, under a valid scale, lies below 2^128. -/
theorem convertElem_magOf_lt {c scale : Nat} (x : Nat) (hc : c ≤ 8) (hscale : scale ≤ 0xF6 ∨ scale = 0xFF) :
    (convertElem c x scale).magOf < 2 ^ 288 := by
  have hbits := magBits_fmtOf_le c hc
  have hfloat {s : Nat} (h : magBits (fmtOf c) s ≤ 288) : (decodeFloat (fmtOf c) x s).magOf < 2 ^ 288 :=
    (decodeFloat_magOf_lt _ x s).trans_le (pow_le_pow_right₀ one_le_two h)
  unfold convertElem
  split_ifs with hint hblk hnan
  · exact toSigned_scaled_lt c x
  · exact pow_pos two_pos _
  · have hvalid : scale ≤ 0xF6 := hscale.resolve_right (by simpa using hnan)
    exact hfloat ((magBits_mono _ hvalid).trans (by simpa [hint, hblk] using hbits))
  · exact hfloat (by simpa [hint, hblk] using hbits)

/-! ### The sum of a multiset of contributions (07 R182, R188, R191) -/

/-- What a contribution adds to A; a NaN or an infinity adds nothing (R188). -/
def addend : FVal → Int
  | .fin neg mag => sgn neg mag
  | _ => 0

theorem addend_natAbs (v : FVal) : (addend v).natAbs = v.magOf := by
  cases v with
  | nan => rfl
  | inf neg => rfl
  | fin neg mag => cases neg <;> simp [addend, sgn, FVal.magOf]

/-- The accumulator that R182 and R188 describe for a list of contributions: A the sum, each flag by what occurs among them. -/
def exactSum (vs : List FVal) : Acc where
  a := (vs.map addend).sum
  nan := decide (.nan ∈ vs)
  pinf := decide (.inf false ∈ vs)
  ninf := decide (.inf true ∈ vs)
  allNegZ := decide (∀ v ∈ vs, v = .fin true 0)
  count := vs.countP FVal.isFin

theorem exactSum_perm {vs ws : List FVal} (h : vs.Perm ws) : exactSum vs = exactSum ws := by
  simp only [exactSum, (h.map addend).sum_eq, h.mem_iff, h.countP_eq]

theorem exactSum_a_bounds {vs : List FVal} (hlt : ∀ v ∈ vs, v.magOf < 2 ^ 288) (hlen : vs.length ≤ 2 ^ 31) :
    -2 ^ 319 ≤ (exactSum vs).a ∧ (exactSum vs).a < 2 ^ 319 := by
  have hone : ∀ i ∈ vs.map addend, -(2 ^ 288 - 1) ≤ i ∧ i ≤ 2 ^ 288 - 1 := by
    intro i hi
    obtain ⟨v, hv, rfl⟩ := List.mem_map.mp hi
    have hmag := hlt v hv
    rw [← addend_natAbs] at hmag
    omega
  have hlow := List.card_nsmul_le_sum _ _ (fun i hi => (hone i hi).1)
  have hhigh := List.sum_le_card_nsmul _ _ (fun i hi => (hone i hi).2)
  rw [List.length_map, nsmul_eq_mul] at hlow hhigh
  simp only [exactSum]
  omega

/-! ### Adding one by one builds that sum (07 R184, R187) -/

theorem accSet_of_inRange {a : Int} (hlow : -2 ^ 319 ≤ a) (hhigh : a < 2 ^ 319) (c : Acc) : accSet a c = { c with a := a } := by
  unfold accSet
  refine if_neg ?_
  rw [Bool.or_eq_true, decide_eq_true_iff, decide_eq_true_iff]
  omega

theorem exactSum_append_singleton (vs : List FVal) (v : FVal) :
    exactSum (vs ++ [v]) =
      { a := (exactSum vs).a + addend v
        nan := (exactSum vs).nan || decide (v = .nan)
        pinf := (exactSum vs).pinf || decide (v = .inf false)
        ninf := (exactSum vs).ninf || decide (v = .inf true)
        allNegZ := (exactSum vs).allNegZ && decide (v = .fin true 0)
        count := (exactSum vs).count + b2n v.isFin } := by
  simp [exactSum, List.countP_singleton, b2n, or_imp, forall_and, eq_comm (a := v)]

/-- One contribution whose true sum is in range takes the accumulator of a list to that of the list with it. -/
theorem accAdd_exactSum {vs : List FVal} {v : FVal} (hlow : -2 ^ 319 ≤ (exactSum (vs ++ [v])).a) (hhigh : (exactSum (vs ++ [v])).a < 2 ^ 319) :
    accAdd (exactSum vs) v = exactSum (vs ++ [v]) := by
  rw [exactSum_append_singleton] at hlow hhigh ⊢
  cases v with
  | nan => simp [accAdd, addend, FVal.isFin, b2n, exactSum]
  | inf neg => cases neg <;> simp [accAdd, addend, FVal.isFin, b2n, exactSum]
  | fin neg mag =>
    refine (accSet_of_inRange hlow hhigh _).trans ?_
    cases neg <;> simp [FVal.isFin, b2n, exactSum, beq_eq_decide]

/-- R191's invariant along the additions, where R183 keeps every partial sum in range. -/
theorem foldl_accAdd_eq_exactSum {vs : List FVal} (hlt : ∀ v ∈ vs, v.magOf < 2 ^ 288) (hlen : vs.length ≤ 2 ^ 31) :
    vs.foldl accAdd {} = exactSum vs := by
  induction vs using List.reverseRecOn with
  | nil => rfl
  | append_singleton vs v ih =>
    obtain ⟨hlow, hhigh⟩ := exactSum_a_bounds hlt hlen
    have hbefore : vs.foldl accAdd {} = exactSum vs :=
      ih (fun w hw => hlt w (List.mem_append_left _ hw)) (by rw [List.length_append] at hlen; omega)
    rw [List.foldl_append, hbefore]
    exact accAdd_exactSum hlow hhigh

/-- The contributions of elements and scales, converted. -/
def converted (fmt : Nat) (l : List (Nat × Nat)) : List FVal := l.map (fun t => convertElem fmt t.1 t.2)

theorem foldl_convertElem_eq_exactSum {fmt : Nat} {l : List (Nat × Nat)} (hfmt : fmt ≤ 8) (hscale : ∀ t ∈ l, t.2 ≤ 0xF6 ∨ t.2 = 0xFF)
    (hlen : l.length ≤ 2 ^ 31) :
    l.foldl (fun a t => accAdd a (convertElem fmt t.1 t.2)) {} = exactSum (converted fmt l) := by
  have hlt : ∀ v ∈ converted fmt l, v.magOf < 2 ^ 288 := by
    intro v hv
    obtain ⟨t, ht, rfl⟩ := List.mem_map.mp hv
    exact convertElem_magOf_lt t.1 hfmt (hscale t ht)
  rw [← foldl_accAdd_eq_exactSum hlt (by rwa [converted, List.length_map]), converted, List.foldl_map]

/-- Settles O50: both orders give `exactSum` of one multiset, which has no RANGE, A the sum, and NAN exactly where a NaN occurs. -/
theorem exactSumIgnoresOrder : Obligations.ExactSumIgnoresOrder := by
  unfold Obligations.ExactSumIgnoresOrder
  intro fmt l m hfmt hscale hlen hperm run
  have hl : run l = exactSum (converted fmt l) := foldl_convertElem_eq_exactSum hfmt hscale hlen
  have hm : run m = exactSum (converted fmt m) :=
    foldl_convertElem_eq_exactSum hfmt (fun t ht => hscale t (hperm.mem_iff.mpr ht)) (hperm.length_eq ▸ hlen)
  rw [hm, hl]
  refine ⟨exactSum_perm (hperm.map _), rfl, ?sum, ?nan⟩
  case sum =>
    simp only [exactSum, converted, List.map_map]
    refine congrArg List.sum (List.map_congr_left fun t _ => ?_)
    rw [Function.comp_apply]
    cases convertElem fmt t.1 t.2 <;> rfl
  case nan => exact decide_eq_true_iff.trans List.mem_map

end Sys2Proof.Machine
end

section
/-! The common abort of an operation at its plane (08 R232, R233, R235, R236): the order of the records, and what a plane keeps of them. -/

namespace Sys2Proof.Machine

open Sys2Proof

variable {s : State} {g : Nat} {r : AbortRec} {op : Op}

/-! ### What a job that ends leaves alone (09 R278, 11 R335) -/

/-- Fault records change the ring and the host alone. -/
theorem fillRing_frame (n : Nat) (s : State) : fillRing n s = { s with xlat := (fillRing n s).xlat, host := (fillRing n s).host } := by
  induction n generalizing s with
  | zero => rfl
  | succ n ih =>
    unfold fillRing
    split
    · rfl
    split
    · rfl
    split
    · split
      · rw [ih]
        simp [writeFault]
      · rfl
    · rfl

theorem settleWaiters_frame (s : State) : settleWaiters s = { s with xlat := (settleWaiters s).xlat, host := (settleWaiters s).host } := by
  unfold settleWaiters
  split
  · rfl
  · rw [fillAll, fillRing_frame]
    rfl

@[simp] theorem settlePhase_coll (s : State) : (settlePhase s).coll = s.coll := (congrArg State.coll (settlePhase_frame s) :)

@[simp] theorem freeContextsOf_coll (j : CtxJob) (s : State) : (freeContextsOf j s).coll = s.coll := by
  rw [freeContextsOf, settleWaiters_frame]
  exact settlePhase_coll _

@[simp] theorem freeContextsOf_op (j : CtxJob) (g : Nat) (s : State) : (freeContextsOf j s).op g = s.op g := by rw [State.op, State.op, freeContextsOf_coll]

@[simp] theorem sendLocal_op (k : Packet) (g : Nat) (s : State) : (sendLocal k s).op g = s.op g := rfl

/-! ### Records (08 R232) -/

theorem recLt_iff {a b : AbortRec} :
    recLt a b = true ↔ a.origin < b.origin ∨ (a.origin = b.origin ∧ (a.reason < b.reason ∨ (a.reason = b.reason ∧ a.chunk < b.chunk))) := by
  simp [recLt]

/-- Two records that differ are ordered one way. -/
theorem recLt_iff_not_recLt {a b : AbortRec} (hne : a ≠ b) : recLt a b = true ↔ recLt b a = false := by
  have hfields : ¬(a.origin = b.origin ∧ a.reason = b.reason ∧ a.chunk = b.chunk) := by
    cases a
    cases b
    simpa using hne
  rw [← Bool.not_eq_true, recLt_iff, recLt_iff]
  omega

theorem recLt_trans {a b c : AbortRec} (hab : recLt a b = true) (hbc : recLt b c = true) : recLt a c = true := by
  rw [recLt_iff] at hab hbc ⊢
  omega

/-! ### What a plane keeps (08 R233, R235, R236) -/

/-- An operation that keeps a record: it aborts, none of its chunks stays open, and its settle interval runs from the first record. -/
def Op.aborted (r : AbortRec) (now : Nat) (op : Op) : Op :=
  { op with
    record := some r, sent := some r, phase := .aborting, chunks := [], partials := [], gathered := [],
    settleAt := if op.record.isNone then now else op.settleAt }

theorem keepRecord_notLower (hop : s.op g = some op) (hr : recLowers op.record r = false) : keepRecord g r s = s := by
  simp [keepRecord, hop, hr]

theorem keepRecord_lower (hop : s.op g = some op) (hr : recLowers op.record r = true) :
    (keepRecord g r s).op g = some (op.aborted r s.svc.now) := by
  simp [keepRecord, hop, hr, Op.aborted]

theorem originate_silent (hop : s.op g = some op) (h : op.record ≠ none ∨ op.phase ≠ .running) (reason : Nat) (chunk : Option Nat) :
    originate g reason chunk s = s := by
  have hno : ¬(op.phase == .running && op.record.isNone) = true := by
    simpa [or_comm, imp_iff_not_or] using h
  simp only [originate, hop, if_neg hno]

/-- Settles O54: the order is lexicographic, and the two outcomes of `keepRecord` are its two laws. -/
theorem abortRecordOnlyFalls : Obligations.AbortRecordOnlyFalls := by
  unfold Obligations.AbortRecordOnlyFalls
  intro g r op s hop
  refine ⟨?notLower, ?lower, ?silent, ?order, ?total, ?trans⟩
  case notLower => exact keepRecord_notLower hop
  case lower =>
    intro hr
    refine ⟨_, keepRecord_lower hop hr, rfl, rfl, rfl, rfl, ?_, ?_⟩
    · intro h
      simp [Op.aborted, h]
    · intro h
      simp [Op.aborted, h]
  case silent => exact fun reason chunk h => originate_silent hop h reason chunk
  case order => exact fun a b => recLt_iff
  case total => exact fun a b => recLt_iff_not_recLt
  case trans => exact fun a b c => recLt_trans

end Sys2Proof.Machine
end

section
/-! Groups, partitions, programs and the arming of a member (08 R210 to R213, R229, 09 R250 to R255, 10 R301): what each command does where it is
served, one law per outcome. -/

namespace Sys2Proof.Machine

open Sys2Proof

variable {s : State} {h : MHdr} {g k gen : Nat}

@[simp] theorem reply_op (h : MHdr) (status : Nat) (result : List Byte) (g : Nat) (s : State) : (reply h status result s).op g = s.op g := by simp [State.op]

/-! ### GROUP_INSTALL (08 R210 to R213, 13 R477) -/

section
variable {p : GroupPart} {l : List MemberRec}

/-- The entry that a part with FIRST not 0 continues is the staged one, where it fits. -/
theorem stagedFor_later (hf : p.first ≠ 0) {e : Staged} (he : s.coll.staged.find p.group = some e) : stagedFor s p =
    if e.recs.length = p.first ∧ e.gen = p.gen ∧ e.tenant = p.tenant ∧ e.n = p.n then some e.recs else none := by
  simp [stagedFor, hf, he, and_assoc]

/-- The staged entry of a group is discarded. -/
def dropStaged (g : Nat) (s : State) : State := s.onColl (fun c => { c with staged := c.staged.del g })

section
variable (hs : Serves h [1] s) (hb : s.svc.bridge = false) (hrev : isRevoking s p.tenant = false)
include hs hb hrev

/-- A part in range runs, and so does one that continues nothing, whose staged entry goes whatever its fields. -/
theorem execGroupInstall_runs (hp : partBad s p = false ∨ stagedFor s p = none) : execGroupInstall h p s = .next (runInstall h p s) := by
  refine command_runs (row := { boxes := boxF }) hs (by simp [hb, hrev]) ?_
  obtain hp | hp := hp <;> simp [hp]

theorem execGroupInstall_bad (hp : partBad s p = true) (hl : stagedFor s p = some l) : execGroupInstall h p s = .next (reply h 4 [] s) :=
  command_bad_arg (row := { boxes := boxF }) hs (by simp [hb, hrev]) (by simp [hp, hl])

end

theorem runInstall_busy (hp : partBad s p = false) (hbusy : s.svc.node = none ∨ opInFlight s p.group = true) : runInstall h p s = reply h 2 [] s := by
  obtain hbusy | hbusy := hbusy <;> simp [runInstall, hp, hbusy, msBusy]

theorem runInstall_discards (hp : partBad s p = true ∨ s.svc.node ≠ none ∧ opInFlight s p.group = false) (hl : stagedFor s p = none) :
    runInstall h p s = reply h 4 [] (dropStaged p.group s) := by
  obtain hp | ⟨hn, ho⟩ := hp
  · simp [runInstall, hp, hl, msBadArg, dropStaged]
  · simp [runInstall, hn, ho, hl, msBadArg, dropStaged]

section
variable (hn : s.svc.node ≠ none) (ho : opInFlight s p.group = false) (hl : stagedFor s p = some l)
include hn ho hl

theorem runInstall_stages (hlast : p.last = false) : runInstall h p s = reply h 0 [] (s.onColl (fun c => { c with
    staged := c.staged.put p.group { gen := p.gen, tenant := p.tenant, n := p.n, recs := l ++ p.recs } })) := by
  simp [runInstall, hn, ho, hl, hlast, msOk]

section
variable (hlast : p.last = true)
include hlast

theorem runInstall_installs (hok : (l ++ p.recs).length = p.n ∧ entryOk s p.group p.gen (l ++ p.recs) = true) :
    let t := installEntry p.group p.gen p.tenant (l ++ p.recs) s
    runInstall h p s = reply h 0 (pack [.num 4 (entryDigest p.group p.gen p.tenant (l ++ p.recs)).toNat, .num 8 t.sec.epoch]) t := by
  obtain ⟨hlen, hentry⟩ := hok
  simp [-List.length_append, runInstall, hn, ho, hl, hlast, hlen, hentry, msOk, epochField]

theorem runInstall_refuses (hok : ¬((l ++ p.recs).length = p.n ∧ entryOk s p.group p.gen (l ++ p.recs) = true)) :
    runInstall h p s = reply h 4 [] (if p.first = 0 then dropStaged p.group s else s) := by
  have hbad : ((l ++ p.recs).length != p.n || !entryOk s p.group p.gen (l ++ p.recs)) = true := by
    simpa [-List.length_append, imp_iff_not_or] using hok
  simp [-List.length_append, runInstall, hn, ho, hl, hlast, hbad, msBadArg, dropStaged]

end

end

end

/-! ### GROUP_REMOVE and GROUP_MEMBER_REMOVE (08 R213, R229) -/

section
variable (hs : Serves h [1] s) (hb : s.svc.bridge = false)
include hs hb

theorem execGroupRemove_absent (hg : s.coll.groups.find g = none) : execGroupRemove h g s = .next (reply h 4 [] s) :=
  command_bad_arg (row := { boxes := boxF }) hs hb (by simp [hg])

theorem execGroupRemove_runs (hg : s.coll.groups.find g ≠ none) : execGroupRemove h g s = .next (
    if opInFlight s g then reply h 2 [] s
    else reply h 0 [] (bumpEpoch (s.onColl (fun c => { c with groups := c.groups.del g, ops := c.ops.del g })))) :=
  command_runs (row := { boxes := boxF }) hs hb (by simpa [Option.isSome_iff_ne_none] using hg)

theorem execGroupMemberRemove_runs (hk : removalOk s g k = true) (hgen : gen ≤ 15) : execGroupMemberRemove h g k gen s = .next (
    if opInFlight s g then wakeComputes (originate g rsMemberLeft none
      ((reply h 7 [] s).onOp g (fun o => { o with removals := o.removals ++ [{ position := k, gen := gen, hdr := h }] })))
    else applyRemoval g { position := k, gen := gen, hdr := h } (reply h 7 [] s)) := by
  refine (command_runs (row := { boxes := boxF }) hs hb (by simp [hk, hgen])).trans ?_
  simp only [opInFlight, reply_op]
  rfl

end

/-! ### PARTITION_SET (09 R250, R251) -/

/-- A partition that holds images stays as it is, and so does one that would take a cluster of another. -/
theorem execPartitionSet_runs (hs : Serves h [1] s) {p mask t : Nat} (hp : p ≤ 15) (hm : mask ≤ 65535) (ht : mask = 0 ∨ (s.tenant t).isSome = true) :
    execPartitionSet h p mask t s = .next (
      if (imagesOf s p ≠ [] ∧ (s.reed.parts.find p).isSome = true) ∨ (∃ c ∈ clustersOf mask, ∃ q, partitionOf s c = some q ∧ q.1 ≠ p) then reply h 2 [] s
      else reply h 0 [] (setPartition p mask t s)) := by
  have hbad : (decide (15 < p) || decide (65535 < mask) || (mask != 0 && (s.tenant t).isNone)) = false := by
    obtain ht | ht := ht <;> simp [hp, hm, ht]
  refine (command_runs (row := { boxes := boxF }) hs rfl hbad).trans (congrArg _ ?_)
  have hholds : (!(imagesOf s p).isEmpty && (s.reed.parts.find p).isSome) = true ↔ imagesOf s p ≠ [] ∧ (s.reed.parts.find p).isSome = true := by simp
  have htakes : (clustersOf mask).any (fun c => match partitionOf s c with | some q => q.1 != p | none => false) = true ↔
      ∃ c ∈ clustersOf mask, ∃ q, partitionOf s c = some q ∧ q.1 ≠ p := by
    rw [List.any_eq_true]
    refine exists_congr fun c => and_congr_right fun _ => ?_
    cases partitionOf s c <;> simp
  by_cases hA : imagesOf s p ≠ [] ∧ (s.reed.parts.find p).isSome = true
  · exact (if_pos (hholds.mpr hA)).trans (if_pos (.inl hA)).symm
  refine (if_neg (mt hholds.mp hA)).trans ?_
  by_cases hB : ∃ c ∈ clustersOf mask, ∃ q, partitionOf s c = some q ∧ q.1 ≠ p
  · exact (if_pos (htakes.mpr hB)).trans (if_pos (.inr hB)).symm
  · exact (if_neg (mt htakes.mp hB)).trans (if_neg (not_or.mpr ⟨hA, hB⟩)).symm

/-! ### PROGRAM_LOAD and PROGRAM_UNLOAD (09 R253, R255) -/

section
variable {p slot addr : Nat} {len : ImageRef} {q : Partition}

theorem execProgramLoad_runs (hs : Serves h [1, 4, 5, 6, 7] s) (hslot : slot ≤ 15) (hq : s.reed.parts.find p = some q) (ht : tenantOk h q.tenant s = true)
    (hrev : isRevoking s q.tenant = false) : execProgramLoad h p slot addr len s = .next (runLoad h p slot addr len q s) :=
  (command_runs (row := { boxes := boxF ++ boxT }) hs (by simp [partDenied, hq, ht, hrev]) (by simp [hslot, hq])).trans (by simp [hq])

theorem runLoad_occupied (hk : (s.reed.images.find (16 * slot + p)).isSome = true) : runLoad h p slot addr len q s = reply h 2 [] s := if_pos hk

/-- What is read here leaves the load's mailbox as it is. -/
theorem readHere_hdr (t : Nat) (ecc : Ecc) (l : Loading) (s : State) : (readHere t ecc l s).1.hdr = l.hdr := by
  refine foldl_keeps (fun x : Loading × State => x.1.hdr) (fun x y => ?_) (loadLines l) (l, s)
  cases lineAt x.2 t (128 * y.1.1) with
  | here a => exact (apply_ite (fun x : Loading × State => x.1.hdr) ..).trans (ite_self _)
  | far node off => rfl
  | bad => rfl

section
variable (hk : s.reed.images.find (16 * slot + p) = none)
include hk

theorem runLoad_waits (hw : loadWaits s q.tenant addr len.len = true) :
    runLoad h p slot addr len q s = awaitHbm (.programLoad h p slot addr len) h.mbx s := by
  simp [runLoad, imageKey, hk, hw]

section
variable (hw : loadWaits s q.tenant addr len.len = false) {l : Loading} {t : State}
  (hr : readHere q.tenant len.ecc { hdr := h, partition := p, slot := slot, addr := addr, len := len.len } s = (l, t))
include hw hr

theorem runLoad_finishes (hf : l.bad = true ∨ farLines t q.tenant l = []) : runLoad h p slot addr len q s = finishLoad l t := by
  have hdone : (l.bad || (farLines t q.tenant l).isEmpty) = true := by simpa using hf
  simp [runLoad, imageKey, hk, hw, hr, hdone]

/-- The lines that other nodes hold are asked for, and the load is kept until they have come. -/
theorem runLoad_asks (hb : l.bad = false) (hf : farLines t q.tenant l ≠ []) : runLoad h p slot addr len q s =
    (farLines t q.tenant l).foldl (fun s y => issue (readRequest s y.2.1 q.tenant y.2.2 false) (.image h.mbx y.1) s)
      (t.onReed (fun r => { r with loading := r.loading.put h.mbx { l with left := (farLines t q.tenant l).length } })) := by
  have hhdr : l.hdr = h := by
    have := readHere_hdr q.tenant len.ecc { hdr := h, partition := p, slot := slot, addr := addr, len := len.len } s
    rwa [hr] at this
  simp [runLoad, imageKey, hk, hw, hr, hb, hf, settleLoad, hhdr]

end

end

end

/-! The rows of R253 once the image has been read: occupied, unread, malformed, too large, loaded. -/

section
variable {l : Loading} {q : Partition} (hq : s.reed.parts.find l.partition = some q)
include hq

theorem finishLoad_occupied (hk : (s.reed.images.find (16 * l.slot + l.partition)).isSome = true) : finishLoad l s = reply l.hdr 2 [] s := by
  simp [finishLoad, imageKey, hq, hk, msBusy]

section
variable (hk : s.reed.images.find (16 * l.slot + l.partition) = none)
include hk

theorem finishLoad_unread (hb : l.bad = true) : finishLoad l s = reply l.hdr 8 (failCause (Config.causeByte 6)) s := by
  simp [finishLoad, imageKey, hq, hk, hb, msFailed]

section
variable {b : List Byte} (hlines : (List.range l.lines.length).flatMap (fun i => l.lines.look i []) = b) (hb : l.bad = false)
include hlines hb

theorem finishLoad_refused (hbad : imageOk b (clustersOf q.mask).length = false ∨ 61440 < textBytes s l.partition + leAt b 8 4) :
    finishLoad l s = reply l.hdr 4 [] s := by
  obtain hbad | hbad := hbad <;> simp [finishLoad, imageKey, hq, hk, hlines, hb, hbad, msBadArg]

theorem finishLoad_loads (hok : imageOk b (clustersOf q.mask).length = true) (hfits : textBytes s l.partition + leAt b 8 4 ≤ 61440) :
    let count := (s.reed.loads.look (16 * l.slot + l.partition) 0 + 1) % 256
    let u := bumpEpoch s
    let img := imageOf b count u.sec.epoch
    finishLoad l s = reply l.hdr 0 (pack [.num 2 (l.partition + 16 * l.slot + 256 * count), .bytes (leBytes img.digest.toNat 32), .num 8 u.sec.epoch])
      (u.onReed (fun r => { r with loads := r.loads.put (16 * l.slot + l.partition) count, images := r.images.put (16 * l.slot + l.partition) img })) := by
  simp [finishLoad, imageKey, hq, hk, hlines, hb, hok, hfits, msOk, epochField]

end

end

end

section
variable {id : Nat} (ht : ∀ q, s.reed.parts.find (id % 16) = some q → tenantOk h q.tenant s = true)
include ht

theorem unload_allowed : (match s.reed.parts.find (id % 16) with | some p => !tenantOk h p.tenant s | none => false) = false := by
  split
  · next q hq => simp [ht q hq]
  · rfl

variable (hs : Serves h [1, 4, 5, 6, 7] s)
include hs

theorem execProgramUnload_absent (hi : findImage s id = none) : execProgramUnload h id s = .next (reply h 4 [] s) :=
  command_bad_arg (row := { boxes := boxF ++ boxT }) hs (unload_allowed ht) (by simp [hi])

theorem execProgramUnload_runs (hi : findImage s id ≠ none) (hid : id ≤ 65535) : execProgramUnload h id s = .next (
    if imageBusy s (id % 256) then reply h 2 [] s
    else reply h 0 [] (bumpEpoch (s.onReed (fun r => { r with images := r.images.del (id % 256) })))) :=
  command_runs (row := { boxes := boxF ++ boxT }) hs (unload_allowed ht) (by simp [hid, Option.isSome_iff_ne_none, hi])

end

/-! ### MEMBER_ARM (10 R301) -/

theorem execMemberArm_runs {a : MemberArmArgs} (hs : Serves h [0, 4, 5, 6, 7] s) (hb : s.svc.bridge = true) (ht : tenantOk h a.tenant s = true)
    (hrev : isRevoking s a.tenant = false) (hbad : armBad a s = false) : execMemberArm h a s = .next (runArm h a s) :=
  command_runs (row := { boxes := boxH ++ boxT }) hs (by simp [hb, ht, hrev]) hbad

/-- The operation that a member is armed for. -/
def armedOp (a : MemberArmArgs) (now : Nat) : MemberOp :=
  { opid := a.opid, gen := a.gen, tenant := a.tenant, members := a.members, position := a.position, prog := a.prog, timeout := a.timeout, armedAt := now }

theorem runArm_eq (h : MHdr) (a : MemberArmArgs) (s : State) : runArm h a s =
    if s.svc.node = none ∨ memberBusy s a.group = true then reply h 2 [] s
    else if entryDigest a.group a.gen a.tenant a.members ≠ a.digest then
      reply h 4 [] (s.onSvc (fun v => { v with armRefusals := v.armRefusals + 1 }))
    else reply h 0 [] (s.onColl (fun c => { c with members := c.members.put a.group (armedOp a s.svc.now) })) := by
  simp [runArm, armedOp, msBusy, msBadArg, msOk]

/-! ### The statement -/

/-- Settles O51: the law of each command's outcome where it is served. -/
theorem groupAndProgramCommandsComplete : Obligations.GroupAndProgramCommandsComplete := by
  unfold Obligations.GroupAndProgramCommandsComplete
  refine ⟨?install, ?staged, ?remove, ?memberRemove, ?partitionSet, ?load, ?finish, ?unload, ?arm⟩
  case install =>
    intro h p s hs hb hrev drop
    refine ⟨fun hp => ?bad, fun hp hbusy => ?busy, fun hp hn ho => ⟨fun hl => ?discards, fun l hl => ?continues⟩⟩
    case bad =>
      cases hl : stagedFor s p with
      | none => exact (execGroupInstall_runs hs hb hrev (.inr hl)).trans (congrArg _ (runInstall_discards (.inl hp) hl))
      | some l => exact execGroupInstall_bad hs hb hrev hp hl
    case busy => exact (execGroupInstall_runs hs hb hrev (.inl hp)).trans (congrArg _ (runInstall_busy hp hbusy))
    case discards => exact (execGroupInstall_runs hs hb hrev (.inl hp)).trans (congrArg _ (runInstall_discards (.inr ⟨hn, ho⟩) hl))
    case continues =>
      refine (execGroupInstall_runs hs hb hrev (.inl hp)).trans (congrArg _ ?_)
      dsimp only
      split_ifs with hlast hok hfirst
      · exact runInstall_stages hn ho hl hlast
      · exact runInstall_installs hn ho hl (eq_true_of_ne_false hlast) hok
      · exact (runInstall_refuses hn ho hl (eq_true_of_ne_false hlast) hok).trans (by rw [if_pos hfirst]; rfl)
      · exact (runInstall_refuses hn ho hl (eq_true_of_ne_false hlast) hok).trans (by rw [if_neg hfirst])
  case staged =>
    refine fun p s => ⟨fun hf => ?_, fun hf he => ?_, fun e hf he => stagedFor_later hf he⟩
    · simp [stagedFor, hf]
    · simp [stagedFor, hf, he]
  case remove =>
    intro h g s hs hb
    split_ifs with hg ho
    · exact execGroupRemove_absent hs hb hg
    · exact (execGroupRemove_runs hs hb hg).trans (by rw [if_pos ho])
    · exact (execGroupRemove_runs hs hb hg).trans (by rw [if_neg ho]; rfl)
  case memberRemove =>
    intro h g k gen s hs hb hk hgen
    exact ⟨fun ho => (execGroupMemberRemove_runs hs hb hk hgen).trans (by simp [ho]),
      fun ho => (execGroupMemberRemove_runs hs hb hk hgen).trans (by simp [ho])⟩
  case partitionSet => exact fun h p mask t s hs hp hm ht => execPartitionSet_runs hs hp hm ht
  case load =>
    intro h p slot addr len q s hs hslot hq ht hrev r far
    have runs {t : State} (hrun : runLoad h p slot addr len q s = t) : exec (.programLoad h p slot addr len) s = .next t :=
      (execProgramLoad_runs hs hslot hq ht hrev).trans (congrArg _ hrun)
    exact ⟨fun hk => runs (runLoad_occupied hk), fun hk => ⟨fun hw => runs (runLoad_waits hk hw), fun hw hf => runs (runLoad_finishes hk hw rfl hf),
      fun hw hb hf => runs (runLoad_asks hk hw rfl hb hf)⟩⟩
  case finish =>
    intro l q s hq b key
    exact ⟨fun hk => finishLoad_occupied hq hk, fun hk => ⟨fun hb => finishLoad_unread hq hk hb, fun hb hbad => finishLoad_refused hq hk rfl hb hbad,
      fun hb hok hfits => finishLoad_loads hq hk rfl hb hok hfits⟩⟩
  case unload =>
    intro h id s hs ht hid
    split_ifs with hi hbusy
    · exact execProgramUnload_absent ht hs hi
    · exact (execProgramUnload_runs ht hs hi hid).trans (by rw [if_pos hbusy])
    · exact (execProgramUnload_runs ht hs hi hid).trans (by rw [if_neg hbusy]; rfl)
  case arm => exact fun h a s hs hb ht hrev hbad => (execMemberArm_runs hs hb ht hrev hbad).trans (congrArg _ (runArm_eq h a s))

end Sys2Proof.Machine
end

section
/-! Operations as the mailboxes see them (08 R212, R220, R229, 09 R254, R266, 07 R209, 14 R404): OP_START by its outcomes, and the two reads. -/

namespace Sys2Proof.Machine

open Sys2Proof

variable {s : State} {h : MHdr} {a : OpStartArgs} {g : Nat}

/-! ### OP_START (08 R212, R220, 09 R254) -/

theorem startBad_false (hbad : startBad a s = false) : ∃ (e : GroupEntry) (i : Nat × Image) (q : Partition),
    s.coll.groups.find a.group = some e ∧ findImage s a.progId = some i ∧ s.reed.parts.find (a.progId % 16) = some q := by
  unfold startBad at hbad
  split at hbad
  · next e i q he hi hq => exact ⟨e, i, q, he, hi, hq⟩
  · exact absurd hbad (by decide)

section
variable (hs : Serves h [1, 4, 5, 6, 7] s)
include hs

theorem execOpStart_denied (hd : groupDenied h a.group s = true ∨ programDenied h a.progId s = true) :
    execOpStart h a s = .next (reply h 3 [] s) :=
  command_denied (row := { boxes := boxF ++ boxT }) hs (by obtain hd | hd := hd <;> simp [hd])

section
variable (hb : s.svc.bridge = false) (hg : groupDenied h a.group s = false) (hp : programDenied h a.progId s = false)
  (hrev : ∀ e, s.coll.groups.find a.group = some e → isRevoking s e.tenant = false)
include hb hg hp hrev

/-- A command that none of the rules of 13 R379 and 14 R413 denies is judged by its arguments. -/
theorem execOpStart_judged : execOpStart h a s = .next (if startBad a s = true then reply h 4 [] s else runOpStart h a s) := by
  have hdenied : (s.svc.bridge || groupDenied h a.group s || programDenied h a.progId s ||
      (match s.coll.groups.find a.group with | some e => isRevoking s e.tenant | none => false)) = false := by
    simp only [hb, hg, hp, Bool.false_or]
    split
    · next e he => exact hrev e he
    · rfl
  cases hbad : startBad a s with
  | true => exact command_bad_arg (row := { boxes := boxF ++ boxT }) hs hdenied hbad
  | false => exact command_runs (row := { boxes := boxF ++ boxT }) hs hdenied hbad

end

end

section
variable {e : GroupEntry} {i : Nat × Image} {q : Partition} (he : s.coll.groups.find a.group = some e) (hi : findImage s a.progId = some i)
  (hq : s.reed.parts.find (a.progId % 16) = some q)
include he hi hq

theorem runOpStart_busy (hbusy : opInFlight s a.group = true ∨ noSendSlot s e.tenant = true ∨ partReloading s q.mask = true) :
    runOpStart h a s = reply h 2 [] s := by
  have hbusy : (opInFlight s a.group || noSendSlot s e.tenant || partReloading s q.mask) = true := by simpa [or_assoc] using hbusy
  simp [runOpStart, he, hi, hq, hbusy, msBusy]

section
variable (ho : opInFlight s a.group = false) (hslot : noSendSlot s e.tenant = false) (hl : partReloading s q.mask = false)
include ho hslot hl

theorem runOpStart_noRoom (hc : startContexts (.op a.group) i.1 i.2 q.mask s = none) : runOpStart h a s = reply h 2 [] s := by
  simp [runOpStart, he, hi, hq, ho, hslot, hl, hc, msBusy]

theorem runOpStart_starts {t : State} (hc : startContexts (.op a.group) i.1 i.2 q.mask s = some t) :
    runOpStart h a s = reply h 0 [] (startOp a e i.2 t) := by
  simp [runOpStart, he, hi, hq, ho, hslot, hl, hc, msOk]

end

end

/-! ### OP_STATUS_READ and RED_SUMMARY_READ (08 R229, 07 R209) -/

section
variable (hs : Serves h [1, 4, 5, 6, 7] s)
include hs

theorem execOpStatusRead_eq (hb : s.svc.bridge = false) (hg : groupDenied h g s = false) : execOpStatusRead h g s = .next (
    if s.coll.groups.find g = none then reply h 4 [] s else reply h 0 (opStatus s g) s) := by
  split_ifs with hn
  · exact command_bad_arg (row := { boxes := boxF ++ boxT }) hs (by simp [hb, hg]) (by simp [hn])
  · exact command_runs (row := { boxes := boxF ++ boxT }) hs (by simp [hb, hg]) (by simpa [Option.isSome_iff_ne_none] using hn)

theorem execRedSummaryRead_eq :
    let mine := s.coll.summaries.filter (fun x => tenantOk h x.tenant s)
    execRedSummaryRead h s = .next (reply h 0 (pack (.num 2 mine.length :: mine.flatMap (summaryBytes s))) s) :=
  command_runs (row := { boxes := boxF ++ boxT }) hs rfl rfl

end

/-! ### The statement -/

/-- Settles O52: the order of OP_START's checks, its outcomes once they have passed, and the two reads. -/
theorem operationCommandsComplete : Obligations.OperationCommandsComplete := by
  unfold Obligations.OperationCommandsComplete
  refine ⟨?start, ?denied, ?startOp, ?status, ?summary⟩
  case start =>
    intro h a s hs hb hg hp hrev
    have judged := execOpStart_judged hs hb hg hp hrev
    refine ⟨fun hbad => judged.trans (by rw [if_pos hbad]), fun hbad => ?_⟩
    have runs {t : State} (ht : runOpStart h a s = t) : exec (.opStart h a) s = .next t := judged.trans (by simp [hbad, ht])
    obtain ⟨e, i, q, he, hi, hq⟩ := startBad_false hbad
    exact ⟨e, i, q, he, hi, hq, fun hbusy => runs (runOpStart_busy he hi hq hbusy), fun ho hslot hl =>
      ⟨fun hc => runs (runOpStart_noRoom he hi hq ho hslot hl hc), fun t hc => runs (runOpStart_starts he hi hq ho hslot hl hc)⟩⟩
  case denied => exact fun h a s hs hd => execOpStart_denied hs hd
  case startOp => exact fun a e i s => rfl
  case status => exact fun h g s hs hb hg => execOpStatusRead_eq hs hb hg
  case summary => exact fun h s hs => execRedSummaryRead_eq hs

end Sys2Proof.Machine
end

section
/-! Traffic of an operation at its plane (08 R223 to R226, R231, R233, R235 to R238, R244 to R247): each row by its checks in order, the forming and
the delivery of results, and the timers. -/

namespace Sys2Proof.Machine

open Sys2Proof

variable {s : State} {g c port : Nat} {p : Packet} {ecc : Ecc} {op : Op} {x : Chunk}

/-! ### The rows of the agents' packets -/

/-- The rows of the packets that the part's agents take, each with its opcode. -/
def agentRows (port : Nat) (p : Packet) (ecc : Ecc) : List (Instr × Nat) :=
  [(.redPut port p ecc, opRedPut), (.redRes port p, opRedRes), (.redCredit port p, opRedCredit), (.opDone port p, opOpDone), (.opAbort port p, opOpAbort),
    (.ringPart port { pkt := p, ecc := ecc }, opRingPart), (.ringRes port p, opRingRes), (.msgSend port p ecc, opMsgSend), (.msgAck port p, opMsgAck),
    (.maskSet port p, opMaskSet), (.maskAck port p, opMaskAck), (.keyMsg port p, opKeyMsg)]

/-- Each of them is an `agentRow`; RED_RES may wait instead, at a bridge, on a port that is there (15 R430). -/
theorem agentRows_cases {i : Instr × Nat} (hi : i ∈ agentRows port p ecc) (s : State) :
    (∃ run, exec i.1 s = agentRow i.2 port p run s) ∨ ((isPort port = true ∨ port = outLocal) ∧ exec i.1 s = .next s) := by
  simp only [agentRows, List.mem_cons, List.not_mem_nil, or_false] at hi
  rcases hi with rfl | rfl | rfl | rfl | rfl | rfl | rfl | rfl | rfl | rfl | rfl | rfl
  case inr.inl =>
    by_cases hw : (s.svc.bridge && !s.svc.hbmResetting.isEmpty && (isPort port || port == outLocal)) = true
    · exact .inr ⟨by simpa using (Bool.and_eq_true_iff.mp hw).2, if_pos hw⟩
    · exact .inl ⟨_, if_neg hw⟩
  all_goals exact .inl ⟨_, by unfold exec; rfl⟩

theorem whenReady_ready (hm : s.svc.mod = .ready) (f : State → State) : whenReady s f = f s := by simp [whenReady, isReady, hm]

/-! ### Contributions (08 R223, 07 R204, R208) -/

/-- A packet makes its plane abort its operation, with its chunk in the record (08 R233). -/
def abortFor (p : Packet) (reason : Nat) (s : State) : State := wakeComputes (originate p.group reason (some p.chunk) s)

theorem execRedPut_runs (hp : isPort port = true ∨ port = outLocal) (hm : s.svc.mod = .ready) (hd : p.dst = selfNode s ∨ p.mcast = true)
    (ho : p.op = opRedPut) : execRedPut port p ecc s = .next (putArrives port (opened s p) ecc (takeLocal p s)) :=
  agentRow_runs hp hm hd ho

theorem putArrives_unopened (ho : openOp s p = none) : putArrives port p ecc s = countCollStale port s := by simp [putArrives, ho]

section
variable (ho : openOp s p = some op)
include ho

theorem putArrives_stale (ha : authCheck p s = .stale) :
    putArrives port p ecc s = if pastFence p.tenant.toNat s then countCollStale port s else discardStale port s := by
  simp [putArrives, ho, ha]

theorem putArrives_unsure (ha : authCheck p s = .fail) : putArrives port p ecc s = abortFor p rsAuthFail (discardUnsure port s) := by
  simp [putArrives, ho, ha, abortFor]

section
variable (ha : authCheck p s = .ok)
include ha

theorem putArrives_malformed (hf : flagsBad p = true) : putArrives port p ecc s = discardMalformed port 7 p s := by simp [putArrives, ho, ha, hf]

section
variable (hf : flagsBad p = false)
include hf

theorem putArrives_unplaced (h : chunkOf op p.chunk = none ∨ positionOf s p.group p.src = none) :
    putArrives port p ecc s = abortFor p rsFormatError s := by
  obtain h | h := h
  · simp [putArrives, ho, ha, hf, h, abortFor]
  · cases hx : chunkOf op p.chunk <;> simp [putArrives, ho, ha, hf, h, hx, abortFor]

theorem putArrives_placed {pos : Nat} (hx : chunkOf op p.chunk = some x) (hpos : positionOf s p.group p.src = some pos) :
    let r := contributionCheck op x pos p ecc s
    putArrives port p ecc s =
      if contributionOk s op x pos p = false then abortFor p rsFormatError s
      else if r.1 then takeContribution op x pos p r.2 else abortFor p rsDataLost r.2 := by
  simp [putArrives, ho, ha, hf, hx, hpos, abortFor]

end

end

end

/-! ### Results (08 R224, 06 R156) -/

theorem runningChunk_iff : runningChunk s g c = some (op, x) ↔ s.op g = some op ∧ op.phase = .running ∧ op.record = none ∧ chunkOf op c = some x := by
  constructor
  · intro h
    unfold runningChunk at h
    split at h
    · next o ho =>
      split at h
      · cases h
      · next hopen =>
        obtain ⟨y, hy, e⟩ := Option.map_eq_some_iff.mp h
        obtain ⟨rfl, rfl⟩ := Prod.mk.inj e
        obtain ⟨hphase, hrec⟩ : o.phase = .running ∧ o.record = none := by simpa using hopen
        exact ⟨ho, hphase, hrec, hy⟩
    · cases h
  · rintro ⟨ho, hphase, hrec, hx⟩
    simp [runningChunk, ho, hphase, hrec, hx]

section
variable (hr : runningChunk s g c = some (op, x))
include hr

theorem injection_formed (hf : x.formed = true ∨ x.emitted ≠ []) : injection g c ecc s = wakeStores g c (injectChunk g c s) := by
  have hf : (x.formed || !x.emitted.isEmpty) = true := by simpa using hf
  simp [injection, hr, hf]

theorem injection_unformed (hf : x.formed = false) (he : x.emitted = []) :
    let r := scratchCheck (elemCluster s op 0) (slotWords g op c 0 (chunkElems op.prog) s) ecc s
    injection g c ecc s =
      if r.1 = false then wakeComputes (originate g rsDataLost (some c) r.2) else formResults g c (retryWeights g c r.2) := by
  simp [injection, hr, hf, he]

/-! The results of a chunk are formed from its slots as they stand. -/

section
variable {op' : Op} {x' : Chunk} {v : State} (hv : syncOpen g c 0 (inElems op.prog c) s = v) (hr' : runningChunk v g c = some (op', x'))
include hv hr'

theorem formResults_waits (h : chunkReady op' (memberCount v g) x' = false ∨ isStalled op' c = true) : formResults g c s = v := by
  obtain h | h := h <;> simp [formResults, hr, hv, hr', h]

section
variable (hready : chunkReady op' (memberCount v g) x' = true) (hst : isStalled op' c = false)
include hready hst

theorem formResults_ring (hring : isRing op' = true) : formResults g c s = injectChunk g c (setFormed g c (ringResults op' c) [] v) := by
  simp [formResults, hr, hv, hr', hready, hst, hring]

theorem formResults_forms (hring : isRing op' = false) : formResults g c s =
    match formChunk op' (memberCount v g) (placeOf op' v c) x' v with
    | .ok pays cls t => injectChunk g c (setFormed g c pays cls (clearStall g c t))
    | .stall a => noteStall g c a v
    | .cause k => opFault g op' k c v
    | .lost t => wakeComputes (originate g rsDataLost (some c) t) := by
  cases hform : formChunk op' (memberCount v g) (placeOf op' v c) x' v <;> simp [formResults, hr, hv, hr', hready, hst, hring, hform]

end

end

end

theorem retryWeights_unweighted (hw : ∀ op x, runningChunk s g c = some (op, x) → op.prog.weighted = false) : retryWeights g c s = s := by
  unfold retryWeights
  split
  · next op x hr => simp [hw op x hr]
  · rfl

/-! ### Delivery and closing (08 R225, R226) -/

theorem closeIf_open (ho : s.op g = some op) (hx : chunkOf op c = some x) :
    closeIf g c s = if x.formed = true ∧ x.ready = [] ∧ x.notices = [] then
      checkDone g (openChunks g op.prog.w (s.onOp g (fun o => { o with
        chunks := o.chunks.filter (fun y => y.idx != c), closedCount := o.closedCount + 1
        partials := o.partials.filter (fun y => y.1 / 65536 != c), gathered := o.gathered.filter (fun y => y.1 / 65536 != c) }))) else s := by
  simp [closeIf, ho, hx, and_assoc]

/-! ### Ring packets (08 R244 to R246) -/

/-- What becomes of a ring packet that has its slot, by its opcode. -/
def takeRing (o : Nat) (p : Packet) (ecc : Ecc) (g : Nat) (op : Op) (s : State) : State :=
  if o = opRingPart then takePartial p ecc g op s else takeGathered p g op s

/-- Both rows take their packet through the same checks. -/
theorem ringRow_eq {row : Instr}
    (hrow : row = .ringPart port { pkt := p, ecc := ecc } ∧ p.op = opRingPart ∨ row = .ringRes port p ∧ p.op = opRingRes) (s : State) :
    exec row s = agentRow p.op port p (fun q => ringArrives port q (takeRing p.op q ecc)) s := by
  obtain ⟨rfl, ho⟩ | ⟨rfl, ho⟩ := hrow <;> rw [ho] <;> rfl

section
variable {take : Nat → Op → State → State} (ha : authCheck p s = .ok) (hf : flagsBad p = false)
include ha hf

theorem ringArrives_unnamed (hn : ringOp s p = none) : ringArrives port p take s = countCollStale port s := by
  simp [ringArrives, pktChecked_ok ha, hf, hn]

theorem ringArrives_named (hn : ringOp s p = some (g, op)) : ringArrives port p take s =
    if ringSlot s op p.chunk p.pidx = false then countCollStale port s else take g op (onChunk g p.chunk (fun x => { x with last := s.svc.now }) s) := by
  simp [ringArrives, pktChecked_ok ha, hf, hn]

end

/-! ### Timers (08 R229, R231, R233, R238, R247) -/

theorem execChunkStall_absent (h : ∀ op, s.op g = some op → chunkOf op c = none) : execChunkStall g c s = .next s := by
  cases ho : s.op g with
  | none => simp [execChunkStall, ho]
  | some op => simp [execChunkStall, ho, h op ho]

theorem execOperationTimeout_absent (ho : s.op g = none) : execOperationTimeout g s = .next s := by simp [execOperationTimeout, ho]

theorem planeSettled_absent (ho : s.op g = none) : planeSettled g s = s := by simp [planeSettled, ho]

/-- The interval of an operation that aborts or is done ends 10 ms after it began; what waited for it is then applied. -/
theorem planeSettled_open (ho : s.op g = some op) : planeSettled g s =
    if (op.phase = .aborting ∨ op.phase = .done) ∧ op.settleAt + 10000000 ≤ s.svc.now then
      wakeComputes (op.removals.foldl (fun s r => applyRemoval g r s) (s.onOp g (fun o => { o with phase := .closed, removals := [] }))) else s := by
  have hearly : (!(op.phase == .aborting || op.phase == .done) || decide (s.svc.now < op.settleAt + settleNs)) = true ↔
      ¬((op.phase = .aborting ∨ op.phase = .done) ∧ op.settleAt + settleNs ≤ s.svc.now) := by
    simp [imp_iff_not_or]
  simp only [planeSettled, ho, hearly, ite_not]
  rfl

section
variable (hm : s.svc.mod = .ready)
include hm

theorem execAbortSettleEnd_runs (g : Nat) : execAbortSettleEnd g false s = .next (planeSettled g s) := congrArg _ (whenReady_ready hm _)

theorem execChunkStall_open (ho : s.op g = some op) (hx : chunkOf op c = some x) : execChunkStall g c s = .next (
    if x.last + op.prog.stallMs * 1000000 ≤ s.svc.now then
      wakeComputes (originate g (if isRing op && chunkFull op (memberCount s g) x then rsPathLost else rsMemberTimeout) (some c) s) else s) := by
  by_cases hdue : x.last + op.prog.stallMs * 1000000 ≤ s.svc.now
  · simp [execChunkStall, ho, hx, isReady, hm, hdue]
  · simp [execChunkStall, ho, hx, isReady, hm, hdue, Nat.not_le.mp hdue]

theorem execOperationTimeout_open (ho : s.op g = some op) : execOperationTimeout g s = .next (
    if op.timeout ≠ 0 ∧ op.startAt + op.timeout ≤ s.svc.now then wakeComputes (originate g rsTimeout none s) else s) := by
  by_cases hdue : op.timeout ≠ 0 ∧ op.startAt + op.timeout ≤ s.svc.now
  · simp [execOperationTimeout, ho, isReady, hm, hdue]
  · rw [if_neg hdue]
    simp only [execOperationTimeout, ho, isReady, hm]
    refine congrArg _ (if_pos ?_)
    rw [not_and_or, not_not] at hdue
    simpa using hdue

end

/-! ### Packets that only a member takes, and OP_ABORT (08 R218, R235 to R237) -/

theorem namedOp_iff : namedOp s p = some op ↔
    isColl p = true ∧ s.op p.group = some op ∧ op.phase ≠ .closed ∧ op.gen = p.gen ∧ op.opid.toNat % 2 ^ 16 = p.opseq := by
  simp [namedOp, Option.filter_eq_some_iff, and_assoc, and_left_comm]

theorem mgtChecked_eq (port : Nat) (p : Packet) (bad : Bool) (go : State → State) (s : State) : mgtChecked port p bad go s =
    if pastFence p.tenant.toNat s = true then discardStale port s else if bad = true then discardMalformed port 7 p s else go s := rfl

section
variable (hp : isPort port = true ∨ port = outLocal) (hm : s.svc.mod = .ready) (hb : s.svc.bridge = false) (hd : p.dst = selfNode s ∨ p.mcast = true)
include hp hm hb hd

theorem execRedCredit_plane (ho : p.op = opRedCredit) : execRedCredit port p s = .next (
    let k := opened s p
    let u := takeLocal p s
    if pastFence k.tenant.toNat u = true then discardStale port u
    else if flagsBad k = true ∨ k.arg 0 8 = 0 then discardMalformed port 7 k u else countCollStale port u) := by
  refine (agentRow_runs hp hm hd ho).trans ?_
  simp [mgtChecked_eq, hb]

theorem execOpDone_plane (ho : p.op = opOpDone) : execOpDone port p s = .next (
    let k := opened s p
    let u := takeLocal p s
    if pastFence k.tenant.toNat u = true then discardStale port u
    else if flagsBad k = true then discardMalformed port 7 k u else countCollStale port u) := by
  refine (agentRow_runs hp hm hd ho).trans ?_
  simp [mgtChecked_eq, hb]

theorem execRedRes_plane (ho : p.op = opRedRes) : execRedRes port p s = .next (
    memberDone (opened s p).group (pktChecked port (opened s p) (flagsBad (opened s p)) (countCollStale port) (takeLocal p s))) := by
  have hrow : ¬(s.svc.bridge && !s.svc.hbmResetting.isEmpty && (isPort port || port == outLocal)) = true := by simp [hb]
  refine ((if_neg hrow).trans (agentRow_runs hp hm hd ho)).trans ?_
  simp [pktChecked, hb]

theorem execOpAbort_plane (ho : p.op = opOpAbort) : execOpAbort port p s = .next (
    let k := opened s p
    let u := takeLocal p s
    if pastFence k.tenant.toNat u = true ∧ namedOp u k = none then discardStale port u
    else if abortBad k = true then discardMalformed port 7 k u else abortAtPlane port k u) := by
  refine (agentRow_runs hp hm hd ho).trans ?_
  simp [settlesHere, hb]

end

/-! ### The statement -/

/-- Settles O53: a packet's row leads to its checks, whose laws follow their order; results, delivery and timers by the laws of their own rows. -/
theorem planeTrafficCompletes : Obligations.PlaneTrafficCompletes := by
  unfold Obligations.PlaneTrafficCompletes
  refine ⟨?rows, ?put, ?running, ?injection, ?form, ?weights, ?notice, ?close, ?ring, ?stall, ?timers, ?plane, ?named⟩
  case rows =>
    intro port p ecc i s hi
    refine ⟨fun hp h => ?ignored, fun hp hl => ?noPort⟩
    case ignored =>
      obtain ⟨run, e⟩ | ⟨_, e⟩ := agentRows_cases hi s
      · exact e.trans (agentRow_ignores hp h)
      · exact e
    case noPort =>
      obtain ⟨run, e⟩ | ⟨hp', _⟩ := agentRows_cases hi s
      · exact e.trans (agentRow_noPort hp hl)
      · exact absurd hp' (by simp [hp, hl])
  case put =>
    intro port p ecc s hp hm hd ho k u stale abort
    have leads {t : State} (ht : putArrives port k ecc u = t) : exec (.redPut port p ecc) s = .next t :=
      (execRedPut_runs hp hm hd ho).trans (congrArg _ ht)
    exact ⟨fun hn => leads (putArrives_unopened hn), fun op hop => ⟨fun ha => leads (putArrives_stale hop ha), fun ha => leads (putArrives_unsure hop ha),
      fun ha hf => leads (putArrives_malformed hop ha hf), fun ha hf => ⟨fun h => leads (putArrives_unplaced hop ha hf h),
      fun x pos hx hpos => leads (putArrives_placed hop ha hf hx hpos)⟩⟩⟩
  case running => exact fun g c op x s => runningChunk_iff
  case injection =>
    intro g c ecc s hm
    have leads {t : State} (ht : injection g c ecc s = t) : exec (.redResInjection g c ecc) s = .next t :=
      congrArg _ ((whenReady_ready hm _).trans ht)
    refine ⟨fun hn => leads (by simp [injection, hn]), fun op x hr => ?_⟩
    refine ⟨fun hf => leads (injection_formed hr hf), fun hf he => ⟨fun hc => ?_, fun hc => ?_⟩⟩
    · exact leads ((injection_unformed hr hf he).trans (if_pos hc))
    · exact leads ((injection_unformed hr hf he).trans (if_neg (ne_false_of_eq_true hc)))
  case form =>
    refine fun g c s => ⟨fun hn => by simp [formResults, hn], fun op x hr => ⟨syncOpen_running _ _ (by simp [hr]), fun op' x' hr' => ?_⟩⟩
    exact ⟨formResults_waits hr rfl hr', formResults_ring hr rfl hr', formResults_forms hr rfl hr'⟩
  case weights => exact fun g c s hw => retryWeights_unweighted hw
  case notice =>
    intro g c i s hm
    refine congrArg Host.Outcome.next ((whenReady_ready hm _).trans ?_)
    unfold deliver
    split
    · next hd => rw [hd]
    · next d hd => rw [hd]; rfl
  case close => exact fun g c op x s ho hx => closeIf_open ho hx
  case ring =>
    intro port p ecc row s hp hm hd hrow k u stale
    have leads {t : State} (ht : ringArrives port k (takeRing p.op k ecc) u = t) : exec row s = .next t :=
      (ringRow_eq hrow s).trans ((agentRow_runs hp hm hd rfl).trans (congrArg _ ht))
    refine ⟨fun ha => leads (pktChecked_stale ha), fun ha => leads (pktChecked_unsure ha), fun ha hf => leads ((pktChecked_ok ha).trans (if_pos hf)),
      fun ha hf => ⟨fun hn => leads (ringArrives_unnamed ha hf hn), fun g op hn => ⟨fun hs => ?_, fun hs => ?_⟩⟩⟩
    · exact leads ((ringArrives_named ha hf hn).trans (if_pos hs))
    · exact leads ((ringArrives_named ha hf hn).trans (if_neg (ne_false_of_eq_true hs)))
  case stall => exact fun g c s hm => ⟨execChunkStall_absent, fun op x ho hx => execChunkStall_open hm ho hx⟩
  case timers =>
    refine fun g s hm => ⟨fun hn => ⟨execOperationTimeout_absent hn, ?_⟩, fun op ho => ⟨execOperationTimeout_open hm ho, ?_⟩⟩
    · exact (execAbortSettleEnd_runs hm g).trans (congrArg _ (planeSettled_absent hn))
    · exact (execAbortSettleEnd_runs hm g).trans (congrArg _ (planeSettled_open ho))
  case plane =>
    intro port p s hp hm hb hd k u stale t
    refine ⟨execRedCredit_plane hp hm hb hd, execOpDone_plane hp hm hb hd, fun ho => (execRedRes_plane hp hm hb hd ho).trans ?_,
      fun ho => (execOpAbort_plane hp hm hb hd ho).trans ?_⟩
    · rfl
    · rfl
  case named => exact fun p op s => namedOp_iff

end Sys2Proof.Machine
end

section
/-! The scalar registers of a context (09 R260). -/

namespace Sys2Proof.Machine

open Sys2Proof

variable {s : State} {x : CtxId} {d r : BitVec 5} {v : BitVec 64}

/-- The context just updated reads as updated. -/
@[simp] theorem State.onCtx_ctx_self (x : CtxId) (f : Ctx → Ctx) (s : State) : (s.onCtx x f).ctx x = f (s.ctx x) := by
  simp [State.onCtx, State.ctx]

@[simp] theorem sreg_zero (c : Ctx) : sreg c 0 = 0 := rfl

theorem sreg_of_ne_zero (c : Ctx) (hr : r ≠ 0) : sreg c r = c.sregs.look r.toNat 0 := if_neg (by simpa using hr)

theorem setS_zero : setS x (0 : BitVec 5).toNat v s = s := rfl

theorem setS_of_ne_zero (hd : d ≠ 0) : setS x d.toNat v s = s.onCtx x (fun c => { c with sregs := c.sregs.put d.toNat v }) :=
  if_neg (by simpa using fun h => hd (BitVec.eq_of_toNat_eq h))

theorem sreg_setS_self (hd : d ≠ 0) : sreg ((setS x d.toNat v s).ctx x) d = v := by
  simp [setS_of_ne_zero hd, sreg_of_ne_zero _ hd]

theorem sreg_setS_ne (hr : r ≠ d) : sreg ((setS x d.toNat v s).ctx x) r = sreg (s.ctx x) r := by
  by_cases hd : d = 0
  · rw [hd, setS_zero]
  · by_cases hr0 : r = 0
    · rw [hr0, sreg_zero, sreg_zero]
    · have hne : r.toNat ≠ d.toNat := fun h => hr (BitVec.eq_of_toNat_eq h)
      simp [setS_of_ne_zero hd, sreg_of_ne_zero _ hr0, Map.look_put_ne _ _ _ hne]

/-- A write to a scalar register changes no vector register, no operation and nothing at the home. -/
theorem setS_frame (x : CtxId) (n : Nat) (v : BitVec 64) (s : State) :
    ((setS x n v s).ctx x).vregs = (s.ctx x).vregs ∧ (setS x n v s).coll = s.coll ∧ (setS x n v s).home = s.home := by
  unfold setS
  split
  · exact ⟨rfl, rfl, rfl⟩
  · exact ⟨by simp, rfl, rfl⟩

/-- Settles O57: a register other than S0 is an entry of the context's map, and S0 is none. -/
theorem scalarRegistersReadBack : Obligations.ScalarRegistersReadBack := by
  unfold Obligations.ScalarRegistersReadBack
  exact fun x d v s => ⟨sreg_zero _, fun hd => hd ▸ setS_zero, sreg_setS_self, fun r => sreg_setS_ne, setS_frame x d.toNat v s⟩

end Sys2Proof.Machine
end

section
/-! The ballast settings (09 R283, 14 R404): BALLAST_SET and BALLAST_READ, and the control interval at which the values take effect. -/

namespace Sys2Proof.Machine

open Sys2Proof

variable {s : State} {h : MHdr} {floor down up : Nat}

/-! ### The control interval -/

/-- FLOOR, DOWN and UP in force, and those that wait for the next control interval. -/
def ballastSettings (s : State) : (Nat × Nat × Nat) × Option (Nat × Nat × Nat) := ((s.pwr.floor, s.pwr.downRate, s.pwr.upRate), s.pwr.ballastNext)

@[simp] theorem ballastSettings_sample (pin : Nat) (s : State) : ballastSettings (s.onPwr (sample pin)) = ballastSettings s := by
  simp only [ballastSettings, State.onPwr_pwr, sample]
  split <;> rfl

@[simp] theorem ballastSettings_moveTarget (s : State) : ballastSettings (moveTarget s) = ballastSettings s := by
  simp only [moveTarget]
  split
  · rfl
  · split
    · rfl
    · split
      · split <;> rfl
      · rfl

@[simp] theorem ballastSettings_limiter (s : State) : ballastSettings (limiter s) = ballastSettings s := by
  simp only [limiter]
  split
  · rfl
  · split <;> rfl

@[simp] theorem ballastSettings_ballastStep (s : State) : ballastSettings (ballastStep s) = ballastSettings s := rfl

/-- Of an interval's steps the first alone changes the settings. -/
theorem execControlInterval_settings (hm : s.svc.mod = .ready ∨ s.svc.mod = .recovery) (pin : Nat) :
    ∃ t, execControlInterval pin s = .next t ∧ ballastSettings t = ballastSettings (s.onPwr takeBallast) := by
  have hl : limiting s = true := by simpa [limiting] using hm
  exact ⟨_, congrArg Host.Outcome.next (if_pos hl), by simp⟩

theorem ballastSettings_takeBallast_some (hn : s.pwr.ballastNext = some (floor, down, up)) :
    ballastSettings (s.onPwr takeBallast) = ((floor, down, up), none) := by
  simp [ballastSettings, takeBallast, hn]

theorem ballastSettings_takeBallast_none (hn : s.pwr.ballastNext = none) : ballastSettings (s.onPwr takeBallast) = ballastSettings s := by
  simp [ballastSettings, takeBallast, hn]

/-! ### BALLAST_SET -/

theorem execBallastSet_runs (hs : Serves h [1] s)
    (hr : (floor = 0 ∨ (200 ≤ floor ∧ floor ≤ 650)) ∧ (down = 0 ∨ (1 ≤ down ∧ down ≤ 50)) ∧ (up = 0 ∨ (1 ≤ up ∧ up ≤ 50))) :
    execBallastSet h floor down up s = .next (reply h 0 [] { s with pwr := { s.pwr with ballastNext := some (floor, down, up) } }) :=
  command_runs hs rfl (by simp; omega)

theorem execBallastSet_badArg (hs : Serves h [1] s)
    (hr : ¬((floor = 0 ∨ (200 ≤ floor ∧ floor ≤ 650)) ∧ (down = 0 ∨ (1 ≤ down ∧ down ≤ 50)) ∧ (up = 0 ∨ (1 ≤ up ∧ up ≤ 50)))) :
    execBallastSet h floor down up s = .next (reply h 4 [] s) :=
  command_bad_arg hs rfl (by simp; omega)

/-! ### The statement -/

/-- Settles O60: the two commands by the checks of their rows, the settings by what each step of a control interval leaves of them. -/
theorem ballastSettingsFollowTheRule : Obligations.BallastSettingsFollowTheRule := by
  unfold Obligations.BallastSettingsFollowTheRule exec
  refine ⟨?setDenied, ?set, ?takes, ?keeps, ?readDenied, ?read⟩
  case setDenied => exact fun h floor down up s hl hb => command_wrong_box hl hb
  case set => exact fun h floor down up s hs => ⟨execBallastSet_runs hs, execBallastSet_badArg hs⟩
  case takes =>
    intro pin floor down up s hm hn
    obtain ⟨t, ht, hset⟩ := execControlInterval_settings hm pin
    rw [ballastSettings_takeBallast_some hn] at hset
    simp only [ballastSettings, Prod.mk.injEq] at hset
    obtain ⟨⟨hfloor, hdown, hup⟩, hnext⟩ := hset
    exact ⟨t, ht, hfloor, hdown, hup, hnext⟩
  case keeps =>
    intro pin s hm hn
    obtain ⟨t, ht, hset⟩ := execControlInterval_settings hm pin
    rw [ballastSettings_takeBallast_none hn] at hset
    simp only [ballastSettings, Prod.mk.injEq] at hset
    obtain ⟨hforce, -⟩ := hset
    exact ⟨t, ht, hforce⟩
  case readDenied => exact fun h s hl hb => command_wrong_box hl hb
  case read => exact fun h s hs => command_runs hs rfl rfl

end Sys2Proof.Machine
end

section
/-! The issue of an instruction (09 R252, R263, R266; 15 R425; log entry 10), and the scalar and control instructions (09 R260, R261, R263, R266, R271). -/

namespace Sys2Proof.Machine

open Sys2Proof

variable {x : Issue} {row : Instr} {e ecc : Ecc} {w : BitVec 64} {s : State}

/-! ### The row of a word -/

/-- A row under another check of the words it reads; only LD, VLD and HLD carry one. -/
def withEcc (e : Ecc) : Instr → Instr
  | .ld x f _ => .ld x f e
  | .vld x f _ => .vld x f e
  | .hld x f _ => .hld x f e
  | i => i

theorem instrOfWord_withEcc (x : Issue) (e e' : Ecc) (w : BitVec 64) : instrOfWord x e' w = (instrOfWord x e w).map (withEcc e') := by
  unfold instrOfWord
  split <;> rfl

theorem nextInstr_withEcc (x : Issue) (e e' : Ecc) (s : State) : nextInstr x e' s = (nextInstr x e s).map (withEcc e') := by
  unfold nextInstr
  cases textWord s (s.ctx x.id) with
  | none => rfl
  | some w => exact instrOfWord_withEcc x e e' w

section
variable (hrow : ∀ e, withEcc e row = row)
include hrow

/-- A row that carries no check is spelled by a word under every check or under none. -/
theorem nextInstr_of_checkless (e' : Ecc) (hn : nextInstr x e s = some row) : nextInstr x e' s = some row := by
  rw [nextInstr_withEcc x e, hn, Option.map_some, hrow]

/-- The issue of such a row is the same under every check. -/
theorem instruction_of_checkless (e e' : Ecc) (ends : Bool) (run : Ctx → State → State) (s : State) :
    instruction row x e ends run s = instruction row x e' ends run s := by
  cases hn : nextInstr x e s with
  | none =>
    have hn' : nextInstr x e' s = none := by rw [nextInstr_withEcc x e, hn, Option.map_none]
    simp only [instruction, hn, hn']
  | some r =>
    by_cases hr : r = row
    · have hn' := nextInstr_of_checkless hrow e' (hr ▸ hn)
      simp only [instruction, hn, hn', hr]
    · have hn' : nextInstr x e' s = some (withEcc e' r) := by rw [nextInstr_withEcc x e, hn, Option.map_some]
      have hr' : withEcc e' r ≠ row := fun h =>
        hr (Option.some.inj (hn.symm.trans (nextInstr_of_checkless hrow e (h ▸ hn'))))
      simp only [instruction, hn, hn', beq_eq_false_iff_ne.mpr hr, beq_eq_false_iff_ne.mpr hr']

end

/-- The meaning of a row is the issue of an instruction: past the checks of an issue, an effect. -/
def IsIssue (row : Instr) (x : Issue) (ecc : Ecc) (m : State → Host.Outcome State Fault Refusal) : Prop :=
  ∃ ends run, ∀ s, m s = instruction row x ecc ends run s

theorem IsIssue.of_clean {m : State → Host.Outcome State Fault Refusal} (hm : IsIssue row x .clean m) (hrow : ∀ e, withEcc e row = row) :
    IsIssue row x ecc m := by
  obtain ⟨ends, run, hm⟩ := hm
  exact ⟨ends, run, fun s => (hm s).trans (instruction_of_checkless hrow ..)⟩

theorem isIssue_scalar (mk : Issue → SR → Instr) (op : BitVec 64 → BitVec 64 → BitVec 64) (x : Issue) (f : SR) :
    IsIssue (mk x f) x .clean (fun s => scalar mk op x f s) := ⟨_, _, fun _ => rfl⟩

theorem isIssue_shift (mk : Issue → SR → Instr) (op : BitVec 64 → Nat → BitVec 64) (x : Issue) (f : SR) :
    IsIssue (mk x f) x .clean (fun s => shift mk op x f s) := ⟨_, _, fun _ => rfl⟩

theorem isIssue_branch (mk : Issue → SI → Instr) (test : BitVec 64 → BitVec 64 → Bool) (x : Issue) (f : SI) :
    IsIssue (mk x f) x .clean (fun s => branch mk test x f s) := ⟨_, _, fun _ => rfl⟩

theorem isIssue_vector (mk : Issue → VR → Instr) (op : Nat → Nat → Nat → Nat) (x : Issue) (f : VR) :
    IsIssue (mk x f) x .clean (fun s => vector mk op x f s) := ⟨_, _, fun _ => rfl⟩

/-- Every row that a word spells is an issue: LD, VLD and HLD (`h_11`, `h_19`, `h_40` of `instrOfWord`'s table) under the check of the words they read, the
others under any; those that share a shape by the shape's lemma. -/
theorem exec_isIssue (h : instrOfWord x ecc w = some row) : IsIssue row x ecc (fun s => exec row s) := by
  unfold instrOfWord at h
  split at h
  all_goals cases h
  all_goals unfold exec
  case h_11 | h_19 | h_40 => exact ⟨_, _, fun s => rfl⟩
  all_goals refine IsIssue.of_clean ?_ fun _ => rfl
  case h_1 | h_2 | h_3 | h_4 | h_5 | h_6 => exact isIssue_scalar ..
  case h_7 | h_8 | h_9 => exact isIssue_shift ..
  case h_13 | h_14 | h_15 => exact isIssue_branch ..
  case h_21 | h_22 | h_23 | h_24 | h_25 | h_26 | h_27 | h_28 | h_29 | h_30 => exact isIssue_vector ..
  all_goals exact ⟨_, _, fun s => rfl⟩

/-! ### The shapes of scalar and control instructions -/

/-- A check of reserved bits before an effect whose next state is known. -/
theorem checked_else {i : CtxId} {bad : Bool} {P : Prop} [Decidable P] {g : State → State} {t : State} (hbad : bad = true ↔ P) (hg : g s = t) :
    checked i bad g s = if P then programFault i 0x01 0 s else t :=
  hg ▸ checked_if i bad P hbad g

/-- The work region is read where it covers the bytes, and their words are then checked. -/
theorem workRead_eq (i : CtxId) (c : Ctx) (a n : Nat) (e : Ecc) (g : List Byte → State → State) (s : State) :
    workRead i c a n e g s =
      let v := if e = .corrected then recordCorrected kCluster i.cluster s else s
      if inWork s c a n = false then programFault i 0x02 0 s
      else if e = .uncorrectable then dataLost i (recordErr kCluster i.cluster 0x29 2 (leBytes a 4) s)
      else g (scratchGet v i a n) v := by
  rw [workRead, work_eq, scanned_eq]

section
variable {f : SR}

theorem scalar_runs {mk : Issue → SR → Instr} {op : BitVec 64 → BitVec 64 → BitVec 64} (h : Runs (mk x f) x .clean s) :
    scalar mk op x f s = .next (
      let u := endMark x.id (fetched x s)
      if f.rsv = true then programFault x.id 0x01 0 u
      else nextPc x.id (setS x.id f.d.toNat (op (sreg (s.ctx x.id) f.a) (sreg (s.ctx x.id) f.b)) u)) :=
  instruction_runs h

/-- A shift draws its result where the amount is 64 or more. -/
theorem shift_runs {mk : Issue → SR → Instr} {op : BitVec 64 → Nat → BitVec 64} (h : Runs (mk x f) x .clean s) :
    shift mk op x f s = .next (
      let u := endMark x.id (fetched x s)
      let put := fun v t => if f.rsv = true then programFault x.id 0x01 0 u else nextPc x.id (setS x.id f.d.toNat v t)
      if (sreg (s.ctx x.id) f.b).toNat < 64 then put (op (sreg (s.ctx x.id) f.a) (sreg (s.ctx x.id) f.b).toNat) u
      else put (BitVec.ofNat 64 u.drawNat.1) u.drawNat.2) := by
  refine (instruction_runs h).trans (congrArg _ ?_)
  cases f.rsv
  · rfl
  · exact (ite_self _).symm

end

section
variable {f : SI}

theorem branch_runs {mk : Issue → SI → Instr} {test : BitVec 64 → BitVec 64 → Bool} (h : Runs (mk x f) x .clean s) :
    branch mk test x f s = .next (if test (sreg (s.ctx x.id) f.d) (sreg (s.ctx x.id) f.a) = true
      then goto x.id (branchTo (s.ctx x.id) f) (fetched x s) else nextPc x.id (fetched x s)) :=
  instruction_runs h

theorem execLoop_runs (h : Runs (.loop x f) x .clean s) : execLoop x f s = .next (
    let c := s.ctx x.id
    let n := f.imm.toNat % 2 ^ 16
    let u := endMark x.id (fetched x s)
    if sreg c f.d = 0 ∨ n = 0 then goto x.id (c.pc + 8 + 8 * n) u
    else u.onCtx x.id (fun k => { k with pc := c.pc + 8, loops := (c.pc + 8, c.pc + 8 + 8 * n, (sreg c f.d).toNat) :: k.loops })) := by
  refine (instruction_runs h).trans (congrArg _ (if_congr ?_ rfl rfl))
  simp [BitVec.toNat_eq]

end

/-! ### The statement -/

/-- Settles O56: a word's row is the issue of an instruction, whose laws are said once; each row that runs then has its meaning's next state. -/
theorem scalarInstructionsComplete : Obligations.ScalarInstructionsComplete := by
  unfold Obligations.ScalarInstructionsComplete
  refine ⟨?issue, ?rows⟩
  case issue =>
    intro x ecc w row s hw
    obtain ⟨ends, run, hrow⟩ := exec_isIssue hw
    rw [show exec row s = _ from hrow s]
    exact ⟨instruction_noUnit, fun hc => ⟨instruction_waits hc, instruction_parity hc, instruction_reserved hc,
      fun r hi hp hn hr => instruction_other hc hi hp hn hr⟩⟩
  case rows =>
    intro x s c u fault d
    refine ⟨?registers, ?immediates, ?load⟩
    case registers =>
      intro f r a b sh
      simp only [List.forall_mem_cons, List.not_mem_nil, false_implies, implies_true, and_true]
      exact ⟨fun h => (scalar_runs h : execAdd x f s = _), fun h => (scalar_runs h : execSub x f s = _), fun h => (scalar_runs h : execMul x f s = _),
        fun h => (scalar_runs h : execAnd x f s = _), fun h => (scalar_runs h : execOr x f s = _), fun h => (scalar_runs h : execXor x f s = _),
        fun h => (shift_runs h : execShl x f s = _), fun h => (shift_runs h : execShr x f s = _), fun h => (shift_runs h : execSra x f s = _)⟩
    case immediates =>
      intro f n a v
      simp only [List.forall_mem_cons, List.not_mem_nil, false_implies, implies_true, and_true]
      refine ⟨fun h => (instruction_runs h : execAddi x f s = _), fun h => ?store, fun h => ?equal, fun h => ?unequal, fun h => ?less,
        execLoop_runs, fun h => (instruction_runs h : execHalt x f s = _), fun h => (instruction_runs h : execFault x f s = _)⟩
      case store => exact (instruction_runs h : execSt x f s = _).trans (congrArg _ (work_eq ..))
      case equal => exact (branch_runs h : execBeq x f s = _).trans (congrArg _ (if_congr beq_iff_eq rfl rfl))
      case unequal => exact (branch_runs h : execBne x f s = _).trans (congrArg _ ((if_congr bne_iff_ne rfl rfl).trans (ite_not ..)))
      case less => exact (branch_runs h : execBlt x f s = _).trans (congrArg _ (if_congr decide_eq_true_iff rfl rfl))
    case load =>
      intro f ecc h a v
      exact (instruction_runs h : execLd x f ecc s = _).trans (congrArg _ (workRead_eq ..))

end Sys2Proof.Machine
end

section
/-! Vector, exact-lane and tile instructions (09 R262 to R265, R267, R270, R271, 07 R182, R184, R192, R195, R208, R209). -/

namespace Sys2Proof.Machine

open Sys2Proof

variable {x : Issue} {s : State}

/-! ### What they share -/

theorem vector_runs {f : VR} {mk : Issue → VR → Instr} {op : Nat → Nat → Nat → Nat} (h : Runs (mk x f) x .clean s) :
    vector mk op x f s = .next (
      let u := endMark x.id (fetched x s)
      let lane := fun (v : BitVec 4) (k : Nat) => ((vreg (s.ctx x.id) v.toNat).getD k 0).toNat
      if f.rsv = true then programFault x.id 0x01 0 u
      else nextPc x.id (setV x.id f.vd.toNat ((List.range 96).map (fun k => BitVec.ofNat 32 (op (lane f.va k) (lane f.vb k) (lane f.vc k)))) u)) :=
  instruction_runs h

/-- Slots are used where the declared regions cover them, and their words are then checked. -/
theorem slots_scanned_eq (i : CtxId) (c : Ctx) (a n : Nat) (e : Ecc) (g : State → State) (s : State) :
    slots i c a n (scanned i e a g) s =
      if inPages c.pages a n = false then programFault i 0x02 0 s
      else if e = .uncorrectable then dataLost i (recordErr kCluster i.cluster 0x29 2 (leBytes a 4) s)
      else g (if e = .corrected then recordCorrected kCluster i.cluster s else s) := by
  rw [slots_eq, scanned_eq]

/-! ### The statement -/

/-- Settles O58: each instruction is its register and region checks around one state update, so the law of each check in turn gives its next state. -/
theorem vectorInstructionsComplete : Obligations.VectorInstructionsComplete := by
  unfold Obligations.VectorInstructionsComplete
  intro x s c u fault sees lost adds
  refine ⟨fun a l t => rfl, fun f => ?lanes, fun f => ?immediates, fun f ecc h => ?load, fun f => ?tiles⟩
  case lanes =>
    simp only [List.forall_mem_cons, List.not_mem_nil, false_implies, implies_true, and_true]
    refine ⟨fun h => (vector_runs h : execVadd x f s = _), fun h => (vector_runs h : execVsub x f s = _), fun h => (vector_runs h : execVmul x f s = _),
      fun h => (vector_runs h : execVmax x f s = _), fun h => (vector_runs h : execVmin x f s = _), fun h => (vector_runs h : execVfma x f s = _),
      fun h => (vector_runs h : execVdiv x f s = _), fun h => (vector_runs h : execVsqrt x f s = _), fun h => (vector_runs h : execVsgn x f s = _),
      fun h => ?select, fun h => ?convert, fun h => ?block, fun h => ?add, fun h => ?round⟩
    case select => exact (vector_runs h : execVsel x f s = _).trans (by simp only [beq_iff_eq]; rfl)
    case convert => exact (instruction_runs h : execVcvt x f s = _).trans (congrArg _ (checked_else (by simp) rfl))
    case block => exact (instruction_runs h : execVblk x f s = _).trans (congrArg _ (checked_else (by simp) rfl))
    case add => exact (instruction_runs h : execXadd x f s = _).trans (congrArg _ (checked_else Iff.rfl (slots_scanned_eq ..)))
    case round => exact (instruction_runs h : execXrnd x f s = _).trans (congrArg _ (checked_else (by simp) (slots_scanned_eq ..)))
  case immediates =>
    simp only [List.forall_mem_cons, List.not_mem_nil, false_implies, implies_true, and_true]
    refine ⟨fun h => ?store, fun h => ?clear, fun h => ?rotate⟩
    case store => exact (instruction_runs h : execVst x f s = _).trans (congrArg _ (checked_else (by simp) (work_eq ..)))
    case clear => exact (instruction_runs h : execXclr x f s = _).trans (congrArg _ (slots_eq ..))
    case rotate => exact (instruction_runs h : execXhad x f s = _).trans (congrArg _ (slots_scanned_eq ..))
  case load => exact (instruction_runs h : execVld x f ecc s = _).trans (congrArg _ (checked_else (by simp) (workRead_eq ..)))
  case tiles =>
    simp only [List.forall_mem_cons, List.not_mem_nil, false_implies, implies_true, and_true]
    refine ⟨fun h => ?mul, fun h => ?scale, fun h => ?rotate⟩
    case mul =>
      refine (instruction_runs h : execMmul x f s = _).trans (congrArg _ (checked_else (by simp [or_assoc]) ?_))
      rw [work_eq, work_eq, work_eq, scanned_eq, ite_or, ite_or]
      rfl
    case scale =>
      refine (instruction_runs h : execMscl x f s = _).trans (congrArg _ (checked_else (by simp) ?_))
      rw [work_eq, work_eq, ite_or]
      exact if_congr Iff.rfl rfl (if_congr Iff.rfl rfl (slots_scanned_eq ..))
    case rotate =>
      refine (instruction_runs h : execHrot x f s = _).trans (congrArg _ (checked_else Iff.rfl ?_))
      rw [work_eq, work_eq, scanned_eq, ite_or]
      rfl

end Sys2Proof.Machine
end

section
/-! Streams, waits, results and idle marks (09 R263, R266, R272, R282, R284, R286, 11 R322). -/

namespace Sys2Proof.Machine

open Sys2Proof

variable {x : Issue} {i : CtxId} {g tag : Nat} {t : Stream} {s : State}

/-! ### The start of a stream (R272, 11 R319, R322) -/

theorem startStream_eq (i : CtxId) (f : ST) (hst : Bool) (c : Ctx) (s : State) : startStream i f hst c s =
    if inWork s c (sreg c f.addr).toNat (sreg c f.len).toNat = false then programFault i 0x02 0 s
    else match streamStop s [] (streamTenant s i) (sreg c f.ext).toNat (sreg c f.len).toNat (b2n hst) with
      | some (.cause k) => programFault i k 0 s
      | some .malformed => streamMalformed i s
      | _ => nextPc i (s.onCtx i (fun k => { k with streams := k.streams ++
          [{ tag := f.tag.toNat, hst := hst, scratch := (sreg c f.addr).toNat, fva := (sreg c f.ext).toNat, len := (sreg c f.len).toNat }] })) := by
  unfold startStream
  exact work_eq ..

/-! ### Waits (R263, R282) -/

/-- A context goes on, and waits where the condition holds. -/
theorem waitWhile_if {busy : Bool} {P : Prop} [Decidable P] (hb : busy = true ↔ P) (i : CtxId) (w : CtxWait) (s : State) :
    waitWhile i busy w s = if P then nextPc i (s.onCtx i (fun c => { c with wait := w })) else nextPc i s :=
  (apply_ite (nextPc i) ..).trans (if_congr hb rfl rfl)

section
variable {c : Ctx} {u : State} (hc : s.ctx x.id = c) (hu : endMark x.id (fetched x s) = u)
include hc hu

section
variable {f : SR} (h : Runs (.waitc x f) x .clean s)
include h

/-- A class 1 job owns no chunk: WAITC is a program fault there, as with a reserved bit. -/
theorem execWaitc_faults (hr : f.rsv = true ∨ ∃ q j, c.job = some (.job q j)) : execWaitc x f s = .next (programFault x.id 0x01 0 u) := by
  subst hc hu
  refine (instruction_runs h).trans (congrArg _ ?_)
  obtain hr | ⟨q, j, hj⟩ := hr
  · simp [checked_eq, hr]
  · simp [checked_eq, hj, fcReserved]

section
variable (hr : f.rsv = false) (hj : c.job = some (.op g))
include hr hj

theorem execWaitc_waits (hn : takeChunk x.id g f.d.toNat u = none) :
    execWaitc x f s = .next (nextPc x.id ((chunkStall x.id g u).onCtx x.id (fun k => { k with wait := .chunk f.d.toNat }))) := by
  subst hc hu
  refine (instruction_runs h).trans (congrArg _ ?_)
  simp [checked_eq, hr, hj, hn]

theorem execWaitc_takes {t : State} (ht : takeChunk x.id g f.d.toNat u = some t) : execWaitc x f s = .next (
    let r := scratchCheck x.cluster (takenWords x.id g u) x.ecc t
    if r.1 = true then nextPc x.id r.2 else dataLost x.id r.2) := by
  subst hc hu
  refine (instruction_runs h).trans (congrArg _ ?_)
  simp [checked_eq, hr, hj, ht]
  rfl

end

end

/-! ### EMIT (R263, R282) -/

section
variable {f : ST} (h : Runs (.emit x f) x .clean s)
include h

theorem execEmit_faults (hr : f.rsv = true ∨ ∃ q j, c.job = some (.job q j)) : execEmit x f s = .next (programFault x.id 0x01 0 u) := by
  subst hc hu
  refine (instruction_runs h).trans (congrArg _ ?_)
  obtain hr | ⟨q, j, hj⟩ := hr
  · simp [checked_eq, hr]
  · simp [checked_eq, hj, fcReserved]

section
variable (hr : f.rsv = false) (hj : c.job = some (.op g))
include hr hj

theorem execEmit_outside (hw : inWork u c (sreg c f.addr).toNat (sreg c f.len).toNat = false) :
    execEmit x f s = .next (programFault x.id 0x02 0 u) := by
  subst hc hu
  refine (instruction_runs h).trans (congrArg _ ?_)
  simp [checked_eq, hr, hj, workRead_eq, hw]

section
variable (hw : inWork u c (sreg c f.addr).toNat (sreg c f.len).toNat = true)
include hw

theorem execEmit_lost (he : x.ecc = .uncorrectable) :
    execEmit x f s = .next (dataLost x.id (recordErr kCluster x.id.cluster 0x29 2 (leBytes (sreg c f.addr).toNat 4) u)) := by
  subst hc hu
  refine (instruction_runs h).trans (congrArg _ ?_)
  simp [checked_eq, hr, hj, workRead_eq, hw, he]

section
variable {v : State} (he : x.ecc ≠ .uncorrectable) (hv : (if x.ecc = .corrected then recordCorrected kCluster x.id.cluster u else u) = v)
include he hv

theorem execEmit_unowned (hn : (v.op g).bind (fun op => (ctxChunk v x.id op).bind (chunkOf op)) = none) : execEmit x f s = .next (nextPc x.id v) := by
  subst hc hu
  refine (instruction_runs h).trans (congrArg _ ?_)
  simp [checked_eq, hr, hj, workRead_eq, hw, he, hv, hn]

/-- The payloads join their chunk, and the context waits where the chunk still holds some of them. -/
theorem execEmit_emits {op : Op} {y : Chunk} (ho : v.op g = some op) (hy : (ctxChunk v x.id op).bind (chunkOf op) = some y) : execEmit x f s = .next (
    let pays := emitPays op (sreg c f.ext).toNat (scratchGet v x.id (sreg c f.addr).toNat (sreg c f.len).toNat)
    let t := injectChunk g y.idx (emitInto g y.idx op pays v)
    if y.formed = true then nextPc x.id v
    else if ((t.op g).bind (fun o => chunkOf o y.idx)).any (fun z => decide (z.ready ≠ [])) = true
      then nextPc x.id (t.onCtx x.id (fun k => { k with wait := .store g y.idx })) else nextPc x.id t) := by
  subst hc hu
  refine (instruction_runs h).trans (congrArg _ ?_)
  simp only [checked_eq, hr, hj, workRead_eq, hw, he, hv, ho, Option.bind_some, hy, if_true, if_false, Bool.true_eq_false, Bool.false_eq_true]
  refine if_congr Iff.rfl rfl (waitWhile_if ?_ ..)
  split
  · next z hz => simp [hz]
  · next hz => simp [hz]

end

end

end

end

end

/-! ### Marks (R284 to R286) -/

theorem execIdleMarkEnd_noUnit (hi : isCtx i = false) : execIdleMarkEnd i s = .fault .noSuchUnit := by simp [execIdleMarkEnd, hi]

theorem execIdleMarkEnd_runs (hi : isCtx i = true) : execIdleMarkEnd i s = .next (
    if s.svc.mod = .ready ∧ ∃ t ∈ (s.ctx i).marks, t ≤ s.svc.now
      then settlePhase (s.onCtx i (fun k => { k with marks := k.marks.filter (fun t => decide (s.svc.now < t)) })) else s) := by
  have hkeep (t : Nat) : (!decide (t ≤ s.svc.now)) = decide (s.svc.now < t) := Bool.eq_iff_iff.mpr (by simp)
  simp [execIdleMarkEnd, hi, isReady, hkeep]

theorem endMark_unmarked (hm : (s.ctx i).marks = []) : endMark i s = s := by simp [endMark, hm]

theorem endMark_marked (hm : (s.ctx i).marks ≠ []) : endMark i s = settlePhase ((s.onPwr (fun p =>
    { p with rampMiss := p.rampMiss + ((s.ctx i).marks.filter (fun t => decide (s.svc.now + 100000 < t))).length })).onCtx i
      (fun k => { k with marks := [] })) :=
  if_neg (by simpa using hm)

/-! ### STREAM_COMPLETE (R272) -/

theorem execStreamComplete_noUnit (hi : isCtx i = false) : execStreamComplete i tag s = .fault .noSuchUnit := by simp [execStreamComplete, hi]

section
variable (hi : isCtx i = true)
include hi

theorem execStreamComplete_absent (hf : (s.ctx i).streams.find? (fun t => t.tag == tag) = none) : execStreamComplete i tag s = .next s := by
  simp [execStreamComplete, hi, hf]

section
variable (hf : (s.ctx i).streams.find? (fun t => t.tag == tag) = some t)
include hf

theorem execStreamComplete_held (hw : s.svc.mod ≠ .ready ∨ t.faulting = true) : execStreamComplete i tag s = .next s := by
  have hw : (!isReady s || t.faulting) = true := by simpa [isReady] using hw
  simp [execStreamComplete, hi, hf, hw]

theorem execStreamComplete_moves (hm : s.svc.mod = .ready) (ht : t.faulting = false) : execStreamComplete i tag s = .next (
    match streamStop s t.pinned (streamTenant s i) t.fva t.len (b2n t.hst) with
    | none => settleStopped i (finishStream i t s)
    | some (.cause k) => programFault i k 0 (s.onCtx i (fun k => { k with streams := k.streams.erase t }))
    | some .malformed => streamMalformed i (s.onCtx i (fun k => { k with streams := k.streams.erase t }))
    | some _ => s) := by
  simp only [execStreamComplete, hi, hf, isReady, hm, ht]
  cases streamStop s t.pinned (streamTenant s i) t.fva t.len (b2n t.hst) with
  | none => rfl
  | some r => cases r <;> rfl

end

end

/-! ### The statement -/

/-- Settles O59: HLD and HST by the checks around the start of a stream, WAITC and EMIT case by case, the marks and the end of a stream by their own laws. -/
theorem streamInstructionsComplete : Obligations.StreamInstructionsComplete := by
  unfold Obligations.StreamInstructionsComplete
  refine ⟨?rows, ?events⟩
  case rows =>
    intro x s c u fault seen lost waits start
    refine ⟨fun f h => ?hst, fun f ecc h => ?hld, fun f h => ?waitt, fun f h => ?fence, fun f h => ?waitc, fun f h => ?emit, fun f h => ?idle⟩
    case hst =>
      refine (instruction_runs h : execHst x f s = _).trans (congrArg _ (checked_else Iff.rfl ((scanned_eq ..).trans (if_congr Iff.rfl rfl ?_))))
      exact startStream_eq ..
    case hld =>
      refine (instruction_runs h : execHld x f ecc s = _).trans (congrArg _ (checked_else Iff.rfl (if_congr Iff.rfl ?_ rfl)))
      exact startStream_eq ..
    case waitt => exact (instruction_runs h : execWaitt x f s = _).trans (congrArg _ (checked_else Iff.rfl (waitWhile_if (by simp [c]) ..)))
    case fence => exact (instruction_runs h : execFence x f s = _).trans (congrArg _ (checked_else Iff.rfl (waitWhile_if (by simp [c]) ..)))
    case waitc =>
      exact ⟨execWaitc_faults rfl rfl h, fun g hr hj => ⟨execWaitc_waits rfl rfl h hr hj, fun t ht => execWaitc_takes rfl rfl h hr hj ht⟩⟩
    case emit =>
      refine ⟨execEmit_faults rfl rfl h, fun g hr hj => ⟨execEmit_outside rfl rfl h hr hj, execEmit_lost rfl rfl h hr hj, fun hw he => ?_⟩⟩
      exact ⟨execEmit_unowned rfl rfl h hr hj hw he rfl, fun op y ho hy => execEmit_emits rfl rfl h hr hj hw he rfl ho hy⟩
    case idle =>
      rw [← fetched_svc x s]
      exact (instruction_runs h : execIdle x f s = _)
  case events =>
    intro i s c
    exact ⟨fun hi => ⟨fun tag => execStreamComplete_noUnit hi, execIdleMarkEnd_noUnit hi⟩, execIdleMarkEnd_runs, endMark_unmarked, endMark_marked,
      fun tag hi hf => execStreamComplete_absent hi hf, fun tag t hi hf => ⟨execStreamComplete_held hi hf, execStreamComplete_moves hi hf⟩⟩

end Sys2Proof.Machine
end

section
/-! What the end of an attempt means (10 R295, R296). -/

namespace Sys2Proof.Machine

open Sys2Proof

variable {r : Request} {st : Nat}

theorem verdict_final (h1 : st ≠ 0x01) (h6 : st ≠ 0x06) : verdict r st = some st := by
  simp [verdict, stDestDown, stTimeout, h1, h6]

/-- DEST_DOWN and TIMEOUT of a request that was sent: its opcode and its attempts decide. -/
theorem verdict_unanswered (hst : st = 0x01 ∨ st = 0x06) (ha : r.attempts ≠ 0) : verdict r st =
    if r.pkt.op = opAtomic then some stPathLost else if idempotent r.pkt = true ∧ r.attempts < 4 then none else some st := by
  obtain rfl | rfl := hst <;> simp [verdict, stDestDown, stTimeout, ha]

theorem op_ne_atomic_of_idempotent {p : Packet} (hi : idempotent p = true) : p.op ≠ opAtomic := by
  intro ho
  simp [idempotent, ho, opAtomic, opRdLine, opWrLine, opWrMasked] at hi

/-- Settles O27: a status that leaves the request unanswered is judged by the opcode first, then by the attempts made. -/
theorem reSendRuleHolds : Obligations.ReSendRuleHolds := by
  unfold Obligations.ReSendRuleHolds
  refine fun r st ha => ⟨verdict_final, fun hst => ⟨fun ho => ?atomic, fun hi hlt => ?again, fun hi hge => ?spent⟩⟩
  case atomic => rw [verdict_unanswered hst ha, if_pos ho]
  case again => rw [verdict_unanswered hst ha, if_neg (op_ne_atomic_of_idempotent hi), if_pos ⟨hi, hlt⟩]
  case spent => rw [verdict_unanswered hst ha, if_neg (op_ne_atomic_of_idempotent hi), if_neg (fun h => Nat.not_lt.mpr hge h.2)]

end Sys2Proof.Machine
end

section
/-! The commands of a bridge's windows (10 R310, R311, 13 R385): the two that the transition of a window orders, the read, and the end of a disabling. -/

namespace Sys2Proof.Machine

open Sys2Proof

variable {s : State} {h : MHdr} {w : Nat} {d : WinDesc}

/-! ### WINDOW_SET (R310) -/

section
variable (hs : Serves h [0] s) (hb : s.svc.bridge = true) (hw : w ≤ 15)
include hs hb hw

theorem execWindowSet_numbered (hn : s.svc.node ≠ none) (hd : winBad s d = false) :
    execWindowSet h w d s = .next (transition (.window w) (.windowSet h w d) h (runWindowSet .buffer h w d) s) := by
  have hnone : s.svc.node.isNone = false := by simpa [Option.isSome_iff_ne_none] using hn
  refine (command_runs (row := { boxes := boxH }) hs (by simp [hb]) (by simp [hw, hd])).trans ?_
  simp [hnone]

/-- A bridge without its number cannot check the pair of the target (01 R478). -/
theorem execWindowSet_unnumbered (hn : s.svc.node = none) : execWindowSet h w d s = .next (reply h 2 [] s) := by
  refine (command_runs (row := { boxes := boxH }) hs (by simp [hb]) (by simp [hw, hn])).trans ?_
  simp [hn, msBusy]

end

section
variable (via : Via)

theorem runWindowSet_same (hd : (s.window w).desc = d) : runWindowSet via h w d s = finish via h 0x0501 msOk [] s := by
  simp [runWindowSet, hd]

section
variable (hd : (s.window w).desc ≠ d)
include hd

theorem runWindowSet_enabled (he : (s.window w).desc.en = true) : runWindowSet via h w d s = finish via h 0x0501 msBusy [] s := by
  simp [runWindowSet, hd, he]

theorem runWindowSet_disabled (he : (s.window w).desc.en = false) :
    runWindowSet via h w d s = finish via h 0x0501 msOk [] (bumpEpoch (s.onWindow w (fun x => { x with desc := d }))) := by
  simp [runWindowSet, hd, he]

end

/-! ### WINDOW_DISABLE and WINDOW_READ (R311) -/

theorem runWindowDisable_enabled (he : (s.window w).desc.en = true) : runWindowDisable via h w s =
    beginTrans (.window w) h 0x0502 (accept via h (s.onWindow w (fun x => { x with disabling := true }))) := by
  simp [runWindowDisable, he]

theorem runWindowDisable_disabled (he : (s.window w).desc.en = false) : runWindowDisable via h w s = finish via h 0x0502 msOk [] s := by
  simp [runWindowDisable, he]

end

section
variable (hs : Serves h [0] s)
include hs

section
variable (hb : s.svc.bridge = true) (hw : w ≤ 15)
include hb hw

theorem execWindowDisable_serves :
    execWindowDisable h w s = .next (transition (.window w) (.windowDisable h w) h (runWindowDisable .buffer h w) s) :=
  command_runs (row := { boxes := boxH }) hs (by simp [hb]) (by simp [hw])

theorem execWindowRead_serves : execWindowRead h w s = .next (reply h 0 (pack [.bytes (winBytes (s.window w).desc),
    .num 8 (s.window w).failRd.toNat, .num 8 (s.window w).failWr.toNat, .num 8 (s.window w).logAddr, .num 8 (s.window w).logInfo.toNat]) s) :=
  command_runs (row := { boxes := boxH }) hs (by simp [hb]) (by simp [hw])

end

section
variable (hb : s.svc.bridge = false)
include hb

theorem execWindowDisable_switch (w : Nat) : execWindowDisable h w s = .next (reply h 3 [] s) :=
  command_denied (row := { boxes := boxH }) hs (by simp [hb])

theorem execWindowRead_switch (w : Nat) : execWindowRead h w s = .next (reply h 3 [] s) :=
  command_denied (row := { boxes := boxH }) hs (by simp [hb])

end

end

/-! ### WINDOW_DISABLE_COMPLETE (R311) -/

/-- A window disabled: its requests fail, and the lines filled through it have left the cache. -/
def windowClosed (w : Nat) (s : State) : State :=
  (s.onHost (fun h => { h with cache := h.cache.filter (fun c => !c.wins.contains w) })).onWindow w
    (fun x => { x with disabling := false, desc := { x.desc with en := false } })

theorem execWindowDisableComplete_idle {t : Transition} (hm : s.svc.mod = .ready) (hh : s.svc.handover = false)
    (ht : findTrans (.window w) s.mbx.trans = some t) (hi : windowBusy s w = false) :
    execWindowDisableComplete w s = .next (endTrans (.window w) msOk [] runQueuedWindow (bumpEpoch (windowClosed w s))) := by
  simp [execWindowDisableComplete, firmwareRuns, isReady, hm, hh, ht, hi, windowClosed]

/-! ### The statement -/

/-- Settles O29: what a served command of a window comes to, and its run behind the window's transition. -/
theorem windowCommandsComplete : Obligations.WindowCommandsComplete := by
  unfold Obligations.WindowCommandsComplete
  refine ⟨?enters, ?enabled, ?same, ?unnumbered, ?queued, ?disables, ?disabled, ?reads, ?ends, ?switch⟩
  case enters =>
    intro h w d s hs hb hn hw hok ht he hd
    refine (execWindowSet_numbered hs hb hw hn hok).trans ?_
    rw [transition_runs ht, runWindowSet_disabled _ hd he]
    rfl
  case enabled =>
    intro h w d s hs hb hn hw hok ht he hd
    refine (execWindowSet_numbered hs hb hw hn hok).trans ?_
    rw [transition_runs ht, runWindowSet_enabled _ hd he]
    rfl
  case same =>
    intro h w d s hs hb hn hw hok ht hd
    refine (execWindowSet_numbered hs hb hw hn hok).trans ?_
    rw [transition_runs ht, runWindowSet_same _ hd]
    rfl
  case unnumbered => exact fun h w d s hs hb hn hw => execWindowSet_unnumbered hs hb hw hn
  case queued =>
    intro h w d t s hs hb hn hw hok ht queue
    refine ⟨(execWindowSet_numbered hs hb hw hn hok).trans ?_, (execWindowDisable_serves hs hb hw).trans ?_⟩ <;>
      rw [transition_waits ht]
  case disables =>
    intro h w s hs hb hw ht he
    refine (execWindowDisable_serves hs hb hw).trans ?_
    rw [transition_runs ht, runWindowDisable_enabled _ he]
    rfl
  case disabled =>
    intro h w s hs hb hw ht he
    refine (execWindowDisable_serves hs hb hw).trans ?_
    rw [transition_runs ht, runWindowDisable_disabled _ he]
    rfl
  case reads => exact fun h w s hs hb hw => execWindowRead_serves hs hb hw
  case ends =>
    intro w t s hm hh ht hi u
    refine (execWindowDisableComplete_idle hm hh ht hi).trans ?_
    rw [endTrans_ends (s := bumpEpoch (windowClosed w s)) ht hh]
    cases t.queued <;> rfl
  case switch => exact fun h w s hs hb => ⟨execWindowDisable_switch hs hb w, execWindowRead_switch hs hb w⟩

end Sys2Proof.Machine
end

section
/-! Host accesses through a bridge's windows (10 R309, R312, R313, R316 to R318, 13 R370): what a failed access changes, which reads the cache answers, and the
order in which accesses are served. -/

namespace Sys2Proof.Machine

open Sys2Proof

variable {s : State} {w dpa : Nat}

/-! ### What an interrupt and a failed access leave alone (R318, 13 R376) -/

theorem raiseVec_frame (v : Nat) (s : State) : ∃ cause sent pend,
    raiseVec v s = s.onHost (fun h => { h with irqCause := cause, msixSent := sent, msixPend := pend }) := by
  simp only [raiseVec, State.onHost]
  split_ifs <;> exact ⟨_, _, _, rfl⟩

theorem windowIrq_frame (w : Nat) (s : State) : ∃ cause sent pend irq,
    windowIrq w s = s.onHost (fun h => { h with irqCause := cause, msixSent := sent, msixPend := pend, irqPend := irq }) := by
  unfold windowIrq
  split
  · exact ⟨_, _, _, _, rfl⟩
  · obtain ⟨cause, sent, pend, e⟩ := raiseVec_frame (s.window w).desc.failVec (s.onHost (fun h => { h with irqPend := h.irqPend ||| BitVec.ofNat 32 (2 ^ w) }))
    exact ⟨cause, sent, pend, _, e⟩

@[simp] theorem windowIrq_window (w : Nat) (s : State) (x : Nat) : (windowIrq w s).window x = s.window x := by
  obtain ⟨cause, sent, pend, irq, e⟩ := windowIrq_frame w s
  rw [e]
  rfl

/-- A failed access changes the windows and raises an interrupt; the rest of the state stays. -/
theorem failAccess_frame (w dpa status : Nat) (write : Bool) (s : State) : ∃ windows cause sent pend irq, failAccess w dpa status write s =
    s.onHost (fun h => { h with windows := windows, irqCause := cause, msixSent := sent, msixPend := pend, irqPend := irq }) := by
  by_cases hsat : ((if write then (s.window w).failWr else (s.window w).failRd) == BitVec.allOnes 32) = true
  · exact ⟨_, _, _, _, _, if_pos hsat⟩
  · obtain ⟨cause, sent, pend, irq, e⟩ := windowIrq_frame w _
    exact ⟨_, cause, sent, pend, irq, (if_neg hsat).trans e⟩

/-- The counter of failed reads stays at all ones (17 R470). -/
theorem failAccess_failRd (w dpa status : Nat) (s : State) : ((failAccess w dpa status false s).window w).failRd =
    if (s.window w).failRd = BitVec.allOnes 32 then (s.window w).failRd else (s.window w).failRd + 1 := by
  simp only [failAccess, Bool.false_eq_true, if_false, beq_iff_eq]
  split <;> simp only [windowIrq_window, State.onWindow_self] <;> split <;> rfl

/-! ### Reads (R309, R312, R317) -/

section
variable (hide : ideBlocks s 1 = false)
include hide

theorem hostAnswer_live (dpa : Nat) (write : Bool) (data : List Byte) :
    hostAnswer dpa write data s = s.onHost (fun h => { h with resps := h.resps ++ [{ dpa := dpa, write := write, data := data }] }) := by
  simp [hostAnswer, hide]

theorem hostRead_hit {line half : Nat} {c : CacheLine} (hm : windowMap (s.window w) (dpa % 2 ^ 40) = some (line, half))
    (hsync : inSync (s.window w).desc (dpa % 2 ^ 40) = false) (hcached : (s.window w).desc.uncached = false)
    (hc : s.host.cache.find? (sameLine (s.window w).desc.tenant (s.window w).desc.target line) = some c) :
    hostRead w dpa s = s.onHost (fun h => { h with cache := c :: h.cache.erase c,
                                                   resps := h.resps ++ [{ dpa := dpa, write := false, data := bytesAt c.data (64 * half) 64 }] }) := by
  -- The sync range goes first: while it stands, the kernel computes with its bounds in bytes to compare the matches.
  rw [hostRead]
  simp only [hsync, hcached]
  simp only [hm, hc, Bool.or_self, Bool.false_eq_true, if_false]
  have hlive : ideBlocks (cacheTouch c s) 1 = false := hide
  rw [hostAnswer_live hlive]
  rfl

theorem hostRead_unmapped (hm : windowMap (s.window w) (dpa % 2 ^ 40) = none) : hostRead w dpa s =
    (failAccess w dpa stNotMapped false s).onHost (fun h => { h with resps := h.resps ++ [{ dpa := dpa, write := false, data := List.replicate 64 0xFF#8 }] }) := by
  obtain ⟨windows, cause, sent, pend, irq, e⟩ := failAccess_frame w dpa stNotMapped false s
  have hlive : ideBlocks (failAccess w dpa stNotMapped false s) 1 = false := by rw [e]; exact hide
  simp only [hostRead, hm]
  exact hostAnswer_live hlive ..

end

/-! ### The order of delivery (R309, R313, R316) -/

theorem hostAccess_enters {r : HostReq} (hr : memReaches s r.dpa = true) :
    hostAccess r s = .next (drainHost (s.onHost (fun h => { h with waiting := h.waiting ++ [r] }))) := by
  simp [hostAccess, hr]

/-- Behind no other access, one is served unless something of its own makes it wait. -/
theorem drainHost_alone (hw : s.host.waiting = []) (r : HostReq) :
    drainHost (s.onHost (fun h => { h with waiting := h.waiting ++ [r] })) =
      if mustWait s (r.dpa / 2 ^ 40) r then s.onHost (fun h => { h with waiting := [r] }) else serveHost (r.dpa / 2 ^ 40) r s := by
  have hback : s.onHost (fun h => { h with waiting := [] }) = s := by
    simp only [State.onHost, ← hw]
  have hfront : (s.onHost (fun h => { h with waiting := h.waiting ++ [r] })).onHost (fun h => { h with waiting := [] }) = s := hback
  simp only [drainHost, State.onHost_host, hw, hfront, List.nil_append, drainGo, List.contains_nil, Bool.false_or]
  refine if_congr Iff.rfl ?_ rfl
  simp only [State.onHost, hw, List.nil_append]

/-- The host's answer needs a live CXL.mem stream, as reaching the device does (13 R374). -/
theorem ideBlocks_of_memReaches (hr : memReaches s dpa = true) : ideBlocks s 1 = false := by
  simp only [memReaches, Bool.and_eq_true, Bool.not_eq_true'] at hr
  obtain ⟨⟨⟨_, hide⟩, _⟩, _⟩ := hr
  exact hide

theorem execMemInv_answers (hr : memReaches s dpa = true) : execMemInv dpa s =
    .next (s.onHost (fun h => { h with resps := h.resps ++ [{ dpa := dpa, write := true, data := [], metaValue := false }] })) := by
  simp [execMemInv, hr, hostAnswer_live (ideBlocks_of_memReaches hr)]

/-! ### The statement -/

/-- Settles O30: an access enters the order of delivery, which alone decides whether it waits; a read is then a hit, a miss, or a failed access. -/
theorem hostAccessesComplete : Obligations.HostAccessesComplete := by
  unfold Obligations.HostAccessesComplete
  refine ⟨?enters, ?served, ?hit, ?unmapped, ?inv, ?specRd⟩
  case enters =>
    intro dpa data be s hr enter
    exact ⟨hostAccess_enters hr, hostAccess_enters hr, hostAccess_enters hr, hostAccess_enters hr⟩
  case served =>
    intro r s hw w
    exact drainHost_alone hw r
  case hit => exact fun w dpa line half c s hm hsync hcached hc hide => hostRead_hit hide hm hsync hcached hc
  case unmapped =>
    intro w dpa s hm hide
    obtain ⟨windows, cause, sent, pend, irq, e⟩ := failAccess_frame w dpa stNotMapped false s
    rw [hostRead_unmapped hide hm]
    refine ⟨?_, failAccess_failRd w dpa stNotMapped s, ?_, ?_⟩ <;> rw [e] <;> rfl
  case inv => exact fun dpa s hr => ⟨execMemInv_answers hr, rfl⟩
  case specRd => exact fun dpa s => rfl

end Sys2Proof.Machine
end

section
/-! Traffic at a bridge's collective agent (10 R301, R302, 08 R219, R221, R222, R227, R230, R234 to R238): each row by its checks in order, what the agent makes of
a packet that its armed operation is named by, contributions, and the timers of a member. -/

namespace Sys2Proof.Machine

open Sys2Proof

variable {s : State} {g port r : Nat} {p : Packet} {m : MemberOp}

/-! ### Packets at the member -/

section
variable (hn : memberFor s p = none)
include hn

theorem creditArrives_unarmed : creditArrives port p s = memberStale port p s := by simp [creditArrives, hn]

theorem doneArrives_unarmed : doneArrives port p s = memberStale port p s := by simp [doneArrives, hn]

theorem abortAtMember_unarmed : abortAtMember port p s = memberStale port p s := by simp [abortAtMember, hn]

theorem resultArrives_unarmed : resultArrives port p s = memberStale port p s := by simp [resultArrives, hn]

end

section
variable (hm : memberFor s p = some (m, r))
include hm

/-- The payloads of the chunks new to the member join those it still has to send, and an armed operation runs (08 R221, R222, R230). -/
theorem creditArrives_armed : creditArrives port p s =
    let new := (creditedChunks m p.chunk (p.arg 0 8)).filter (fun c => !m.credits.contains c)
    let pays := creditedPayloads m r new
    contribute p.group (m.toSend.length + pays.length) (s.onMember p.group (fun m => { m with
      credits := m.credits ++ new, toSend := m.toSend ++ pays, phase := if m.phase == .armed then .running else m.phase })) := by
  simp [creditArrives, hm]

theorem doneArrives_armed : doneArrives port p s =
    memberDone p.group (s.onMember p.group (fun m => { m with dones := if m.dones.contains r then m.dones else m.dones ++ [r] })) := by
  simp [doneArrives, hm]

theorem abortAtMember_armed : abortAtMember port p s = memberRecord p.group (recordOf p) (some r) s := by simp [abortAtMember, hm]

/-- A result is placed where the plane owns its chunk and the member is due it, unless the member has recorded an abort (08 R219, R237). -/
theorem resultArrives_armed : resultArrives port p s =
    if ownerOf m.prog p.chunk = r ∧ p.chunk < chunkCount m.prog ∧ receives m.prog m.members.length p.chunk m.position = true ∧
      p.pidx < outPayloads m.prog p.chunk ∧ m.record = none then
      (placeResult m p.chunk p.pidx (padTo 128 p.data) (padTo 16 p.side) s).onMember p.group (fun x =>
        { x with got := if x.got.contains (p.chunk, p.pidx) then x.got else x.got ++ [(p.chunk, p.pidx)] })
    else memberStale port p s := by
  have hdue : (ownerOf m.prog p.chunk != r || decide (chunkCount m.prog ≤ p.chunk) || !receives m.prog m.members.length p.chunk m.position ||
      decide (outPayloads m.prog p.chunk ≤ p.pidx)) = true ↔ ¬(ownerOf m.prog p.chunk = r ∧ p.chunk < chunkCount m.prog ∧
        receives m.prog m.members.length p.chunk m.position = true ∧ p.pidx < outPayloads m.prog p.chunk) := by
    simp [-not_and, not_and_or, or_assoc]
  simp only [resultArrives, hm, hdue, ite_not]
  cases hrec : m.record <;> simp

end

/-! ### The rows, by their checks (04 R90, R112, R113) -/

/-- The row of a packet that a member takes follows from its opcode. -/
theorem memberRow_of_op {row : Instr}
    (hrow : row = .redCredit port p ∧ p.op = opRedCredit ∨ row = .opDone port p ∧ p.op = opOpDone ∨ row = .opAbort port p ∧ p.op = opOpAbort ∨
      row = .redRes port p ∧ p.op = opRedRes) :
    (p.op = opRedCredit → row = .redCredit port p) ∧ (p.op = opOpDone → row = .opDone port p) ∧ (p.op = opOpAbort → row = .opAbort port p) ∧
      (p.op = opRedRes → row = .redRes port p) := by
  obtain ⟨rfl, ho⟩ | ⟨rfl, ho⟩ | ⟨rfl, ho⟩ | ⟨rfl, ho⟩ := hrow <;> simp [ho, opRedCredit, opOpDone, opOpAbort, opRedRes]

section
variable (hp : isPort port = true ∨ port = outLocal) (hm : s.svc.mod = .ready) (hb : s.svc.bridge = true) (hd : p.dst = selfNode s ∨ p.mcast = true)
include hp hm hb hd

theorem execRedCredit_member (ho : p.op = opRedCredit) : execRedCredit port p s = .next (
    let k := opened s p
    let u := takeLocal p s
    if pastFence k.tenant.toNat u = true then discardStale port u
    else if flagsBad k = true ∨ k.arg 0 8 = 0 then discardMalformed port 7 k u else creditArrives port k u) := by
  refine (agentRow_runs hp hm hd ho).trans ?_
  simp [mgtChecked_eq, hb]

theorem execOpDone_member (ho : p.op = opOpDone) : execOpDone port p s = .next (
    let k := opened s p
    let u := takeLocal p s
    if pastFence k.tenant.toNat u = true then discardStale port u
    else if flagsBad k = true then discardMalformed port 7 k u else doneArrives port k u) := by
  refine (agentRow_runs hp hm hd ho).trans ?_
  simp [mgtChecked_eq, hb]

theorem execOpAbort_member (ho : p.op = opOpAbort) : execOpAbort port p s = .next (
    let k := opened s p
    let u := takeLocal p s
    if pastFence k.tenant.toNat u = true ∧ memberFor u k = none then discardStale port u
    else if abortBad k = true then discardMalformed port 7 k u else abortAtMember port k u) := by
  refine (agentRow_runs hp hm hd ho).trans ?_
  simp [settlesHere, hb]

theorem execRedRes_member (ho : p.op = opRedRes) (hr : s.svc.hbmResetting = []) : execRedRes port p s = .next (
    let k := opened s p
    memberDone k.group (pktChecked port k (flagsBad k) (resultArrives port k) (takeLocal p s))) := by
  have hrow : ¬(s.svc.bridge && !s.svc.hbmResetting.isEmpty && (isPort port || port == outLocal)) = true := by simp [hr]
  refine ((if_neg hrow).trans (agentRow_runs hp hm hd ho)).trans ?_
  simp [pktChecked, hb]

end

/-- While a channel of its HBM retrains, a bridge leaves results where they are (15 R430). -/
theorem execRedRes_waits (hp : isPort port = true ∨ port = outLocal) (hb : s.svc.bridge = true) (hr : s.svc.hbmResetting ≠ []) :
    execRedRes port p s = .next s := by
  have hrow : (s.svc.bridge && !s.svc.hbmResetting.isEmpty && (isPort port || port == outLocal)) = true := by simpa [hb, hr] using hp
  exact if_pos hrow

/-! ### Contributions (08 R222, R237) -/

theorem contribute_unarmed (hn : s.member g = none) (n : Nat) : contribute g n s = s := by
  cases n <;> simp [contribute, hn]

section
variable (hm : s.member g = some m)
include hm

theorem contribute_nothing (hx : m.toSend.find? (fun x => mayContribute s m x.1) = none) (n : Nat) : contribute g n s = s := by
  cases n
  · rfl
  · simp only [contribute, hm, hx]

theorem contribute_next {x : Nat × Nat} (hx : m.toSend.find? (fun x => mayContribute s m x.1) = some x) (n : Nat) : contribute g (n + 1) s =
    contribute g n (sendFor (some (ownerOf m.prog x.1)) (contributionPacket s g m x.1 x.2) (({ s with free := s.free + 256 } : State).onMember g (fun y =>
      { y with toSend := y.toSend.erase x }))) := by
  simp only [contribute, hm, hx, contributionDraws]

/-! ### Reports and timers (08 R227, R230, R231, R234, R238) -/

theorem memberDone_open : memberDone g s =
    if (m.phase = .running ∨ m.phase = .armed) ∧ memberOk s m = true then s.onMember g (fun x => { x with phase := .reported, report := some (stOk, none) })
    else s := by
  simp [memberDone, hm]

theorem memberSettled_aborting (hp : m.phase = .aborting) : memberSettled g s = if m.settleAt + 10000000 ≤ s.svc.now then
    s.onMember g (fun x => { x with phase := .reported, report := some (stOpAborted, m.record) }) else s := by
  have hearly : s.svc.now < m.settleAt + settleNs ↔ ¬ m.settleAt + settleNs ≤ s.svc.now := Nat.not_le.symm
  simp only [memberSettled, hm, hp, beq_self_eq_true, if_true, hearly, ite_not]
  rfl

theorem memberSettled_other (hp : m.phase ≠ .aborting) : memberSettled g s = memberDone g s := by
  simp [memberSettled, hm, hp]

theorem execMemberOperationTimeout_served (hl : lackingPlane m = none) : execMemberOperationTimeout g s = .next s := by
  simp [execMemberOperationTimeout, hm, hl]

theorem execMemberOperationTimeout_lacking (hr : s.svc.mod = .ready) (hl : lackingPlane m = some r) : execMemberOperationTimeout g s = .next (
    if m.phase = .running ∧ m.record = none ∧ m.timeout ≠ 0 ∧ m.armedAt + m.timeout + 20000000 ≤ s.svc.now then
      memberRecord g { origin := r, reason := rsTimeout, chunk := (missingChunks s m r).headD noChunk } none s else s) := by
  have hearly : (!isReady s || m.phase != .running || m.record.isSome || m.timeout == 0 || decide (s.svc.now < m.armedAt + m.timeout + 20000000)) = true ↔
      ¬(m.phase = .running ∧ m.record = none ∧ m.timeout ≠ 0 ∧ m.armedAt + m.timeout + 20000000 ≤ s.svc.now) := by
    simp [isReady, hr, -not_and, not_and_or, or_assoc, Option.isSome_iff_ne_none]
  simp only [execMemberOperationTimeout, hm, hearly, hl, ite_not]

end

theorem execMemberOperationTimeout_unarmed (hn : s.member g = none) : execMemberOperationTimeout g s = .next s := by
  simp [execMemberOperationTimeout, hn]

theorem memberSettled_unarmed (hn : s.member g = none) : memberSettled g s = s := by simp [memberSettled, hn]

theorem memberOk_iff : memberOk s m = true ↔ m.record = none ∧ m.unplaced = false ∧ resultsComing s m = [] ∧
    ∀ r ∈ m.prog.planes, r ∈ m.dones ∨ ∃ t, (r, t) ∈ m.lostPlanes ∧ missingChunks s m r = [] ∧ t + 10000000 ≤ s.svc.now := by
  have hns : settleNs = 10000000 := rfl
  simp [memberOk, planeServed, and_assoc, ← hns]

/-! ### The statement -/

/-- Settles O55: a packet's row leads to its checks, and past them the operation that it names, if any, says what the member does; the timers by their own laws. -/
theorem memberTrafficCompletes : Obligations.MemberTrafficCompletes := by
  unfold Obligations.MemberTrafficCompletes
  refine ⟨?rows, ?contributes, ?timers, ?reports, ?ok⟩
  case rows =>
    intro port p row s hp hm hb hd hrow k u stale t
    obtain ⟨hcredit, hdone, habort, hres⟩ := memberRow_of_op hrow
    refine ⟨fun ho => ?credit, fun ho => ?done, fun ho => ?abort, fun ho hr => ?waits, fun ho hr => ?result⟩
    case credit =>
      rw [hcredit ho]
      refine (execRedCredit_member hp hm hb hd ho).trans (congrArg _ (if_congr Iff.rfl rfl (if_congr Iff.rfl rfl ?_)))
      cases hn : memberFor u k with
      | none => exact creditArrives_unarmed hn
      | some x => exact creditArrives_armed hn
    case done =>
      rw [hdone ho]
      refine (execOpDone_member hp hm hb hd ho).trans (congrArg _ (if_congr Iff.rfl rfl (if_congr Iff.rfl rfl ?_)))
      cases hn : memberFor u k with
      | none => exact doneArrives_unarmed hn
      | some x => exact doneArrives_armed hn
    case abort =>
      rw [habort ho]
      refine (execOpAbort_member hp hm hb hd ho).trans (congrArg _ (if_congr Iff.rfl rfl (if_congr Iff.rfl rfl ?_)))
      cases hn : memberFor u k with
      | none => exact abortAtMember_unarmed hn
      | some x => exact abortAtMember_armed hn
    case waits =>
      rw [hres ho]
      exact execRedRes_waits hp hb hr
    case result =>
      rw [hres ho]
      refine (execRedRes_member hp hm hb hd ho hr).trans (congrArg (fun v => Host.Outcome.next (memberDone k.group v)) ?_)
      cases ha : authCheck k u with
      | stale => exact pktChecked_stale ha
      | fail => exact pktChecked_unsure ha
      | ok =>
        refine (pktChecked_ok ha).trans (if_congr Iff.rfl rfl ?_)
        cases hn : memberFor u k with
        | none => exact resultArrives_unarmed hn
        | some x => exact resultArrives_armed hn
  case contributes =>
    exact fun g n s => ⟨rfl, fun hn => contribute_unarmed hn n, fun m hm => ⟨fun hx => contribute_nothing hm hx n, fun x hx => contribute_next hm hx n⟩⟩
  case timers =>
    intro g s hr
    have settles {t : State} (ht : memberSettled g s = t) : exec (.abortSettleEnd g true) s = .next t :=
      congrArg _ ((whenReady_ready hr _).trans ht)
    refine ⟨fun hn => ⟨execMemberOperationTimeout_unarmed hn, settles (memberSettled_unarmed hn)⟩, fun m hm => ⟨fun r hl => ?_, fun hl => ?_, fun hp => ?_,
      fun hp => ?_⟩⟩
    · exact execMemberOperationTimeout_lacking hm hr hl
    · exact execMemberOperationTimeout_served hm hl
    · exact settles (memberSettled_aborting hm hp)
    · exact settles (memberSettled_other hm hp)
  case reports => exact fun g m s hm => memberDone_open hm
  case ok => exact fun m s => memberOk_iff

end Sys2Proof.Machine
end

section
/-! The commands of the translation mirrors (11 R323 to R326, R336, R337, 01 R478): what each does where it is served, and how commands wait behind the
invalidations in progress. -/

namespace Sys2Proof.Machine

open Sys2Proof

variable {s : State} {h : MHdr} {kind t a n base size : Nat} {ups : List XUpd} {i : Instr} {ks : List FnKey} {run : State → State}

/-! ### The region (R323) -/

theorem execXlatRegionSet_serves (hs : Serves h [0] s) (hlo : 2 ^ 26 ≤ size) (hhi : size ≤ 2 ^ 32) (hbase : base % 2 ^ 21 = 0) (hsize : size % 2 ^ 21 = 0)
    (hfw : base + size ≤ s.svc.fwBase) (hret : ∀ f, f ∈ (cfgNow s.flash).retired → ¬ (base ≤ f * 65536 ∧ f * 65536 < base + size)) :
    execXlatRegionSet h base size s = .next (if s.xlat.src = [] ∧ s.xlat.tgt = [] then
      reply h 0 [] { s with xlat := { s.xlat with region := some (base, size) } } else reply h 2 [] s) := by
  have hfree : (cfgNow s.flash).retired.any (fun f => decide (base ≤ f * 65536) && decide (f * 65536 < base + size)) = false := by
    simpa using hret
  refine (command_runs (row := { boxes := boxH }) hs rfl ?_).trans (congrArg _ ?_)
  · simp [hfree, hfw]
    omega
  · by_cases he : s.xlat.src = [] ∧ s.xlat.tgt = []
    · obtain ⟨hsrc, htgt⟩ := he
      simp [hsrc, htgt, msOk, State.onXlat]
    · have hany : (!s.xlat.src.isEmpty || !s.xlat.tgt.isEmpty) = true := by simpa [imp_iff_not_or] using he
      rw [if_pos hany, if_neg he]
      rfl

/-! ### Commands behind invalidations in progress (R337) -/

theorem transitions_runs (hk : ks = []) : transitions ks i h run s = run s := by
  simp [transitions, hk]

theorem transitions_waits (hk : ks ≠ []) : transitions ks i h run s =
    if s.mbx.trans.any (fun y => ks.contains y.key && y.queued.isSome) = true then reply h 2 [] s
    else reply h 1 [] (s.onMbx (fun m => { m with trans := m.trans.map (fun y => if ks.contains y.key then { y with queued := some i } else y) })) := by
  simp [transitions, hk, msBusy, msQueued]

/-- The key of an invalidation whose range meets this one. -/
def KeyMeets (kind t a n : Nat) (k : FnKey) : Prop := ∃ b m, k = .xlat kind t b m ∧ a < b + m ∧ b < a + n

theorem mem_overlapKeys {k : FnKey} : k ∈ overlapKeys s kind t a n ↔ ∃ x ∈ s.mbx.trans, x.key = k ∧ KeyMeets kind t a n k := by
  simp only [overlapKeys, List.mem_map, List.mem_filter]
  refine exists_congr fun x => ?_
  rw [and_assoc, and_comm (b := x.key = k)]
  refine and_congr_right fun _ => and_congr_right fun hx => ?_
  subst hx
  cases x.key <;> simp [KeyMeets, and_assoc]

theorem runQueuedXlat_waits (hi : ∃ x ∈ s.mbx.trans, x.queued = some i) : runQueuedXlat i s = s :=
  if_pos (by simpa using hi)

/-! ### XLAT_UPDATE (R324, 01 R478) -/

section
variable (hs : Serves h [0] s) (hne : ups ≠ []) (hlen : ups.length ≤ 240)
include hs hne hlen

theorem execXlatUpdate_numbered (hk : kind ≤ 1) (hn : kind = 0 → s.svc.node ≠ none) : execXlatUpdate h kind ups s =
    .next (transitions (overlapUpdates s kind ups) (.xlatUpdate h kind ups) h (runUpdate .buffer h kind ups) s) := by
  refine (command_runs (row := { boxes := boxH }) hs rfl (by simp [hk, hne, hlen])).trans (congrArg _ (if_neg ?_))
  simpa using hn

theorem execXlatUpdate_unnumbered (hn : s.svc.node = none) : execXlatUpdate h 0 ups s = .next (reply h 2 [] s) :=
  (command_runs (row := { boxes := boxH }) hs rfl (by simp [hne, hlen])).trans (congrArg _ (if_pos (by simp [hn])))

end

/-! ### XLAT_INVALIDATE (R336) -/

section
variable (hr : rangeBad s kind t a n = false)
include hr

theorem execXlatInvalidate_serves (hs : Serves h [0] s) (hk : kind ≤ 1) (ht : (s.tenant t).isSome = true) : execXlatInvalidate h kind t a n s =
    .next (transitions (overlapKeys s kind t a n) (.xlatInvalidate h kind t a n) h (runInvalidate .buffer h kind t a n) s) := by
  have htenant : (s.tenant t).isNone = false := by simpa [Option.isSome_iff_ne_none] using ht
  exact command_runs (row := { boxes := boxH }) hs rfl (by simp [hk, htenant, hr])

theorem runInvalidate_accepts : runInvalidate .buffer h kind t a n s =
    beginTrans (.xlat kind t a n) h 0x0604 (reply h 7 [] (removeRange kind t a n (if kind = 0 then pinRange t a n s else s))) := by
  simp [runInvalidate, hr, accept, msInProgress]

end

/-- A source invalidation that is over forgets the entries that it removed. -/
def forgetRange (kind t a n : Nat) (s : State) : State := if kind = 0 then dropInval t a n s else s

@[simp] theorem forgetRange_mbx (kind t a n : Nat) (s : State) : (forgetRange kind t a n s).mbx = s.mbx := by
  unfold forgetRange
  split <;> rfl

@[simp] theorem forgetRange_svc (kind t a n : Nat) (s : State) : (forgetRange kind t a n s).svc = s.svc := by
  unfold forgetRange
  split <;> rfl

theorem execXlatInvalidateComplete_quiet {x : Transition} (hm : s.svc.mod = .ready) (hh : s.svc.handover = false)
    (hx : findTrans (.xlat kind t a n) s.mbx.trans = some x) (hq : kind ≠ 0 ∨ rangeQuiet t a n s = true) :
    execXlatInvalidateComplete kind t a n s = .next (endTrans (.xlat kind t a n) 0 [] runQueuedXlat (forgetRange kind t a n s)) := by
  simp [execXlatInvalidateComplete, firmwareRuns, isReady, hm, hh, hx, hq, forgetRange, msOk]

/-! ### The statement -/

/-- Settles O34: what each served command of the mirrors comes to, and its run or its wait behind the invalidations that its ranges meet. -/
theorem translationCommandsComplete : Obligations.TranslationCommandsComplete := by
  unfold Obligations.TranslationCommandsComplete
  refine ⟨?region, ?info, ?updates, ?unnumbered, ?invalidates, ?queued, ?meets, ?waits, ?ends⟩
  case region => exact fun h base size s hs hlo hhi hbase hsize hfw hret => execXlatRegionSet_serves hs hlo hhi hbase hsize hfw hret
  case info => exact fun h s hs => command_runs (row := { boxes := boxH }) hs rfl rfl
  case updates =>
    intro h kind ups s hs hk hne hlen hn hfree
    refine (execXlatUpdate_numbered hs hne hlen hk hn).trans ?_
    rw [transitions_runs hfree]
    rfl
  case unnumbered => exact fun h ups s hs hne hlen hn => execXlatUpdate_unnumbered hs hne hlen hn
  case invalidates =>
    intro h kind t a n s hs hk ht hr hfree
    refine (execXlatInvalidate_serves hr hs hk ht).trans ?_
    rw [transitions_runs hfree, runInvalidate_accepts hr]
  case queued =>
    intro h kind t a n ups s hs hk hn queue
    refine ⟨fun ht hr hmeet => (execXlatInvalidate_serves hr hs hk ht).trans ?_,
      fun hne hlen hmeet => (execXlatUpdate_numbered hs hne hlen hk fun _ => hn).trans ?_⟩ <;>
      rw [transitions_waits hmeet]
  case meets => exact fun kind t a n k s => mem_overlapKeys
  case waits => exact fun i s hi => runQueuedXlat_waits hi
  case ends =>
    intro kind t a n x s hm hh hx hq u
    refine (execXlatInvalidateComplete_quiet hm hh hx hq).trans ?_
    rw [endTrans_ends (s := forgetRange kind t a n s) (by simpa using hx) (by simpa using hh)]
    cases x.queued <;> rfl

end Sys2Proof.Machine
end

section
/-! Translation faults (11 R328 to R335, 17 R468): the fault ring, the resolution of a fault, and what becomes of an engine that waits on one. -/

namespace Sys2Proof.Machine

open Sys2Proof

variable {s : State} {h : MHdr}

/-! ### The ring (R330, R331, 17 R468) -/

theorem execFaultRingSet_serves (hs : Serves h [0] s) {base vec timeout : Nat} (hbase : base % 4096 = 0) (hvec : vec ≤ 2047) (hlo : 100000000 ≤ timeout)
    (hhi : timeout ≤ 10000000000) : execFaultRingSet h base vec timeout s = .next (reply h 0 [] (fillAll (s.onXlat (fun x => { x with
      ring := some { base := base, vec := vec, timeout := timeout, head := 0, next := 0, dead := false }
      faults := x.faults.map (fun f => { f with id := none, delayed := true }) })))) := by
  refine command_runs (row := { boxes := boxH }) hs rfl ?_
  simp [hbase]
  omega

/-- A head moves over written records only. -/
theorem execDbFaultHead_reached (hm : s.svc.mod = .ready) (hio : ioReaches s = true) {r : FaultRing} (hr : s.xlat.ring = some r) (v : BitVec 32) :
    execDbFaultHead v s = .next (if (v - r.head).toNat ≤ (r.next - r.head).toNat then
      fillAll (s.onXlat (fun x => { x with ring := some { r with head := v } })) else s) := by
  simp only [execDbFaultHead, hr, isReady, hm, hio, BEq.rfl, Bool.and_self, Bool.true_and, decide_eq_true_eq]

/-! ### FAULT_RESOLVE (R333) -/

section
variable (hs : Serves h [0] s) {id : BitVec 32} (deny : Bool)
include hs

theorem execFaultResolve_pending {f : PendFault} (hf : s.xlat.faults.find? (fun f => f.id == some id) = some f) :
    execFaultResolve h id deny s = .next (reply h 0 (pack [.num 8 (coarseNow s f.waiters.length)]) (endFault f.tenant f.page
      (fun w s => if deny then failWaiter f.page w stNotMapped 2 3 s else wakeWaiter f.page w s) s)) := by
  refine (command_runs (row := { boxes := boxH }) hs rfl rfl).trans ?_
  simp only [hf, msOk]

theorem execFaultResolve_unknown (hf : s.xlat.faults.find? (fun f => f.id == some id) = none) :
    execFaultResolve h id deny s = .next (reply h 0 (pack [.num 8 0]) s) := by
  refine (command_runs (row := { boxes := boxH }) hs rfl rfl).trans ?_
  simp only [hf, msOk]

end

/-! ### TRANSLATION_FAULT (R328, R332, R335) -/

section
variable {c : Bool} {index context t fva access : Nat} {w : Waiter}

section
variable (hu : if c then index < 16 ∧ context < 4 else index < 32) (hm : s.svc.mod = .ready)
  (hw : newWaiter s c index context t (fva / 65536) access = some w)
include hu hm hw

/-- The row of a unit that exists, for an engine that waits, by the checks it makes in order: the entry, then the tenant. -/
theorem execTranslationFault_waiter : execTranslationFault c index context t fva access s = .next (
    if srcTranslate s t fva access ≠ .fault then wakeWaiter (fva / 65536) w s
    else if isRevoking s t = true then revokedFault w (fva / 65536) s
    else enterFault t (fva / 65536) w (if c then setFaulting { cluster := index, ctx := context } (fva / 65536) true s else s)) := by
  have hunit : ((c && (decide (16 ≤ index) || decide (4 ≤ context))) || (!c && decide (32 ≤ index))) = false := by
    cases c <;> simpa using hu
  simp only [execTranslationFault, hunit, hw, isReady, hm]
  simp

theorem execTranslationFault_present (hx : srcTranslate s t fva access ≠ .fault) :
    execTranslationFault c index context t fva access s = .next (wakeWaiter (fva / 65536) w s) :=
  (execTranslationFault_waiter hu hm hw).trans (congrArg _ (if_pos hx))

section
variable (hx : srcTranslate s t fva access = .fault)
include hx

theorem execTranslationFault_revoking (hrev : isRevoking s t = true) :
    execTranslationFault c index context t fva access s = .next (revokedFault w (fva / 65536) s) := by
  refine (execTranslationFault_waiter hu hm hw).trans ?_
  rw [if_neg (not_not_intro hx), if_pos hrev]

theorem execTranslationFault_enters (hrev : isRevoking s t = false) : execTranslationFault c index context t fva access s = .next (
    enterFault t (fva / 65536) w (if c then setFaulting { cluster := index, ctx := context } (fva / 65536) true s else s)) := by
  refine (execTranslationFault_waiter hu hm hw).trans ?_
  rw [if_neg (not_not_intro hx), if_neg (Bool.eq_false_iff.mp hrev)]

end

end

/-- Until FAULT_RING_SET no fault is waited on. -/
theorem enterFault_unset (hr : s.xlat.ring = none) (t page : Nat) (w : Waiter) : enterFault t page w s = timeoutWaiter t page w s := by
  simp only [enterFault, hr]

/-! ### FAULT_TIMEOUT (R335) -/

theorem execFaultTimeout_expired {f : PendFault} {r : FaultRing} (hm : s.svc.mod = .ready)
    (hf : s.xlat.faults.find? (fun f => f.tenant == t && f.page == fva / 65536) = some f) (hr : s.xlat.ring = some r)
    (hw : f.waiters.find? (fun w => w.cluster == c && w.index == index && w.context == context) = some w) (ht : w.at_ + r.timeout ≤ s.svc.now) :
    execFaultTimeout c index context t fva s = .next (timeoutWaiter t (fva / 65536) w (dropWaiter t (fva / 65536) w s)) := by
  simp only [execFaultTimeout, hf, hr, hw, isReady, hm, ht, decide_true, BEq.rfl, Bool.and_self, if_true]

end

/-! ### The statement -/

/-- Settles O36: the two commands and the head of the ring, the outcomes of a fault of a waiting engine, and the end by its own timer. -/
theorem faultHandlingCompletes : Obligations.FaultHandlingCompletes := by
  unfold Obligations.FaultHandlingCompletes
  refine ⟨?ring, ?resolves, ?unknown, ?head, ?faults, ?unset, ?expires⟩
  case ring => exact fun h base vec timeout s hs hbase hvec hlo hhi => execFaultRingSet_serves hs hbase hvec hlo hhi
  case resolves => exact fun h id deny f s hs hf => execFaultResolve_pending hs deny hf
  case unknown => exact fun h id deny s hs hf => execFaultResolve_unknown hs deny hf
  case head => exact fun v r s hm hio hr => execDbFaultHead_reached hm hio hr v
  case faults =>
    exact fun c index context t fva access w s hu hm hw => ⟨execTranslationFault_present hu hm hw, execTranslationFault_revoking hu hm hw,
      execTranslationFault_enters hu hm hw⟩
  case unset => exact fun t page w s hr => enterFault_unset hr t page w
  case expires => exact fun c index context t fva f r w s hm hf hr hw ht => execFaultTimeout_expired hm hf hr hw ht

end Sys2Proof.Machine
end

section
/-! Queue pairs (11 R338, R339, R344, R345, 17 R473): their creation, the stop that a reset or a destruction begins and its end, and the register doorbells. -/

namespace Sys2Proof.Machine

open Sys2Proof

variable {s : State} {h : MHdr} {n : Nat} {q : Qp}

/-! ### QP_CREATE (R338) -/

theorem execQpCreate_serves {a : QpArgs} (hs : Serves h [0, 4, 5, 6, 7] s) (ht : tenantOk h a.tenant s = true) (hrev : isRevoking s a.tenant = false)
    (ha : qpArgsBad a s = false) : execQpCreate h a s = .next (if (s.qp a.qpn).isSome then reply h 2 [] s
      else reply h 0 [] (s.onQueues (fun q => { q with qps := q.qps.put a.qpn (newQp a) }))) :=
  command_runs (row := { boxes := boxH ++ boxT }) hs (by simp [ht, hrev]) ha

/-! ### QP_RESET and QP_DESTROY (R345) -/

section
variable (hq : s.qp n = some q)
include hq

section
variable (hs : Serves h [0, 4, 5, 6, 7] s) (ht : tenantOk h q.tenant s = true)
include hs ht

theorem execQpReset_serves : execQpReset h n s = .next (transition (.qp n) (.qpReset h n) h (runQpStop .buffer h 0x0608 n) s) :=
  command_runs (row := { boxes := boxH ++ boxT }) hs (by simp [qpDenied, hq, ht]) (by simp [hq])

theorem execQpDestroy_serves : execQpDestroy h n s = .next (transition (.qp n) (.qpDestroy h n) h (runQpStop .buffer h 0x0609 n) s) :=
  command_runs (row := { boxes := boxH ++ boxT }) hs (by simp [qpDenied, hq, ht]) (by simp [hq])

end

/-- No descriptor starts any more, those not started are dropped, and the started ones end. -/
theorem runQpStop_begins (op : Nat) : runQpStop .buffer h op n s = stopQueue n stOpAborted 3 false ((beginTrans (.qp n) h op (reply h 7 [] s)).onQp n
    (fun q => { q with stopping := true, sqHead := q.sqTail })) := by
  simp only [runQpStop, hq, accept, msInProgress]

end

/-! ### QP_STOP_COMPLETE (R345) -/

@[simp] theorem stoppedQueue_mbx (op n : Nat) (s : State) : (stoppedQueue op n s).mbx = s.mbx := by
  unfold stoppedQueue
  split <;> rfl

@[simp] theorem stoppedQueue_svc (op n : Nat) (s : State) : (stoppedQueue op n s).svc = s.svc := by
  unfold stoppedQueue
  split <;> rfl

theorem execQpStopComplete_ended {t : Transition} (hm : s.svc.mod = .ready) (hh : s.svc.handover = false) (ht : findTrans (.qp n) s.mbx.trans = some t)
    (hq : s.qp n = some q) (hj : q.jobs = []) :
    execQpStopComplete n s = .next (endTrans (.qp n) 0 [] runQueuedQp (stoppedQueue t.opcode n s)) := by
  simp [execQpStopComplete, firmwareRuns, isReady, hm, hh, ht, hq, hj, msOk]

/-! ### Register doorbells (R339, 17 R473) -/

theorem regMode_rung (hm : s.svc.mod = .ready) (hio : ioReaches s = true) (hq : s.qp n = some q) (hl : q.lineMode = false) : regMode s n = true := by
  simp [regMode, isReady, hm, hio, hq, hl]

section
variable (v : BitVec 32)

section
variable (hr : regMode s n = true)
include hr

theorem execDbSqTail_rung : execDbSqTail n v s = .next (setSqTail n v s) := congrArg _ (if_pos hr)

theorem execDbCqHead_rung : execDbCqHead n v s = .next (setCqHead n v s) := congrArg _ (if_pos hr)

end

section
variable (hr : regMode s n = false)
include hr

theorem execDbSqTail_ignored : execDbSqTail n v s = .next s := congrArg _ (if_neg (Bool.eq_false_iff.mp hr))

theorem execDbCqHead_ignored : execDbCqHead n v s = .next s := congrArg _ (if_neg (Bool.eq_false_iff.mp hr))

end

end

/-! ### The statement -/

/-- Settles O37: the commands of a queue pair, run or behind the stop in progress, the end of that stop, and the two doorbells. -/
theorem queuePairsComplete : Obligations.QueuePairsComplete := by
  unfold Obligations.QueuePairsComplete
  refine ⟨?creates, ?stops, ?queued, ?ends, ?rings, ?ignored⟩
  case creates => exact fun h a s hs ht hrev ha => execQpCreate_serves hs ht hrev ha
  case stops =>
    intro h n q s hs hq ht hk
    refine ⟨(execQpReset_serves hq hs ht).trans ?_, (execQpDestroy_serves hq hs ht).trans ?_⟩ <;>
      rw [transition_runs hk, runQpStop_begins hq]
  case queued =>
    intro h n q x s hs hq ht hk queue
    refine ⟨(execQpReset_serves hq hs ht).trans ?_, (execQpDestroy_serves hq hs ht).trans ?_⟩ <;>
      rw [transition_waits hk]
  case ends =>
    intro n q t s hm hh ht hq hj u
    have hu : finishEvent t.hdr t.opcode 0 [] (dropTrans (.qp n) (stoppedQueue t.opcode n s)) = u := by
      simp only [stoppedQueue, beq_iff_eq]
      rfl
    refine (execQpStopComplete_ended hm hh ht hq hj).trans ?_
    rw [endTrans_ends (by simpa using ht) (by simpa using hh), hu]
    cases t.queued <;> rfl
  case rings =>
    intro n v q s hm hio hq hl
    have hr := regMode_rung hm hio hq hl
    exact ⟨execDbSqTail_rung v hr, execDbCqHead_rung v hr⟩
  case ignored => exact fun n v s hr => ⟨execDbSqTail_ignored v hr, execDbCqHead_ignored v hr⟩

end Sys2Proof.Machine
end

section
/-! Descriptors (11 R338 to R344): what the row of a descriptor does by what the mover's read of the ring gives, and the completion record. -/

namespace Sys2Proof.Machine

open Sys2Proof

variable {s u : State} {n op : Nat} {d : Desc} {q : Qp} {first : BitVec 32 → State → State}

/-! ### What the ring gives (R338) -/

/-- A row that is not what the part's own HBM holds. -/
theorem ringGives_here_other {b : List Byte} (hd : descOf b ≠ (op, d)) : ringGives (.here b u) op d = none :=
  if_neg (by simpa using hd)

/-- Only a read that has succeeded, here or at another node, gives a descriptor. -/
theorem ringGives_some {r : RingRead} (hr : ringGives r op d = some u) : (∃ b v, r = .here b v) ∨ ∃ v, r = .far v := by
  cases r with
  | here b v => exact .inl ⟨b, v, rfl⟩
  | far v => exact .inr ⟨v, rfl⟩
  | waits | fault _ | bad => cases hr

/-! ### The row of a descriptor (R339, R340) -/

/-- A descriptor that R340 does not allow: a reserved bit, an OPCODE without a row, a reserved SCOPE. -/
def Malformed (d : Desc) : Prop := d.rsv = true ∨ d.badOp = true ∨ d.scope = 3#2

section
variable (hq : s.qp n = some q)
include hq

theorem descriptor_held (hmay : mayStart s q d = false) : descriptor n op d first s = .next s := by
  simp [descriptor, hq, hmay]

section
variable (hm : s.svc.mod = .ready) (hmay : mayStart s q d = true)
include hm hmay

/-- A descriptor that the ring gives is started; one that is malformed fails at once, with its queue. -/
theorem descriptor_given (hu : ringGives (ringRead q s) op d = some u) : descriptor n op d first s = .next (
    if (d.rsv || d.badOp || d.scope == 3#2) = true then
      advanceMover q.mover ((failJob n q.sqHead stBadRequest 0 (startJob n op d u)).onQp n (fun q => { q with error := true }))
    else advanceMover q.mover (first q.sqHead (startJob n op d u))) := by
  obtain ⟨b, v, hr⟩ | ⟨v, hr⟩ := ringGives_some hu
  all_goals
    rw [hr] at hu
    simp only [descriptor, hq, isReady, hm, hmay, hr, hu]
    rfl

theorem descriptor_starts (hok : ¬ Malformed d) (hu : ringGives (ringRead q s) op d = some u) :
    descriptor n op d first s = .next (advanceMover q.mover (first q.sqHead (startJob n op d u))) :=
  (descriptor_given hq hm hmay hu).trans (congrArg _ (if_neg (by simpa [Malformed, or_assoc] using hok)))

theorem descriptor_malformed (hbad : Malformed d) (hu : ringGives (ringRead q s) op d = some u) : descriptor n op d first s = .next (
    advanceMover q.mover ((failJob n q.sqHead stBadRequest 0 (startJob n op d u)).onQp n (fun q => { q with error := true }))) :=
  (descriptor_given hq hm hmay hu).trans (congrArg _ (if_pos (by simpa [Malformed, or_assoc] using hbad)))

theorem descriptor_faults {a : Nat} (hr : ringRead q s = .fault a) :
    descriptor n op d first s = .next (s.onQp n (fun q => { q with sqFault := some a })) := by
  simp [descriptor, hq, isReady, hm, hmay, hr]

theorem descriptor_unreadable (hr : ringRead q s = .bad) : descriptor n op d first s = .next (s.onQp n (fun q => { q with error := true })) := by
  simp [descriptor, hq, isReady, hm, hmay, hr]

theorem descriptor_waits (hr : ringRead q s = .waits) : descriptor n op d first s = .next s := by
  simp [descriptor, hq, isReady, hm, hmay, hr, ringGives]

theorem descriptor_other {b : List Byte} (hr : ringRead q s = .here b u) (hd : descOf b ≠ (op, d)) : descriptor n op d first s = .next s := by
  simp [descriptor, hq, isReady, hm, hmay, hr, ringGives_here_other hd]

end

end

/-! ### The five rows (R341) -/

/-- The rows of a queue's next descriptor, each with its OPCODE. -/
def descriptorRows (n : Nat) (d : Desc) : List (Nat × Instr) :=
  [(0, .nop n d), (1, .copy n d), (2, .fill n d), (3, .atomicDescriptor n d), (4, .compute n d)]

/-- What a row does first with a good descriptor: an ATOMIC whose LEN is not 128 fails with BAD_REQUEST. -/
def beginWork (n op : Nat) (d : Desc) (i : BitVec 32) (s : State) : State :=
  match op with
  | 3 => if d.len = 128 then s else failJob n i stBadRequest 0 s
  | _ => s

/-- The rows differ in nothing but the OPCODE and their first work. -/
theorem exec_descriptorRow {row : Instr} (hrow : (op, row) ∈ descriptorRows n d) (s : State) : exec row s = descriptor n op d (beginWork n op d) s := by
  have hatomic : (fun i s => if d.len != 128 then failJob n i stBadRequest 0 s else s) = beginWork n 3 d := by
    funext i s
    by_cases hlen : d.len = 128 <;> simp [beginWork, hlen]
  simp only [descriptorRows, List.mem_cons, Prod.mk.injEq, List.not_mem_nil, or_false] at hrow
  obtain ⟨rfl, rfl⟩ | ⟨rfl, rfl⟩ | ⟨rfl, rfl⟩ | ⟨rfl, rfl⟩ | ⟨rfl, rfl⟩ := hrow
  · rfl
  · rfl
  · rfl
  · exact congrArg (descriptor n 3 d · s) hatomic
  · rfl

/-- What holds of every row holds of the five. -/
theorem forall_descriptorRows {P : Nat → Instr → Prop} (hP : ∀ op row, (op, row) ∈ descriptorRows n d → P op row) :
    P 0 (.nop n d) ∧ P 1 (.copy n d) ∧ P 2 (.fill n d) ∧ P 3 (.atomicDescriptor n d) ∧ P 4 (.compute n d) := by
  simpa [descriptorRows, or_imp, forall_and] using hP

/-! ### The completion record (R343, R344) -/

theorem execCompletionRecord_job {i : BitVec 32} {j : Job} (hm : s.svc.mod = .ready) (hj : jobOf s n i = some (q, j)) :
    execCompletionRecord n i s = .next (if mayRecord s q j then writeRecord n q j s else s) := by
  simp [execCompletionRecord, hj, isReady, hm]

/-! ### The statement -/

/-- Settles O38: the five rows by what the read of the ring gives, and the record of a descriptor. -/
theorem descriptorsComplete : Obligations.DescriptorsComplete := by
  unfold Obligations.DescriptorsComplete
  refine ⟨?starts, ?malformed, ?notGiven, ?held, ?records⟩
  case starts =>
    intro n d q s u hm hq hmay hrsv hop hscope
    have hok : ¬ Malformed d := by simp [Malformed, hrsv, hop, hscope]
    exact forall_descriptorRows (P := fun op row => ringGives (ringRead q s) op d = some u →
        exec row s = .next (advanceMover q.mover (beginWork n op d q.sqHead (startJob n op d u))))
      fun op row hrow hu => (exec_descriptorRow hrow s).trans (descriptor_starts hq hm hmay hok hu)
  case malformed =>
    intro n d q s u hm hq hmay hbad bad
    exact forall_descriptorRows (P := fun op row => ringGives (ringRead q s) op d = some u → exec row s = .next (bad op))
      fun op row hrow hu => (exec_descriptorRow hrow s).trans (descriptor_malformed hq hm hmay hbad hu)
  case notGiven =>
    intro n op d row q s hm hq hmay hrow
    rw [exec_descriptorRow hrow s]
    exact ⟨fun a => descriptor_faults hq hm hmay, descriptor_unreadable hq hm hmay, descriptor_waits hq hm hmay,
      fun b t => descriptor_other hq hm hmay⟩
  case held =>
    exact fun n d q s hm hq hmay => forall_descriptorRows (P := fun _ row => exec row s = .next s)
      fun op row hrow => (exec_descriptorRow hrow s).trans (descriptor_held hq hmay)
  case records => exact fun n i q j s hm hj => execCompletionRecord_job hm hj

end Sys2Proof.Machine
end

section
/-! What no step destroys (O3, O4, O5): the canonical form of the memories and the fuses. One lemma per function of the model, named after it, in the model's
order: it keeps what the functions it calls keep. -/

namespace Sys2Proof.Machine

open Sys2Proof

variable {c : Prop} {n : Nat} {s t : State}

/-- What no step destroys: where `c` asks for it the HBM and the command buffers are canonical, and FUSED_SVN has reached `n`. -/
structure Intact (c : Prop) (n : Nat) (s : State) : Prop where
  hbm : c → HbmCanonical s
  boxes : c → BoxesCanonical s
  fused : FusedAtLeast n s

/-- An outcome whose next state, if it has one, is intact. -/
def OutIntact (c : Prop) (n : Nat) (o : Host.Outcome State Fault Refusal) : Prop := ∀ t, o = .next t → Intact c n t

theorem Intact.next (h : Intact c n s) : OutIntact c n (.next s) := by simpa [OutIntact] using h
theorem OutIntact.fault {f : Fault} : OutIntact c n (.fault f) := by simp [OutIntact]
theorem OutIntact.refused {f : Refusal} : OutIntact c n (.refused f) := by simp [OutIntact]
theorem OutIntact.ite {p : Prop} [Decidable p] {a b : Host.Outcome State Fault Refusal} (ha : OutIntact c n a) (hb : OutIntact c n b) :
    OutIntact c n (if p then a else b) := by split <;> assumption

/-- Whatever else an update of the state changes. -/
theorem Intact.parts (h : Intact c n s) {v e l p co r cl re x q ho se pw sn fr pe} :
    Intact c n ⟨v, e, s.mbx, l, p, co, s.home, r, cl, re, x, q, ho, se, s.flash, pw, sn, fr, pe⟩ := ⟨h.hbm, h.boxes, h.fused⟩

theorem Intact.of_snd {α : Type} {p : α × State} {a : α} (h : Intact c n p.2) (e : p = (a, s)) : Intact c n s := by
  subst e
  exact h

theorem Intact.ite {p : Prop} [Decidable p] (hs : Intact c n s) (ht : Intact c n t) : Intact c n (if p then s else t) := by
  split <;> assumption

theorem Intact.foldl {α : Type} {f : State → α → State} {l : List α} (h : Intact c n s) (hf : ∀ u x, Intact c n u → Intact c n (f u x)) :
    Intact c n (l.foldl f s) := by
  induction l generalizing s with
  | nil => exact h
  | cons x l ih => exact ih (hf s x h)

theorem Intact.foldl_snd {α β : Type} {f : β × State → α → β × State} {l : List α} {x : β × State} (h : Intact c n x.2)
    (hf : ∀ u y, Intact c n u.2 → Intact c n (f u y).2) : Intact c n (l.foldl f x).2 := by
  induction l generalizing x with
  | nil => exact h
  | cons y l ih => exact ih (hf x y h)

section
variable (h : Intact c n s)
include h
theorem Intact.onSvc {f} : Intact c n (s.onSvc f) := h.parts
theorem Intact.onErr {f} : Intact c n (s.onErr f) := h.parts
theorem Intact.onCore {f} : Intact c n (s.onCore f) := h.parts
theorem Intact.onReq {f} : Intact c n (s.onReq f) := h.parts
theorem Intact.onColl {f} : Intact c n (s.onColl f) := h.parts
theorem Intact.onReed {f} : Intact c n (s.onReed f) := h.parts
theorem Intact.onXlat {f} : Intact c n (s.onXlat f) := h.parts
theorem Intact.onQueues {f} : Intact c n (s.onQueues f) := h.parts
theorem Intact.onHost {f} : Intact c n (s.onHost f) := h.parts
theorem Intact.onSec {f} : Intact c n (s.onSec f) := h.parts
theorem Intact.onPwr {f} : Intact c n (s.onPwr f) := h.parts
theorem Intact.onPort {p f} : Intact c n (s.onPort p f) := h.parts
theorem Intact.onLink {p f} : Intact c n (s.onLink p f) := h.parts
theorem Intact.onCnt {p f} : Intact c n (s.onCnt p f) := h.parts
theorem Intact.onLane {l f} : Intact c n (s.onLane l f) := h.parts
theorem Intact.onCluster {l f} : Intact c n (s.onCluster l f) := h.parts
theorem Intact.onCtx {l f} : Intact c n (s.onCtx l f) := h.parts
theorem Intact.onWindow {l f} : Intact c n (s.onWindow l f) := h.parts
theorem Intact.onTrunk {l f} : Intact c n (s.onTrunk l f) := h.parts
theorem Intact.onTq {p q f} : Intact c n (s.onTq p q f) := h.parts
theorem Intact.onQp {p f} : Intact c n (s.onQp p f) := h.parts
theorem Intact.onOp {p f} : Intact c n (s.onOp p f) := h.parts
theorem Intact.onMember {p f} : Intact c n (s.onMember p f) := h.parts
theorem Intact.onTenant {p f} : Intact c n (s.onTenant p f) := h.parts
theorem Intact.onWin {p f} : Intact c n (s.onWin p f) := ⟨h.hbm, h.boxes, h.fused⟩
theorem Intact.withPending {q} : Intact c n (s.withPending q) := h.parts

theorem Intact.onHome {f : Home → Home} (hf : c → memWf s.home.hbm = true → memWf (f s.home).hbm = true) : Intact c n (s.onHome f) :=
  ⟨fun hc => hf hc (h.hbm hc), h.boxes, h.fused⟩
theorem Intact.onMbx {f : Mailboxes → Mailboxes} (hf : (f s.mbx).boxes = s.mbx.boxes) : Intact c n (s.onMbx f) :=
  ⟨h.hbm, fun hc m => by simpa [State.box, hf] using h.boxes hc m, h.fused⟩
theorem Intact.onBox {f : Mailbox → Mailbox} {m : Nat} (hf : memWf (s.box m).buf = true → memWf (f (s.box m)).buf = true) :
    Intact c n (s.onBox m f) := by
  refine ⟨h.hbm, fun hc k => ?_, h.fused⟩
  unfold State.onBox State.onMbx State.box
  rw [Map.look_upd]
  split
  · exact hf (h.boxes hc m)
  · exact h.boxes hc k
theorem Intact.onFlash {f : Flash → Flash} (hf : s.flash.fusedSvn ≤ (f s.flash).fusedSvn) : Intact c n (s.onFlash f) :=
  ⟨h.hbm, h.boxes, h.fused.trans hf⟩
end

end Sys2Proof.Machine
end

section
/-! What no step destroys: the functions of Machine/Ops. -/

namespace Sys2Proof.Machine

open Sys2Proof

variable {c : Prop} {n : Nat} {s t : State}

theorem Intact.drawNat (h : Intact c n s) : Intact c n (Machine.State.drawNat s).2 := h.parts
theorem Intact.drawBytes {num} (h : Intact c n s) : Intact c n (Machine.State.drawBytes s num).2 := h.parts
theorem Intact.whenReady {f} (h : Intact c n s) (hf : ∀ u, Intact c n u → Intact c n (f u)) : Intact c n (Machine.whenReady s f) := (hf _ h).ite h
theorem Intact.raiseVec {v} (h : Intact c n s) : Intact c n (Machine.raiseVec v s) := h.ite h.onHost
theorem Intact.setSummary {bit} (h : Intact c n s) : Intact c n (Machine.setSummary bit s) := h.ite h.onErr.raiseVec
theorem Intact.addCxlEvent {unit code sev} (h : Intact c n s) : Intact c n (Machine.addCxlEvent unit code sev s) := h.onHost.raiseVec
theorem Intact.recordErr {kind index code sev detail} (h : Intact c n s) : Intact c n (Machine.recordErr kind index code sev detail s) := by
  unfold Machine.recordErr
  dsimp only
  refine Intact.setSummary ?_
  split
  · exact h.onErr.onErr
  · exact h.onErr.onErr.addCxlEvent.ite h.onErr.onErr.setSummary
theorem Intact.recordCorrected {kind index} (h : Intact c n s) : Intact c n (Machine.recordCorrected kind index s) := h.onErr
theorem Intact.takeSnapshot (h : Intact c n s) : Intact c n (Machine.takeSnapshot s) := h.parts
theorem Intact.settleSnapshot (h : Intact c n s) : Intact c n (Machine.settleSnapshot s) := h.takeSnapshot.ite h
theorem Intact.tick (h : Intact c n s) : Intact c n (Machine.tick s) := h.onSvc.settleSnapshot.ite h
theorem Intact.bumpEpoch (h : Intact c n s) : Intact c n (Machine.bumpEpoch s) := h.onSec

end Sys2Proof.Machine
end

section
/-! What no step destroys: the functions of Machine/Mailbox. -/

namespace Sys2Proof.Machine

open Sys2Proof

variable {c : Prop} {n : Nat} {s t : State}

theorem Intact.boxSignal {m} (h : Intact c n s) : Intact c n (Machine.boxSignal m s) := (h.onMbx rfl).ite h.raiseVec
theorem Intact.reply {hd status result} (h : Intact c n s) : Intact c n (Machine.reply hd status result s) := by
  have hb : Intact c n (s.onBox hd.mbx fun b =>
      { b with buf := memSetN (memSetN (memSetN b.buf 12 (leBytes status 2)) 8 (leBytes result.length 4)) 16 result, busy := false, go := false }) :=
    h.onBox fun hw => memSetN_wf _ _ _ (memSetN_wf _ _ _ (memSetN_wf _ _ _ hw))
  exact hb.boxSignal.ite hb
theorem Intact.postEvent {m r signal} (h : Intact c n s) : Intact c n (Machine.postEvent m r signal s) :=
  (((h.onBox id).boxSignal).ite (h.onBox id)).ite (h.onBox id)
theorem Intact.drainEvents {m k} (h : Intact c n s) : Intact c n (Machine.drainEvents m k s) := by
  induction k generalizing s with
  | zero => exact h
  | succ k ih =>
    unfold Machine.drainEvents
    split
    · exact h
    · exact (ih ((h.onBox id).boxSignal.ite (h.onBox id))).ite h
theorem Intact.unsolicited {m code data} (h : Intact c n s) : Intact c n (Machine.unsolicited m code data s) := h.postEvent
theorem Intact.postFinish {e} (h : Intact c n s) : Intact c n (Machine.postFinish e s) := (h.ite (h.onBox id)).postEvent
theorem Intact.finishEvent {hd op status result} (h : Intact c n s) : Intact c n (Machine.finishEvent hd op status result s) :=
  (h.onMbx rfl).ite h.postFinish
theorem Intact.finish {via hd op status result} (h : Intact c n s) : Intact c n (Machine.finish via hd op status result s) := by
  unfold Machine.finish
  split
  · exact h.reply
  · exact h.finishEvent
theorem Intact.accept {via hd} (h : Intact c n s) : Intact c n (Machine.accept via hd s) := by
  unfold Machine.accept
  split
  · exact h.reply
  · exact h
theorem Intact.beginTrans {k hd op} (h : Intact c n s) : Intact c n (Machine.beginTrans k hd op s) := h.onMbx rfl
theorem Intact.restartTrans {k} (h : Intact c n s) : Intact c n (Machine.restartTrans k s) := h.onMbx rfl
theorem Intact.dropTrans {k} (h : Intact c n s) : Intact c n (Machine.dropTrans k s) := h.onMbx rfl
theorem Intact.transitions {ks i hd run} (h : Intact c n s) (hrun : ∀ u, Intact c n u → Intact c n (run u)) :
    Intact c n (Machine.transitions ks i hd run s) :=
  (hrun _ h).ite (h.reply.ite ((h.onMbx rfl).reply))
theorem Intact.transition {k i hd run} (h : Intact c n s) (hrun : ∀ u, Intact c n u → Intact c n (run u)) : Intact c n (Machine.transition k i hd run s) := by
  unfold Machine.transition
  split
  · exact h.reply.ite ((h.onMbx rfl).reply)
  · exact hrun _ h
theorem Intact.endTrans {k status result runQueued} (h : Intact c n s) (hrunQueued : ∀ y0 u, Intact c n u → Intact c n (runQueued y0 u)) :
    Intact c n (Machine.endTrans k status result runQueued s) := by
  unfold Machine.endTrans
  dsimp only
  split
  · exact h
  · refine (h.onMbx rfl).ite ?_
    split
    · exact hrunQueued _ _ h.dropTrans.finishEvent
    · exact h.dropTrans.finishEvent
theorem Intact.overrun {m} (h : Intact c n s) : Intact c n (Machine.overrun m s) := (h.onBox id).recordErr
theorem Intact.stallCommand {i m} (h : Intact c n s) : Intact c n (Machine.stallCommand i m s) := h.overrun.ite (h.onBox id)
theorem Intact.awaitHbm {i m} (h : Intact c n s) : Intact c n (Machine.awaitHbm i m s) := h.onBox id
theorem Intact.command {i hd row denied bad run} (h : Intact c n s) (hrun : ∀ u, Intact c n u → Intact c n (run u)) :
    OutIntact c n (Machine.command i hd row denied bad run s) := by
  unfold Machine.command
  refine OutIntact.ite .fault (Intact.next ?_)
  split
  · exact h
  · exact h.reply
  · exact h.stallCommand.ite (h.overrun.ite (h.reply.ite (h.reply.ite (hrun _ h))))

end Sys2Proof.Machine
end

section
/-! What no step destroys: the functions of Machine/General. -/

namespace Sys2Proof.Machine

open Sys2Proof

variable {c : Prop} {n : Nat} {s t : State}

theorem Intact.execDeviceInfo {hd} (h : Intact c n s) : OutIntact c n (Machine.execDeviceInfo hd s) := h.command (fun _ hu => hu.reply)
theorem Intact.execTimeExchange {hd} (h : Intact c n s) : OutIntact c n (Machine.execTimeExchange hd s) := h.command (fun _ hu => hu.drawNat.reply)
theorem Intact.execCmdResultRead {hd sequence} (h : Intact c n s) : OutIntact c n (Machine.execCmdResultRead hd sequence s) := by
  unfold Machine.execCmdResultRead
  refine h.command (fun _ hu => ?_)
  split
  · exact hu.reply
  · exact hu
theorem Intact.execAgentTenantsSet {hd mailbox bitmap} (h : Intact c n s) : OutIntact c n (Machine.execAgentTenantsSet hd mailbox bitmap s) :=
  h.command (fun _ hu => ((hu.onBox id).bumpEpoch).reply)
theorem Intact.execFmHeartbeat {hd} (h : Intact c n s) : OutIntact c n (Machine.execFmHeartbeat hd s) := h.command (fun _ hu => hu.onSvc.reply)
theorem Intact.execHeartbeatMiss (h : Intact c n s) : OutIntact c n (Machine.execHeartbeatMiss s) :=
  (h.ite ((h.onSvc.recordErr.setSummary.unsolicited.onMbx rfl).ite h.onSvc)).next
theorem Intact.execNodeAssign {hd pair domain plane} (h : Intact c n s) : OutIntact c n (Machine.execNodeAssign hd pair domain plane s) :=
  h.command (fun _ hu => hu.reply.ite (hu.reply.ite ((((hu.onFlash le_rfl).onSvc).bumpEpoch).reply)))
theorem Intact.logRead {hd count clear} (h : Intact c n s) : Intact c n (Machine.logRead hd count clear s) := h.onErr.reply
theorem Intact.unitRead {hd unit clear} (h : Intact c n s) : Intact c n (Machine.unitRead hd unit clear s) := (h.onErr.ite h).reply
theorem Intact.execErrLogRead {hd count clear unitMode unit} (h : Intact c n s) : OutIntact c n (Machine.execErrLogRead hd count clear unitMode unit s) :=
  h.command (fun _ hu => hu.unitRead.ite hu.logRead)

end Sys2Proof.Machine
end

section
/-! What no step destroys: the functions of Machine/Faults. -/

namespace Sys2Proof.Machine

open Sys2Proof

variable {c : Prop} {n : Nat} {s t : State}

theorem Intact.writeFault {k f r} (h : Intact c n s) : Intact c n (Machine.writeFault k f r s) := h.onHost.onXlat.raiseVec
theorem Intact.fillRing {k} (h : Intact c n s) : Intact c n (Machine.fillRing k s) := by
  induction k generalizing s with
  | zero => exact h
  | succ k ih =>
    unfold Machine.fillRing
    split
    · exact h
    · refine h.ite ?_
      split
      · split
        · exact ih h.writeFault
        · exact h
      · exact h
theorem Intact.fillAll (h : Intact c n s) : Intact c n (Machine.fillAll s) := h.fillRing
theorem Intact.settleWaiters (h : Intact c n s) : Intact c n (Machine.settleWaiters s) := h.ite h.onXlat.fillAll

end Sys2Proof.Machine
end

section
/-! What no step destroys: the functions of Machine/Idle. -/

namespace Sys2Proof.Machine

open Sys2Proof

variable {c : Prop} {n : Nat} {s t : State}

theorem Intact.yieldBallast (h : Intact c n s) : Intact c n (Machine.yieldBallast s) := h.onPwr
theorem Intact.settlePhase (h : Intact c n s) : Intact c n (Machine.settlePhase s) :=
  (h.yieldBallast.ite h.yieldBallast.onPwr).ite h.yieldBallast.onPwr
theorem Intact.freeContextsOf {job} (h : Intact c n s) : Intact c n (Machine.freeContextsOf job s) := h.onReed.settlePhase.settleWaiters

end Sys2Proof.Machine
end

section
/-! What no step destroys: the functions of Machine/Send. -/

namespace Sys2Proof.Machine

open Sys2Proof

variable {c : Prop} {n : Nat} {s t : State}

theorem Intact.sendVia {via p} (h : Intact c n s) : Intact c n (Machine.sendVia via p s) := h.onCore
theorem Intact.sendLocal {p} (h : Intact c n s) : Intact c n (Machine.sendLocal p s) := h.sendVia
theorem Intact.fillLocal (h : Intact c n s) : Intact c n (Machine.fillLocal s) := h.onCore.foldl (fun _ _ hu => hu.sendVia)
theorem Intact.takeLocal {p} (h : Intact c n s) : Intact c n (Machine.takeLocal p s) := h.onCore
theorem Intact.wearCheck {tn slot ctr} (h : Intact c n s) : Intact c n (Machine.wearCheck tn slot ctr s) := by
  unfold Machine.wearCheck
  split
  · exact h
  · exact h.onTenant.unsolicited.ite h
theorem Intact.sprayVia {via p} (h : Intact c n s) : Intact c n (Machine.sprayVia via p s) := (h.ite h.drawNat.sendVia).ite h.sendVia
theorem Intact.sendPacket {via p} (h : Intact c n s) : Intact c n (Machine.sendPacket via p s) := by
  unfold Machine.sendPacket
  refine h.sprayVia.ite ?_
  dsimp only
  split
  · exact h
  · exact h.ite h.onReq.wearCheck.sprayVia
theorem Intact.sendFor {via p} (h : Intact c n s) : Intact c n (Machine.sendFor via p s) := by
  unfold Machine.sendFor
  split
  · exact h.sendPacket
  · exact h
theorem Intact.countAuthFail {port} (h : Intact c n s) : Intact c n (Machine.countAuthFail port s) := h.onCnt
theorem Intact.discardUnsure {port} (h : Intact c n s) : Intact c n (Machine.discardUnsure port s) := h.countAuthFail.ite h
theorem Intact.countStale {port} (h : Intact c n s) : Intact c n (Machine.countStale port s) := h.onCnt
theorem Intact.discardStale {port} (h : Intact c n s) : Intact c n (Machine.discardStale port s) := h.countStale.ite h
theorem Intact.discardMalformed {port check p} (h : Intact c n s) : Intact c n (Machine.discardMalformed port check p s) := h.ite h.onCnt.recordErr
theorem Intact.pktChecked {port p bad go} (h : Intact c n s) (hgo : ∀ u, Intact c n u → Intact c n (go u)) :
    Intact c n (Machine.pktChecked port p bad go s) := by
  unfold Machine.pktChecked
  split
  · exact h.discardStale
  · exact h.discardUnsure
  · exact h.discardMalformed.ite (hgo _ h)
theorem Intact.mgtChecked {port p bad go} (h : Intact c n s) (hgo : ∀ u, Intact c n u → Intact c n (go u)) :
    Intact c n (Machine.mgtChecked port p bad go s) :=
  h.discardStale.ite (h.discardMalformed.ite (hgo _ h))

end Sys2Proof.Machine
end

section
/-! What no step destroys: the functions of Machine/Abort. -/

namespace Sys2Proof.Machine

open Sys2Proof

variable {c : Prop} {n : Nat} {s t : State}

theorem Intact.keepRecord {g r} (h : Intact c n s) : Intact c n (Machine.keepRecord g r s) := by
  unfold Machine.keepRecord
  dsimp only
  split
  · exact h
  · exact h.ite h.onOp.freeContextsOf.onCore.sendLocal
theorem Intact.originate {g reason chunk} (h : Intact c n s) : Intact c n (Machine.originate g reason chunk s) := by
  unfold Machine.originate
  split
  · exact h
  · exact h.keepRecord.ite h
theorem Intact.opPortDown {p g} (h : Intact c n s) : Intact c n (Machine.opPortDown p s g) := by
  unfold Machine.opPortDown
  split
  · exact h
  · exact (h.originate.ite h).ite (h.originate.ite h)
theorem Intact.forwardRecord {g m r except} (h : Intact c n s) : Intact c n (Machine.forwardRecord g m r except s) :=
  h.foldl (fun _ _ hu => hu.ite hu.sendLocal)
theorem Intact.memberRecord {g r except} (h : Intact c n s) : Intact c n (Machine.memberRecord g r except s) := by
  unfold Machine.memberRecord
  dsimp only
  split
  · exact h
  · exact h.ite h.onMember.forwardRecord
theorem Intact.memberPortDown {r g} (h : Intact c n s) : Intact c n (Machine.memberPortDown r s g) := by
  unfold Machine.memberPortDown
  split
  · exact h
  · refine h.ite ?_
    split
    · exact h.memberRecord.ite h
    · exact h.onMember
theorem Intact.collPortDown {p} (h : Intact c n s) : Intact c n (Machine.collPortDown p s) :=
  (h.foldl (fun _ _ hu => hu.memberPortDown)).ite (h.foldl (fun _ _ hu => hu.opPortDown))

end Sys2Proof.Machine
end

section
/-! What no step destroys: the functions of Machine/Requester. -/

namespace Sys2Proof.Machine

open Sys2Proof

variable {c : Prop} {n : Nat} {s t : State}

theorem Intact.pickPlane {tried p} (h : Intact c n s) : Intact c n (Machine.pickPlane tried p s).2 := by
  unfold Machine.pickPlane
  dsimp only
  split
  · exact h
  · split
    · split
      · exact h
      · exact h.drawNat
    · exact h.drawNat
theorem Intact.onReqTag {tag f} (h : Intact c n s) : Intact c n (Machine.onReqTag tag f s) := h.onReq
theorem Intact.noteSent {k} (h : Intact c n s) : Intact c n (Machine.noteSent k s) := h.onReqTag.ite h
theorem Intact.attempt {tag} (h : Intact c n s) : Intact c n (Machine.attempt tag s) := by
  unfold Machine.attempt
  dsimp only
  split
  · exact h
  · split
    · exact h.onReqTag
    · refine h.onReqTag.ite (Intact.ite ?_ h.onReq.onReqTag.sendPacket)
      split
      · exact (h.pickPlane.of_snd ‹_›).onReqTag
      · exact (((h.pickPlane.of_snd ‹_›).onReqTag).sendLocal).ite ((((h.pickPlane.of_snd ‹_›).onReq).onReqTag).sendPacket)
theorem Intact.cacheDrop {tn node off} (h : Intact c n s) : Intact c n (Machine.cacheDrop tn node off s) := h.onHost
theorem Intact.dropLine {p} (h : Intact c n s) : Intact c n (Machine.dropLine p s) := h.cacheDrop
theorem Intact.barFills {which} (h : Intact c n s) : Intact c n (Machine.barFills which s) := h.onReq
theorem Intact.ownWrite {tn off} (h : Intact c n s) : Intact c n (Machine.ownWrite tn off s) := by
  unfold Machine.ownWrite
  exact h.cacheDrop.barFills
theorem Intact.enterRequest {tag p u} (h : Intact c n s) : Intact c n (Machine.enterRequest tag p u s) :=
  (((h.barFills.ite h).onReq).sendLocal).ite (((h.barFills.ite h).onReq).ite ((((h.barFills.ite h).onReq).onReq).attempt))
theorem Intact.pumpGo {l blocked} (h : Intact c n s) : Intact c n (Machine.pumpGo l blocked s) := by
  induction l generalizing blocked s with
  | nil => exact h
  | cons x l ih =>
    unfold Machine.pumpGo
    refine (ih h.onReq).ite ?_
    split
    · exact ih (h.enterRequest.ite h.onReq)
    · exact ih h.onReq
theorem Intact.pump (h : Intact c n s) : Intact c n (Machine.pump s) := h.onReq.pumpGo
theorem Intact.issue {p u} (h : Intact c n s) : Intact c n (Machine.issue p u s) := ((h.dropLine.ite h).onReq).pump
theorem Intact.noteUnanswered {r status} (h : Intact c n s) : Intact c n (Machine.noteUnanswered r status s) := h.onReq.ite h
theorem Intact.pumpDue (h : Intact c n s) : Intact c n (Machine.pumpDue s) := by
  unfold Machine.pumpDue
  refine h.foldl (fun _ _ hu => ?_)
  split
  · exact hu.ite hu.attempt
  · exact hu
theorem Intact.closeRequest {tag fromHome} (h : Intact c n s) : Intact c n (Machine.closeRequest tag fromHome s) := by
  unfold Machine.closeRequest
  dsimp only
  split
  · exact h
  · exact h.onReq
theorem Intact.countStaleCmpl (h : Intact c n s) : Intact c n (Machine.countStaleCmpl s) := h.onReq
theorem Intact.planeAnswered {port} (h : Intact c n s) : Intact c n (Machine.planeAnswered port s) := h.onReq.ite h
theorem Intact.dropPlane {i} (h : Intact c n s) : Intact c n (Machine.dropPlane i s) := h.onReq
theorem Intact.planeTimedOut {i} (h : Intact c n s) : Intact c n (Machine.planeTimedOut i s) := h.onReq.dropPlane.onReq.ite h.onReq

end Sys2Proof.Machine
end

section
/-! What no step destroys: the functions of Machine/Translate. -/

namespace Sys2Proof.Machine

open Sys2Proof

variable {c : Prop} {n : Nat} {s t : State}

theorem Intact.touchCache {engine x} (h : Intact c n s) : Intact c n (Machine.touchCache engine x s) := h.onXlat
theorem Intact.hbmLine {key line} (h : Intact c n s) : Intact c n (Machine.hbmLine key line s).2 := by
  unfold Machine.hbmLine
  split
  · split
    · exact h
    · exact h.drawBytes
  · exact h
theorem Intact.hbmStore {key line mask data} (h : Intact c n s) : Intact c n (Machine.hbmStore key line mask data s) := by
  have hold : Intact c n (if mask == fullMask then (padTo 128 data, s) else Machine.hbmLine key line s).2 := by
    split
    · exact h
    · exact h.hbmLine
  exact h.ite (hold.onHome fun _ hw => memSetN_wf _ _ _ hw)
theorem Intact.copyChecked {key f spare i} {x : Bool × State} (h : Intact c n x.2) : Intact c n (Machine.copyChecked key f spare i x) := by
  unfold Machine.copyChecked
  dsimp only
  split
  · exact h.hbmLine.hbmStore
  · exact h.onHome fun _ => id
theorem Intact.listRetired {f} (h : Intact c n s) : Intact c n (Machine.listRetired f s) := h.onFlash le_rfl
theorem Intact.takeSpare {f spare} (h : Intact c n s) : Intact c n (Machine.takeSpare f spare s) := h.onHome (fun _ => id)
theorem Intact.retireOwn {f bad} (h : Intact c n s) : Intact c n (Machine.retireOwn f bad s) := by
  unfold Machine.retireOwn
  dsimp only
  refine h.ite ?_
  split
  · exact h
  · exact (h.foldl fun _ _ hu => Intact.copyChecked hu).takeSpare.listRetired
theorem Intact.adviseRetire {a} (h : Intact c n s) : Intact c n (Machine.adviseRetire a s) := h.recordErr.setSummary
theorem Intact.correctedAt {a} (h : Intact c n s) : Intact c n (Machine.correctedAt a s) :=
  (((h.recordCorrected.onHome (fun _ => id)).adviseRetire).retireOwn).ite (h.recordCorrected.onHome (fun _ => id))
theorem Intact.damagedAt {a} (h : Intact c n s) : Intact c n (Machine.damagedAt a s) := h.recordErr.adviseRetire
theorem Intact.eccCheck {e a} (h : Intact c n s) : Intact c n (Machine.eccCheck e a s).2 := by
  unfold Machine.eccCheck
  split
  · exact h
  · split
    · exact h.correctedAt
    · exact h.damagedAt.retireOwn
    · exact h
theorem Intact.fwAddress (h : Intact c n s) : Intact c n (Machine.fwAddress s).2 := h.drawNat
theorem Intact.mirrorCheck {e} (h : Intact c n s) : Intact c n (Machine.mirrorCheck e s) := h.fwAddress.eccCheck.ite h
theorem Intact.setSqTail {num v} (h : Intact c n s) : Intact c n (Machine.setSqTail num v s) := h.onQp
theorem Intact.setCqHead {num v} (h : Intact c n s) : Intact c n (Machine.setCqHead num v s) := h.onQp
theorem Intact.doorbellLanded {line} (h : Intact c n s) : Intact c n (Machine.doorbellLanded line s) :=
  h.foldl (fun _ _ hu => hu.hbmLine.setSqTail.setCqHead)

end Sys2Proof.Machine
end

section
/-! What no step destroys: the functions of Machine/Programs. -/

namespace Sys2Proof.Machine

open Sys2Proof

variable {c : Prop} {n : Nat} {s t : State}

theorem Intact.zeroCluster {cl} (h : Intact c n s) : Intact c n (Machine.zeroCluster cl s) := h.onCluster
theorem Intact.setPartition {partition mask tenant} (h : Intact c n s) : Intact c n (Machine.setPartition partition mask tenant s) := by
  unfold Machine.setPartition
  refine Intact.ite ?_ (((h.foldl (fun _ _ hu => hu.zeroCluster)).onReed).bumpEpoch)
  split
  · exact h
  · exact (h.onReed.foldl (fun _ _ hu => hu.zeroCluster)).bumpEpoch
theorem Intact.execPartitionSet {hd partition mask tenant} (h : Intact c n s) : OutIntact c n (Machine.execPartitionSet hd partition mask tenant s) :=
  h.command (fun _ hu => hu.reply.ite (hu.reply.ite hu.setPartition.reply))
theorem Intact.finishLoad {l} (h : Intact c n s) : Intact c n (Machine.finishLoad l s) := by
  unfold Machine.finishLoad
  dsimp only
  split
  · exact h.reply
  · exact h.reply.ite (h.reply.ite (h.reply.ite (h.reply.ite h.bumpEpoch.onReed.reply)))
theorem Intact.settleLoad {l} (h : Intact c n s) : Intact c n (Machine.settleLoad l s) := h.onReed.finishLoad.ite h.onReed
theorem Intact.readHere {k ecc l} (h : Intact c n s) : Intact c n (Machine.readHere k ecc l s).2 := by
  refine Intact.foldl_snd h fun u x hu => ?_
  split
  · dsimp only
    generalize (if x.2 == 0 then ecc else .clean) = e
    split
    · exact hu.eccCheck
    · exact hu.eccCheck.hbmLine
  · exact hu
  · exact hu
theorem Intact.runLoad {hd partition slot addr len p} (h : Intact c n s) : Intact c n (Machine.runLoad hd partition slot addr len p s) :=
  h.reply.ite (h.awaitHbm.ite (h.readHere.finishLoad.ite (h.readHere.settleLoad.foldl (fun _ _ hu => hu.issue))))
theorem Intact.imageLine {tn mbx i status data} (h : Intact c n s) : Intact c n (Machine.imageLine tn mbx i status data s) := by
  unfold Machine.imageLine
  dsimp only
  split
  · exact h
  · exact h.ite h.settleLoad
theorem Intact.execProgramLoad {hd partition slot addr len} (h : Intact c n s) : OutIntact c n (Machine.execProgramLoad hd partition slot addr len s) := by
  unfold Machine.execProgramLoad
  refine h.command (fun _ hu => ?_)
  split
  · exact hu.runLoad
  · exact hu
theorem Intact.execProgramUnload {hd progId} (h : Intact c n s) : OutIntact c n (Machine.execProgramUnload hd progId s) :=
  h.command (fun _ hu => hu.reply.ite hu.onReed.bumpEpoch.reply)
theorem Intact.startContexts {job key i mask} (h : Intact c n s) (t : State) (ht : Machine.startContexts job key i mask s = some t) : Intact c n t := by
  unfold Machine.startContexts at ht
  dsimp only at ht
  split at ht
  · cases ht
    exact (h.drawNat.foldl fun _ _ hu => hu.onCluster).settlePhase
  · cases ht

end Sys2Proof.Machine
end

section
/-! What no step destroys: the functions of Machine/Movers. -/

namespace Sys2Proof.Machine

open Sys2Proof

variable {c : Prop} {n : Nat} {s t : State}

theorem Intact.onJob {qpn index f} (h : Intact c n s) : Intact c n (Machine.onJob qpn index f s) := h.onQp
theorem Intact.failJob {qpn index status ecause} (h : Intact c n s) : Intact c n (Machine.failJob qpn index status ecause s) := h.onJob
theorem Intact.moverTranslate {q fva access} (h : Intact c n s) : Intact c n (Machine.moverTranslate q fva access s).2 := by
  unfold Machine.moverTranslate
  dsimp only
  split
  · exact h.touchCache
  · exact h
theorem Intact.useXlat {qpn index q fva access go} (h : Intact c n s) (hgo : ∀ y0 y1 u, Intact c n u → Intact c n (go y0 y1 u)) :
    Intact c n (Machine.useXlat qpn index q fva access go s) := by
  unfold Machine.useXlat
  dsimp only
  split
  · exact hgo _ _ _ h.moverTranslate
  · exact h.moverTranslate.onJob
  · exact h.moverTranslate.failJob
  · exact h.moverTranslate.failJob
theorem Intact.jobIssue {qpn index p u} (h : Intact c n s) : Intact c n (Machine.jobIssue qpn index p u s) := h.onJob.issue
theorem Intact.readLines {qpn index q volat piece lines after} (h : Intact c n s) (hafter : ∀ u, Intact c n u → Intact c n (after u)) :
    Intact c n (Machine.readLines qpn index q volat piece lines after s) := by
  unfold Machine.readLines
  split
  · exact h.useXlat (fun _ _ _ hu => hu)
  · exact (hafter _ h).foldl (fun _ _ hu => hu.useXlat (fun _ _ _ hu => hu.jobIssue))
theorem Intact.writePiece {qpn index q j off num data after} (h : Intact c n s) (hafter : ∀ u, Intact c n u → Intact c n (after u)) :
    Intact c n (Machine.writePiece qpn index q j off num data after s) :=
  h.useXlat (fun _ _ _ hu => (hafter _ hu).jobIssue)
theorem Intact.nextPiece {qpn index q j} (h : Intact c n s) : Intact c n (Machine.nextPiece qpn index q j s) :=
  (h.writePiece (fun _ hu => hu.onJob)).ite (h.readLines (fun _ hu => hu.onJob))
theorem Intact.copyPiece {qpn index off} (h : Intact c n s) : Intact c n (Machine.copyPiece qpn index off s) := by
  unfold Machine.copyPiece
  dsimp only
  split
  · exact h
  · exact (h.writePiece (fun _ hu => hu.onJob)).ite h
theorem Intact.issueAtomic {qpn index q j b} (h : Intact c n s) : Intact c n (Machine.issueAtomic qpn index q j b s) :=
  h.useXlat (fun _ _ _ hu => hu.onJob.jobIssue)
theorem Intact.writeOld {qpn index q j} (h : Intact c n s) : Intact c n (Machine.writeOld qpn index q j s) :=
  h.useXlat (fun _ _ _ hu => hu.onJob.jobIssue)
theorem Intact.launch {qpn index q j b} (h : Intact c n s) : Intact c n (Machine.launch qpn index q j b s) := by
  unfold Machine.launch
  split
  · exact h.failJob
  · refine h.ite ?_
    split
    · exact (h.startContexts _ ‹_›).onJob
    · exact h
theorem Intact.readOperand {qpn index} (h : Intact c n s) : Intact c n (Machine.readOperand qpn index s) := by
  unfold Machine.readOperand
  split
  · exact h.readLines fun _ hu => hu
  · exact h
theorem Intact.issueJob {qpn index k} (h : Intact c n s) : Intact c n (Machine.issueJob qpn index k s) := by
  induction k generalizing s with
  | zero => exact h
  | succ k ih =>
    unfold Machine.issueJob
    split
    · exact h
    · refine h.ite (((ih h.nextPiece).ite h).ite (Intact.ite ?_ (Intact.ite ?_ h)))
      · split
        · exact h.readOperand.ite h
        · exact h.ite h.issueAtomic
        · exact h.ite h.writeOld
        · exact h
      · split
        · exact h.ite h.launch
        · exact h.readOperand.ite h
theorem Intact.advanceJob {qpn index} (h : Intact c n s) : Intact c n (Machine.advanceJob qpn index s) := by
  unfold Machine.advanceJob
  dsimp only
  split
  · refine ((Intact.issueJob ?_).onJob).ite (Intact.issueJob ?_)
    · split
      · exact (h.foldl (fun _ _ hu => hu.copyPiece)).ite h
      · exact h
    · split
      · exact (h.foldl (fun _ _ hu => hu.copyPiece)).ite h
      · exact h
  · refine Intact.issueJob ?_
    split
    · exact (h.foldl (fun _ _ hu => hu.copyPiece)).ite h
    · exact h
theorem Intact.advanceMover {m} (h : Intact c n s) : Intact c n (Machine.advanceMover m s) := h.foldl (fun _ _ hu => hu.advanceJob)
theorem Intact.wakeComputes (h : Intact c n s) : Intact c n (Machine.wakeComputes s) := h.foldl (fun _ _ hu => hu.advanceJob)
theorem Intact.lessPending {qpn index} (h : Intact c n s) : Intact c n (Machine.lessPending qpn index s) := h.onJob
theorem Intact.jobReadDone {qpn index piece line status data} (h : Intact c n s) : Intact c n (Machine.jobReadDone qpn index piece line status data s) :=
  h.lessPending.failJob.ite h.lessPending.onJob
theorem Intact.jobWriteDone {qpn index off num status} (h : Intact c n s) : Intact c n (Machine.jobWriteDone qpn index off num status s) :=
  h.lessPending.failJob.ite h.lessPending.onJob
theorem Intact.jobAtomicDone {qpn index status data hit} (h : Intact c n s) : Intact c n (Machine.jobAtomicDone qpn index status data hit s) :=
  h.lessPending.failJob.ite h.lessPending.onJob
theorem Intact.startJob {qpn op d} (h : Intact c n s) : Intact c n (Machine.startJob qpn op d s) := h.onQp
/-- What a read of a descriptor's ring leaves. -/
theorem Intact.ringGives {q op d} (h : Intact c n s) (t : State) (ht : Machine.ringGives (ringRead q s) op d = some t) : Intact c n t := by
  have hr : ∀ b u, ringRead q s = .here b u ∨ ringRead q s = .far u → Intact c n u := by
    intro b u hu
    unfold ringRead at hu
    dsimp only at hu
    split at hu
    · simp at hu
    · split at hu
      · obtain rfl : (Machine.moverTranslate q (sqAt q) 0 s).2 = u := by simpa using hu
        exact h.moverTranslate
      · split at hu
        · simp at hu
        · split at hu
          · simp at hu
          · split at hu
            · simp at hu
            · simp only [RingRead.here.injEq, reduceCtorEq, or_false] at hu
              exact hu.2 ▸ h.moverTranslate.hbmLine
    · simp at hu
  unfold Machine.ringGives at ht
  split at ht
  · rename_i b u he
    split at ht
    · exact Option.some.inj ht ▸ hr b u (.inl he)
    · cases ht
  · rename_i u he
    exact Option.some.inj ht ▸ hr [] u (.inr he)
  · cases ht
theorem Intact.descriptor {qpn op d first} (h : Intact c n s) (hfirst : ∀ i u, Intact c n u → Intact c n (first i u)) :
    OutIntact c n (Machine.descriptor qpn op d first s) := by
  refine Intact.next ?_
  split
  · exact h
  · rename_i q _
    refine h.ite ?_
    split
    · exact h.onQp
    · exact h.onQp
    · split
      · exact h
      · rename_i t ht
        have hj := (h.ringGives t ht).startJob (qpn := qpn) (op := op) (d := d)
        exact hj.failJob.onQp.advanceMover.ite (hfirst _ _ hj).advanceMover
theorem Intact.execNop {qpn d} (h : Intact c n s) : OutIntact c n (Machine.execNop qpn d s) := h.descriptor (fun _ _ hu => hu)
theorem Intact.execCopy {qpn d} (h : Intact c n s) : OutIntact c n (Machine.execCopy qpn d s) := h.descriptor (fun _ _ hu => hu)
theorem Intact.execFill {qpn d} (h : Intact c n s) : OutIntact c n (Machine.execFill qpn d s) := h.descriptor (fun _ _ hu => hu)
theorem Intact.execAtomicDescriptor {qpn d} (h : Intact c n s) : OutIntact c n (Machine.execAtomicDescriptor qpn d s) :=
  h.descriptor (fun _ _ hu => hu.failJob.ite hu)
theorem Intact.execCompute {qpn d} (h : Intact c n s) : OutIntact c n (Machine.execCompute qpn d s) := h.descriptor (fun _ _ hu => hu)
theorem Intact.wakeJob {qpn index} (h : Intact c n s) : Intact c n (Machine.wakeJob qpn index s) := by
  unfold Machine.wakeJob
  split
  · exact h
  · exact h.onJob.advanceJob
theorem Intact.recordFailed {qpn index} (h : Intact c n s) : Intact c n (Machine.recordFailed qpn index s) := by
  unfold Machine.recordFailed
  dsimp only
  split
  · exact h
  · exact h.recordErr.onQp
theorem Intact.writeRecord {qpn q j} (h : Intact c n s) : Intact c n (Machine.writeRecord qpn q j s) := by
  unfold Machine.writeRecord
  dsimp only
  split
  · exact h.moverTranslate.onJob
  · exact h.moverTranslate.onJob.onQp.issue
  · exact h.moverTranslate.recordFailed
theorem Intact.execCompletionRecord {qpn index} (h : Intact c n s) : OutIntact c n (Machine.execCompletionRecord qpn index s) := by
  unfold Machine.execCompletionRecord
  refine Intact.next ?_
  split
  · exact h.writeRecord.ite h
  · exact h
theorem Intact.recordDone {qpn index status} (h : Intact c n s) : Intact c n (Machine.recordDone qpn index status s) := by
  unfold Machine.recordDone
  dsimp only
  split
  · exact h
  · exact h.recordFailed.ite (h.onQp.raiseVec.ite h.onQp)
theorem Intact.endStopped {qpn index} (h : Intact c n s) : Intact c n (Machine.endStopped qpn index s) := by
  unfold Machine.endStopped
  split
  · exact h
  · exact h.freeContextsOf.onJob.ite h
theorem Intact.stopQueue {qpn status ecause all} (h : Intact c n s) : Intact c n (Machine.stopQueue qpn status ecause all s) := by
  unfold Machine.stopQueue
  refine Intact.settleWaiters ?_
  dsimp only
  split
  · exact h.onQp.foldl fun _ _ hu => hu.endStopped.advanceJob
  · exact h.onQp

end Sys2Proof.Machine
end

section
/-! What no step destroys: the functions of Machine/Streams. -/

namespace Sys2Proof.Machine

open Sys2Proof

variable {c : Prop} {n : Nat} {s t : State}

theorem Intact.endCompute {qpn index status cause} (h : Intact c n s) : Intact c n (Machine.endCompute qpn index status cause s) := by
  unfold Machine.endCompute
  dsimp only
  split
  · exact h
  · exact h.ite ((((h.freeContextsOf.ite h.freeContextsOf.onJob.failJob).onJob).advanceJob).wakeComputes)
theorem Intact.programFault {x cause code} (h : Intact c n s) : Intact c n (Machine.programFault x cause code s) := by
  unfold Machine.programFault
  dsimp only
  split
  · exact h
  · split
    · exact h.recordErr.onOp.originate.wakeComputes.ite h.recordErr
    · exact h.recordErr
  · exact h.recordErr.endCompute
theorem Intact.dataLost {x} (h : Intact c n s) : Intact c n (Machine.dataLost x s) := by
  unfold Machine.dataLost
  split
  · exact h.originate.wakeComputes
  · exact h.endCompute
  · exact h
theorem Intact.streamMalformed {x} (h : Intact c n s) : Intact c n (Machine.streamMalformed x s) := by
  unfold Machine.streamMalformed
  split
  · exact h.endCompute
  · exact h.programFault
theorem Intact.streamRead {pins k fva m} (h : Intact c n s) : Intact c n (Machine.streamRead pins k fva m s).2 := by
  refine Intact.foldl_snd h fun u x hu => ?_
  split
  · exact hu.eccCheck.hbmLine
  · exact hu
theorem Intact.storePart {tn off a first data} (h : Intact c n s) : Intact c n (Machine.storePart tn off a first data s).2 := by
  unfold Machine.storePart
  dsimp only
  split
  · exact h
  · exact h.hbmStore.ownWrite.doorbellLanded
theorem Intact.streamWrite {pins k fva data} (h : Intact c n s) : Intact c n (Machine.streamWrite pins k fva data s).2 := by
  refine Intact.foldl_snd h fun u x hu => ?_
  split
  · exact hu.storePart
  · exact hu
theorem Intact.touchCluster {cl tn fva} (h : Intact c n s) : Intact c n (Machine.touchCluster cl tn fva s) := by
  unfold Machine.touchCluster
  split
  · exact h.touchCache
  · exact h

end Sys2Proof.Machine
end

section
/-! What no step destroys: the functions of Machine/Contribute. -/

namespace Sys2Proof.Machine

open Sys2Proof

variable {c : Prop} {n : Nat} {s t : State}

theorem Intact.contribute {g k} (h : Intact c n s) : Intact c n (Machine.contribute g k s) := by
  induction k generalizing s with
  | zero => exact h
  | succ k ih =>
    unfold Machine.contribute
    split
    · exact h
    · split
      · exact h
      · exact ih h.parts.onMember.sendFor
theorem Intact.contributeAll (h : Intact c n s) : Intact c n (Machine.contributeAll s) := h.foldl (fun _ _ hu => hu.contribute)

end Sys2Proof.Machine
end

section
/-! What no step destroys: the functions of Machine/Buffers. -/

namespace Sys2Proof.Machine

open Sys2Proof

variable {c : Prop} {n : Nat} {s t : State}

theorem Intact.takeInLine {a} (h : Intact c n s) : Intact c n (Machine.takeInLine a s).2 := by
  unfold Machine.takeInLine
  split
  · dsimp only
    exact h.onCore
  · exact h
theorem Intact.takeOutLine {line out} (h : Intact c n s) : Intact c n (Machine.takeOutLine line out s).2 := by
  unfold Machine.takeOutLine
  split
  · dsimp only
    exact h.onCore
  · exact h
theorem Intact.voqPush {line out vc q} (h : Intact c n s) : Intact c n (Machine.voqPush line out vc q s) := h.onCore
theorem Intact.returnLoans (h : Intact c n s) : Intact c n (Machine.returnLoans s) := h.onCore
theorem Intact.outputTook {out p} (h : Intact c n s) : Intact c n (Machine.outputTook out p s) := by
  unfold Machine.outputTook
  split
  · exact h.onCore.returnLoans
  · exact h
theorem Intact.mcReserve {ports bytes} (h : Intact c n s) : Intact c n (Machine.mcReserve ports bytes s) := h.onCore
theorem Intact.excludePort {p which} (h : Intact c n s) : Intact c n (Machine.excludePort p which s) := h.onCore
theorem Intact.mcFree {line} (h : Intact c n s) : Intact c n (Machine.mcFree line s) := by
  unfold Machine.mcFree
  exact h.onCore
theorem Intact.emptyTrunk {p} (h : Intact c n s) : Intact c n (Machine.emptyTrunk p s) := h.onTrunk.ite h
theorem Intact.emptyOutput {p} (h : Intact c n s) : Intact c n (Machine.emptyOutput p s) := h.onPort.emptyTrunk.onCore.mcFree.excludePort.returnLoans
theorem Intact.dispose {p k} (h : Intact c n s) : Intact c n (Machine.dispose p k s) := h.onCnt.sendLocal.ite h.onCnt
theorem Intact.flushPort {p} (h : Intact c n s) : Intact c n (Machine.flushPort p s) := h.emptyOutput.foldl (fun _ _ hu => hu.dispose)

end Sys2Proof.Machine
end

section
/-! What no step destroys: the functions of Machine/Line. -/

namespace Sys2Proof.Machine

open Sys2Proof

variable {c : Prop} {n : Nat} {s t : State}

theorem Intact.onLanesOf {p f} (h : Intact c n s) : Intact c n (Machine.onLanesOf p f s) := h.parts
theorem Intact.sendFrame {p lane} (h : Intact c n s) : Intact c n (Machine.sendFrame p lane s) := h.onLane
theorem Intact.startData {p} (h : Intact c n s) : Intact c n (Machine.startData p s) := h.parts.onPort
theorem Intact.sendDue {p} (h : Intact c n s) : Intact c n (Machine.sendDue p s) := h.ite h.parts.onPort
theorem Intact.substitute {p k} (h : Intact c n s) : Intact c n (Machine.substitute p k s) := by
  unfold Machine.substitute
  dsimp only
  split
  · exact h
  · exact h.onLane.onPort
theorem Intact.feedSpare {p num} (h : Intact c n s) : Intact c n (Machine.feedSpare p num s) := by
  unfold Machine.feedSpare
  split
  · exact h.onLane
  · exact h
theorem Intact.feedLanes {p num of} (h : Intact c n s) : Intact c n (Machine.feedLanes p num of s) := by
  unfold Machine.feedLanes
  dsimp only
  split
  · exact ((h.feedSpare.foldl (fun _ _ hu => hu.onLane)).substitute).onLane
  · exact h.feedSpare.foldl (fun _ _ hu => hu.onLane)
theorem Intact.stripeFlit {p f} (h : Intact c n s) : Intact c n (Machine.stripeFlit p f s) := by
  unfold Machine.stripeFlit
  exact h.feedLanes
theorem Intact.putFlit {p f} (h : Intact c n s) : Intact c n (Machine.putFlit p f s) := by
  unfold Machine.putFlit
  exact h.onPort.stripeFlit
theorem Intact.sendCtl {p ctype param} (h : Intact c n s) : Intact c n (Machine.sendCtl p ctype param s) := h.onLink.putFlit
theorem Intact.sendCtls {p ctype param k} (h : Intact c n s) : Intact c n (Machine.sendCtls p ctype param k s) := by
  induction k generalizing s with
  | zero => exact h
  | succ k ih => exact ih h.sendCtl
theorem Intact.sendWide {p ctype param} (h : Intact c n s) : Intact c n (Machine.sendWide p ctype param s) := by
  unfold Machine.sendWide
  exact h.onPort.feedLanes
theorem Intact.fillTo {p cl} (h : Intact c n s) : Intact c n (Machine.fillTo p cl s) := by
  unfold Machine.fillTo
  dsimp only
  split
  · exact h
  · exact h.feedLanes
theorem Intact.hearFlit {p} (h : Intact c n s) : Intact c n (Machine.hearFlit p s) := h.parts

end Sys2Proof.Machine
end

section
/-! What no step destroys: the functions of Machine/Ports. -/

namespace Sys2Proof.Machine

open Sys2Proof

variable {c : Prop} {n : Nat} {s t : State}

theorem Intact.restartLanes {p} (h : Intact c n s) : Intact c n (Machine.restartLanes p s) := h.onLanesOf
theorem Intact.clearLanes {p} (h : Intact c n s) : Intact c n (Machine.clearLanes p s) := h.parts
theorem Intact.resumeTraining {p} (h : Intact c n s) : Intact c n (Machine.resumeTraining p s) := h.onPort.ite h
theorem Intact.releaseLanes {p} (h : Intact c n s) : Intact c n (Machine.releaseLanes p s) := h.onLanesOf
theorem Intact.bridgeDown {p} (h : Intact c n s) : Intact c n (Machine.bridgeDown p s) := h.ite (h.onReq.ite h.onReq.onSvc)
theorem Intact.linkDown {p cause channel} (h : Intact c n s) : Intact c n (Machine.linkDown p cause channel s) :=
  (((((((h.sendCtls.ite h).onPort).clearLanes).recordErr).unsolicited).ite ((((((h.sendCtls.ite
    h).onPort).clearLanes).recordErr).unsolicited).resumeTraining)).collPortDown).bridgeDown
theorem Intact.causewayRule (h : Intact c n s) : Intact c n (Machine.causewayRule s) := h.onSvc.ite h
theorem Intact.enablePort {p w bridge} (h : Intact c n s) : Intact c n (Machine.enablePort p w bridge s) :=
  h.onPort.releaseLanes.parts.onSvc.ite h.onPort.releaseLanes.parts
theorem Intact.useNumber {p} (h : Intact c n s) : Intact c n (Machine.useNumber p s) := h.ite h.onSvc.onReq
theorem Intact.runPortEnable {via hd p w bridge} (h : Intact c n s) : Intact c n (Machine.runPortEnable via hd p w bridge s) :=
  h.finish.ite (h.finish.ite (h.finish.ite (h.enablePort.accept.beginTrans.ite h.enablePort.accept.useNumber.finishEvent)))
theorem Intact.stopPort {p} (h : Intact c n s) : Intact c n (Machine.stopPort p s) := (((h.linkDown.ite h).onPort).releaseLanes).causewayRule
theorem Intact.runPortDisable {via hd p} (h : Intact c n s) : Intact c n (Machine.runPortDisable via hd p s) :=
  h.finish.ite (h.stopPort.accept.beginTrans.ite h.stopPort.accept.finishEvent)
theorem Intact.runPortReset {via hd p} (h : Intact c n s) : Intact c n (Machine.runPortReset via hd p s) :=
  h.finish.ite (h.stopPort.bumpEpoch.accept.beginTrans.ite h.stopPort.bumpEpoch.accept.beginTrans.enablePort)
theorem Intact.runQueuedPort {i} (h : Intact c n s) : Intact c n (Machine.runQueuedPort i s) := by
  unfold Machine.runQueuedPort
  split
  · exact h.runPortEnable
  · exact h.runPortDisable
  · exact h.runPortReset
  · exact h
theorem Intact.execPortEnable {hd port width bridge} (h : Intact c n s) : OutIntact c n (Machine.execPortEnable hd port width bridge s) :=
  h.command (fun _ hu => hu.transition (fun _ hu => hu.runPortEnable))
theorem Intact.execPortDisable {hd port} (h : Intact c n s) : OutIntact c n (Machine.execPortDisable hd port s) :=
  h.command (fun _ hu => hu.transition (fun _ hu => hu.runPortDisable))
theorem Intact.reenable {p} (h : Intact c n s) : Intact c n (Machine.reenable p s) := by
  unfold Machine.reenable
  split
  · exact (h.endTrans (fun _ _ hu => hu.runQueuedPort)).ite (h.ite h.restartTrans.enablePort)
  · exact h
theorem Intact.execFlushComplete {port} (h : Intact c n s) : OutIntact c n (Machine.execFlushComplete port s) :=
  OutIntact.ite .fault ((h.ite h.flushPort.onPort.reenable).next)
theorem Intact.execCausewayOpen (h : Intact c n s) : OutIntact c n (Machine.execCausewayOpen s) := by
  have hdone (p : Nat) {u : State} (hu : Intact c n u) : Intact c n (match findTrans (.port p) u.mbx.trans with
      | some t => if t.opcode == 0x0101 then Machine.endTrans (.port p) msOk [] Machine.runQueuedPort u else u
      | none => u) := by
    split
    · exact (hu.endTrans fun _ _ hv => hv.runQueuedPort).ite hu
    · exact hu
  exact (h.ite (hdone 528 (hdone 512 h.onSvc))).next
theorem Intact.execPortStatusRead {hd port} (h : Intact c n s) : OutIntact c n (Machine.execPortStatusRead hd port s) :=
  h.command (fun _ hu => hu.reply)

end Sys2Proof.Machine
end

section
/-! What no step destroys: the functions of Machine/Lanes. -/

namespace Sys2Proof.Machine

open Sys2Proof

variable {c : Prop} {n : Nat} {s t : State}

theorem Intact.execLaneTestStart {hd lane pattern afterPrecoder} (h : Intact c n s) :
    OutIntact c n (Machine.execLaneTestStart hd lane pattern afterPrecoder s) :=
  h.command (fun _ hu => hu.reply.ite hu.onLane.reply)
theorem Intact.execLaneTestRead {hd lane read} (h : Intact c n s) : OutIntact c n (Machine.execLaneTestRead hd lane read s) :=
  h.command (fun _ hu => (hu.onLane.onLane.ite hu.onLane).reply)
theorem Intact.sendLoopFrame {lane} (h : Intact c n s) : Intact c n (Machine.sendLoopFrame lane s) := h.onLane
theorem Intact.leaveLoop {lane} (h : Intact c n s) : Intact c n (Machine.leaveLoop lane s) := h.onLane
theorem Intact.armLoop {lane hd} (h : Intact c n s) : Intact c n (Machine.armLoop lane hd s) := h.onLane
theorem Intact.enterLoop {lane mode hd} (h : Intact c n s) : Intact c n (Machine.enterLoop lane mode hd s) :=
  h.leaveLoop.onLane.ite (h.leaveLoop.onLane.sendFrame.ite (h.leaveLoop.armLoop.sendLoopFrame.ite h.leaveLoop))
theorem Intact.dropLoop {lane} (h : Intact c n s) : Intact c n (Machine.dropLoop lane s) := by
  unfold Machine.dropLoop
  split
  · exact h.finishEvent
  · exact h
theorem Intact.execLaneLoopbackSet {hd lane mode trained} (h : Intact c n s) : OutIntact c n (Machine.execLaneLoopbackSet hd lane mode trained s) :=
  h.command (fun _ hu => hu.reply.dropLoop.leaveLoop.finishEvent.ite (hu.reply.dropLoop.enterLoop.ite hu.reply.dropLoop.enterLoop.finishEvent))
theorem Intact.loopFailed {lane} (h : Intact c n s) : Intact c n (Machine.loopFailed lane s) := h.dropLoop.leaveLoop
theorem Intact.giveUp {p code sev event detail data} (h : Intact c n s) : Intact c n (Machine.giveUp p code sev event detail data s) :=
  h.onPort.releaseLanes.recordErr.unsolicited
theorem Intact.sendFrames {p} (h : Intact c n s) : Intact c n (Machine.sendFrames p s) := h.foldl (fun _ _ hu => hu.sendFrame)
theorem Intact.failAttempt {p num own} (h : Intact c n s) : Intact c n (Machine.failAttempt p num own s) :=
  h.onPort.giveUp.ite h.onPort.onLanesOf.sendFrames
theorem Intact.enterStep {p num} (h : Intact c n s) : Intact c n (Machine.enterStep p num s) :=
  h.onLanesOf.onPort.startData.sendDue.ite h.onLanesOf.onPort
theorem Intact.useLanes {p code first} (h : Intact c n s) : Intact c n (Machine.useLanes p code first s) := h.parts.onPort
theorem Intact.goOn {p num} (h : Intact c n s) : Intact c n (Machine.goOn p num s) := by
  unfold Machine.goOn
  split
  · exact h.useLanes.enterStep
  · exact h.failAttempt
theorem Intact.dropSkewed {p marks} (h : Intact c n s) : Intact c n (Machine.dropSkewed p marks s) := by
  unfold Machine.dropSkewed
  dsimp only
  split
  · exact h
  · exact h.parts
theorem Intact.spareMismatch {lane} (h : Intact c n s) : Intact c n (Machine.spareMismatch lane s) := h.onLane.recordErr
theorem Intact.judgeSpares {p} (h : Intact c n s) : Intact c n (Machine.judgeSpares p s) := by
  unfold Machine.judgeSpares
  refine h.foldl (fun _ _ hu => ?_)
  split
  · exact hu.ite hu.spareMismatch
  · exact hu.onLane
theorem Intact.advance {p} (h : Intact c n s) : Intact c n (Machine.advance p s) := by
  unfold Machine.advance
  dsimp only
  split
  · exact h.goOn.ite h
  · exact h.enterStep.ite h
  · exact h.enterStep.ite h
  · exact h.enterStep.ite h
  · exact h.dropSkewed.judgeSpares.goOn.ite h
  · exact h.dropSkewed.goOn.ite h
  · exact (h.dropSkewed.linkDown.ite h.dropSkewed.onPort.startData.sendDue).ite (h.onPort.ite h)
  · exact h
theorem Intact.startTraining {p} (h : Intact c n s) : Intact c n (Machine.startTraining p s) := h.onPort.ite h
theorem Intact.execSignalDetect {port lane} (h : Intact c n s) : OutIntact c n (Machine.execSignalDetect port lane s) := by
  unfold Machine.execSignalDetect
  refine OutIntact.ite .fault ((h.ite ?_).next)
  dsimp only
  split
  · exact (h.ite (h.onLane.ite h.onLane.startTraining.sendFrame)).ite ((h.onLane.sendFrame.ite h.onLane.recordErr).ite h)
  · exact (h.ite (h.onLane.ite h.onLane.startTraining.sendFrame)).ite ((h.onLane.sendFrame.ite h.onLane.recordErr).ite h)
  · exact h
theorem Intact.learnPartner {p f} (h : Intact c n s) : Intact c n (Machine.learnPartner p f s) := by
  unfold Machine.learnPartner
  dsimp only
  refine Intact.ite ?_ h.onPort
  split
  · exact h.onPort.useLanes
  · exact h.onPort
theorem Intact.followInTraining {p lane k} (h : Intact c n s) : Intact c n (Machine.followInTraining p lane k s) := h.parts.onLane.onPort
theorem Intact.takeFrame {port lane num f r} (h : Intact c n s) : Intact c n (Machine.takeFrame port lane num f r s) :=
  h.spareMismatch.ite ((h.giveUp.ite h.failAttempt).ite (((((h.onLane.learnPartner.ite h.onLane).followInTraining).ite (h.onLane.learnPartner.ite
    h.onLane)).sendFrame).advance))
theorem Intact.takeLoopFrame {lane f r} (h : Intact c n s) : Intact c n (Machine.takeLoopFrame lane f r s) := by
  unfold Machine.takeLoopFrame
  dsimp only
  refine (h.onLane.onLane.sendLoopFrame.ite ?_).ite h.onLane.sendLoopFrame
  split
  · exact h.onLane.onLane.finishEvent
  · exact h.onLane.onLane
theorem Intact.execTrainingFrame {port lane frame rx} (h : Intact c n s) : OutIntact c n (Machine.execTrainingFrame port lane frame rx s) :=
  OutIntact.ite .fault ((h.onLane.ite ((h.ite (h.takeLoopFrame.ite h.onLane)).ite (h.ite ((h.onLane.ite h).ite (h.failAttempt.ite (h.takeFrame.ite
    h)))))).next)
theorem Intact.leaveOut {p} (h : Intact c n s) : Intact c n (Machine.leaveOut p s) := h.parts
theorem Intact.boundPassed {p num} (h : Intact c n s) : Intact c n (Machine.boundPassed p num s) :=
  (h.leaveOut.goOn.ite h.failAttempt).ite h.failAttempt
theorem Intact.loopsExpire {port} (h : Intact c n s) : Intact c n (Machine.loopsExpire port s) := h.foldl (fun _ _ hu => hu.loopFailed)
theorem Intact.execTrainingBoundExpiry {port} (h : Intact c n s) : OutIntact c n (Machine.execTrainingBoundExpiry port s) := by
  refine OutIntact.ite .fault (Intact.next ?_)
  dsimp only
  split
  · exact h.ite h.boundPassed
  · exact h.ite h.linkDown
  · exact h.loopsExpire
theorem Intact.narrowGo {p} (h : Intact c n s) : Intact c n (Machine.narrowGo p s) := by
  unfold Machine.narrowGo
  refine h.ite ?_
  split
  · exact h.useLanes.onPort.onLanesOf
  · exact h.linkDown
theorem Intact.startNarrowing {p} (h : Intact c n s) : Intact c n (Machine.startNarrowing p s) := h.onPort.sendWide.narrowGo
theorem Intact.laneOut {p lane} (h : Intact c n s) : Intact c n (Machine.laneOut p lane s) :=
  h.onLane.ite ((h.onLane.linkDown.ite h.onLane.startNarrowing).ite ((h.onLane.onPort.ite (h.onLane.substitute.onPort.linkDown.ite
    h.onLane.substitute.onPort.startNarrowing)).ite h.onLane))
theorem Intact.sendInit {p} (h : Intact c n s) : Intact c n (Machine.sendInit p s) := h.sendCtl
theorem Intact.startInit {p} (h : Intact c n s) : Intact c n (Machine.startInit p s) := h.enterStep.onPort.ite h.enterStep.onPort.sendInit
theorem Intact.qualDrop {p failing} (h : Intact c n s) : Intact c n (Machine.qualDrop p failing s) := h.parts.substitute.ite h.parts
theorem Intact.execQualificationEnd {port res} (h : Intact c n s) : OutIntact c n (Machine.execQualificationEnd port res s) :=
  OutIntact.ite .fault ((h.ite (h.sendDue.qualDrop.startInit.ite h.sendDue.qualDrop.failAttempt)).next)
theorem Intact.execSpareSubstitution {port} (h : Intact c n s) : OutIntact c n (Machine.execSpareSubstitution port s) := by
  unfold Machine.execSpareSubstitution
  refine OutIntact.ite .fault (Intact.next ?_)
  split
  · exact h.substitute.ite h
  · exact h
theorem Intact.loseLock {lane} (h : Intact c n s) : Intact c n (Machine.loseLock lane s) := by
  unfold Machine.loseLock
  dsimp only
  split
  · exact h.onLane.laneOut.ite (h.onLane.failAttempt.ite h.onLane)
  · exact h.onLane
theorem Intact.relocate {p lane k} (h : Intact c n s) : Intact c n (Machine.relocate p lane k s) := h.parts
theorem Intact.followSpare {p lane k} (h : Intact c n s) : Intact c n (Machine.followSpare p lane k s) := by
  unfold Machine.followSpare
  refine h.ite ?_
  dsimp only
  split
  · exact h.relocate.onPort
  · exact h.ite (h.relocate.substitute.linkDown.ite h.relocate.substitute.startNarrowing)
theorem Intact.execAlignmentMarker {lane block payload} (h : Intact c n s) : OutIntact c n (Machine.execAlignmentMarker lane block payload s) := by
  unfold Machine.execAlignmentMarker
  refine OutIntact.ite .fault (Intact.next ?_)
  dsimp only
  split
  · exact h.onLane
  · exact h.onLane.ite (((h.onLane.onLane.onLane.sendDue.followSpare.ite h.onLane.onLane.onLane.sendDue).advance).ite (h.onLane.onLane.ite
      (h.onLane.onLane.ite h.onLane.loseLock)))
theorem Intact.execMarkerLockLoss {lane} (h : Intact c n s) : OutIntact c n (Machine.execMarkerLockLoss lane s) :=
  OutIntact.ite .fault ((h.ite h.loseLock).next)
theorem Intact.laneFails {p lane} (h : Intact c n s) : Intact c n (Machine.laneFails p lane s) := by
  unfold Machine.laneFails
  dsimp only
  split
  · exact h.qualDrop.ite h.qualDrop.failAttempt
  · exact h.laneOut
theorem Intact.execBackgroundAdaptation {lane heights widths ber setting up} (h : Intact c n s) :
    OutIntact c n (Machine.execBackgroundAdaptation lane heights widths ber setting up s) := by
  unfold Machine.execBackgroundAdaptation
  refine OutIntact.ite .fault (Intact.next ?_)
  dsimp only
  split
  · exact h
  · exact h.ite (h.onLane.recordErr.laneFails.ite h.onLane)
theorem Intact.execLos {port lane} (h : Intact c n s) : OutIntact c n (Machine.execLos port lane s) := by
  unfold Machine.execLos
  refine OutIntact.ite .fault ((h.ite (h.onLane.linkDown.ite ?_)).next)
  dsimp only
  split
  · exact h.onLane.ite h.onLane.onPort.restartLanes
  · exact h.onLane
theorem Intact.execNarrowComplete {port res} (h : Intact c n s) : OutIntact c n (Machine.execNarrowComplete port res s) :=
  OutIntact.ite .fault ((h.ite (h.linkDown.ite h.sendDue.onPort.onPort.recordErr.unsolicited)).next)

end Sys2Proof.Machine
end

section
/-! What no step destroys: the functions of Machine/LinkLayer. -/

namespace Sys2Proof.Machine

open Sys2Proof

variable {c : Prop} {n : Nat} {s t : State}

theorem Intact.xoffUpdate {p} (h : Intact c n s) : Intact c n (Machine.xoffUpdate p s) := h.onPort
theorem Intact.noteAcked {p done} (h : Intact c n s) : Intact c n (Machine.noteAcked p done s) := h.foldl (fun _ _ hu => hu.excludePort)
theorem Intact.takeLctl {p f} (h : Intact c n s) : Intact c n (Machine.takeLctl p f s) := h.onLink.noteAcked
theorem Intact.discardSrc {p k} (h : Intact c n s) : Intact c n (Machine.discardSrc p k s) := h.onCnt.recordErr
theorem Intact.receivePacket {p k} (h : Intact c n s) : Intact c n (Machine.receivePacket p k s) :=
  (h.discardMalformed.ite h.discardSrc).ite (h.onPort.ite h.onCnt.recordErr)
theorem Intact.acceptPayload {p f} (h : Intact c n s) : Intact c n (Machine.acceptPayload p f s) :=
  ((h.onLink.foldl (fun _ _ hu => hu.receivePacket)).linkDown).ite ((h.onLink.foldl (fun _ _ hu => hu.receivePacket)).xoffUpdate)
theorem Intact.askRetry {p} (h : Intact c n s) : Intact c n (Machine.askRetry p s) := h.onLink
theorem Intact.crcFailed {p} (h : Intact c n s) : Intact c n (Machine.crcFailed p s) := h.askRetry.ite h
theorem Intact.execDataFlit {port f} (h : Intact c n s) : OutIntact c n (Machine.execDataFlit port f s) :=
  OutIntact.ite .fault ((h.hearFlit.crcFailed.ite (h.hearFlit.ite (h.hearFlit.takeLctl.onLink.acceptPayload.ite h.hearFlit.takeLctl.askRetry))).next)
theorem Intact.echoWord {w} (h : Intact c n s) : Intact c n (Machine.echoWord w s) := by
  unfold Machine.echoWord
  split
  · exact h.onLane
  · exact h
theorem Intact.execCrcFailedFlit {flit} (h : Intact c n s) : OutIntact c n (Machine.execCrcFailedFlit flit s) :=
  OutIntact.ite .fault ((h.echoWord.hearFlit.crcFailed.ite h.echoWord.hearFlit).next)
theorem Intact.control {port f kind act} (h : Intact c n s) (hact : ∀ u, Intact c n u → Intact c n (act u)) :
    OutIntact c n (Machine.control port f kind act s) :=
  OutIntact.ite .fault ((h.hearFlit.crcFailed.ite (h.hearFlit.ite (hact _ (h.hearFlit.takeLctl.ite h.hearFlit)))).next)
theorem Intact.execIdleControlFlit {port f} (h : Intact c n s) : OutIntact c n (Machine.execIdleControlFlit port f s) := h.control fun _ hu => hu
theorem Intact.takeNumber {num} (h : Intact c n s) : Intact c n (Machine.takeNumber num s) := h.onSvc.onReq.ite h
theorem Intact.afterInit {port first numbered} (h : Intact c n s) : Intact c n (Machine.afterInit port first numbered s) :=
  h.ite ((h.ite h.sendInit).sendCtls)
theorem Intact.execInit {port f} (h : Intact c n s) : OutIntact c n (Machine.execInit port f s) :=
  h.control (fun _ hu => hu.ite (hu.failAttempt.ite (((hu.recordErr.ite hu).failAttempt).ite hu.takeNumber.onPort.afterInit)))
theorem Intact.execLoopPing {port f} (h : Intact c n s) : OutIntact c n (Machine.execLoopPing port f s) := h.control (fun _ hu => hu.sendCtl.ite hu)
theorem Intact.execLoopEcho {port f} (h : Intact c n s) : OutIntact c n (Machine.execLoopEcho port f s) :=
  h.control (fun _ hu => hu.ite (hu.onLink.ite (hu.onLink.recordErr.failAttempt.ite hu.onLink.onPort.sendCtl)))
theorem Intact.execInitAck {port f} (h : Intact c n s) : OutIntact c n (Machine.execInitAck port f s) := h.control (fun _ hu => hu.ite hu.onLink)
theorem Intact.renumber {port} (h : Intact c n s) : Intact c n (Machine.renumber port s) := by
  unfold Machine.renumber
  refine Intact.ite ?_ h
  split
  · exact h.takeNumber.onPort
  · exact h
theorem Intact.execPortUp {port} (h : Intact c n s) : OutIntact c n (Machine.execPortUp port s) :=
  OutIntact.ite .fault ((h.ite (h.recordErr.failAttempt.ite h.renumber.onPort.fillTo.unsolicited)).next)
theorem Intact.takeMask {p m} (h : Intact c n s) : Intact c n (Machine.takeMask p m s) :=
  h.onPort.startNarrowing.ite (h.onPort.narrowGo.ite (h.ite h.onPort.onPort.startNarrowing))
theorem Intact.execWidthChange {port f} (h : Intact c n s) : OutIntact c n (Machine.execWidthChange port f s) :=
  h.control (fun _ hu => hu.takeMask.ite hu)
theorem Intact.execDown {port f} (h : Intact c n s) : OutIntact c n (Machine.execDown port f s) := h.control (fun _ hu => hu.linkDown.ite hu)
theorem Intact.execLinkRetryTimer {port} (h : Intact c n s) : OutIntact c n (Machine.execLinkRetryTimer port s) :=
  OutIntact.ite .fault ((h.ite (h.onLink.linkDown.ite h.onLink)).next)
theorem Intact.execRetryBufferTimer {port} (h : Intact c n s) : OutIntact c n (Machine.execRetryBufferTimer port s) :=
  OutIntact.ite .fault ((h.ite (h.onLink.linkDown.ite h.onLink)).next)
theorem Intact.execXoffWatchdog {port channel} (h : Intact c n s) : OutIntact c n (Machine.execXoffWatchdog port channel s) := by
  refine OutIntact.ite .fault (Intact.next ?_)
  dsimp only
  split
  · exact h.linkDown.ite h
  · exact h

end Sys2Proof.Machine
end

section
/-! What no step destroys: the functions of Machine/Trunks. -/

namespace Sys2Proof.Machine

open Sys2Proof

variable {c : Prop} {n : Nat} {s t : State}

theorem Intact.advanceShapers {p now} (h : Intact c n s) : Intact c n (Machine.advanceShapers p now s) := h.onTrunk
theorem Intact.nextEntry {p e} (h : Intact c n s) : Intact c n (Machine.nextEntry p e s) := h.advanceShapers.onTrunk
theorem Intact.takeOver {p g} (h : Intact c n s) : Intact c n (Machine.takeOver p g s) := h.advanceShapers.onTrunk
theorem Intact.settleGates {p k} (h : Intact c n s) : Intact c n (Machine.settleGates p k s) := by
  induction k generalizing s with
  | zero => exact h
  | succ k ih =>
    unfold Machine.settleGates
    dsimp only
    split
    · exact (ih h.takeOver).ite ((ih h.nextEntry).ite h)
    · exact (ih h.nextEntry).ite h
theorem Intact.gatesNow {p} (h : Intact c n s) : Intact c n (Machine.gatesNow p s) := h.settleGates
theorem Intact.trunkPush {p q k} (h : Intact c n s) : Intact c n (Machine.trunkPush p q k s) := h.onTq
theorem Intact.trunkEnqueue {p transit k} (h : Intact c n s) (t : State) (ht : Machine.trunkEnqueue p transit k s = some t) : Intact c n t := by
  unfold Machine.trunkEnqueue at ht
  dsimp only at ht
  split at ht
  · split at ht
    · cases ht
      exact h.trunkPush
    · cases ht
  · have hq := h.gatesNow (p := p)
    split at ht
    · cases ht
      exact hq.onTq.onTq
    · split at ht
      · cases ht
        exact hq.onTq.onTq
      · split at ht
        · cases ht
          exact hq.onTq.onTq
        · cases ht
          exact hq.onTq.trunkPush
theorem Intact.trunkPop {p q} (h : Intact c n s) : Intact c n (Machine.trunkPop p q s) := by
  unfold Machine.trunkPop
  dsimp only
  split
  · exact h.onTq
  · exact h
theorem Intact.newPeriod {old} (h : Intact c n s) : Intact c n (Machine.newPeriod old s) :=
  h.ite (h.foldl (fun _ _ hu => hu.foldl (fun _ _ hu => hu.onTq)))
theorem Intact.execRingRouteSet {hd mask routes} (h : Intact c n s) : OutIntact c n (Machine.execRingRouteSet hd mask routes s) := by
  unfold Machine.execRingRouteSet
  exact h.command (fun _ hu => hu.reply.ite hu.onSvc.reply)
theorem Intact.execMarkerSet {hd port off cir cbs ebs} (h : Intact c n s) : OutIntact c n (Machine.execMarkerSet hd port off cir cbs ebs s) :=
  h.command (fun _ hu => hu.onPort.reply)
theorem Intact.execPolicerSet {hd port queue pr pb} (h : Intact c n s) : OutIntact c n (Machine.execPolicerSet hd port queue pr pb s) :=
  h.command (fun _ hu => hu.onTq.reply)
theorem Intact.execGateListSet {hd port entries base} (h : Intact c n s) : OutIntact c n (Machine.execGateListSet hd port entries base s) :=
  h.command (fun _ hu => hu.reply.ite hu.onTrunk.reply)
theorem Intact.execShaperSet {hd port queue rq burst tokens} (h : Intact c n s) : OutIntact c n (Machine.execShaperSet hd port queue rq burst tokens s) :=
  h.command (fun _ hu => hu.onTq.reply)
theorem Intact.execQueueSampleSet {hd period} (h : Intact c n s) : OutIntact c n (Machine.execQueueSampleSet hd period s) :=
  h.command (fun _ hu => hu.onSvc.newPeriod.reply)
theorem Intact.execQueueSamplesRead {hd port queue clear} (h : Intact c n s) : OutIntact c n (Machine.execQueueSamplesRead hd port queue clear s) :=
  h.command (fun _ hu => (hu.onTq.onTq.ite hu.onTq).reply)
theorem Intact.execGateEntryChange {port} (h : Intact c n s) : OutIntact c n (Machine.execGateEntryChange port s) :=
  OutIntact.ite .fault ((h.ite h.nextEntry).next)
theorem Intact.execGateListTakeover {port} (h : Intact c n s) : OutIntact c n (Machine.execGateListTakeover port s) := by
  unfold Machine.execGateListTakeover
  refine OutIntact.ite .fault (Intact.next ?_)
  split
  · exact h.ite h.takeOver
  · exact h
theorem Intact.execQueueSampleWindow {port queue} (h : Intact c n s) : OutIntact c n (Machine.execQueueSampleWindow port queue s) :=
  OutIntact.ite .fault h.onTq.next
theorem Intact.colourOf {port bytes} (h : Intact c n s) : Intact c n (Machine.colourOf port bytes s).2 := by
  unfold Machine.colourOf
  dsimp only
  split
  · exact h.onPort
  · exact h

end Sys2Proof.Machine
end

section
/-! What no step destroys: the functions of Machine/SwitchCore. -/

namespace Sys2Proof.Machine

open Sys2Proof

variable {c : Prop} {n : Nat} {s t : State}

theorem Intact.onArb {key f} (h : Intact c n s) : Intact c n (Machine.onArb key f s) := h.onCore
theorem Intact.arbWaits {key asking} (h : Intact c n s) : Intact c n (Machine.arbWaits key asking s) := h.ite h.onArb
/-- The state after a decision of an arbiter. -/
theorem Intact.decideNow {each key now next effect} (h : Intact c n s) (heffect : ∀ r u, Intact c n u → Intact c n (effect r u)) :
    Intact c n (Machine.decideNow each key now next effect s).st := by
  unfold Machine.decideNow
  dsimp only
  split
  · exact h
  · generalize arbWinner (arbOf s key) (now.asks s) (now.pick s) = win
    cases win with
    | none => exact h.onArb
    | some r => exact heffect _ _ h.onArb
theorem Intact.chooseNext {key later} (h : Intact c n s) : Intact c n (Machine.chooseNext key later s) := h.onArb.ite h
theorem Intact.decide_ {each key now later next effect} (h : Intact c n s) (heffect : ∀ r u, Intact c n u → Intact c n (effect r u)) :
    Intact c n (Machine.decide_ each key now later next effect s) :=
  (h.decideNow heffect).chooseNext.ite (h.decideNow heffect)
theorem Intact.execArbModeSet {hd inst mode} (h : Intact c n s) : OutIntact c n (Machine.execArbModeSet hd inst mode s) :=
  h.command (fun _ hu => hu.onArb.reply)
theorem Intact.execArbCountersRead {hd inst clear} (h : Intact c n s) : OutIntact c n (Machine.execArbCountersRead hd inst clear s) :=
  h.command (fun _ hu => (hu.onArb.ite hu).reply)
theorem Intact.refuseRequest {status p} (h : Intact c n s) : Intact c n (Machine.refuseRequest status p s) := h.ite h.sendLocal
theorem Intact.refusePacket {port check status p} (h : Intact c n s) : Intact c n (Machine.refusePacket port check status p s) :=
  h.refuseRequest.ite h.discardMalformed
theorem Intact.refuseDown {o p} (h : Intact c n s) : Intact c n (Machine.refuseDown o p s) := h.refuseRequest.ite h.onCnt
theorem Intact.redAttempt {port line out p} (h : Intact c n s) : Intact c n (Machine.redAttempt port line out p s).2 := by
  unfold Machine.redAttempt
  dsimp only
  split
  · dsimp only
    exact h.colourOf.onCore.drawNat.onCore
  · exact h.colourOf.onCore.drawNat
theorem Intact.execRedProfileSet {hd output colour minTh maxTh maxP w} (h : Intact c n s) :
    OutIntact c n (Machine.execRedProfileSet hd output colour minTh maxTh maxP w s) :=
  h.command (fun _ hu => hu.onCore.reply)
theorem Intact.enterVoq {line out g p} (h : Intact c n s) : Intact c n (Machine.enterVoq line out g p s) := by
  unfold Machine.enterVoq
  dsimp only
  refine Intact.voqPush ?_
  split
  · exact h
  · exact h.takeOutLine
theorem Intact.takeHead {port x} (h : Intact c n s) : Intact c n (Machine.takeHead port x s) :=
  h.onCore.ite (h.onPort.xoffUpdate.ite (h.onPort.onLink.ite h.onPort))
theorem Intact.checkPacket {port via p} (h : Intact c n s) (t : State) (ht : Machine.checkPacket port via p s = .inl t) : Intact c n t := by
  unfold Machine.checkPacket at ht
  split at ht
  · cases ht
    exact h.discardSrc
  · split at ht
    · cases ht
      exact h.onCnt
    · split at ht <;> cases ht
      · exact h.refusePacket
      · exact h.refuseDown
      · exact h.onCnt
theorem Intact.admitHead {port vc} (h : Intact c n s) : Intact c n (Machine.admitHead port vc s) := by
  unfold Machine.admitHead
  dsimp only
  split
  · exact h
  · split
    · exact h
    · exact (h.takeHead.takeInLine.mcReserve.ite h.takeHead.takeInLine).enterVoq
theorem Intact.admitOne {port vc a} (h : Intact c n s) : Intact c n (Machine.admitOne port vc a s) := by
  unfold Machine.admitOne
  dsimp only
  split
  · exact h.admitHead
  · exact h
theorem Intact.admitG {port out x} (h : Intact c n s) : Intact c n (Machine.admitG port out x s) :=
  h.takeHead.takeInLine.onArb.redAttempt.enterVoq.ite h.takeHead.takeInLine.onArb.redAttempt
theorem Intact.admission {port vc} (h : Intact c n s) : Intact c n (Machine.admission port vc s) := by
  unfold Machine.admission
  dsimp only
  split
  · exact h
  · split
    · refine h.ite ?_
      split
      · exact h.takeHead.checkPacket _ ‹_›
      · exact h
    · exact h.admitG.ite (h.decide_ (fun _ _ hu => hu.admitOne))
theorem Intact.pumpAfter {port} (h : Intact c n s) : Intact c n (Machine.pumpAfter port s) := h.fillLocal.pump.contributeAll.ite h
theorem Intact.execPacketAdmission {port vc} (h : Intact c n s) : OutIntact c n (Machine.execPacketAdmission port vc s) :=
  OutIntact.ite .fault ((h.ite h.admission.pumpAfter).next)
theorem Intact.execTrunkMessageArrival {port p} (h : Intact c n s) : OutIntact c n (Machine.execTrunkMessageArrival port p s) := by
  unfold Machine.execTrunkMessageArrival
  refine OutIntact.ite .fault ((h.ite ?_).next)
  split
  · split
    · exact h.takeHead.checkPacket _ ‹_›
    · exact h
  · exact h.admitG
/-- A packet that waits at a trunk port enters its ring buffer, or stays. -/
theorem Intact.drainOne {p k} {x : Drain} (h : Intact c n x.st) : Intact c n (Machine.drainOne p x k).st := by
  unfold Machine.drainOne
  dsimp only
  split
  · exact h
  · split
    · rename_i t ht
      exact (h.onPort.trunkEnqueue t ht).outputTook
    · split <;> exact h

theorem Intact.drainLocalOne {k} {x : Drain} (h : Intact c n x.st) : Intact c n (Machine.drainLocalOne x k).st := by
  unfold Machine.drainLocalOne
  dsimp only
  split
  · exact h
  · split
    · exact h
    · exact h.onCore.outputTook.noteSent

theorem Intact.drainTrunk {p} (h : Intact c n s) : Intact c n (Machine.drainTrunk p s) :=
  List.foldlRecOn (motive := fun x : Drain => Intact c n x.st) _ _ h fun _ hx _ _ => hx.drainOne
theorem Intact.drainLocal (h : Intact c n s) : Intact c n (Machine.drainLocal s) :=
  List.foldlRecOn (motive := fun x : Drain => Intact c n x.st) _ _ h fun _ hx _ _ => hx.drainLocalOne
theorem Intact.toOutput {out k} (h : Intact c n s) : Intact c n (Machine.toOutput out k s) :=
  h.onCore.drainLocal.ite (h.onPort.drainTrunk.ite h.onPort)
theorem Intact.putCell {j cl} (h : Intact c n s) : Intact c n (Machine.putCell j cl s) := h.onCore
theorem Intact.setVoq {line out vc pkts sent} (h : Intact c n s) : Intact c n (Machine.setVoq line out vc pkts sent s) := h.onCore
theorem Intact.sendCell {v j} (h : Intact c n s) : Intact c n (Machine.sendCell v j s) := by
  unfold Machine.sendCell
  dsimp only
  split
  · exact h
  · exact ((h.setVoq.ite h.setVoq).putCell).ite h.setVoq.onCore.putCell
theorem Intact.stage1 {i} (h : Intact c n s) : Intact c n (Machine.stage1 s i) := by
  unfold Machine.stage1
  refine h.ite (h.decide_ (fun _ _ hu => ?_))
  split
  · exact hu.sendCell
  · exact hu
theorem Intact.lendSlots {e} (h : Intact c n s) : Intact c n (Machine.lendSlots s e) := by
  unfold Machine.lendSlots
  refine h.ite (h.decide_ (fun _ _ hu => ?_))
  split
  · split
    · exact hu.onCore
    · exact hu
  · exact hu
theorem Intact.swapCell {j cl num} (h : Intact c n s) : Intact c n (Machine.swapCell j cl num s) := h.onCore
theorem Intact.mcOffer {e p} (h : Intact c n s) : Intact c n (Machine.mcOffer e p s) := ((h.foldl (fun _ _ hu => hu.onPort)).onCore).mcFree
theorem Intact.copyCell {j e cl} (h : Intact c n s) : Intact c n (Machine.copyCell j e cl s) := by
  unfold Machine.copyCell
  dsimp only
  split
  · exact h.swapCell.mcOffer.ite h.swapCell
  · exact h.swapCell
theorem Intact.deliverCell {j e cl} (h : Intact c n s) : Intact c n (Machine.deliverCell j e cl s) := h.swapCell.onCore
theorem Intact.stage2 {j} (h : Intact c n s) : Intact c n (Machine.stage2 s j) := by
  unfold Machine.stage2
  refine h.ite (h.decide_ (fun _ _ hu => Intact.ite ?_ ?_))
  · split
    · exact hu.onCore.deliverCell
    · exact hu.onCore
  · split
    · exact hu.onCore.copyCell
    · exact hu.onCore
theorem Intact.release {e} (h : Intact c n s) : Intact c n (Machine.release s e) := by
  unfold Machine.release
  dsimp only
  split
  · exact h
  · exact h.onCore.foldl (fun _ _ hu => hu.toOutput)
theorem Intact.serveResidue {line x p} (h : Intact c n s) : Intact c n (Machine.serveResidue line x p s) := h.onPort.onCore.mcFree
theorem Intact.execResidueService {line port} (h : Intact c n s) : OutIntact c n (Machine.execResidueService line port s) := by
  unfold Machine.execResidueService
  refine OutIntact.ite .fault ((h.ite (h.decide_ (fun _ _ hu => ?_))).next)
  split
  · exact hu.serveResidue
  · exact hu
theorem Intact.startPacket {p k} (h : Intact c n s) : Intact c n (Machine.startPacket p k s) := h.onPort
theorem Intact.serveChannel {p vc} (h : Intact c n s) : Intact c n (Machine.serveChannel p vc s) := by
  unfold Machine.serveChannel
  dsimp only
  split
  · exact h
  · refine (((((((h.ite ?_).onArb).ite (h.ite ?_)).trunkPop).ite (((((h.ite ?_).onArb).ite (h.ite ?_)).onPort).outputTook)).startPacket).drainTrunk).ite
      ((((((h.ite ?_).onArb).ite (h.ite ?_)).trunkPop).ite (((((h.ite ?_).onArb).ite (h.ite ?_)).onPort).outputTook)).startPacket)
    · split
      · exact h.onPort
      · exact h
    · split
      · exact h.onPort
      · exact h
    · split
      · exact h.onPort
      · exact h
    · split
      · exact h.onPort
      · exact h
    · split
      · exact h.onPort
      · exact h
    · split
      · exact h.onPort
      · exact h
    · split
      · exact h.onPort
      · exact h
    · split
      · exact h.onPort
      · exact h
theorem Intact.nextFlit {p first} (h : Intact c n s) : Intact c n (Machine.nextFlit p first s) := by
  unfold Machine.nextFlit
  dsimp only
  split
  · exact h.onLink.putFlit.noteSent.ite h.onLink.putFlit
  · exact h.onLink.putFlit
theorem Intact.resendFlit {p} (h : Intact c n s) : Intact c n (Machine.resendFlit p s) := by
  unfold Machine.resendFlit
  dsimp only
  split
  · exact h.onLink
  · exact h.onLink.putFlit
theorem Intact.beat {p first} (h : Intact c n s) : Intact c n (Machine.beat p first s) := h.nextFlit.chooseNext.ite h.nextFlit
theorem Intact.openBoundary {p} (h : Intact c n s) : Intact c n (Machine.openBoundary p s) := h.beat.ite h.sendCtl
theorem Intact.freeBoundary {p} (h : Intact c n s) : Intact c n (Machine.freeBoundary p s) := by
  have hs : Intact c n (if isTrunk p then Machine.advanceShapers p (now16 s) (Machine.gatesNow p s) else s) := h.gatesNow.advanceShapers.ite h
  have hd := hs.decideNow (each := false) (key := arbKey arbEgress p) (now := egressContest p) (next := fun rr _ => rr)
    (effect := Machine.serveChannel p) fun _ _ hu => hu.serveChannel
  unfold Machine.freeBoundary
  exact (hd.chooseNext.ite hd).sendCtl.ite hd.beat
theorem Intact.execEgressDecision {port} (h : Intact c n s) : OutIntact c n (Machine.execEgressDecision port s) :=
  OutIntact.ite .fault ((h.ite (h.resendFlit.ite (h.freeBoundary.ite h.openBoundary))).next)
theorem Intact.sramHit {hd} (h : Intact c n s) : Intact c n (Machine.sramHit hd s) := by
  unfold Machine.sramHit
  refine h.recordCorrected.ite ?_
  dsimp only
  split
  · exact h.recordErr
  · split
    · exact h.recordErr
    · exact (((h.recordErr.setVoq.noteSent.onCore.ite h.recordErr.setVoq.noteSent).onMember).originate).ite ((h.recordErr.setVoq.noteSent.onCore.ite
        h.recordErr.setVoq.noteSent).onMember)
theorem Intact.outerWaits (h : Intact c n s) : Intact c n (Machine.outerWaits s) :=
  ((h.foldl (fun _ _ hu => hu.arbWaits)).foldl (fun _ _ hu => hu.arbWaits)).foldl (fun _ _ hu => hu.arbWaits)
theorem Intact.execCoreCycle {hit} (h : Intact c n s) : OutIntact c n (Machine.execCoreCycle hit s) := by
  unfold Machine.execCoreCycle
  refine (h.ite ((((((((((Intact.returnLoans ?_).foldl (fun _ _ hu => hu.lendSlots)).foldl (fun _ _ hu => hu.stage2)).foldl (fun _ _ hu =>
      hu.stage1)).foldl (fun _ _ hu => hu.release)).outerWaits).drainLocal).drainTrunk).drainTrunk).onCore)).next
  split
  · exact h.sramHit
  · exact h

end Sys2Proof.Machine
end

section
/-! What no step destroys: the functions of Machine/Home. -/

namespace Sys2Proof.Machine

open Sys2Proof

variable {c : Prop} {n : Nat} {s t : State}

theorem Intact.openWin {src seq} (h : Intact c n s) : Intact c n (Machine.openWin src seq s) := by
  unfold Machine.openWin
  split
  · exact h
  · exact h.onWin
theorem Intact.accountIf {src seq} (h : Intact c n s) : Intact c n (Machine.accountIf src seq s) := h.onWin.ite h
theorem Intact.answer {p o status data arg} (h : Intact c n s) : Intact c n (Machine.answer p o status data arg s) := h.sendPacket
theorem Intact.answerCmpl {p status} (h : Intact c n s) : Intact c n (Machine.answerCmpl p status s) := h.answer
theorem Intact.noteFailure {p status} (h : Intact c n s) : Intact c n (Machine.noteFailure p status s) := h.onWin.ite h
theorem Intact.noteEarly {p} (h : Intact c n s) : Intact c n (Machine.noteEarly p s) := h.onWin.ite h
theorem Intact.failRequest {dup p status} (h : Intact c n s) : Intact c n (Machine.failRequest dup p status s) :=
  (h.ite h.noteFailure.noteEarly).answerCmpl
theorem Intact.closeHot (h : Intact c n s) : Intact c n (Machine.closeHot s) := by
  unfold Machine.closeHot
  split <;> exact h.onHome (fun _ => id)
theorem Intact.countHot {p line} (h : Intact c n s) : Intact c n (Machine.countHot p line s) := by
  unfold Machine.countHot
  exact (h.ite h.closeHot).onHome (fun _ => id)
theorem Intact.storeLine {p a mask ecc} (h : Intact c n s) : Intact c n (Machine.storeLine p a mask ecc s).2 := by
  unfold Machine.storeLine
  dsimp only
  split
  · exact h
  · split
    · split
      · exact h
      · exact h.hbmStore.doorbellLanded
    · split
      · exact h.eccCheck.hbmStore.doorbellLanded
      · exact h.eccCheck
theorem Intact.lineOp {p a ecc} (h : Intact c n s) :
    Intact c n (Machine.lineOp p a ecc s).2 ∧ ∀ t, (Machine.lineOp p a ecc s).1 = some t → Intact c n t := by
  have hc := h.countHot (p := p) (line := a / 128)
  unfold Machine.lineOp
  dsimp only
  split
  · split
    · exact ⟨hc.eccCheck, by simp⟩
    · exact ⟨hc.eccCheck.hbmLine, fun t ht => Option.some.inj ht ▸ hc.eccCheck.hbmLine.answer⟩
  · split
    · split
      · exact ⟨hc.eccCheck, by simp⟩
      · have hl := (hc.eccCheck (e := ecc) (a := a)).hbmLine (key := memKeyOf (Machine.countHot p (a / 128) s) p.tenant.toNat) (line := a / 128)
        refine ⟨hl.hbmStore.doorbellLanded.ite hl, fun t ht => Option.some.inj ht ▸ ?_⟩
        exact (hl.hbmStore.doorbellLanded.ite hl).answerCmpl.ite (hl.hbmStore.doorbellLanded.ite hl).answer
    · generalize (if p.op == opWrLine then fullMask else p.mask) = mask
      split
      · exact ⟨hc.storeLine, fun t ht => Option.some.inj ht ▸ hc.storeLine.answerCmpl⟩
      · exact ⟨hc.storeLine, by simp⟩
theorem Intact.applyRequest {dup p a ecc} (h : Intact c n s) : Intact c n (Machine.applyRequest dup p a ecc s) := by
  obtain ⟨h2, h1⟩ := h.lineOp (p := p) (a := a) (ecc := ecc)
  unfold Machine.applyRequest
  dsimp only
  split
  · rename_i t ht
    exact (h1 t ht).ite (h1 t ht).noteEarly
  · exact h2.failRequest
theorem Intact.landRelease {port p ecc} (h : Intact c n s) : Intact c n (Machine.landRelease port p ecc s) := by
  unfold Machine.landRelease
  dsimp only
  split
  · split
    · exact h.noteEarly.answerCmpl
    · exact h.noteEarly
  · refine h.noteEarly.answerCmpl.ite ?_
    split
    · exact h.noteEarly.mirrorCheck.answerCmpl
    · exact h.noteEarly.answerCmpl.ite h.noteEarly.applyRequest
theorem Intact.judge {dup port p ecc} (h : Intact c n s) : Intact c n (Machine.judge dup port p ecc s) := by
  unfold Machine.judge
  refine h.failRequest.ite (h.failRequest.ite ?_)
  dsimp only
  split
  · exact h.mirrorCheck.failRequest
  · refine (Intact.failRequest ?_).ite (((Intact.landRelease ?_).ite (Intact.onWin ?_)).ite (Intact.applyRequest ?_))
    · split
      · exact h.touchCache
      · exact h
    · split
      · exact h.touchCache
      · exact h
    · split
      · exact h.touchCache
      · exact h
    · split
      · exact h.touchCache
      · exact h
theorem Intact.duplicate {port p ecc} (h : Intact c n s) : Intact c n (Machine.duplicate port p ecc s) :=
  h.onWin.discardStale.ite (h.answerCmpl.ite h.judge)
theorem Intact.landHeld {port p ecc} (h : Intact c n s) : Intact c n (Machine.landHeld port p ecc s) :=
  h.landRelease.ite (h.drawNat.landRelease.ite (h.drawNat.fwAddress.eccCheck.landRelease.ite h.drawNat.fwAddress.eccCheck.noteEarly.answerCmpl))
theorem Intact.atHome {port p ecc} (h : Intact c n s) : Intact c n (Machine.atHome port p ecc s) := by
  unfold Machine.atHome
  dsimp only
  split
  · exact ((((h.openWin.ite h.openWin.countStale).accountIf).noteFailure).noteEarly).ite ((h.openWin.ite h.openWin.countStale).accountIf)
  · exact (h.openWin.accountIf.noteFailure.noteEarly.ite h.openWin.accountIf).sprayVia
  · split
    · exact h.openWin.answerCmpl
    · exact h.openWin.duplicate
    · exact h.openWin.accountIf.judge
theorem Intact.homeRow {o port p ecc} (h : Intact c n s) : OutIntact c n (Machine.homeRow o port p ecc s) :=
  OutIntact.ite .fault ((h.ite h.takeLocal.atHome).next)
theorem Intact.execRdLine {port p ecc} (h : Intact c n s) : OutIntact c n (Machine.execRdLine port p ecc s) := h.homeRow
theorem Intact.execWrLine {port p} (h : Intact c n s) : OutIntact c n (Machine.execWrLine port p s) := h.homeRow
theorem Intact.execWrMasked {port p ecc} (h : Intact c n s) : OutIntact c n (Machine.execWrMasked port p ecc s) := h.homeRow
theorem Intact.execAtomic {port p ecc} (h : Intact c n s) : OutIntact c n (Machine.execAtomic port p ecc s) := h.homeRow
theorem Intact.execReleaseLand {src seq ecc} (h : Intact c n s) : OutIntact c n (Machine.execReleaseLand src seq ecc s) := by
  refine Intact.next ?_
  dsimp only
  split
  · exact h
  · exact h.ite h.onWin.landHeld
theorem Intact.writeOff {src} (h : Intact c n s) : Intact c n (Machine.writeOff src s) := by
  unfold Machine.writeOff
  dsimp only
  split
  · exact h
  · exact h.onWin.foldl (fun _ _ hu => hu.recordErr)
theorem Intact.execHoleWriteOff {src} (h : Intact c n s) : OutIntact c n (Machine.execHoleWriteOff src s) :=
  (h.whenReady (fun _ hu => hu.writeOff)).next
theorem Intact.execReqTimeoutSet {hd timeout} (h : Intact c n s) : OutIntact c n (Machine.execReqTimeoutSet hd timeout s) :=
  h.command (fun _ hu => ((hu.onHome (fun _ => id)).foldl (fun _ _ hu => hu.writeOff)).reply)
theorem Intact.execWindowStateDrop {src} (h : Intact c n s) : OutIntact c n (Machine.execWindowStateDrop src s) := by
  unfold Machine.execWindowStateDrop
  refine Intact.next ?_
  split
  · exact (h.onHome (fun _ => id)).ite h
  · exact h
theorem Intact.execHotLineWindow (h : Intact c n s) : OutIntact c n (Machine.execHotLineWindow s) := (h.ite h.closeHot).next
theorem Intact.execHotLineRead {hd} (h : Intact c n s) : OutIntact c n (Machine.execHotLineRead hd s) :=
  h.command (fun _ hu => (hu.onHome (fun _ => id)).reply)
theorem Intact.runExport {via hd on} (h : Intact c n s) : Intact c n (Machine.runExport via hd on s) :=
  h.finish.ite (((h.onHome (fun _ => id)).accept).beginTrans)
theorem Intact.execHbmExportSet {hd on} (h : Intact c n s) : OutIntact c n (Machine.execHbmExportSet hd on s) :=
  h.command (fun _ hu => hu.transition (fun _ hu => hu.runExport))
theorem Intact.runQueuedExport {i} (h : Intact c n s) : Intact c n (Machine.runQueuedExport i s) := by
  unfold Machine.runQueuedExport
  split
  · exact h.runExport
  · exact h
theorem Intact.execExportTransitionEnd (h : Intact c n s) : OutIntact c n (Machine.execExportTransitionEnd s) :=
  (h.ite (h.bumpEpoch.endTrans (fun _ _ hu => hu.runQueuedExport))).next

end Sys2Proof.Machine
end

section
/-! What no step destroys: the functions of Machine/Groups. -/

namespace Sys2Proof.Machine

open Sys2Proof

variable {c : Prop} {n : Nat} {s t : State}

theorem Intact.installEntry {g gen tenant ms} (h : Intact c n s) : Intact c n (Machine.installEntry g gen tenant ms s) := h.onColl.bumpEpoch
theorem Intact.runInstall {hd p} (h : Intact c n s) : Intact c n (Machine.runInstall hd p s) := by
  unfold Machine.runInstall
  dsimp only
  refine h.reply.ite ?_
  split
  · exact h.onColl.reply
  · exact h.onColl.reply.ite ((h.onColl.ite h).reply.ite h.installEntry.reply)
theorem Intact.execGroupInstall {hd part} (h : Intact c n s) : OutIntact c n (Machine.execGroupInstall hd part s) :=
  h.command (fun _ hu => hu.runInstall)
theorem Intact.execGroupRemove {hd group} (h : Intact c n s) : OutIntact c n (Machine.execGroupRemove hd group s) :=
  h.command (fun _ hu => hu.reply.ite hu.onColl.bumpEpoch.reply)
theorem Intact.removeMember {g position gen} (h : Intact c n s) : Intact c n (Machine.removeMember g position gen s) := by
  unfold Machine.removeMember
  split
  · exact h
  · exact h.installEntry
theorem Intact.applyRemoval {g r} (h : Intact c n s) : Intact c n (Machine.applyRemoval g r s) := h.removeMember.finishEvent.ite h.finishEvent
theorem Intact.execGroupMemberRemove {hd group position gen} (h : Intact c n s) : OutIntact c n (Machine.execGroupMemberRemove hd group position gen s) :=
  h.command (fun _ hu => hu.reply.onOp.originate.wakeComputes.ite hu.reply.applyRemoval)

end Sys2Proof.Machine
end

section
/-! What no step destroys: the functions of Machine/Slots. -/

namespace Sys2Proof.Machine

open Sys2Proof

variable {c : Prop} {n : Nat} {s t : State}

theorem Intact.onChunk {g cl f} (h : Intact c n s) : Intact c n (Machine.onChunk g cl f s) := h.onOp
theorem Intact.scratchCheck {cluster words e} (h : Intact c n s) : Intact c n (Machine.scratchCheck cluster words e s).2 := by
  unfold Machine.scratchCheck
  dsimp only
  split
  · exact h
  · exact h
  · exact h.drawNat.recordCorrected
  · exact h.drawNat.recordErr
theorem Intact.keepEarly {g op cl pos pidx data side} (h : Intact c n s) : Intact c n (Machine.keepEarly g op cl pos pidx data side s) := by
  unfold Machine.keepEarly
  dsimp only
  refine h.onChunk.hbmStore.ite ?_
  split
  · exact h.onChunk.onCluster
  · exact h.onChunk
theorem Intact.earlyBytes {g op e} (h : Intact c n s) : Intact c n (Machine.earlyBytes g op e s).2 := by
  unfold Machine.earlyBytes
  split
  · exact h.hbmLine
  · split <;> exact h
theorem Intact.takeEarly {g k pidx m j} (h : Intact c n s) : Intact c n (Machine.takeEarly g k pidx m j s) := by
  induction j generalizing s with
  | zero => exact h
  | succ j ih =>
    unfold Machine.takeEarly
    split
    · exact h
    · exact ih h.earlyBytes.onChunk
theorem Intact.depositOpen {g cl lo hi} (h : Intact c n s) : Intact c n (Machine.depositOpen g cl lo hi s) := by
  unfold Machine.depositOpen
  dsimp only
  split
  · exact h
  · exact h.ite (h.foldl (fun _ _ hu => hu.onCluster))
theorem Intact.syncOpen {g cl lo hi} (h : Intact c n s) : Intact c n (Machine.syncOpen g cl lo hi s) := by
  unfold Machine.syncOpen
  dsimp only
  split
  · exact h
  · exact h.ite (h.foldl (fun _ _ hu => hu.onChunk))
theorem Intact.noteStall {g cl at_} (h : Intact c n s) : Intact c n (Machine.noteStall g cl at_ s) := by
  unfold Machine.noteStall
  split
  · exact h
  · exact h.onOp
theorem Intact.clearStall {g cl} (h : Intact c n s) : Intact c n (Machine.clearStall g cl s) := h.onOp.ite h
/-- What a read of the tenant's memory leaves. -/
def Read.Intact (c : Prop) (n : Nat) : Read → Prop
  | .ok _ s => Machine.Intact c n s
  | .lost s => Machine.Intact c n s
  | _ => True

/-- What the forming of a chunk leaves. -/
def Formed.Intact (c : Prop) (n : Nat) : Formed → Prop
  | .ok _ _ s => Machine.Intact c n s
  | .lost s => Machine.Intact c n s
  | _ => True

theorem Formed.Intact.ite {p : Prop} [Decidable p] {a b : Formed} (ha : a.Intact c n) (hb : b.Intact c n) : (if p then a else b).Intact c n := by
  split <;> assumption

theorem Intact.readMem {k fva m} (h : Intact c n s) : (Machine.readMem k fva m s).Intact c n := by
  have hr := h.streamRead (pins := []) (k := k) (fva := fva) (m := m)
  unfold Machine.readMem
  split
  · trivial
  · trivial
  · trivial
  · trivial
  · split <;> exact hr.of_snd ‹_›

theorem Read.Intact.then {r : Read} {go : List Byte → State → Formed} (hr : r.Intact c n) (hgo : ∀ b u, Machine.Intact c n u → (go b u).Intact c n) :
    (r.then go).Intact c n := by
  unfold Read.then
  split
  · exact hgo _ _ hr
  · trivial
  · trivial
  · exact hr

theorem Intact.readThen {k fva m} {go : List Byte → State → Formed} (h : Intact c n s) (hgo : ∀ b u, Intact c n u → (go b u).Intact c n) :
    (Machine.readThen k fva m go s).Intact c n := h.readMem.then hgo

theorem Intact.writeThen {k fva b} {go : State → Formed} (h : Intact c n s) (hgo : ∀ u, Intact c n u → (go u).Intact c n) :
    (Machine.writeThen k fva b go s).Intact c n := by
  have hw := h.streamWrite (pins := []) (k := k) (fva := fva) (data := b)
  unfold Machine.writeThen
  split
  · trivial
  · trivial
  · trivial
  · trivial
  · split
    · exact hgo _ (hw.of_snd ‹_›)
    · exact hw.of_snd ‹_›

theorem Intact.readArrays {k p j m l acc} {go : List (List Nat) → State → Formed} (h : Intact c n s)
    (hgo : ∀ a u, Intact c n u → (go a u).Intact c n) : (Machine.readArrays k p j m l acc go s).Intact c n := by
  induction l generalizing acc s with
  | nil => exact hgo _ _ h
  | cons x l ih => exact h.readThen fun _ _ hu => ih hu

theorem Intact.writeArrays {k p j l} {go : State → Formed} (h : Intact c n s) (hgo : ∀ u, Intact c n u → (go u).Intact c n) :
    (Machine.writeArrays k p j l go s).Intact c n := by
  induction l generalizing s with
  | nil => exact hgo _ h
  | cons x l ih => exact h.writeThen fun _ hu => ih hu

theorem Intact.updateChunk {op k j apply gs cls} (h : Intact c n s) : (Machine.updateChunk op k j apply gs cls s).Intact c n :=
  h.readThen fun _ _ hu => hu.readArrays fun _ _ hu => .ite hu (hu.writeArrays fun _ hu => hu.writeThen fun _ hu => hu)

theorem Intact.formFused {op k j vs verdict} (h : Intact c n s) : (Machine.formFused op k j vs verdict s).Intact c n :=
  .ite (.ite (h.readThen fun _ _ hu => hu.updateChunk) h.updateChunk) (.ite (h.writeThen fun _ hu => hu) h.updateChunk)

theorem Intact.readWeights {op m k} (h : Intact c n s) : (Machine.readWeights op m k s).Intact c n := by
  unfold Machine.readWeights
  dsimp only
  split
  · exact h
  · exact h.readMem

theorem Intact.tryWeights {op m k} (h : Intact c n s) : (Machine.tryWeights op m k s).Intact c n := by
  unfold Machine.tryWeights
  split
  · trivial
  · exact h.readWeights

theorem Intact.formChunk {op m k x} (h : Intact c n s) : (Machine.formChunk op m k x s).Intact c n := by
  unfold Machine.formChunk
  dsimp only
  refine .ite h (.ite h.formFused (.ite h (Read.Intact.then ?_ fun _ _ hu => .ite hu.formFused (.ite (hu.readThen fun _ _ hv => hv) hu))))
  split
  · exact h
  · exact h.readWeights

theorem Intact.weighOpen {g k} (h : Intact c n s) : Intact c n (Machine.weighOpen g k s) := by
  unfold Machine.weighOpen
  dsimp only
  split
  · exact h
  · rename_i op x _
    refine h.ite ?_
    have hr := h.tryWeights (op := op) (m := memberCount s g) (k := k)
    split
    · rename_i he
      rw [he] at hr
      exact Intact.depositOpen (Intact.onChunk (Intact.clearStall hr))
    · exact h.noteStall
    · exact h
theorem Intact.setS {x d v} (h : Intact c n s) : Intact c n (Machine.setS x d v s) := h.ite h.onCtx
theorem Intact.takeChunk {id g d} (h : Intact c n s) (t : State) (ht : Machine.takeChunk id g d s = some t) : Intact c n t := by
  unfold Machine.takeChunk at ht
  dsimp only at ht
  split at ht
  · cases ht
  · rename_i op _
    split at ht
    · cases ht
    · rename_i x _
      have hr : (if unweighed op x then Machine.tryWeights op (memberCount s g) x.idx s else .ok [] s : Read).Intact c n := by
        split
        · exact h.tryWeights
        · exact h
      split at ht
      · split at ht
        · rename_i he
          rw [he] at hr
          cases ht
          exact (Intact.weighOpen hr).onCtx.setS
        · cases ht
        · cases ht
          exact h.onCtx.programFault
        · rename_i he
          rw [he] at hr
          cases ht
          exact (Intact.onCtx hr).dataLost
      · cases ht
theorem Intact.chunkStall {id g} (h : Intact c n s) : Intact c n (Machine.chunkStall id g s) := by
  unfold Machine.chunkStall
  split
  · exact h
  · split
    · exact h
    · refine h.ite ?_
      split
      · exact h.noteStall
      · exact h
theorem Intact.wakeChunks {g} (h : Intact c n s) : Intact c n (Machine.wakeChunks g s) := by
  refine h.foldl fun u x hu => ?_
  split
  · cases ht : Machine.takeChunk x g _ u with
    | none => exact hu.chunkStall
    | some t => exact hu.takeChunk t ht
  · exact hu

end Sys2Proof.Machine
end

section
/-! What no step destroys: the functions of Machine/Ring. -/

namespace Sys2Proof.Machine

open Sys2Proof

variable {c : Prop} {n : Nat} {s t : State}

theorem Intact.opFault {g op cause chunk} (h : Intact c n s) : Intact c n (Machine.opFault g op cause chunk s) :=
  h.recordErr.onOp.originate.wakeComputes
theorem Intact.sendRing {g op o cl i data side sideBit} (h : Intact c n s) : Intact c n (Machine.sendRing g op o cl i data side sideBit s) := by
  unfold Machine.sendRing
  split
  · exact h.sendFor
  · exact h
theorem Intact.ringComplete {g op cl i vals} (h : Intact c n s) : Intact c n (Machine.ringComplete g op cl i vals s) := h.onOp.sendRing
theorem Intact.ringMeet {g op num w x i part} (h : Intact c n s) : Intact c n (Machine.ringMeet g op num w x i part s) :=
  h.onOp.ringComplete.ite h.onOp.sendRing
theorem Intact.ringWaiting {g cl w} (h : Intact c n s) : Intact c n (Machine.ringWaiting g cl w s) := by
  unfold Machine.ringWaiting
  dsimp only
  split
  · exact h
  · split
    · exact h
    · refine h.foldl (fun _ _ hu => ?_)
      split
      · exact hu.ringMeet.ite hu
      · exact hu
theorem Intact.ringStart {g cl w} (h : Intact c n s) : Intact c n (Machine.ringStart g cl w s) := by
  unfold Machine.ringStart
  dsimp only
  split
  · exact h
  · split
    · exact h
    · exact h.ite (h.onChunk.foldl (fun _ _ hu => hu.sendRing.ite hu))
theorem Intact.ringProgress {g k} (h : Intact c n s) : Intact c n (Machine.ringProgress g k s) := by
  unfold Machine.ringProgress
  dsimp only
  split
  · exact h
  · rename_i op _
    have hs := h.syncOpen (g := g) (cl := k) (lo := 0) (hi := inElems op.prog k)
    have hr : (if (chunkOf op k).any (unweighed op) then Machine.tryWeights op (memberCount s g) k (Machine.syncOpen g k 0 (inElems op.prog k) s)
        else .ok [] (Machine.syncOpen g k 0 (inElems op.prog k) s) : Read).Intact c n := by
      split
      · exact hs.tryWeights
      · exact hs
    split
    · rename_i he
      rw [he] at hr
      exact (Intact.clearStall hr).ringWaiting.ringStart
    · exact hs.noteStall
    · exact hs.opFault
    · rename_i he
      rw [he] at hr
      exact (Intact.originate hr).wakeComputes

end Sys2Proof.Machine
end

section
/-! What no step destroys: the functions of Machine/Collective. -/

namespace Sys2Proof.Machine

open Sys2Proof

variable {c : Prop} {n : Nat} {s t : State}

theorem Intact.sendCredit {g op cl} (h : Intact c n s) : Intact c n (Machine.sendCredit g op cl s) := h.foldl (fun _ _ hu => hu.sendLocal)
theorem Intact.openChunks {g k} (h : Intact c n s) : Intact c n (Machine.openChunks g k s) := by
  induction k generalizing s with
  | zero => exact h
  | succ k ih =>
    unfold Machine.openChunks
    split
    · exact h
    · exact h.ite (ih h.onOp.depositOpen.sendCredit)
theorem Intact.opComplete {g} (h : Intact c n s) : Intact c n (Machine.opComplete g s) := by
  unfold Machine.opComplete
  dsimp only
  split
  · exact h
  · exact h.onColl.onOp.sendLocal.freeContextsOf.wakeComputes
theorem Intact.checkDone {g} (h : Intact c n s) : Intact c n (Machine.checkDone g s) := by
  unfold Machine.checkDone
  split
  · exact h.opComplete.ite h
  · exact h
theorem Intact.startOp {a e i} (h : Intact c n s) : Intact c n (Machine.startOp a e i s) := h.onColl.originate.ite h.onColl.openChunks.checkDone
theorem Intact.runOpStart {hd a} (h : Intact c n s) : Intact c n (Machine.runOpStart hd a s) := by
  unfold Machine.runOpStart
  split
  · refine h.reply.ite ?_
    split
    · exact h.reply
    · exact ((h.startContexts _ ‹_›).startOp).reply
  · exact h
theorem Intact.execOpStart {hd a} (h : Intact c n s) : OutIntact c n (Machine.execOpStart hd a s) := h.command (fun _ hu => hu.runOpStart)
theorem Intact.execOpStatusRead {hd group} (h : Intact c n s) : OutIntact c n (Machine.execOpStatusRead hd group s) :=
  h.command (fun _ hu => hu.reply)
theorem Intact.execRedSummaryRead {hd} (h : Intact c n s) : OutIntact c n (Machine.execRedSummaryRead hd s) := h.command (fun _ hu => hu.reply)
theorem Intact.countCollStale {port} (h : Intact c n s) : Intact c n (Machine.countCollStale port s) := h.onCnt.ite h
theorem Intact.takeContribution {op x pos p} (h : Intact c n s) : Intact c n (Machine.takeContribution op x pos p s) :=
  (((((h.onChunk.keepEarly.ite h.onChunk.syncOpen.onChunk.takeEarly).depositOpen).weighOpen).ringProgress).ite (((h.onChunk.keepEarly.ite
    h.onChunk.syncOpen.onChunk.takeEarly).depositOpen).weighOpen)).wakeChunks
theorem Intact.contributionCheck {op x pos p ecc} (h : Intact c n s) : Intact c n (Machine.contributionCheck op x pos p ecc s).2 := by
  unfold Machine.contributionCheck
  dsimp only
  split
  · exact h.eccCheck
  · exact h.scratchCheck
theorem Intact.putArrives {port p ecc} (h : Intact c n s) : Intact c n (Machine.putArrives port p ecc s) := by
  unfold Machine.putArrives
  dsimp only
  split
  · exact h.countCollStale
  · split
    · exact h.countCollStale.ite h.discardStale
    · exact h.discardUnsure.originate.wakeComputes
    · refine h.discardMalformed.ite ?_
      split
      · exact h.originate.wakeComputes.ite (h.contributionCheck.takeContribution.ite h.contributionCheck.originate.wakeComputes)
      · exact h.originate.wakeComputes
theorem Intact.agentRow {o port p run} (h : Intact c n s) (hrun : ∀ y0 u, Intact c n u → Intact c n (run y0 u)) :
    OutIntact c n (Machine.agentRow o port p run s) :=
  OutIntact.ite .fault ((h.ite (hrun _ _ h.takeLocal)).next)
theorem Intact.execRedPut {port p ecc} (h : Intact c n s) : OutIntact c n (Machine.execRedPut port p ecc s) :=
  h.agentRow (fun _ _ hu => hu.putArrives)
theorem Intact.setFormed {g cl pays cls} (h : Intact c n s) : Intact c n (Machine.setFormed g cl pays cls s) := h.onChunk.onOp
theorem Intact.injectOne {g op k y} (h : Intact c n s) (t : State) (ht : Machine.injectOne g op k y s = some t) : Intact c n t := by
  unfold Machine.injectOne at ht
  dsimp only at ht
  split at ht
  · cases ht
    exact h.foldl fun _ _ hu => hu.sendFor.onCore
  · split at ht
    · cases ht
    · split at ht
      · cases ht
      · cases ht
        exact h.mcReserve.sendPacket.onCore
theorem Intact.injectReady {g op k l} (h : Intact c n s) : Intact c n (Machine.injectReady g op k l s) := by
  induction l generalizing s with
  | nil => exact h
  | cons y l ih =>
    unfold Machine.injectReady
    split
    · exact h
    · rename_i t ht
      exact ih (h.injectOne t ht).onChunk
theorem Intact.injectChunk {g cl} (h : Intact c n s) : Intact c n (Machine.injectChunk g cl s) := by
  unfold Machine.injectChunk
  split
  · exact h
  · split
    · exact h
    · exact h.injectReady
theorem Intact.wakeStores {g cl} (h : Intact c n s) : Intact c n (Machine.wakeStores g cl s) := by
  unfold Machine.wakeStores
  split
  · exact (h.foldl (fun _ _ hu => hu.onCtx.ite hu)).ite h
  · exact h
theorem Intact.retryWeights {g cl} (h : Intact c n s) : Intact c n (Machine.retryWeights g cl s) := by
  unfold Machine.retryWeights
  split
  · exact ((h.ringProgress.ite h.weighOpen).wakeChunks).ite h
  · exact h
theorem Intact.formResults {g k} (h : Intact c n s) : Intact c n (Machine.formResults g k s) := by
  unfold Machine.formResults
  dsimp only
  split
  · exact h
  · rename_i op _ _
    have hs := h.syncOpen (g := g) (cl := k) (lo := 0) (hi := inElems op.prog k)
    split
    · exact hs
    · rename_i op2 x _
      refine hs.ite (hs.setFormed.injectChunk.ite ?_)
      have hf := hs.formChunk (op := op2) (m := memberCount (Machine.syncOpen g k 0 (inElems op.prog k) s) g)
        (k := placeOf op2 (Machine.syncOpen g k 0 (inElems op.prog k) s) k) (x := x)
      split
      · rename_i he
        rw [he] at hf
        exact (Intact.clearStall hf).setFormed.injectChunk
      · exact hs.noteStall
      · exact hs.opFault
      · rename_i he
        rw [he] at hf
        exact (Intact.originate hf).wakeComputes
theorem Intact.injection {g cl ecc} (h : Intact c n s) : Intact c n (Machine.injection g cl ecc s) := by
  unfold Machine.injection
  dsimp only
  split
  · exact h
  · exact h.injectChunk.wakeStores.ite (h.scratchCheck.originate.wakeComputes.ite h.scratchCheck.retryWeights.formResults)
theorem Intact.execRedResInjection {group chunk ecc} (h : Intact c n s) : OutIntact c n (Machine.execRedResInjection group chunk ecc s) :=
  (h.whenReady (fun _ hu => hu.injection)).next
theorem Intact.closeIf {g cl} (h : Intact c n s) : Intact c n (Machine.closeIf g cl s) := by
  unfold Machine.closeIf
  split
  · exact h
  · split
    · exact h
    · exact h.onOp.openChunks.checkDone.ite h
theorem Intact.deliver {g cl i} (h : Intact c n s) : Intact c n (Machine.deliver g cl i s) := by
  unfold Machine.deliver
  split
  · exact h
  · exact h.onCore.onChunk.closeIf
theorem Intact.execDeliveryNotice {group chunk pidx} (h : Intact c n s) : OutIntact c n (Machine.execDeliveryNotice group chunk pidx s) :=
  (h.whenReady (fun _ hu => hu.deliver)).next
theorem Intact.ringArrives {port p take} (h : Intact c n s) (htake : ∀ y0 y1 u, Intact c n u → Intact c n (take y0 y1 u)) :
    Intact c n (Machine.ringArrives port p take s) := by
  unfold Machine.ringArrives
  refine h.pktChecked (fun _ hu => ?_)
  split
  · exact hu.countCollStale
  · exact hu.countCollStale.ite (htake _ _ _ hu.onChunk)
theorem Intact.takePartial {p ecc g op} (h : Intact c n s) : Intact c n (Machine.takePartial p ecc g op s) :=
  h.scratchCheck.originate.wakeComputes.ite h.scratchCheck.onOp.ringProgress
theorem Intact.execRingPart {port p} (h : Intact c n s) : OutIntact c n (Machine.execRingPart port p s) :=
  h.agentRow (fun _ _ hu => hu.ringArrives (fun _ _ _ hu => hu.takePartial))
theorem Intact.takeGathered {p g op} (h : Intact c n s) : Intact c n (Machine.takeGathered p g op s) := by
  unfold Machine.takeGathered
  dsimp only
  split
  · exact h.onOp.ite h.onOp.sendRing
  · exact h.onOp
theorem Intact.execRingRes {port p} (h : Intact c n s) : OutIntact c n (Machine.execRingRes port p s) :=
  h.agentRow (fun _ _ hu => hu.ringArrives (fun _ _ _ hu => hu.takeGathered))
theorem Intact.execChunkStall {group chunk} (h : Intact c n s) : OutIntact c n (Machine.execChunkStall group chunk s) := by
  unfold Machine.execChunkStall
  refine Intact.next ?_
  split
  · exact h
  · split
    · exact h
    · exact h.ite h.originate.wakeComputes
theorem Intact.execOperationTimeout {group} (h : Intact c n s) : OutIntact c n (Machine.execOperationTimeout group s) := by
  unfold Machine.execOperationTimeout
  refine Intact.next ?_
  split
  · exact h
  · exact h.ite h.originate.wakeComputes
theorem Intact.planeSettled {g} (h : Intact c n s) : Intact c n (Machine.planeSettled g s) := by
  unfold Machine.planeSettled
  dsimp only
  split
  · exact h
  · exact h.ite ((h.onOp.foldl (fun _ _ hu => hu.applyRemoval)).wakeComputes)

end Sys2Proof.Machine
end

section
/-! What no step destroys: the functions of Machine/Messages. -/

namespace Sys2Proof.Machine

open Sys2Proof

variable {c : Prop} {n : Nat} {s t : State}

theorem Intact.judged {port p run} (h : Intact c n s) (hrun : ∀ u, Intact c n u → Intact c n (run u)) : Intact c n (Machine.judged port p run s) := by
  unfold Machine.judged
  split
  · exact h.discardStale
  · exact h.discardUnsure
  · exact h.discardMalformed.ite (h.discardStale.ite (hrun _ h))
theorem Intact.messageArrives {port p} (h : Intact c n s) : Intact c n (Machine.messageArrives port p s) := by
  unfold Machine.messageArrives
  dsimp only
  split
  · exact h.sendPacket
  · exact h.onSvc.discardStale.ite h.onSvc.sendPacket
theorem Intact.execMsgSend {port p ecc} (h : Intact c n s) : OutIntact c n (Machine.execMsgSend port p ecc s) :=
  h.agentRow (fun _ _ hu => hu.judged (fun _ hu => hu.messageArrives))
theorem Intact.endSend {peer seq status} (h : Intact c n s) : Intact c n (Machine.endSend peer seq status s) := h.onSvc
theorem Intact.restartSend {peer seq busy} (h : Intact c n s) : Intact c n (Machine.restartSend peer seq busy s) := h.onSvc
theorem Intact.execMsgAck {port p} (h : Intact c n s) : OutIntact c n (Machine.execMsgAck port p s) :=
  h.agentRow (fun _ _ hu => hu.judged (fun _ hu => hu.discardStale.ite (hu.restartSend.ite hu.endSend)))
theorem Intact.execMsgRto {peer seq} (h : Intact c n s) : OutIntact c n (Machine.execMsgRto peer seq s) := by
  unfold Machine.execMsgRto
  refine Intact.next ?_
  dsimp only
  split
  · exact h.sendFor.restartSend.ite h
  · exact h
theorem Intact.execMsgLifetime {peer seq} (h : Intact c n s) : OutIntact c n (Machine.execMsgLifetime peer seq s) := by
  unfold Machine.execMsgLifetime
  refine Intact.next ?_
  split
  · exact h.endSend.ite h
  · exact h

end Sys2Proof.Machine
end

section
/-! What no step destroys: the functions of Machine/KeysMasks. -/

namespace Sys2Proof.Machine

open Sys2Proof

variable {c : Prop} {n : Nat} {s t : State}

theorem Intact.maskJudged {port p run} (h : Intact c n s) (hrun : ∀ u, Intact c n u → Intact c n (run u)) : Intact c n (Machine.maskJudged port p run s) :=
  h.discardMalformed.ite (hrun _ h)
theorem Intact.execSprayMaskSet {hd endpoint bits} (h : Intact c n s) : OutIntact c n (Machine.execSprayMaskSet hd endpoint bits s) :=
  h.command (fun _ hu => hu.reply.ite hu.onSvc.accept.sendPacket)
theorem Intact.execMaskSet {port p} (h : Intact c n s) : OutIntact c n (Machine.execMaskSet port p s) :=
  h.agentRow (fun _ _ hu => hu.maskJudged (fun _ hu => hu.discardStale.ite hu.onReq.sendPacket))
theorem Intact.execMaskAck {port p} (h : Intact c n s) : OutIntact c n (Machine.execMaskAck port p s) := by
  unfold Machine.execMaskAck
  refine h.agentRow (fun _ _ hu => hu.maskJudged (fun _ hu => ?_))
  split
  · exact hu.onSvc.finishEvent
  · exact hu.discardStale
theorem Intact.execMaskTimeout {endpoint} (h : Intact c n s) : OutIntact c n (Machine.execMaskTimeout endpoint s) := by
  unfold Machine.execMaskTimeout
  refine Intact.next ?_
  dsimp only
  split
  · exact h.onSvc.recordErr.finishEvent
  · exact h
theorem Intact.retireKey {tn k} (h : Intact c n s) : Intact c n (Machine.retireKey tn k s) := by
  unfold Machine.retireKey
  split <;> exact h.onReq
theorem Intact.retireKeys {tn} (h : Intact c n s) : Intact c n (Machine.retireKeys tn s) := h.foldl (fun _ _ hu => hu.retireKey)
theorem Intact.fillSlot {tn k key send} (h : Intact c n s) : Intact c n (Machine.fillSlot tn k key send s) := by
  unfold Machine.fillSlot
  dsimp only
  split
  · exact h
  · refine ((Intact.onTenant ?_).bumpEpoch).ite (Intact.onTenant ?_)
    · split
      · exact h.retireKey.onReq
      · exact h
    · split
      · exact h.retireKey.onReq
      · exact h
theorem Intact.onEx {tn peer slot f} (h : Intact c n s) : Intact c n (Machine.onEx tn peer slot f s) := h.onSec
theorem Intact.dropEx {tn peer slot} (h : Intact c n s) : Intact c n (Machine.dropEx tn peer slot s) := h.onSec
theorem Intact.sendKey {peer tenant kind frag slot xid data} (h : Intact c n s) : Intact c n (Machine.sendKey peer tenant kind frag slot xid data s) :=
  h.sendPacket
theorem Intact.sendFrags {peer tenant kind slot xid l} (h : Intact c n s) : Intact c n (Machine.sendFrags peer tenant kind slot xid l s) :=
  h.foldl (fun _ _ hu => hu.sendKey)
theorem Intact.endEx {e status result} (h : Intact c n s) : Intact c n (Machine.endEx e status result s) := by
  unfold Machine.endEx
  dsimp only
  split
  · exact h.dropEx.finishEvent
  · exact h.dropEx
theorem Intact.refuseEx {e reason} (h : Intact c n s) : Intact c n (Machine.refuseEx e reason s) := h.sendKey.endEx
theorem Intact.sendDeliver {e d key} (h : Intact c n s) : Intact c n (Machine.sendDeliver e d key s) := h.sendKey.onEx
theorem Intact.takeDeliver {e d b} (h : Intact c n s) : Intact c n (Machine.takeDeliver e d b s) := by
  unfold Machine.takeDeliver
  dsimp only
  split
  · exact h.refuseEx
  · exact h.fillSlot.sendKey.endEx
theorem Intact.advanceEx {tn peer slot} (h : Intact c n s) : Intact c n (Machine.advanceEx tn peer slot s) := by
  unfold Machine.advanceEx
  dsimp only
  split
  · exact h
  · split
    · refine h.refuseEx.ite (h.fillSlot.endEx.ite (h.refuseEx.ite ?_))
      split
      · exact h.ite h.parts.onEx.sendFrags
      · split
        · exact h.ite h.parts.onEx.sendFrags
        · split
          · exact (h.ite h.parts.onEx.sendFrags).ite ((h.ite h.parts.onEx.sendFrags).sendDeliver)
          · exact (h.ite h.parts.onEx.sendFrags).takeDeliver
          · exact h.ite h.parts.onEx.sendFrags
    · exact h
theorem Intact.sendEks {tn peer slot} (h : Intact c n s) : Intact c n (Machine.sendEks tn peer slot s) := by
  unfold Machine.sendEks
  dsimp only
  split
  · split
    · exact h.ite h.onEx.sendFrags
    · exact h
  · exact h
theorem Intact.armEx {hd tn peer slot digest send} (h : Intact c n s) : Intact c n (Machine.armEx hd tn peer slot digest send s) := by
  unfold Machine.armEx
  dsimp only
  refine ((((Intact.drawNat ?_).onEx).ite ?_).sendEks).advanceEx
  · split
    · exact h.onEx
    · exact h.onSec
  · split
    · exact h.onEx
    · exact h.onSec
theorem Intact.runKeyAgree {hd tn peer slot digest} (h : Intact c n s) : Intact c n (Machine.runKeyAgree hd tn peer slot digest s) := by
  unfold Machine.runKeyAgree
  dsimp only
  split
  · exact h.reply
  · refine (h.reply.ite ((h.retireKey.onTenant.bumpEpoch.ite h).reply)).ite ((h.reply.ite h.parts.fillSlot.reply).ite ?_)
    split
    · exact h.reply.ite h.accept.armEx
    · exact h.accept.armEx
theorem Intact.execKeyAgree {hd tenant peer slot ekDigest} (h : Intact c n s) : OutIntact c n (Machine.execKeyAgree hd tenant peer slot ekDigest s) :=
  h.command (fun _ hu => hu.runKeyAgree)
theorem Intact.takeFrag {p tn peer slot kind frag xid} (h : Intact c n s) : Intact c n (Machine.takeFrag p tn peer slot kind frag xid s) :=
  (((h.ite h.onSec).onEx).sendEks).advanceEx
theorem Intact.takeKind {port p kind e} (h : Intact c n s) : Intact c n (Machine.takeKind port p kind e s) := by
  unfold Machine.takeKind
  refine h.onEx.advanceEx.ite (Intact.ite ?_ h.endEx)
  split
  · exact h.discardStale.ite (h.fillSlot.endEx.ite h.refuseEx)
  · exact h.discardStale
theorem Intact.keyArrives {port p} (h : Intact c n s) : Intact c n (Machine.keyArrives port p s) := by
  unfold Machine.keyArrives
  dsimp only
  refine h.discardStale.ite (h.takeFrag.ite ?_)
  split
  · exact h
  · exact h.takeKind
theorem Intact.execKeyMsg {port p} (h : Intact c n s) : OutIntact c n (Machine.execKeyMsg port p s) :=
  h.agentRow (fun _ _ hu => hu.discardStale.ite (hu.discardMalformed.ite ((hu.sendKey.ite hu.discardStale).ite hu.keyArrives)))
theorem Intact.execKeyNotArmed {tenant peer slot} (h : Intact c n s) : OutIntact c n (Machine.execKeyNotArmed tenant peer slot s) := by
  unfold Machine.execKeyNotArmed
  refine Intact.next ?_
  split
  · exact h.refuseEx.ite h
  · exact h
theorem Intact.execKeyTimeout {tenant peer slot} (h : Intact c n s) : OutIntact c n (Machine.execKeyTimeout tenant peer slot s) := by
  unfold Machine.execKeyTimeout
  refine Intact.next ?_
  split
  · exact h.endEx.ite h
  · exact h

end Sys2Proof.Machine
end

section
/-! What no step destroys: the functions of Machine/QueuePairs. -/

namespace Sys2Proof.Machine

open Sys2Proof

variable {c : Prop} {n : Nat} {s t : State}

theorem Intact.execQpCreate {hd a} (h : Intact c n s) : OutIntact c n (Machine.execQpCreate hd a s) :=
  h.command (fun _ hu => hu.reply.ite hu.onQueues.reply)
theorem Intact.runQpStop {via hd op qpn} (h : Intact c n s) : Intact c n (Machine.runQpStop via hd op qpn s) := by
  unfold Machine.runQpStop
  dsimp only
  split
  · exact h.finish
  · exact h.accept.beginTrans.onQp.stopQueue
theorem Intact.execQpReset {hd qpn} (h : Intact c n s) : OutIntact c n (Machine.execQpReset hd qpn s) :=
  h.command (fun _ hu => hu.transition (fun _ hu => hu.runQpStop))
theorem Intact.execQpDestroy {hd qpn} (h : Intact c n s) : OutIntact c n (Machine.execQpDestroy hd qpn s) :=
  h.command (fun _ hu => hu.transition (fun _ hu => hu.runQpStop))
theorem Intact.runQueuedQp {i} (h : Intact c n s) : Intact c n (Machine.runQueuedQp i s) := by
  unfold Machine.runQueuedQp
  split
  · exact h.runQpStop
  · exact h.runQpStop
  · exact h
theorem Intact.stoppedQueue {op qpn} (h : Intact c n s) : Intact c n (Machine.stoppedQueue op qpn s) := h.onQueues.ite h.onQp
theorem Intact.execQpStopComplete {qpn} (h : Intact c n s) : OutIntact c n (Machine.execQpStopComplete qpn s) := by
  unfold Machine.execQpStopComplete
  refine Intact.next ?_
  split
  · exact h
  · split
    · exact (h.stoppedQueue.endTrans (fun _ _ hu => hu.runQueuedQp)).ite h
    · exact (h.endTrans (fun _ _ hu => hu.runQueuedQp)).ite (h.endTrans (fun _ _ hu => hu.runQueuedQp))
theorem Intact.execDbSqTail {qpn v} (h : Intact c n s) : OutIntact c n (Machine.execDbSqTail qpn v s) := (h.setSqTail.ite h).next
theorem Intact.execDbCqHead {qpn v} (h : Intact c n s) : OutIntact c n (Machine.execDbCqHead qpn v s) := (h.setCqHead.ite h).next

end Sys2Proof.Machine
end

section
/-! What no step destroys: the functions of Machine/Bridge. -/

namespace Sys2Proof.Machine

open Sys2Proof

variable {c : Prop} {n : Nat} {s t : State}

theorem Intact.runWindowSet {via hd w d} (h : Intact c n s) : Intact c n (Machine.runWindowSet via hd w d s) :=
  h.finish.ite (h.finish.ite h.onWindow.bumpEpoch.finish)
theorem Intact.execWindowSet {hd w d} (h : Intact c n s) : OutIntact c n (Machine.execWindowSet hd w d s) :=
  h.command (fun _ hu => hu.reply.ite (hu.transition (fun _ hu => hu.runWindowSet)))
theorem Intact.runWindowDisable {via hd w} (h : Intact c n s) : Intact c n (Machine.runWindowDisable via hd w s) :=
  h.finish.ite h.onWindow.accept.beginTrans
theorem Intact.execWindowDisable {hd w} (h : Intact c n s) : OutIntact c n (Machine.execWindowDisable hd w s) :=
  h.command (fun _ hu => hu.transition (fun _ hu => hu.runWindowDisable))
theorem Intact.runQueuedWindow {i} (h : Intact c n s) : Intact c n (Machine.runQueuedWindow i s) := by
  unfold Machine.runQueuedWindow
  split
  · exact h.runWindowSet
  · exact h.runWindowDisable
  · exact h
theorem Intact.execWindowDisableComplete {w} (h : Intact c n s) : OutIntact c n (Machine.execWindowDisableComplete w s) :=
  (h.ite (h.onHost.onWindow.bumpEpoch.endTrans (fun _ _ hu => hu.runQueuedWindow))).next
theorem Intact.execWindowRead {hd w} (h : Intact c n s) : OutIntact c n (Machine.execWindowRead hd w s) := h.command (fun _ hu => hu.reply)
theorem Intact.windowIrq {w} (h : Intact c n s) : Intact c n (Machine.windowIrq w s) := h.ite h.onHost.raiseVec
theorem Intact.failAccess {w dpa status write} (h : Intact c n s) : Intact c n (Machine.failAccess w dpa status write s) :=
  h.onWindow.ite h.onWindow.onWindow.windowIrq
theorem Intact.hostAnswer {dpa write data} (h : Intact c n s) : Intact c n (Machine.hostAnswer dpa write data s) := h.ite h.onHost
theorem Intact.hostFail {w dpa status write live} (h : Intact c n s) : Intact c n (Machine.hostFail w dpa status write live s) :=
  h.failAccess.hostAnswer.ite h.failAccess
theorem Intact.cacheFill {w tn node off data} (h : Intact c n s) : Intact c n (Machine.cacheFill w tn node off data s) := h.onHost
theorem Intact.cacheTouch {cl} (h : Intact c n s) : Intact c n (Machine.cacheTouch cl s) := h.onHost
theorem Intact.cacheUpdate {tn node off mask data} (h : Intact c n s) : Intact c n (Machine.cacheUpdate tn node off mask data s) := h.onHost
theorem Intact.hostRead {w dpa} (h : Intact c n s) : Intact c n (Machine.hostRead w dpa s) := by
  obtain ⟨wm, hw⟩ : ∃ f, f = Machine.windowMap := ⟨_, rfl⟩
  obtain ⟨sy, hy⟩ : ∃ f, f = Machine.inSync := ⟨_, rfl⟩
  rw [Machine.hostRead, ← hw, ← hy]
  dsimp only
  split
  · exact h.hostFail
  · split
    · exact h.cacheTouch.hostAnswer
    · exact (h.onReq.ite h).issue
theorem Intact.hostWrite {w dpa data be} (h : Intact c n s) : Intact c n (Machine.hostWrite w dpa data be s) := by
  unfold Machine.hostWrite
  dsimp only
  split
  · exact h.hostFail
  · exact h.cacheUpdate.issue
theorem Intact.serveHost {w r} (h : Intact c n s) : Intact c n (Machine.serveHost w r s) := h.hostWrite.ite h.hostRead
theorem Intact.drainGo {l held} (h : Intact c n s) : Intact c n (Machine.drainGo l held s) := by
  induction l generalizing held s with
  | nil => exact h
  | cons r l ih => exact (ih h.onHost).ite (ih h.serveHost)
theorem Intact.drainHost (h : Intact c n s) : Intact c n (Machine.drainHost s) := h.onHost.drainGo
theorem Intact.hostAccess {r} (h : Intact c n s) : OutIntact c n (Machine.hostAccess r s) := (h.ite h.onHost.drainHost).next
theorem Intact.execMemRd {dpa} (h : Intact c n s) : OutIntact c n (Machine.execMemRd dpa s) := h.hostAccess
theorem Intact.execMemRdData {dpa} (h : Intact c n s) : OutIntact c n (Machine.execMemRdData dpa s) := h.hostAccess
theorem Intact.execMemWr {dpa data} (h : Intact c n s) : OutIntact c n (Machine.execMemWr dpa data s) := h.hostAccess
theorem Intact.execMemWrPtl {dpa data be} (h : Intact c n s) : OutIntact c n (Machine.execMemWrPtl dpa data be s) := h.hostAccess
theorem Intact.acquireDone {w p} (h : Intact c n s) : Intact c n (Machine.acquireDone w p s) := by
  unfold Machine.acquireDone
  exact (h.onHost.barFills.ite h).onReq
theorem Intact.windowDone {w dpa write live noFill p status data} (h : Intact c n s) :
    Intact c n (Machine.windowDone w dpa write live noFill p status data s) :=
  (((h.acquireDone.ite h).hostFail).ite ((((h.acquireDone.ite h).hostAnswer).ite (h.acquireDone.ite h)).ite (((((h.acquireDone.ite h).cacheFill).ite
    (h.acquireDone.ite h)).hostAnswer).ite (((h.acquireDone.ite h).cacheFill).ite (h.acquireDone.ite h))))).drainHost

end Sys2Proof.Machine
end

section
/-! What no step destroys: the functions of Machine/Responses. -/

namespace Sys2Proof.Machine

open Sys2Proof

variable {c : Prop} {n : Nat} {s t : State}

theorem Intact.advanceQueue {qpn} (h : Intact c n s) : Intact c n (Machine.advanceQueue qpn s) := by
  unfold Machine.advanceQueue
  split
  · exact h.advanceMover
  · exact h
theorem Intact.digestLine {tn i status data} (h : Intact c n s) : Intact c n (Machine.digestLine tn i status data s) := by
  unfold Machine.digestLine
  dsimp only
  split
  · exact h
  · exact h.onSec
theorem Intact.afterRequest {r status data hit} (h : Intact c n s) : Intact c n (Machine.afterRequest r status data hit s) := by
  unfold Machine.afterRequest
  split
  · exact h.windowDone
  · exact h.jobReadDone.advanceQueue
  · exact h.jobWriteDone.advanceQueue
  · exact h.jobAtomicDone.advanceQueue
  · exact h.recordDone.advanceQueue
  · exact h.imageLine
  · exact h.digestLine
theorem Intact.dropVolatile {r} (h : Intact c n s) : Intact c n (Machine.dropVolatile r s) := h.dropLine.ite h
theorem Intact.endOne {tag r fromHome status data hit} (h : Intact c n s) : Intact c n (Machine.endOne tag r fromHome status data hit s) :=
  h.closeRequest.dropVolatile.noteUnanswered.afterRequest
theorem Intact.endBarred {k} (h : Intact c n s) : Intact c n (Machine.endBarred k s) := by
  induction k generalizing s with
  | zero => exact h
  | succ k ih =>
    unfold Machine.endBarred
    split
    · exact ih h.endOne
    · exact h
theorem Intact.endRequest {tag r fromHome status data hit} (h : Intact c n s) : Intact c n (Machine.endRequest tag r fromHome status data hit s) :=
  h.endOne.endBarred.pump.pumpDue
theorem Intact.attemptEnded {tag r fromHome status data hit} (h : Intact c n s) : Intact c n (Machine.attemptEnded tag r fromHome status data hit s) := by
  unfold Machine.attemptEnded
  split
  · exact h.endRequest
  · exact h.endRequest.ite h.onReqTag.pumpDue
theorem Intact.takeResponse {tag r p} (h : Intact c n s) : Intact c n (Machine.takeResponse tag r p s) := h.attemptEnded
theorem Intact.response {o port p} (h : Intact c n s) : OutIntact c n (Machine.response o port p s) := by
  refine OutIntact.ite .fault (Intact.next (h.ite ?_))
  dsimp only
  split
  · exact h.takeLocal.discardStale
  · exact h.takeLocal.discardUnsure
  · exact h.takeLocal.discardMalformed
  · exact h.takeLocal.planeAnswered.countStaleCmpl.discardStale
  · exact h.takeLocal.planeAnswered.takeResponse
theorem Intact.execRdData {port p} (h : Intact c n s) : OutIntact c n (Machine.execRdData port p s) := h.response
theorem Intact.execAtomicData {port p} (h : Intact c n s) : OutIntact c n (Machine.execAtomicData port p s) := h.response
theorem Intact.execCmpl {port p} (h : Intact c n s) : OutIntact c n (Machine.execCmpl port p s) := h.response
theorem Intact.lastPlaneTimedOut {r} (h : Intact c n s) : Intact c n (Machine.lastPlaneTimedOut r s) := by
  unfold Machine.lastPlaneTimedOut
  split
  · exact h.planeTimedOut.ite h
  · exact h
theorem Intact.execRequestTimeout {tag} (h : Intact c n s) : OutIntact c n (Machine.execRequestTimeout tag s) := by
  unfold Machine.execRequestTimeout
  refine Intact.next ?_
  split
  · exact h
  · exact h.ite h.lastPlaneTimedOut.attemptEnded

end Sys2Proof.Machine
end

section
/-! What no step destroys: the functions of Machine/XlatFaults. -/

namespace Sys2Proof.Machine

open Sys2Proof

variable {c : Prop} {n : Nat} {s t : State}

theorem Intact.onStreams {x page f} (h : Intact c n s) : Intact c n (Machine.onStreams x page f s) := h.onCtx
theorem Intact.failWaiting {qpn index status ecause} (h : Intact c n s) : Intact c n (Machine.failWaiting qpn index status ecause s) := by
  unfold Machine.failWaiting
  split
  · exact h.ite (h.recordFailed.ite h.onJob.failJob.advanceJob)
  · exact h.onQp
theorem Intact.failDigest {tn cause} (h : Intact c n s) : Intact c n (Machine.failDigest tn cause s) := by
  unfold Machine.failDigest
  split
  · exact h.onSec.finishEvent
  · exact h
theorem Intact.failCluster {x page cause} (h : Intact c n s) : Intact c n (Machine.failCluster x page cause s) := by
  unfold Machine.failCluster
  dsimp only
  split
  · exact h.onCtx.onOp.opFault.ite h.onCtx.programFault
  · exact h.onCtx.programFault
theorem Intact.failWaiter {page w status ecause cause} (h : Intact c n s) : Intact c n (Machine.failWaiter page w status ecause cause s) :=
  h.failDigest.ite (h.failCluster.ite h.failWaiting)
theorem Intact.setFaulting {x page v} (h : Intact c n s) : Intact c n (Machine.setFaulting x page v s) := by
  unfold Machine.setFaulting
  dsimp only
  split
  · exact h.onStreams.onOp
  · exact h.onStreams
theorem Intact.wakeWaiter {page w} (h : Intact c n s) : Intact c n (Machine.wakeWaiter page w s) := by
  unfold Machine.wakeWaiter
  refine h.ite (h.setFaulting.ite ?_)
  split
  · exact h.wakeJob.ite h
  · exact h.onQp
theorem Intact.endFault {tenant page each} (h : Intact c n s) (heach : ∀ y0 u, Intact c n u → Intact c n (each y0 u)) :
    Intact c n (Machine.endFault tenant page each s) := by
  unfold Machine.endFault
  split
  · exact h
  · exact (h.onXlat.foldl (fun _ _ hu => heach _ _ hu)).fillAll
theorem Intact.dropWaiter {tenant page w} (h : Intact c n s) : Intact c n (Machine.dropWaiter tenant page w s) := h.onXlat.fillAll
theorem Intact.timeoutWaiter {tenant page w} (h : Intact c n s) : Intact c n (Machine.timeoutWaiter tenant page w s) := (h.ite h.recordErr).failWaiter
theorem Intact.enterFault {tenant page w} (h : Intact c n s) : Intact c n (Machine.enterFault tenant page w s) := by
  unfold Machine.enterFault
  dsimp only
  split
  · exact h.timeoutWaiter
  · exact h.onXlat.ite (h.onXlat.recordErr.setSummary.ite h.onXlat.fillAll)
theorem Intact.revokedFault {w page} (h : Intact c n s) : Intact c n (Machine.revokedFault w page s) := h.onCtx.ite h.failWaiter
theorem Intact.execTranslationFault {cluster index context tenant fva access} (h : Intact c n s) :
    OutIntact c n (Machine.execTranslationFault cluster index context tenant fva access s) := by
  unfold Machine.execTranslationFault
  refine OutIntact.ite .fault (Intact.next ?_)
  dsimp only
  split
  · exact h
  · exact h.ite (h.wakeWaiter.ite (h.revokedFault.ite ((h.setFaulting.ite h).enterFault)))
theorem Intact.execFaultTimeout {cluster index context tenant fva} (h : Intact c n s) :
    OutIntact c n (Machine.execFaultTimeout cluster index context tenant fva s) := by
  refine Intact.next ?_
  dsimp only
  split
  · split
    · exact h.dropWaiter.timeoutWaiter.ite h
    · exact h
  · exact h
theorem Intact.execFaultRingSet {hd base vec timeout} (h : Intact c n s) : OutIntact c n (Machine.execFaultRingSet hd base vec timeout s) :=
  h.command (fun _ hu => hu.onXlat.fillAll.reply)
theorem Intact.execFaultResolve {hd id deny} (h : Intact c n s) : OutIntact c n (Machine.execFaultResolve hd id deny s) := by
  unfold Machine.execFaultResolve
  refine h.command (fun _ hu => ?_)
  dsimp only
  split
  · exact hu.reply
  · exact (hu.endFault (fun _ _ hu => hu.failWaiter.ite hu.wakeWaiter)).reply
theorem Intact.execDbFaultHead {v} (h : Intact c n s) : OutIntact c n (Machine.execDbFaultHead v s) := by
  unfold Machine.execDbFaultHead
  refine Intact.next ?_
  split
  · exact h.onXlat.fillAll.ite h
  · exact h
theorem Intact.execXlatRegionSet {hd base size} (h : Intact c n s) : OutIntact c n (Machine.execXlatRegionSet hd base size s) :=
  h.command (fun _ hu => hu.reply.ite hu.onXlat.reply)
theorem Intact.execXlatInfoRead {hd} (h : Intact c n s) : OutIntact c n (Machine.execXlatInfoRead hd s) := h.command (fun _ hu => hu.reply)
theorem Intact.wakePages {u} (h : Intact c n s) : Intact c n (Machine.wakePages u s) :=
  h.foldl (fun _ _ hu => hu.endFault (fun _ _ hu => hu.wakeWaiter))
theorem Intact.applyUpdates {kind l m} (h : Intact c n s) : Intact c n (Machine.applyUpdates kind l m s).2 := by
  induction l generalizing m s with
  | nil => exact h
  | cons u l ih =>
    unfold Machine.applyUpdates
    split
    · exact h
    · dsimp only
      split
      · exact h
      · exact ih (h.onXlat.wakePages.ite h.onXlat)
theorem Intact.runUpdate {via hd kind ups} (h : Intact c n s) : Intact c n (Machine.runUpdate via hd kind ups s) := h.applyUpdates.finish
theorem Intact.execXlatUpdate {hd kind ups} (h : Intact c n s) : OutIntact c n (Machine.execXlatUpdate hd kind ups s) :=
  h.command (fun _ hu => hu.reply.ite (hu.transitions (fun _ hu => hu.runUpdate)))
theorem Intact.removeRange {kind tn a num} (h : Intact c n s) : Intact c n (Machine.removeRange kind tn a num s) := h.onXlat
theorem Intact.pinRange {tn a num} (h : Intact c n s) : Intact c n (Machine.pinRange tn a num s) := h.onXlat.foldl (fun _ _ hu => hu.onCluster)
theorem Intact.runInvalidate {via hd kind tn a num} (h : Intact c n s) : Intact c n (Machine.runInvalidate via hd kind tn a num s) :=
  h.finish.ite ((((h.pinRange.ite h).removeRange).accept).beginTrans)
theorem Intact.execXlatInvalidate {hd kind tenant addr len} (h : Intact c n s) : OutIntact c n (Machine.execXlatInvalidate hd kind tenant addr len s) :=
  h.command (fun _ hu => hu.transitions (fun _ hu => hu.runInvalidate))
theorem Intact.runQueuedXlat {i} (h : Intact c n s) : Intact c n (Machine.runQueuedXlat i s) := by
  unfold Machine.runQueuedXlat
  refine h.ite ?_
  split
  · exact h.runUpdate
  · exact h.runInvalidate
  · exact h
theorem Intact.dropInval {tn a num} (h : Intact c n s) : Intact c n (Machine.dropInval tn a num s) := h.onXlat
theorem Intact.execXlatInvalidateComplete {kind tenant addr len} (h : Intact c n s) :
    OutIntact c n (Machine.execXlatInvalidateComplete kind tenant addr len s) := by
  unfold Machine.execXlatInvalidateComplete
  refine Intact.next ?_
  split
  · exact ((h.dropInval.ite h).endTrans (fun _ _ hu => hu.runQueuedXlat)).ite h
  · exact h

end Sys2Proof.Machine
end

section
/-! What no step destroys: the functions of Machine/Tenants. -/

namespace Sys2Proof.Machine

open Sys2Proof

variable {c : Prop} {n : Nat} {s t : State}

theorem Intact.execCoarseningSnapshot (h : Intact c n s) : OutIntact c n (Machine.execCoarseningSnapshot s) := (h.settleSnapshot.ite h).next
theorem Intact.closeDebug (h : Intact c n s) : Intact c n (Machine.closeDebug s) := by
  unfold Machine.closeDebug
  exact (h.bumpEpoch.ite h).onSec
theorem Intact.createTenant {tn conf} (h : Intact c n s) : Intact c n (Machine.createTenant tn conf s) :=
  ((((((h.takeSnapshot.ite h).closeDebug).ite (h.takeSnapshot.ite h)).onSec).newPeriod).parts).bumpEpoch
theorem Intact.execTenantCreate {hd tenant conf} (h : Intact c n s) : OutIntact c n (Machine.execTenantCreate hd tenant conf s) :=
  h.command (fun _ hu => hu.reply.ite hu.createTenant.reply)
theorem Intact.failLoads {tn} (h : Intact c n s) : Intact c n (Machine.failLoads tn s) := h.foldl (fun _ _ hu => hu.onReed.reply)
theorem Intact.enterRevoking {tn fence} (h : Intact c n s) : Intact c n (Machine.enterRevoking tn fence s) :=
  (((h.onTenant.bumpEpoch.foldl (fun _ _ hu => hu.refuseEx)).onSec).failLoads).foldl (fun _ _ hu => hu.finishEvent)
theorem Intact.dropHeld {tn} (h : Intact c n s) : Intact c n (Machine.dropHeld tn s) :=
  h.foldl (fun _ _ hu => hu.onWin.foldl (fun _ _ hu => hu.noteEarly.answerCmpl))
theorem Intact.abortOps {tn} (h : Intact c n s) : Intact c n (Machine.abortOps tn s) := h.foldl (fun _ _ hu => hu.originate.ite hu)
theorem Intact.stopStreams {tn} (h : Intact c n s) : Intact c n (Machine.stopStreams tn s) := h.parts.foldl (fun _ _ hu => hu.onCluster)
theorem Intact.failFaults {tn} (h : Intact c n s) : Intact c n (Machine.failFaults tn s) :=
  (h.foldl (fun _ _ hu => hu.endFault (fun _ _ hu => hu))).foldl (fun _ _ hu => hu.failWaiting)
theorem Intact.stopQueues {tn} (h : Intact c n s) : Intact c n (Machine.stopQueues tn s) := h.foldl (fun _ _ hu => hu.onQp.stopQueue)
theorem Intact.dropCached {tn} (h : Intact c n s) : Intact c n (Machine.dropCached tn s) := h.onHost
theorem Intact.runRevoke {via hd tn fence} (h : Intact c n s) : Intact c n (Machine.runRevoke via hd tn fence s) :=
  h.finish.ite h.accept.beginTrans.enterRevoking.dropHeld.abortOps.stopStreams.failFaults.stopQueues.dropCached.wakeComputes
theorem Intact.execTenantRevoke {hd tenant fence} (h : Intact c n s) : OutIntact c n (Machine.execTenantRevoke hd tenant fence s) :=
  h.command (fun _ hu => hu.transition (fun _ hu => hu.runRevoke))
theorem Intact.runQueuedTenant {i} (h : Intact c n s) : Intact c n (Machine.runQueuedTenant i s) := by
  unfold Machine.runQueuedTenant
  split
  · exact h.runRevoke
  · exact h
theorem Intact.eraseTenant {tn} (h : Intact c n s) : Intact c n (Machine.eraseTenant tn s) :=
  ((((h.onQueues.onXlat.foldl (fun _ _ hu => hu.foldl (fun _ _ hu => hu.zeroCluster))).onReed).retireKeys).onTenant).bumpEpoch
theorem Intact.endRequests {tn} (h : Intact c n s) : Intact c n (Machine.endRequests tn s) :=
  ((h.foldl (fun _ _ hu => hu.endRequest)).onReq).foldl (fun _ _ hu => hu.afterRequest)
theorem Intact.execDrainFenceEnd {tenant} (h : Intact c n s) : OutIntact c n (Machine.execDrainFenceEnd tenant s) := by
  unfold Machine.execDrainFenceEnd
  refine Intact.next ?_
  split
  · split
    · exact h.eraseTenant.endRequests.ite h
    · exact h
  · exact h
theorem Intact.zeroFrames {frames} (h : Intact c n s) : Intact c n (Machine.zeroFrames frames s) :=
  h.onHome fun _ hw => List.foldlRecOn (motive := fun m => memWf m = true) _ _ hw fun _ hm _ _ => memZero_wf _ _ _ hm
theorem Intact.execRevocationComplete {tenant} (h : Intact c n s) : OutIntact c n (Machine.execRevocationComplete tenant s) := by
  unfold Machine.execRevocationComplete
  refine Intact.next ?_
  dsimp only
  split
  · split
    · exact h.ite (h.zeroFrames.onSec.newPeriod.bumpEpoch.endTrans (fun _ _ hu => hu.runQueuedTenant))
    · exact h
  · exact h

end Sys2Proof.Machine
end

section
/-! What no step destroys: the functions of Machine/Attest. -/

namespace Sys2Proof.Machine

open Sys2Proof

variable {c : Prop} {n : Nat} {s t : State}

theorem Intact.runReport {hd kind nonce offset tail} (h : Intact c n s) : Intact c n (Machine.runReport hd kind nonce offset tail s) := by
  unfold Machine.runReport
  refine ((h.onBox id).reply).ite ?_
  split
  · exact h.reply
  · exact h
theorem Intact.execAttestService {hd nonce tenant offset} (h : Intact c n s) : OutIntact c n (Machine.execAttestService hd nonce tenant offset s) :=
  h.command (fun _ hu => hu.runReport)
theorem Intact.execAttestFoundation {hd nonce offset} (h : Intact c n s) : OutIntact c n (Machine.execAttestFoundation hd nonce offset s) :=
  h.command (fun _ hu => hu.runReport)
theorem Intact.execCertChainRead {hd offset} (h : Intact c n s) : OutIntact c n (Machine.execCertChainRead hd offset s) :=
  h.command (fun _ hu => hu.reply)
theorem Intact.execRegionDigest {hd tenant fva len} (h : Intact c n s) : OutIntact c n (Machine.execRegionDigest hd tenant fva len s) :=
  h.command (fun _ hu => hu.onSec.accept)
theorem Intact.regionLine {d i fva} (h : Intact c n s) : Intact c n (Machine.regionLine d i fva s).2 := by
  unfold Machine.regionLine
  dsimp only
  split
  · exact h
  · exact h
  · exact h
  · split
    · exact h
    · split
      · exact h
      · split
        · exact h.eccCheck
        · exact h.eccCheck.hbmLine
theorem Intact.regionRead {d} (h : Intact c n s) : Intact c n (Machine.regionRead d s).2 := by
  refine Intact.foldl_snd h fun u x hu => ?_
  split
  · dsimp only
    split <;> exact hu.regionLine
  · exact hu
theorem Intact.readFar {d far} (h : Intact c n s) : Intact c n (Machine.readFar d far s) := h.onSec.foldl (fun _ _ hu => hu.issue)
theorem Intact.keepRegion {tn r} (h : Intact c n s) : Intact c n (Machine.keepRegion tn r s) := h.onTenant
theorem Intact.execRegionDigestComplete {tenant} (h : Intact c n s) : OutIntact c n (Machine.execRegionDigestComplete tenant s) := by
  unfold Machine.execRegionDigestComplete
  refine Intact.next ?_
  dsimp only
  split
  · exact h
  · refine h.ite ?_
    split
    · exact h.enterFault
    · refine (Intact.onSec ?_).finishEvent
      split
      · exact h
      · exact h.regionRead
    · refine h.readFar.ite (((Intact.onSec ?_).keepRegion).finishEvent)
      split
      · exact h
      · exact h.regionRead

end Sys2Proof.Machine
end

section
/-! What no step destroys: the functions of Machine/CxlHost. -/

namespace Sys2Proof.Machine

open Sys2Proof

variable {c : Prop} {n : Nat} {s t : State}

theorem Intact.deviceSignal (h : Intact c n s) : Intact c n (Machine.deviceSignal s) := h.raiseVec.ite h
theorem Intact.deviceCommand {out f} (h : Intact c n s) : OutIntact c n (Machine.deviceCommand out f s) := (h.onHost.deviceSignal.ite h).next
theorem Intact.deviceUnsupported (h : Intact c n s) : Intact c n (Machine.deviceUnsupported s) := h.onHost.deviceSignal
theorem Intact.execGetEventRecords {severity} (h : Intact c n s) : OutIntact c n (Machine.execGetEventRecords severity s) := h.deviceCommand
theorem Intact.execClearEventRecords {severity handles} (h : Intact c n s) : OutIntact c n (Machine.execClearEventRecords severity handles s) :=
  h.deviceCommand
theorem Intact.execGetEventInterruptPolicy (h : Intact c n s) : OutIntact c n (Machine.execGetEventInterruptPolicy s) := h.deviceCommand
theorem Intact.execSetEventInterruptPolicy {settings} (h : Intact c n s) : OutIntact c n (Machine.execSetEventInterruptPolicy settings s) :=
  h.deviceCommand
theorem Intact.execGetSupportedLogs (h : Intact c n s) : OutIntact c n (Machine.execGetSupportedLogs s) := h.deviceCommand
theorem Intact.execGetLog {offset len} (h : Intact c n s) : OutIntact c n (Machine.execGetLog offset len s) := h.deviceCommand
theorem Intact.execIdentifyMemoryDevice (h : Intact c n s) : OutIntact c n (Machine.execIdentifyMemoryDevice s) := h.deviceCommand
theorem Intact.execGetHealthInfo (h : Intact c n s) : OutIntact c n (Machine.execGetHealthInfo s) := by
  unfold Machine.execGetHealthInfo
  exact h.drawNat.deviceCommand
/-- The next state of an outcome, or the state before. -/
theorem Intact.orSame {o} (h : Intact c n s) (ho : OutIntact c n o) : Intact c n (Machine.orSame s o) := by
  unfold Machine.orSame
  split
  · exact ho _ rfl
  · exact h

theorem Intact.deviceSubmit (h : Intact c n s) : Intact c n (Machine.deviceSubmit s) := by
  unfold Machine.deviceSubmit
  dsimp only
  split
  · exact h.orSame h.execGetEventRecords
  · exact h.orSame h.execClearEventRecords
  · exact h.orSame h.execGetEventInterruptPolicy
  · exact h.orSame h.execSetEventInterruptPolicy
  · exact h.orSame h.execGetSupportedLogs
  · exact h.orSame h.execGetLog
  · exact h.orSame h.execIdentifyMemoryDevice
  · exact h.orSame h.execGetHealthInfo
  · exact h.deviceUnsupported
theorem Intact.cxlWrite {o v} (h : Intact c n s) : Intact c n (Machine.cxlWrite o v s) := h.onHost.deviceSubmit.ite h.onHost
theorem Intact.execHdmDecoderCommit {dec base size ways lock} (h : Intact c n s) : OutIntact c n (Machine.execHdmDecoderCommit dec base size ways lock s) :=
  OutIntact.ite .fault ((h.ite (h.ite h.onHost)).next)
theorem Intact.execMemSpecRd {dpa} (h : Intact c n s) : OutIntact c n (Machine.execMemSpecRd dpa s) := h.next
theorem Intact.execMemInv {dpa} (h : Intact c n s) : OutIntact c n (Machine.execMemInv dpa s) := (h.hostAnswer.ite h).next
theorem Intact.execMemInvNt {dpa} (h : Intact c n s) : OutIntact c n (Machine.execMemInvNt dpa s) := (h.hostAnswer.ite h).next
theorem Intact.resetLink (h : Intact c n s) : Intact c n (Machine.resetLink s) := by
  unfold Machine.resetLink
  exact h.onHost.onReq.onXlat
theorem Intact.execCxlHotReset (h : Intact c n s) : OutIntact c n (Machine.execCxlHotReset s) := (h.resetLink.ite h).next
theorem Intact.execPerstAssert (h : Intact c n s) : OutIntact c n (Machine.execPerstAssert s) := (h.onHost.resetLink.ite h.onHost).next
theorem Intact.execPerstRelease (h : Intact c n s) : OutIntact c n (Machine.execPerstRelease s) := h.onHost.next
theorem Intact.execCxlLinkUp (h : Intact c n s) : OutIntact c n (Machine.execCxlLinkUp s) := (h.drawNat.drawNat.onHost.ite h).next
theorem Intact.execIdeFail {stream} (h : Intact c n s) : OutIntact c n (Machine.execIdeFail stream s) := (h.onHost.recordErr.setSummary.ite h).next
theorem Intact.sendPending (h : Intact c n s) : Intact c n (Machine.sendPending s) := h.ite h.onHost
theorem Intact.keyStream {stream} (h : Intact c n s) : Intact c n (Machine.keyStream stream s) := h.parts.onHost.sendPending.fillAll
theorem Intact.endStream {stream} (h : Intact c n s) : Intact c n (Machine.endStream stream s) := h.ite h.onHost
theorem Intact.execIdeKmMessage {stream session start} (h : Intact c n s) : OutIntact c n (Machine.execIdeKmMessage stream session start s) :=
  ((h.keyStream.ite h.endStream).ite h).next
theorem Intact.execIdeSessionOpen {hd hostEk ct} (h : Intact c n s) : OutIntact c n (Machine.execIdeSessionOpen hd hostEk ct s) :=
  h.command (fun _ hu => hu.reply.ite hu.onHost.accept)
theorem Intact.execIdeSessionComplete (h : Intact c n s) : OutIntact c n (Machine.execIdeSessionComplete s) := by
  unfold Machine.execIdeSessionComplete
  refine Intact.next ?_
  dsimp only
  split
  · exact h
  · exact h.ite h.parts.onHost.finishEvent

end Sys2Proof.Machine
end

section
/-! What no step destroys: the functions of Machine/Instrs. -/

namespace Sys2Proof.Machine

open Sys2Proof

variable {c : Prop} {n : Nat} {s t : State}

theorem Intact.setV {x r v} (h : Intact c n s) : Intact c n (Machine.setV x r v s) := h.onCtx
theorem Intact.goto {x pc} (h : Intact c n s) : Intact c n (Machine.goto x pc s) := h.onCtx
theorem Intact.nextPc {x} (h : Intact c n s) : Intact c n (Machine.nextPc x s) := h.goto
theorem Intact.endMark {x} (h : Intact c n s) : Intact c n (Machine.endMark x s) := h.ite h.onPwr.onCtx.settlePhase
theorem Intact.fetched {x} (h : Intact c n s) : Intact c n (Machine.fetched x s) := h.recordCorrected.ite h
theorem Intact.instruction {row x ecc ends run} (h : Intact c n s) (hrun : ∀ y0 u, Intact c n u → Intact c n (run y0 u)) :
    OutIntact c n (Machine.instruction row x ecc ends run s) := by
  unfold Machine.instruction
  refine OutIntact.ite .fault ((h.ite (h.programFault.ite ?_)).next)
  split
  · exact h.fetched.programFault
  · exact (hrun _ _ (h.fetched.endMark.ite h.fetched)).ite h
theorem Intact.checked {x bad run} (h : Intact c n s) (hrun : ∀ u, Intact c n u → Intact c n (run u)) : Intact c n (Machine.checked x bad run s) :=
  h.programFault.ite (hrun _ h)
theorem Intact.scalar {row op x f} (h : Intact c n s) : OutIntact c n (Machine.scalar row op x f s) :=
  h.instruction (fun _ _ hu => hu.checked (fun _ hu => hu.setS.nextPc))
theorem Intact.execAdd {x f} (h : Intact c n s) : OutIntact c n (Machine.execAdd x f s) := h.scalar
theorem Intact.execSub {x f} (h : Intact c n s) : OutIntact c n (Machine.execSub x f s) := h.scalar
theorem Intact.execMul {x f} (h : Intact c n s) : OutIntact c n (Machine.execMul x f s) := h.scalar
theorem Intact.execAnd {x f} (h : Intact c n s) : OutIntact c n (Machine.execAnd x f s) := h.scalar
theorem Intact.execOr {x f} (h : Intact c n s) : OutIntact c n (Machine.execOr x f s) := h.scalar
theorem Intact.execXor {x f} (h : Intact c n s) : OutIntact c n (Machine.execXor x f s) := h.scalar
theorem Intact.shift {row op x f} (h : Intact c n s) : OutIntact c n (Machine.shift row op x f s) :=
  h.instruction (fun _ _ hu => hu.checked (fun _ hu => hu.setS.nextPc.ite hu.drawNat.setS.nextPc))
theorem Intact.execShl {x f} (h : Intact c n s) : OutIntact c n (Machine.execShl x f s) := h.shift
theorem Intact.execShr {x f} (h : Intact c n s) : OutIntact c n (Machine.execShr x f s) := h.shift
theorem Intact.execSra {x f} (h : Intact c n s) : OutIntact c n (Machine.execSra x f s) := h.shift
theorem Intact.execAddi {x f} (h : Intact c n s) : OutIntact c n (Machine.execAddi x f s) := h.instruction (fun _ _ hu => hu.setS.nextPc)
theorem Intact.scratchPut {x a b} (h : Intact c n s) : Intact c n (Machine.scratchPut x a b s) := h.onCluster
theorem Intact.work {x cl a num run} (h : Intact c n s) (hrun : ∀ u, Intact c n u → Intact c n (run u)) : Intact c n (Machine.work x cl a num run s) :=
  (hrun _ h).ite h.programFault
theorem Intact.scanned {x ecc a run} (h : Intact c n s) (hrun : ∀ u, Intact c n u → Intact c n (run u)) : Intact c n (Machine.scanned x ecc a run s) := by
  unfold Machine.scanned
  split
  · exact h.recordErr.dataLost
  · exact hrun _ h.recordCorrected
  · exact hrun _ h
  · exact hrun _ h
theorem Intact.workRead {x cl a num ecc run} (h : Intact c n s) (hrun : ∀ y0 u, Intact c n u → Intact c n (run y0 u)) :
    Intact c n (Machine.workRead x cl a num ecc run s) :=
  h.work (fun _ hu => hu.scanned (fun _ hu => hrun _ _ hu))
theorem Intact.execLd {x f ecc} (h : Intact c n s) : OutIntact c n (Machine.execLd x f ecc s) :=
  h.instruction (fun _ _ hu => hu.workRead (fun _ _ hu => hu.setS.nextPc))
theorem Intact.execSt {x f} (h : Intact c n s) : OutIntact c n (Machine.execSt x f s) :=
  h.instruction (fun _ _ hu => hu.work (fun _ hu => hu.scratchPut.nextPc))
theorem Intact.branch {row test x f} (h : Intact c n s) : OutIntact c n (Machine.branch row test x f s) :=
  h.instruction (fun _ _ hu => hu.goto.ite hu.nextPc)
theorem Intact.execBeq {x f} (h : Intact c n s) : OutIntact c n (Machine.execBeq x f s) := h.branch
theorem Intact.execBne {x f} (h : Intact c n s) : OutIntact c n (Machine.execBne x f s) := h.branch
theorem Intact.execBlt {x f} (h : Intact c n s) : OutIntact c n (Machine.execBlt x f s) := h.branch
theorem Intact.execLoop {x f} (h : Intact c n s) : OutIntact c n (Machine.execLoop x f s) := h.instruction (fun _ _ hu => hu.goto.ite hu.onCtx)
theorem Intact.haltCtx {x cl} (h : Intact c n s) : Intact c n (Machine.haltCtx x cl s) := by
  unfold Machine.haltCtx
  dsimp only
  split
  · exact h.onCtx.settlePhase.endCompute.ite h.onCtx.settlePhase
  · exact h.onCtx.settlePhase
theorem Intact.execHalt {x f} (h : Intact c n s) : OutIntact c n (Machine.execHalt x f s) := h.instruction (fun _ _ hu => hu.haltCtx)
theorem Intact.execFault {x f} (h : Intact c n s) : OutIntact c n (Machine.execFault x f s) := h.instruction (fun _ _ hu => hu.programFault)
theorem Intact.execVld {x f ecc} (h : Intact c n s) : OutIntact c n (Machine.execVld x f ecc s) :=
  h.instruction (fun _ _ hu => hu.checked (fun _ hu => hu.workRead (fun _ _ hu => hu.setV.nextPc)))
theorem Intact.execVst {x f} (h : Intact c n s) : OutIntact c n (Machine.execVst x f s) :=
  h.instruction (fun _ _ hu => hu.checked (fun _ hu => hu.work (fun _ hu => hu.scratchPut.nextPc)))
theorem Intact.vector {row op x f} (h : Intact c n s) : OutIntact c n (Machine.vector row op x f s) :=
  h.instruction (fun _ _ hu => hu.checked (fun _ hu => hu.setV.nextPc))
theorem Intact.execVadd {x f} (h : Intact c n s) : OutIntact c n (Machine.execVadd x f s) := h.vector
theorem Intact.execVsub {x f} (h : Intact c n s) : OutIntact c n (Machine.execVsub x f s) := h.vector
theorem Intact.execVmul {x f} (h : Intact c n s) : OutIntact c n (Machine.execVmul x f s) := h.vector
theorem Intact.execVmax {x f} (h : Intact c n s) : OutIntact c n (Machine.execVmax x f s) := h.vector
theorem Intact.execVmin {x f} (h : Intact c n s) : OutIntact c n (Machine.execVmin x f s) := h.vector
theorem Intact.execVfma {x f} (h : Intact c n s) : OutIntact c n (Machine.execVfma x f s) := h.vector
theorem Intact.execVdiv {x f} (h : Intact c n s) : OutIntact c n (Machine.execVdiv x f s) := h.vector
theorem Intact.execVsqrt {x f} (h : Intact c n s) : OutIntact c n (Machine.execVsqrt x f s) := h.vector
theorem Intact.execVsgn {x f} (h : Intact c n s) : OutIntact c n (Machine.execVsgn x f s) := h.vector
theorem Intact.execVsel {x f} (h : Intact c n s) : OutIntact c n (Machine.execVsel x f s) := h.vector
theorem Intact.countLanes {cl gradient cls} (h : Intact c n s) : Intact c n (Machine.countLanes cl gradient cls s) := by
  unfold Machine.countLanes
  split
  · exact h.onOp
  · exact h
theorem Intact.execVcvt {x f} (h : Intact c n s) : OutIntact c n (Machine.execVcvt x f s) :=
  h.instruction (fun _ _ hu => hu.checked (fun _ hu => hu.setV.nextPc.countLanes))
theorem Intact.execVblk {x f} (h : Intact c n s) : OutIntact c n (Machine.execVblk x f s) :=
  h.instruction (fun _ _ hu => hu.checked (fun _ hu => hu.setV.setV.nextPc.countLanes))
theorem Intact.slots {x cl a num run} (h : Intact c n s) (hrun : ∀ u, Intact c n u → Intact c n (run u)) : Intact c n (Machine.slots x cl a num run s) :=
  (hrun _ h).ite h.programFault
theorem Intact.putAccs {x cl a l} (h : Intact c n s) : Intact c n (Machine.putAccs x cl a l s) := h.scratchPut.programFault.ite h.scratchPut.nextPc
theorem Intact.execXclr {x f} (h : Intact c n s) : OutIntact c n (Machine.execXclr x f s) :=
  h.instruction (fun _ _ hu => hu.slots (fun _ hu => hu.putAccs))
theorem Intact.addSlots {x ecc cl a vs} (h : Intact c n s) : Intact c n (Machine.addSlots x ecc cl a vs s) :=
  h.slots (fun _ hu => hu.scanned (fun _ hu => hu.putAccs))
theorem Intact.execXadd {x f} (h : Intact c n s) : OutIntact c n (Machine.execXadd x f s) :=
  h.instruction (fun _ _ hu => hu.checked (fun _ hu => hu.addSlots))
theorem Intact.execXrnd {x f} (h : Intact c n s) : OutIntact c n (Machine.execXrnd x f s) :=
  h.instruction (fun _ _ hu => hu.checked (fun _ hu => hu.slots (fun _ hu => hu.scanned (fun _ hu => hu.setV.nextPc.countLanes))))
theorem Intact.execXhad {x f} (h : Intact c n s) : OutIntact c n (Machine.execXhad x f s) :=
  h.instruction (fun _ _ hu => hu.slots (fun _ hu => hu.scanned (fun _ hu => hu.putAccs)))
theorem Intact.execMmul {x f} (h : Intact c n s) : OutIntact c n (Machine.execMmul x f s) :=
  h.instruction (fun _ _ hu => hu.checked (fun _ hu => hu.work (fun _ hu => hu.work (fun _ hu => hu.work (fun _ hu => hu.scanned (fun _ hu =>
    hu.scratchPut.nextPc))))))
theorem Intact.execMscl {x f} (h : Intact c n s) : OutIntact c n (Machine.execMscl x f s) :=
  h.instruction (fun _ _ hu => hu.checked (fun _ hu => hu.work (fun _ hu => hu.work (fun _ hu => hu.addSlots))))
theorem Intact.execHrot {x f} (h : Intact c n s) : OutIntact c n (Machine.execHrot x f s) :=
  h.instruction (fun _ _ hu => hu.checked (fun _ hu => hu.work (fun _ hu => hu.work (fun _ hu => hu.scanned (fun _ hu => hu.scratchPut.nextPc)))))
theorem Intact.startStream {x f hst cl} (h : Intact c n s) : Intact c n (Machine.startStream x f hst cl s) := by
  unfold Machine.startStream
  dsimp only
  refine h.work (fun _ hu => ?_)
  split
  · exact hu.programFault
  · exact hu.streamMalformed
  · exact hu.onCtx.nextPc
theorem Intact.streamEcc {x fva ecc} (h : Intact c n s) : Intact c n (Machine.streamEcc x fva ecc s).2 := by
  unfold Machine.streamEcc
  split
  · exact h.eccCheck
  · exact h
theorem Intact.execHld {x f ecc} (h : Intact c n s) : OutIntact c n (Machine.execHld x f ecc s) :=
  h.instruction (fun _ _ hu => hu.checked (fun _ hu => hu.streamEcc.startStream.ite hu.streamEcc.dataLost))
theorem Intact.execHst {x f} (h : Intact c n s) : OutIntact c n (Machine.execHst x f s) :=
  h.instruction (fun _ _ hu => hu.checked (fun _ hu => hu.scanned (fun _ hu => hu.startStream)))
theorem Intact.waitWhile {x busy w} (h : Intact c n s) : Intact c n (Machine.waitWhile x busy w s) := (h.onCtx.ite h).nextPc
theorem Intact.execWaitt {x f} (h : Intact c n s) : OutIntact c n (Machine.execWaitt x f s) :=
  h.instruction (fun _ _ hu => hu.checked (fun _ hu => hu.waitWhile))
theorem Intact.execFence {x f} (h : Intact c n s) : OutIntact c n (Machine.execFence x f s) :=
  h.instruction (fun _ _ hu => hu.checked (fun _ hu => hu.waitWhile))
theorem Intact.execWaitc {x f} (h : Intact c n s) : OutIntact c n (Machine.execWaitc x f s) := by
  unfold Machine.execWaitc
  refine h.instruction (fun _ _ hu => hu.checked (fun _ hu => ?_))
  dsimp only
  split
  · split
    · exact hu.chunkStall.onCtx.nextPc
    · exact (((hu.takeChunk _ ‹_›).scratchCheck).nextPc).ite (((hu.takeChunk _ ‹_›).scratchCheck).dataLost)
  · exact hu.programFault
theorem Intact.emitInto {g cl op pays} (h : Intact c n s) : Intact c n (Machine.emitInto g cl op pays s) := h.onChunk
theorem Intact.execEmit {x f} (h : Intact c n s) : OutIntact c n (Machine.execEmit x f s) := by
  unfold Machine.execEmit
  refine h.instruction (fun _ _ hu => hu.checked (fun _ hu => ?_))
  dsimp only
  split
  · refine hu.workRead (fun _ _ hu => ?_)
    split
    · exact hu.nextPc.ite hu.emitInto.injectChunk.waitWhile
    · exact hu.nextPc
  · exact hu.programFault
theorem Intact.execIdle {x f} (h : Intact c n s) : OutIntact c n (Machine.execIdle x f s) := h.instruction (fun _ _ hu => hu.onCtx.nextPc.settlePhase)
theorem Intact.execIdleMarkEnd {x} (h : Intact c n s) : OutIntact c n (Machine.execIdleMarkEnd x s) :=
  OutIntact.ite .fault ((h.onCtx.settlePhase.ite h).next)
theorem Intact.wakeStream {x} (h : Intact c n s) : Intact c n (Machine.wakeStream x s) := h.onCtx
theorem Intact.finishStream {x tn} (h : Intact c n s) : Intact c n (Machine.finishStream x tn s) :=
  (h.onCtx.touchCluster.streamWrite.wakeStream.ite h.onCtx.touchCluster.streamWrite.dataLost).ite
    (h.onCtx.touchCluster.streamRead.scratchPut.wakeStream.ite h.onCtx.touchCluster.streamRead.dataLost)
theorem Intact.settleStopped {x} (h : Intact c n s) : Intact c n (Machine.settleStopped x s) := by
  unfold Machine.settleStopped
  split
  · exact h.endStopped.advanceJob
  · exact h
theorem Intact.execStreamComplete {x tag} (h : Intact c n s) : OutIntact c n (Machine.execStreamComplete x tag s) := by
  unfold Machine.execStreamComplete
  refine OutIntact.ite .fault (Intact.next ?_)
  split
  · exact h
  · refine h.ite ?_
    split
    · exact h.onCtx.programFault
    · exact h.onCtx.streamMalformed
    · exact h
    · exact h.finishStream.settleStopped

end Sys2Proof.Machine
end

section
/-! What no step destroys: the functions of Machine/Service. -/

namespace Sys2Proof.Machine

open Sys2Proof

variable {c : Prop} {n : Nat} {s t : State}

theorem Intact.clusterReset {cl} (h : Intact c n s) : Intact c n (Machine.clusterReset cl s) :=
  (((h.foldl (fun _ _ hu => hu.programFault)).zeroCluster).onCluster).wakeComputes
theorem Intact.moverReset {m} (h : Intact c n s) : Intact c n (Machine.moverReset m s) :=
  (h.onQueues.foldl (fun _ _ hu => hu.endStopped.advanceJob)).settleWaiters
theorem Intact.runUnitReset {via hd kind index} (h : Intact c n s) : Intact c n (Machine.runUnitReset via hd kind index s) :=
  h.bumpEpoch.accept.beginTrans.clusterReset.ite (h.bumpEpoch.accept.beginTrans.moverReset.ite h.bumpEpoch.accept.beginTrans.onSvc)
theorem Intact.runQueuedUnit {i} (h : Intact c n s) : Intact c n (Machine.runQueuedUnit i s) := by
  unfold Machine.runQueuedUnit
  split
  · exact h.runUnitReset
  · exact h
theorem Intact.execUnitReset {hd kind index} (h : Intact c n s) : OutIntact c n (Machine.execUnitReset hd kind index s) :=
  h.command (fun _ hu => (hu.transition (fun _ hu => hu.runPortReset)).ite (hu.transition (fun _ hu => hu.runUnitReset)))
theorem Intact.portResetEnd {p ok} (h : Intact c n s) : Intact c n (Machine.portResetEnd p ok s) := by
  unfold Machine.portResetEnd
  split
  · exact h
  · exact h.ite (h.bumpEpoch.endTrans (fun _ _ hu => hu.runQueuedPort))
theorem Intact.otherResetEnd {kind index ok} (h : Intact c n s) : Intact c n (Machine.otherResetEnd kind index ok s) := by
  unfold Machine.otherResetEnd
  dsimp only
  split
  · exact h
  · exact (h.onCluster.endTrans (fun _ _ hu => hu.runQueuedUnit)).ite ((((h.onQueues.bumpEpoch.endTrans (fun _ _ hu => hu.runQueuedUnit)).advanceMover).ite
      h).ite ((h.onSvc.bumpEpoch.endTrans (fun _ _ hu => hu.runQueuedUnit)).ite (((h.onSvc.bumpEpoch.onHome (fun _ => id)).recordErr).endTrans (fun _ _ hu
          => hu.runQueuedUnit))))
theorem Intact.execUnitResetEnd {kind index ok} (h : Intact c n s) : OutIntact c n (Machine.execUnitResetEnd kind index ok s) :=
  OutIntact.ite .fault ((h.ite (h.portResetEnd.ite h.otherResetEnd)).next)
theorem Intact.execClusterReload {cluster} (h : Intact c n s) : OutIntact c n (Machine.execClusterReload cluster s) :=
  OutIntact.ite .fault ((h.ite h.onCluster.bumpEpoch.wakeComputes).next)
theorem Intact.redirect {f spare} (h : Intact c n s) : Intact c n (Machine.redirect f spare s) := h.onXlat
theorem Intact.copyLine {key f spare bad i} (h : Intact c n s) : Intact c n (Machine.copyLine key f spare bad i s) := by
  refine Intact.copyChecked ?_
  split
  · exact h
  · split
    · exact h.damagedAt
    · exact h
theorem Intact.copyFrame {key f spare bad} (h : Intact c n s) : Intact c n (Machine.copyFrame key f spare bad s) :=
  h.foldl (fun _ _ hu => hu.copyLine)
theorem Intact.retiredResult {f} (h : Intact c n s) : Intact c n (Machine.retiredResult f s).2 := by
  unfold Machine.retiredResult
  dsimp only
  split
  · exact h
  · exact h.drawNat.drawBytes
theorem Intact.replyRetired {hd f} (h : Intact c n s) : Intact c n (Machine.replyRetired hd f s) := h.retiredResult.reply
theorem Intact.moveFrame {i hd key f bad} (h : Intact c n s) : Intact c n (Machine.moveFrame i hd key f bad s) := by
  unfold Machine.moveFrame
  split
  · exact h.reply
  · exact h.awaitHbm.ite h.copyFrame.takeSpare.redirect.listRetired.replyRetired
theorem Intact.runRetire {i hd f bad} (h : Intact c n s) : Intact c n (Machine.runRetire i hd f bad s) := by
  unfold Machine.runRetire
  refine h.replyRetired.ite (h.reply.ite (h.reply.ite ?_))
  split
  · exact h.moveFrame
  · exact h.moveFrame.ite h.listRetired.replyRetired
  · exact h.reply
theorem Intact.execHbmPageRetire {hd addr bad} (h : Intact c n s) : OutIntact c n (Machine.execHbmPageRetire hd addr bad s) :=
  h.command (fun _ hu => hu.runRetire)

end Sys2Proof.Machine
end

section
/-! What no step destroys: the functions of Machine/Firmware. -/

namespace Sys2Proof.Machine

open Sys2Proof

variable {c : Prop} {n : Nat} {s t : State}

/-- A reset empties the HBM and the mailboxes, and keeps the fuses. -/
theorem Intact.cleared (h : Intact c n s) {v e l p co r cl re x q ho se pw sn fr pe} :
    Intact c n ⟨v, e, State.reset.mbx, l, p, co, State.reset.home, r, cl, re, x, q, ho, se, s.flash, pw, sn, fr, pe⟩ :=
  ⟨fun _ => rfl, fun _ _ => rfl, h.fused⟩

theorem Intact.warmReset (h : Intact c n s) : Intact c n (Machine.warmReset s) := h.cleared
theorem Intact.powerOff {m} (h : Intact c n s) : Intact c n (Machine.powerOff m s) := h.cleared
theorem Intact.sequence (h : Intact c n s) : Intact c n (Machine.sequence s) := h.onSvc.onPwr.ite h
theorem Intact.bootKeys (h : Intact c n s) : Intact c n (Machine.bootKeys s) := h.onSec.parts
theorem Intact.reportTrip (h : Intact c n s) : Intact c n (Machine.reportTrip s) := h.recordErr.onPwr.ite h
theorem Intact.execReady {idMatch} (h : Intact c n s) : OutIntact c n (Machine.execReady idMatch s) := by
  unfold Machine.execReady
  refine (h.ite ?_).next
  dsimp only
  split
  · exact h.bootKeys.onSvc.reportTrip
  · exact (h.bootKeys.onSvc.ite h.bootKeys.onSvc.recordErr).reportTrip
theorem Intact.execFwWatchdog {pc} (h : Intact c n s) : OutIntact c n (Machine.execFwWatchdog pc s) := (h.recordErr.warmReset.ite h).next
theorem Intact.onIdleSlot {f} (h : Intact c n s) : Intact c n (Machine.onIdleSlot f s) := h.onFlash (by split <;> exact le_rfl)
theorem Intact.execFwStage {hd offset fragment last} (h : Intact c n s) : OutIntact c n (Machine.execFwStage hd offset fragment last s) :=
  h.command (fun _ hu => hu.reply.ite (hu.reply.ite (hu.onSvc.onIdleSlot.accept.onSvc.ite hu.onSvc.onIdleSlot.accept.finishEvent)))
theorem Intact.execFwVerifyEnd {sigOk svn floor} (h : Intact c n s) : OutIntact c n (Machine.execFwVerifyEnd sigOk svn floor s) := by
  unfold Machine.execFwVerifyEnd
  refine Intact.next ?_
  dsimp only
  split
  · exact h
  · exact h.ite (h.onSvc.bumpEpoch.onIdleSlot.finishEvent.ite (h.onSvc.bumpEpoch.onIdleSlot.finishEvent.ite h.onSvc.bumpEpoch.onIdleSlot.onSvc.finishEvent))
theorem Intact.runActivate {via hd} (h : Intact c n s) : Intact c n (Machine.runActivate via hd s) :=
  h.finish.ite (h.finish.ite (h.accept.warmReset.ite h.accept.beginTrans.onSvc))
theorem Intact.execFwActivate {hd} (h : Intact c n s) : OutIntact c n (Machine.execFwActivate hd s) :=
  h.command (fun _ hu => hu.transition (fun _ hu => hu.runActivate))
theorem Intact.switchImage (h : Intact c n s) : Intact c n (Machine.switchImage s) := by
  unfold Machine.switchImage
  dsimp only
  exact ((h.onSec.bumpEpoch.parts.onFlash (le_max_left _ _)).ite ((h.onSec.bumpEpoch.parts.onFlash (le_max_left _ _)).onFlash le_rfl)).onSvc
theorem Intact.resumeImage {step} (h : Intact c n s) : Intact c n (Machine.resumeImage step s) := h.onSvc.recordErr.bumpEpoch

end Sys2Proof.Machine
end

section
/-! What no step destroys: the functions of Machine/Members. -/

namespace Sys2Proof.Machine

open Sys2Proof

variable {c : Prop} {n : Nat} {s t : State}

theorem Intact.runArm {hd a} (h : Intact c n s) : Intact c n (Machine.runArm hd a s) := h.reply.ite (h.onSvc.reply.ite h.onColl.reply)
theorem Intact.execMemberArm {hd a} (h : Intact c n s) : OutIntact c n (Machine.execMemberArm hd a s) := h.command (fun _ hu => hu.runArm)
theorem Intact.memberStale {port p} (h : Intact c n s) : Intact c n (Machine.memberStale port p s) := h.onMember.countCollStale
theorem Intact.memberDone {g} (h : Intact c n s) : Intact c n (Machine.memberDone g s) := by
  unfold Machine.memberDone
  split
  · exact h.onMember.ite h
  · exact h
theorem Intact.creditArrives {port p} (h : Intact c n s) : Intact c n (Machine.creditArrives port p s) := by
  unfold Machine.creditArrives
  dsimp only
  split
  · exact h.memberStale
  · exact h.onMember.contribute
theorem Intact.execRedCredit {port p} (h : Intact c n s) : OutIntact c n (Machine.execRedCredit port p s) :=
  h.agentRow (fun _ _ hu => hu.mgtChecked (fun _ hu => hu.creditArrives.ite hu.countCollStale))
theorem Intact.placeBytes_ {k off data} (h : Intact c n s) : Intact c n (Machine.placeBytes_ k off data s).2 := by
  refine Intact.foldl_snd h fun u x hu => ?_
  split
  · exact hu.storePart
  · exact hu
theorem Intact.byteThere {tn off} (h : Intact c n s) : Intact c n (Machine.byteThere tn off s).2 := by
  unfold Machine.byteThere
  dsimp only
  split
  · exact h.hbmLine
  · exact h
theorem Intact.placeIn {m off data half} (h : Intact c n s) : Intact c n (Machine.placeIn m off data half s) := by
  unfold Machine.placeIn
  dsimp only
  refine (Intact.placeBytes_ ?_).ite ((Intact.placeBytes_ ?_).onMember)
  · split
    · exact h.byteThere
    · exact h
  · split
    · exact h.byteThere
    · exact h
theorem Intact.placeResult {m cl i data side} (h : Intact c n s) : Intact c n (Machine.placeResult m cl i data side s) :=
  h.placeIn.ite (h.placeIn.placeIn.ite h.placeIn)
theorem Intact.resultArrives {port p} (h : Intact c n s) : Intact c n (Machine.resultArrives port p s) := by
  unfold Machine.resultArrives
  split
  · exact h.memberStale
  · exact h.memberStale.ite (h.memberStale.ite h.placeResult.onMember)
theorem Intact.execRedRes {port p} (h : Intact c n s) : OutIntact c n (Machine.execRedRes port p s) :=
  OutIntact.ite h.next (h.agentRow (fun _ _ hu => (hu.pktChecked (fun _ hu => hu.resultArrives.ite hu.countCollStale)).memberDone))
theorem Intact.doneArrives {port p} (h : Intact c n s) : Intact c n (Machine.doneArrives port p s) := by
  unfold Machine.doneArrives
  split
  · exact h.memberStale
  · exact h.onMember.memberDone
theorem Intact.execOpDone {port p} (h : Intact c n s) : OutIntact c n (Machine.execOpDone port p s) :=
  h.agentRow (fun _ _ hu => hu.mgtChecked (fun _ hu => hu.doneArrives.ite hu.countCollStale))
theorem Intact.abortAtPlane {port p} (h : Intact c n s) : Intact c n (Machine.abortAtPlane port p s) := h.keepRecord.wakeComputes.ite h.countCollStale
theorem Intact.abortAtMember {port p} (h : Intact c n s) : Intact c n (Machine.abortAtMember port p s) := by
  unfold Machine.abortAtMember
  split
  · exact h.memberStale
  · exact h.memberRecord
theorem Intact.execOpAbort {port p} (h : Intact c n s) : OutIntact c n (Machine.execOpAbort port p s) :=
  h.agentRow (fun _ _ hu => hu.discardStale.ite (hu.discardMalformed.ite (hu.abortAtMember.ite hu.abortAtPlane)))
theorem Intact.execMemberOperationTimeout {group} (h : Intact c n s) : OutIntact c n (Machine.execMemberOperationTimeout group s) := by
  unfold Machine.execMemberOperationTimeout
  refine Intact.next ?_
  split
  · exact h
  · refine h.ite ?_
    split
    · exact h
    · exact h.memberRecord
theorem Intact.memberSettled {g} (h : Intact c n s) : Intact c n (Machine.memberSettled g s) := by
  unfold Machine.memberSettled
  split
  · exact h
  · exact (h.ite h.onMember).ite h.memberDone
theorem Intact.execAbortSettleEnd {group member} (h : Intact c n s) : OutIntact c n (Machine.execAbortSettleEnd group member s) := by
  unfold Machine.execAbortSettleEnd
  refine (h.whenReady (fun _ hu => ?_)).next
  split
  · exact hu.memberSettled
  · exact hu.planeSettled

end Sys2Proof.Machine
end

section
/-! What no step destroys: the functions of Machine/PowerModule. -/

namespace Sys2Proof.Machine

open Sys2Proof

variable {c : Prop} {n : Nat} {s t : State}

theorem Intact.execInputApplied {mv} (h : Intact c n s) : OutIntact c n (Machine.execInputApplied mv s) := (h.ite h.onPwr.sequence).next
theorem Intact.execInputLoss {mv} (h : Intact c n s) : OutIntact c n (Machine.execInputLoss mv s) :=
  (h.ite ((h.onPwr.onPwr.ite h.onPwr).powerOff)).next
theorem Intact.execPowerGood (h : Intact c n s) : OutIntact c n (Machine.execPowerGood s) := (h.ite h.powerOff.onPwr.onSvc).next
theorem Intact.execPowerGoodWithdrawn (h : Intact c n s) : OutIntact c n (Machine.execPowerGoodWithdrawn s) := h.onPwr.next
theorem Intact.execEoffAssert (h : Intact c n s) : OutIntact c n (Machine.execEoffAssert s) := h.onPwr.powerOff.next
theorem Intact.execEoffRelease (h : Intact c n s) : OutIntact c n (Machine.execEoffRelease s) := (h.onPwr.sequence.ite h).next
theorem Intact.execModResetAssert (h : Intact c n s) : OutIntact c n (Machine.execModResetAssert s) :=
  (h.onPwr.onPwr.sequence.ite (h.onPwr.ite h.onPwr.warmReset)).next
theorem Intact.execModResetRelease (h : Intact c n s) : OutIntact c n (Machine.execModResetRelease s) := (h.onPwr.onSvc.ite h.onPwr).next
theorem Intact.removePort {p} (h : Intact c n s) : Intact c n (Machine.removePort p s) := h.ite (h.linkDown.ite h.onPort)
theorem Intact.execPrsntEarlyDeassert (h : Intact c n s) : OutIntact c n (Machine.execPrsntEarlyDeassert s) :=
  (h.ite (h.onSvc.ite (h.onSvc.recordErr.foldl (fun _ _ hu => hu.removePort)))).next
theorem Intact.execPrsntEarlyReassert (h : Intact c n s) : OutIntact c n (Machine.execPrsntEarlyReassert s) := by
  unfold Machine.execPrsntEarlyReassert
  refine Intact.next ?_
  split
  · exact h
  · exact h.ite h.onSvc.warmReset
theorem Intact.climbFromBrake {step} (h : Intact c n s) : Intact c n (Machine.climbFromBrake step s) := h.onPwr
theorem Intact.decreaseCap {cl slew} (h : Intact c n s) : Intact c n (Machine.decreaseCap cl slew s) :=
  h.onPwr.ite (h.onPwr.ite h.climbFromBrake.setSummary.recordErr.recordErr)
theorem Intact.setCap {mbx cap slew} (h : Intact c n s) : Intact c n (Machine.setCap mbx cap slew s) :=
  h.onPwr.ite ((h.onPwr.decreaseCap.ite h.onPwr).ite (h.onPwr.decreaseCap.ite (h.onPwr.onPwr.ite h.onPwr)))
theorem Intact.execPwrCapSet {hd cap slew} (h : Intact c n s) : OutIntact c n (Machine.execPwrCapSet hd cap slew s) :=
  h.command (fun _ hu => hu.setCap.reply)
theorem Intact.execBrakeAssert (h : Intact c n s) : OutIntact c n (Machine.execBrakeAssert s) := (h.ite (h.onPwr.ite h.onPwr.onPwr.recordErr)).next
theorem Intact.execBrakeRelease (h : Intact c n s) : OutIntact c n (Machine.execBrakeRelease s) := (h.ite (h.onPwr.climbFromBrake.ite h.onPwr)).next
theorem Intact.execBallastSet {hd floor down up} (h : Intact c n s) : OutIntact c n (Machine.execBallastSet hd floor down up s) :=
  h.command (fun _ hu => hu.onPwr.reply)
theorem Intact.execBallastRead {hd} (h : Intact c n s) : OutIntact c n (Machine.execBallastRead hd s) := h.command (fun _ hu => hu.onPwr.reply)
theorem Intact.ballastStep (h : Intact c n s) : Intact c n (Machine.ballastStep s) := by
  unfold Machine.ballastStep
  exact h.drawNat.onPwr
theorem Intact.moveTarget (h : Intact c n s) : Intact c n (Machine.moveTarget s) := h.ite (h.onPwr.ite ((h.ite h.onPwr).ite h.onPwr))
theorem Intact.limiter (h : Intact c n s) : Intact c n (Machine.limiter s) := h.drawNat.onPwr.ite (h.drawNat.onPwr.ite h)
theorem Intact.execControlInterval {pin} (h : Intact c n s) : OutIntact c n (Machine.execControlInterval pin s) :=
  (h.onPwr.onPwr.moveTarget.limiter.ballastStep.ite h).next
theorem Intact.execPwrRead {hd} (h : Intact c n s) : OutIntact c n (Machine.execPwrRead hd s) := h.command (fun _ hu => hu.reply)
theorem Intact.execThermalRead {hd} (h : Intact c n s) : OutIntact c n (Machine.execThermalRead hd s) := h.command (fun _ hu => hu.reply)
theorem Intact.execThermalThrottle {tn} (h : Intact c n s) : OutIntact c n (Machine.execThermalThrottle tn s) := (h.ite h.onPwr.recordErr).next
theorem Intact.execThermalLimitTick {tn} (h : Intact c n s) : OutIntact c n (Machine.execThermalLimitTick tn s) :=
  (h.ite ((h.ite h.onPwr).ite ((h.ite h.onPwr).ite h.onPwr))).next
theorem Intact.execThermalTrip {tn} (h : Intact c n s) : OutIntact c n (Machine.execThermalTrip tn s) := (h.ite h.onPwr.powerOff).next
theorem Intact.execTripRestart (h : Intact c n s) : OutIntact c n (Machine.execTripRestart s) := (h.ite h.onPwr.sequence).next

end Sys2Proof.Machine
end

section
/-! What no step destroys: the functions of Machine/MailboxGo. -/

namespace Sys2Proof.Machine

open Sys2Proof

variable {c : Prop} {n : Nat} {s t : State}

theorem Intact.runCommand {i} (h : Intact c n s) : Intact c n (Machine.runCommand i s) := by
  unfold Machine.runCommand
  split
  · exact h.orSame h.execDeviceInfo
  · exact h.orSame h.execTimeExchange
  · exact h.orSame h.execCmdResultRead
  · exact h.orSame h.execAgentTenantsSet
  · exact h.orSame h.execFmHeartbeat
  · exact h.orSame h.execPortEnable
  · exact h.orSame h.execPortDisable
  · exact h.orSame h.execPortStatusRead
  · exact h.orSame h.execLaneTestStart
  · exact h.orSame h.execLaneTestRead
  · exact h.orSame h.execLaneLoopbackSet
  · exact h.orSame h.execSprayMaskSet
  · exact h.orSame h.execNodeAssign
  · exact h.orSame h.execReqTimeoutSet
  · exact h.orSame h.execHbmExportSet
  · exact h.orSame h.execHotLineRead
  · exact h.orSame h.execArbModeSet
  · exact h.orSame h.execArbCountersRead
  · exact h.orSame h.execRedProfileSet
  · exact h.orSame h.execGroupInstall
  · exact h.orSame h.execGroupRemove
  · exact h.orSame h.execGroupMemberRemove
  · exact h.orSame h.execOpStart
  · exact h.orSame h.execOpStatusRead
  · exact h.orSame h.execRedSummaryRead
  · exact h.orSame h.execMemberArm
  · exact h.orSame h.execPartitionSet
  · exact h.orSame h.execProgramLoad
  · exact h.orSame h.execProgramUnload
  · exact h.orSame h.execBallastSet
  · exact h.orSame h.execBallastRead
  · exact h.orSame h.execWindowSet
  · exact h.orSame h.execWindowDisable
  · exact h.orSame h.execWindowRead
  · exact h.orSame h.execXlatRegionSet
  · exact h.orSame h.execXlatInfoRead
  · exact h.orSame h.execXlatUpdate
  · exact h.orSame h.execXlatInvalidate
  · exact h.orSame h.execFaultRingSet
  · exact h.orSame h.execFaultResolve
  · exact h.orSame h.execQpCreate
  · exact h.orSame h.execQpReset
  · exact h.orSame h.execQpDestroy
  · exact h.orSame h.execRingRouteSet
  · exact h.orSame h.execMarkerSet
  · exact h.orSame h.execPolicerSet
  · exact h.orSame h.execGateListSet
  · exact h.orSame h.execShaperSet
  · exact h.orSame h.execQueueSampleSet
  · exact h.orSame h.execQueueSamplesRead
  · exact h.orSame h.execTenantCreate
  · exact h.orSame h.execTenantRevoke
  · exact h.orSame h.execKeyAgree
  · exact h.orSame h.execIdeSessionOpen
  · exact h.orSame h.execAttestService
  · exact h.orSame h.execAttestFoundation
  · exact h.orSame h.execRegionDigest
  · exact h.orSame h.execCertChainRead
  · exact h.orSame h.execErrLogRead
  · exact h.orSame h.execUnitReset
  · exact h.orSame h.execHbmPageRetire
  · exact h.orSame h.execFwStage
  · exact h.orSame h.execFwActivate
  · exact h.orSame h.execPwrCapSet
  · exact h.orSame h.execPwrRead
  · exact h.orSame h.execThermalRead
  · exact h
theorem Intact.drawLine (h : Intact c n s) : Intact c n (Machine.drawLine s).2 := h.parts
theorem Intact.runBuffer {m} (h : Intact c n s) : Intact c n (Machine.runBuffer m s) := by
  unfold Machine.runBuffer
  dsimp only
  split
  · exact h.reply
  · refine (Intact.runCommand ?_).ite ?_
    · split
      · exact h.drawLine
      · dsimp only
        split
        · exact h.drawNat
        · exact h
    · split
      · refine Intact.runCommand ?_
        split
        · exact h.drawLine
        · dsimp only
          split
          · exact h.drawNat
          · exact h
      · exact h
theorem Intact.submit {m} (h : Intact c n s) : Intact c n (Machine.submit m s) := h.ite (h.overrun.ite (h.stallCommand.ite ((h.onBox id).runBuffer)))
theorem Intact.execGo {mailbox} (h : Intact c n s) : OutIntact c n (Machine.execGo mailbox s) := OutIntact.ite .fault h.submit.next
theorem Intact.expireHeld (h : Intact c n s) : Intact c n (Machine.expireHeld s) := by
  obtain ⟨held, he⟩ : ∃ f, f = Machine.heldTooLong := ⟨_, rfl⟩
  rw [Machine.expireHeld, ← he]
  refine h.ite (h.foldl fun u m hu => ?_)
  split
  · exact hu
  · split
    · exact (hu.onBox id).reply
    · exact hu
theorem Intact.takeGos (h : Intact c n s) : Intact c n (Machine.takeGos s) := h.foldl (fun _ _ hu => hu.submit.ite hu)
theorem Intact.runStalled {m} (h : Intact c n s) : Intact c n (Machine.runStalled m s) := by
  obtain ⟨held, he⟩ : ∃ f, f = Machine.heldTooLong m := ⟨_, rfl⟩
  rw [Machine.runStalled, ← he]
  dsimp only
  split
  · exact h
  · split
    · exact (h.onBox id).reply
    · exact (h.onBox id).runBuffer
    · exact (h.onBox id).runCommand
theorem Intact.resumeHbm (h : Intact c n s) : Intact c n (Machine.resumeHbm s) := h.ite (h.foldl (fun _ _ hu => hu.runStalled))
theorem Intact.idle (h : Intact c n s) : Intact c n (Machine.idle s) := h.tick.expireHeld.resumeHbm.takeGos
theorem Intact.runQueuedFw {i} (h : Intact c n s) : Intact c n (Machine.runQueuedFw i s) := by
  unfold Machine.runQueuedFw
  split
  · exact h.runActivate
  · exact h
theorem Intact.runQueued {k i} (h : Intact c n s) : Intact c n (Machine.runQueued k i s) := by
  unfold Machine.runQueued
  split
  · exact h.runQueuedPort
  · exact h.runQueuedUnit
  · exact h.runQueuedExport
  · exact h.runQueuedWindow
  · exact h.runQueuedXlat
  · exact h.runQueuedQp
  · exact h.runQueuedTenant
  · exact h.runQueuedFw
theorem Intact.thaw (h : Intact c n s) : Intact c n (Machine.thaw s) := by
  unfold Machine.thaw
  dsimp only
  refine ((h.onMbx rfl).foldl (fun _ _ hu => hu.postFinish)).foldl (fun _ _ hu => ?_)
  split
  · exact (hu.onMbx rfl).endTrans (fun _ _ hu => hu.runQueued)
  · exact hu
theorem Intact.execHandoverEnd {failedStep} (h : Intact c n s) : OutIntact c n (Machine.execHandoverEnd failedStep s) :=
  (h.ite ((((((h.switchImage.ite h.resumeImage).onSvc).thaw).foldl (fun _ _ hu => hu.runStalled)).onSvc).endTrans (fun _ _ hu =>
    hu.runQueuedFw))).next

end Sys2Proof.Machine
end

section
/-! What no step destroys: the functions of Machine/Registers. -/

namespace Sys2Proof.Machine

open Sys2Proof

variable {c : Prop} {n : Nat} {s t : State}

theorem Intact.tableWrite {o v} (h : Intact c n s) : Intact c n (Machine.tableWrite o v s) := h.onHost.ite (h.onHost.onHost.ite h.onHost.onHost)
theorem Intact.windowWrite {o v} (h : Intact c n s) : Intact c n (Machine.windowWrite o v s) :=
  h.ite (h.onHost.ite (h.onWindow.ite (h.onWindow.ite (h.onWindow.ite h))))
theorem Intact.bar0Write {o v} (h : Intact c n s) : Intact c n (Machine.bar0Write o v s) :=
  h.cxlWrite.ite (h.tableWrite.ite (h.onHost.ite (h.onErr.ite ((h.orSame h.execDbFaultHead).ite (h.windowWrite.ite h)))))
theorem Intact.setEvtHead {m v} (h : Intact c n s) : Intact c n (Machine.setEvtHead m v s) := ((h.onBox id).drainEvents).ite h
theorem Intact.writeGo {m} (h : Intact c n s) : Intact c n (Machine.writeGo m s) := h.ite (h.overrun.ite (h.onBox id))
theorem Intact.writeUnderGo {m o v} (h : Intact c n s) : Intact c n (Machine.writeUnderGo m o v s) :=
  h.drawNat.foldl fun _ _ hu => (hu.onBox fun hw => memSet_wf _ _ _ hw).ite hu
theorem Intact.pageWrite {m o v} (h : Intact c n s) : Intact c n (Machine.pageWrite m o v s) :=
  (h.ite (h.writeUnderGo.ite (h.onBox fun hw => memSetN_wf _ _ _ hw))).ite ((h.writeGo.ite h).ite (h.setEvtHead.ite h))
theorem Intact.regWrite {bar o v} (h : Intact c n s) : Intact c n (Machine.regWrite bar o v s) :=
  h.bar0Write.ite ((h.ite h.pageWrite).ite (h.pageWrite.ite
    (((h.orSame h.execDbSqTail).ite ((h.orSame h.execDbCqHead).ite h)).ite h)))
theorem Intact.execRegisterWrite {bar offset width value} (h : Intact c n s) : OutIntact c n (Machine.execRegisterWrite bar offset width value s) :=
  (h.ite (h.regWrite.ite (h.regWrite.regWrite.ite h))).next
theorem Intact.execMbxEvtHead {mailbox v} (h : Intact c n s) : OutIntact c n (Machine.execMbxEvtHead mailbox v s) :=
  OutIntact.ite .fault ((h.setEvtHead.ite h).next)
theorem Intact.returnRead {requester v} (h : Intact c n s) : Intact c n (Machine.returnRead requester v s) := h.onHost
theorem Intact.registerRead {requester run} (h : Intact c n s) (hrun : ∀ u, Intact c n u → Intact c n (run u)) :
    OutIntact c n (Machine.registerRead requester run s) :=
  (h.ite (h.returnRead.ite (hrun _ h))).next
theorem Intact.execTimeNowLowRead {requester} (h : Intact c n s) : OutIntact c n (Machine.execTimeNowLowRead requester s) :=
  h.registerRead (fun _ hu => hu.onHost.returnRead)
theorem Intact.execTimeNowHighRead {requester} (h : Intact c n s) : OutIntact c n (Machine.execTimeNowHighRead requester s) := by
  unfold Machine.execTimeNowHighRead
  refine h.registerRead (fun _ hu => ?_)
  split
  · exact hu.onHost.returnRead
  · exact hu.returnRead

end Sys2Proof.Machine
end

section
/-! What no step destroys: the functions of Machine/Dispatch. -/

namespace Sys2Proof.Machine

open Sys2Proof

variable {c : Prop} {n : Nat} {s t : State}

theorem Intact.exec {i} (h : Intact c n s) : OutIntact c n (Machine.exec i s) := by
  cases i with
  | deviceInfo => exact h.execDeviceInfo
  | timeExchange => exact h.execTimeExchange
  | cmdResultRead => exact h.execCmdResultRead
  | agentTenantsSet => exact h.execAgentTenantsSet
  | fmHeartbeat => exact h.execFmHeartbeat
  | portEnable => exact h.execPortEnable
  | portDisable => exact h.execPortDisable
  | portStatusRead => exact h.execPortStatusRead
  | laneTestStart => exact h.execLaneTestStart
  | laneTestRead => exact h.execLaneTestRead
  | laneLoopbackSet => exact h.execLaneLoopbackSet
  | sprayMaskSet => exact h.execSprayMaskSet
  | nodeAssign => exact h.execNodeAssign
  | reqTimeoutSet => exact h.execReqTimeoutSet
  | hbmExportSet => exact h.execHbmExportSet
  | hotLineRead => exact h.execHotLineRead
  | arbModeSet => exact h.execArbModeSet
  | arbCountersRead => exact h.execArbCountersRead
  | redProfileSet => exact h.execRedProfileSet
  | groupInstall => exact h.execGroupInstall
  | groupRemove => exact h.execGroupRemove
  | groupMemberRemove => exact h.execGroupMemberRemove
  | opStart => exact h.execOpStart
  | opStatusRead => exact h.execOpStatusRead
  | redSummaryRead => exact h.execRedSummaryRead
  | memberArm => exact h.execMemberArm
  | partitionSet => exact h.execPartitionSet
  | programLoad => exact h.execProgramLoad
  | programUnload => exact h.execProgramUnload
  | ballastSet => exact h.execBallastSet
  | ballastRead => exact h.execBallastRead
  | windowSet => exact h.execWindowSet
  | windowDisable => exact h.execWindowDisable
  | windowRead => exact h.execWindowRead
  | xlatRegionSet => exact h.execXlatRegionSet
  | xlatInfoRead => exact h.execXlatInfoRead
  | xlatUpdate => exact h.execXlatUpdate
  | xlatInvalidate => exact h.execXlatInvalidate
  | faultRingSet => exact h.execFaultRingSet
  | faultResolve => exact h.execFaultResolve
  | qpCreate => exact h.execQpCreate
  | qpReset => exact h.execQpReset
  | qpDestroy => exact h.execQpDestroy
  | ringRouteSet => exact h.execRingRouteSet
  | markerSet => exact h.execMarkerSet
  | policerSet => exact h.execPolicerSet
  | gateListSet => exact h.execGateListSet
  | shaperSet => exact h.execShaperSet
  | queueSampleSet => exact h.execQueueSampleSet
  | queueSamplesRead => exact h.execQueueSamplesRead
  | tenantCreate => exact h.execTenantCreate
  | tenantRevoke => exact h.execTenantRevoke
  | keyAgree => exact h.execKeyAgree
  | ideSessionOpen => exact h.execIdeSessionOpen
  | attestService => exact h.execAttestService
  | attestFoundation => exact h.execAttestFoundation
  | regionDigest => exact h.execRegionDigest
  | certChainRead => exact h.execCertChainRead
  | errLogRead => exact h.execErrLogRead
  | unitReset => exact h.execUnitReset
  | hbmPageRetire => exact h.execHbmPageRetire
  | fwStage => exact h.execFwStage
  | fwActivate => exact h.execFwActivate
  | pwrCapSet => exact h.execPwrCapSet
  | pwrRead => exact h.execPwrRead
  | thermalRead => exact h.execThermalRead
  | getEventRecords => exact h.execGetEventRecords
  | clearEventRecords => exact h.execClearEventRecords
  | getEventInterruptPolicy => exact h.execGetEventInterruptPolicy
  | setEventInterruptPolicy => exact h.execSetEventInterruptPolicy
  | getSupportedLogs => exact h.execGetSupportedLogs
  | getLog => exact h.execGetLog
  | identifyMemoryDevice => exact h.execIdentifyMemoryDevice
  | getHealthInfo => exact h.execGetHealthInfo
  | hdmDecoderCommit => exact h.execHdmDecoderCommit
  | memRd => exact h.execMemRd
  | memRdData => exact h.execMemRdData
  | memWr => exact h.execMemWr
  | memWrPtl => exact h.execMemWrPtl
  | memSpecRd dpa => exact h.execMemSpecRd (dpa := dpa)
  | memInv => exact h.execMemInv
  | memInvNt => exact h.execMemInvNt
  | cxlHotReset => exact h.execCxlHotReset
  | perstAssert => exact h.execPerstAssert
  | ideFail => exact h.execIdeFail
  | ideKmMessage => exact h.execIdeKmMessage
  | go => exact h.execGo
  | mbxEvtHead => exact h.execMbxEvtHead
  | dbFaultHead => exact h.execDbFaultHead
  | dbSqTail => exact h.execDbSqTail
  | dbCqHead => exact h.execDbCqHead
  | timeNowLowRead => exact h.execTimeNowLowRead
  | registerWrite => exact h.execRegisterWrite
  | signalDetect => exact h.execSignalDetect
  | trainingFrame => exact h.execTrainingFrame
  | trainingBoundExpiry => exact h.execTrainingBoundExpiry
  | qualificationEnd => exact h.execQualificationEnd
  | alignmentMarker => exact h.execAlignmentMarker
  | markerLockLoss => exact h.execMarkerLockLoss
  | backgroundAdaptation => exact h.execBackgroundAdaptation
  | spareSubstitution => exact h.execSpareSubstitution
  | los => exact h.execLos
  | flushComplete => exact h.execFlushComplete
  | dataFlit => exact h.execDataFlit
  | crcFailedFlit => exact h.execCrcFailedFlit
  | idleControlFlit => exact h.execIdleControlFlit
  | init => exact h.execInit
  | initAck => exact h.execInitAck
  | loopPing => exact h.execLoopPing
  | loopEcho => exact h.execLoopEcho
  | widthChange => exact h.execWidthChange
  | narrowComplete => exact h.execNarrowComplete
  | down => exact h.execDown
  | portUp => exact h.execPortUp
  | linkRetryTimer => exact h.execLinkRetryTimer
  | retryBufferTimer => exact h.execRetryBufferTimer
  | xoffWatchdog => exact h.execXoffWatchdog
  | packetAdmission => exact h.execPacketAdmission
  | coreCycle => exact h.execCoreCycle
  | egressDecision => exact h.execEgressDecision
  | residueService => exact h.execResidueService
  | deliveryNotice => exact h.execDeliveryNotice
  | rdLine => exact h.execRdLine
  | wrLine => exact h.execWrLine
  | wrMasked => exact h.execWrMasked
  | atomic => exact h.execAtomic
  | rdData => exact h.execRdData
  | atomicData => exact h.execAtomicData
  | cmpl => exact h.execCmpl
  | releaseLand => exact h.execReleaseLand
  | holeWriteOff => exact h.execHoleWriteOff
  | windowStateDrop => exact h.execWindowStateDrop
  | requestTimeout => exact h.execRequestTimeout
  | hotLineWindow => exact h.execHotLineWindow
  | redPut => exact h.execRedPut
  | redResInjection => exact h.execRedResInjection
  | redCredit => exact h.execRedCredit
  | redRes => exact h.execRedRes
  | opDone => exact h.execOpDone
  | opAbort => exact h.execOpAbort
  | ringPart => exact h.execRingPart
  | ringRes => exact h.execRingRes
  | chunkStall => exact h.execChunkStall
  | operationTimeout => exact h.execOperationTimeout
  | memberOperationTimeout => exact h.execMemberOperationTimeout
  | abortSettleEnd => exact h.execAbortSettleEnd
  | msgSend _ _ ecc => exact h.execMsgSend (ecc := ecc)
  | msgAck => exact h.execMsgAck
  | trunkMessageArrival => exact h.execTrunkMessageArrival
  | msgRto => exact h.execMsgRto
  | msgLifetime => exact h.execMsgLifetime
  | maskSet => exact h.execMaskSet
  | maskAck => exact h.execMaskAck
  | maskTimeout => exact h.execMaskTimeout
  | keyMsg => exact h.execKeyMsg
  | keyNotArmed => exact h.execKeyNotArmed
  | keyTimeout => exact h.execKeyTimeout
  | translationFault => exact h.execTranslationFault
  | faultTimeout => exact h.execFaultTimeout
  | xlatInvalidateComplete => exact h.execXlatInvalidateComplete
  | nop => exact h.execNop
  | copy => exact h.execCopy
  | fill => exact h.execFill
  | atomicDescriptor => exact h.execAtomicDescriptor
  | compute => exact h.execCompute
  | completionRecord => exact h.execCompletionRecord
  | qpStopComplete => exact h.execQpStopComplete
  | add => exact h.execAdd
  | sub => exact h.execSub
  | mul => exact h.execMul
  | and => exact h.execAnd
  | or => exact h.execOr
  | xor => exact h.execXor
  | shl => exact h.execShl
  | shr => exact h.execShr
  | sra => exact h.execSra
  | addi => exact h.execAddi
  | ld => exact h.execLd
  | st => exact h.execSt
  | beq => exact h.execBeq
  | bne => exact h.execBne
  | blt => exact h.execBlt
  | loop => exact h.execLoop
  | halt => exact h.execHalt
  | fault => exact h.execFault
  | vld => exact h.execVld
  | vst => exact h.execVst
  | vadd => exact h.execVadd
  | vsub => exact h.execVsub
  | vmul => exact h.execVmul
  | vmax => exact h.execVmax
  | vmin => exact h.execVmin
  | vfma => exact h.execVfma
  | vdiv => exact h.execVdiv
  | vsqrt => exact h.execVsqrt
  | vsgn => exact h.execVsgn
  | vsel => exact h.execVsel
  | vcvt => exact h.execVcvt
  | vblk => exact h.execVblk
  | xclr => exact h.execXclr
  | xadd => exact h.execXadd
  | xrnd => exact h.execXrnd
  | xhad => exact h.execXhad
  | mmul => exact h.execMmul
  | mscl => exact h.execMscl
  | hrot => exact h.execHrot
  | hld => exact h.execHld
  | hst => exact h.execHst
  | waitt => exact h.execWaitt
  | waitc => exact h.execWaitc
  | emit => exact h.execEmit
  | idle => exact h.execIdle
  | fence => exact h.execFence
  | streamComplete => exact h.execStreamComplete
  | clusterReload => exact h.execClusterReload
  | unitResetEnd => exact h.execUnitResetEnd
  | exportTransitionEnd => exact h.execExportTransitionEnd
  | windowDisableComplete => exact h.execWindowDisableComplete
  | regionDigestComplete => exact h.execRegionDigestComplete
  | ideSessionComplete => exact h.execIdeSessionComplete
  | fwVerifyEnd => exact h.execFwVerifyEnd
  | handoverEnd => exact h.execHandoverEnd
  | drainFenceEnd => exact h.execDrainFenceEnd
  | revocationComplete => exact h.execRevocationComplete
  | gateEntryChange => exact h.execGateEntryChange
  | gateListTakeover => exact h.execGateListTakeover
  | queueSampleWindow => exact h.execQueueSampleWindow
  | controlInterval => exact h.execControlInterval
  | heartbeatMiss => exact h.execHeartbeatMiss
  | fwWatchdog => exact h.execFwWatchdog
  | inputApplied => exact h.execInputApplied
  | inputLoss => exact h.execInputLoss
  | powerGood => exact h.execPowerGood
  | ready => exact h.execReady
  | eoffAssert => exact h.execEoffAssert
  | eoffRelease => exact h.execEoffRelease
  | brakeAssert => exact h.execBrakeAssert
  | brakeRelease => exact h.execBrakeRelease
  | modResetAssert => exact h.execModResetAssert
  | modResetRelease => exact h.execModResetRelease
  | prsntEarlyDeassert => exact h.execPrsntEarlyDeassert
  | prsntEarlyReassert => exact h.execPrsntEarlyReassert
  | thermalThrottle => exact h.execThermalThrottle
  | thermalLimitTick => exact h.execThermalLimitTick
  | thermalTrip => exact h.execThermalTrip
  | tripRestart => exact h.execTripRestart
  | causewayOpen => exact h.execCausewayOpen
  | perstRelease => exact h.execPerstRelease
  | cxlLinkUp => exact h.execCxlLinkUp
  | powerGoodWithdrawn => exact h.execPowerGoodWithdrawn
  | coarseningSnapshot => exact h.execCoarseningSnapshot
  | idleMarkEnd => exact h.execIdleMarkEnd
  | timeNowHighRead => exact h.execTimeNowHighRead

end Sys2Proof.Machine
end

section
/-! What no step destroys: a step, and the statements. -/

namespace Sys2Proof.Machine

open Sys2Proof

variable {c : Prop} {n : Nat} {s t : State}

theorem Intact.step (h : Intact c n s) : OutIntact c n (Machine.step s) := by
  unfold Machine.step
  split
  · exact h.withPending.exec
  · exact h.idle.next

/-- Settles O4: the canonical form is kept whatever FUSED_SVN is. -/
theorem stepKeepsMemoriesCanonical : Obligations.StepKeepsMemoriesCanonical := by
  intro s t hhbm hboxes hstep
  have h : Intact True 0 s := ⟨fun _ => hhbm, fun _ => hboxes, Nat.zero_le _⟩
  have ht := h.step t hstep
  exact ⟨ht.hbm trivial, ht.boxes trivial⟩

/-- Settles O5: FUSED_SVN is kept whatever the memories hold. -/
theorem stepNeverLowersFusedSvn : Obligations.StepNeverLowersFusedSvn := by
  intro n s t hfused hstep
  have h : Intact False n s := ⟨False.elim, False.elim, hfused⟩
  exact (h.step t hstep).fused

/-- Settles O3: the lists of the reset state are empty. -/
theorem resetMemoriesCanonical : Obligations.ResetMemoriesCanonical := ⟨rfl, fun _ => rfl⟩

section
variable {s : State}

theorem expireHeld_idle (hs : ∀ m, (s.box m).stalled = none) : expireHeld s = s := by
  unfold expireHeld
  split
  · rfl
  · exact List.foldl_fixed' (fun m => by simp [hs]) _

theorem resumeHbm_idle (hs : ∀ m, (s.box m).stalled = none) : resumeHbm s = s := by
  unfold resumeHbm
  split
  · rfl
  · exact List.foldl_fixed' (fun m => by simp [runStalled, hs]) _

theorem takeGos_idle (hg : ∀ m, (s.box m).go = false) : takeGos s = s :=
  List.foldl_fixed' (fun m => by simp [hg]) _

theorem idle_eq_tick (hq : ∀ m, (s.box m).go = false ∧ (s.box m).stalled = none) : idle s = tick s := by
  have hbox (m : Nat) : (tick s).box m = s.box m := by simp [State.box]
  have hs (m : Nat) : ((tick s).box m).stalled = none := by rw [hbox]; exact (hq m).2
  have hg (m : Nat) : ((tick s).box m).go = false := by rw [hbox]; exact (hq m).1
  rw [idle, expireHeld_idle hs, resumeHbm_idle hs, takeGos_idle hg]
end

/-- Settles O1: a step is the front command on the rest of the queue; on an empty queue it is the idle nanosecond. -/
theorem stepRunsFrontCommand : Obligations.StepRunsFrontCommand := by
  unfold Obligations.StepRunsFrontCommand
  refine ⟨?front, ?empty, ?alone⟩
  case front =>
    intro c rest s hs
    simp [step, hs, State.withPending]
  case empty =>
    intro s hs
    simp [step, hs]
  case alone =>
    intro s hq t
    rw [idle_eq_tick hq, tick]
    by_cases hp : s.pwr.powerGood = true
    · rw [if_pos hp, if_neg (by simp [hp])]
      exact if_congr (by rw [Bool.and_eq_true, beq_iff_eq]; rfl) rfl rfl
    · rw [if_neg hp, if_pos (by simpa using hp)]

end Sys2Proof.Machine
end

section
/-! O6: a completion in the command buffer. -/

namespace Sys2Proof.Machine

open Sys2Proof

variable (h : MHdr) (status : Nat) (result : List Byte) (s : State)

/-- A mailbox whose command has completed. -/
def repliedBox (status : Nat) (result : List Byte) (b : Mailbox) : Mailbox :=
  { b with
    buf := memSetN (memSetN (memSetN b.buf 12 (leBytes status 2)) 8 (leBytes result.length 4)) 16 result
    busy := false
    go := false }

theorem reply_silent (hn : h.notify = false) : reply h status result s = s.onBox h.mbx (repliedBox status result) := by
  unfold reply
  rw [hn]
  rfl

theorem reply_ibi (hn : h.notify = true) (hm : h.mbx = 2) :
    reply h status result s = (s.onBox h.mbx (repliedBox status result)).onMbx (fun b => { b with ibis := b.ibis + 1 }) := by
  unfold reply boxSignal
  rw [hn, hm]
  rfl

theorem reply_vector (hn : h.notify = true) (hm : h.mbx ≠ 2) :
    reply h status result s = raiseVec h.mbx (s.onBox h.mbx (repliedBox status result)) := by
  unfold reply boxSignal
  rw [hn, if_pos rfl, if_neg (by simpa using hm)]
  rfl

theorem reply_box (m : Nat) : (reply h status result s).box m = (s.onBox h.mbx (repliedBox status result)).box m := by
  cases hn : h.notify with
  | false => rw [reply_silent h status result s hn]
  | true =>
    by_cases hm : h.mbx = 2
    · rw [reply_ibi h status result s hn hm]
      rfl
    · rw [reply_vector h status result s hn hm, State.box, raiseVec_mbx]
      rfl

theorem reply_box_self : (reply h status result s).box h.mbx = repliedBox status result (s.box h.mbx) := by
  rw [reply_box]
  exact Map.look_upd_self ..

theorem reply_box_ne {m : Nat} (hm : m ≠ h.mbx) : (reply h status result s).box m = s.box m := by
  rw [reply_box]
  exact Map.look_upd_ne _ _ _ _ hm

/-- What a completion leaves of the buffer: all but STATUS, LENGTH and the results. -/
theorem repliedBox_other (b : Mailbox) {a : Nat} (ha : a < 8 ∨ a = 14 ∨ a = 15 ∨ 16 + result.length ≤ a) :
    memGet (repliedBox status result b).buf a = memGet b.buf a := by
  unfold repliedBox
  rw [memGet_memSetN_ne _ _ _ _ (by omega), memGet_memSetN_ne _ _ _ _ (by rw [leBytes_length]; omega),
    memGet_memSetN_ne _ _ _ _ (by rw [leBytes_length]; omega)]

theorem repliedBox_status (b : Mailbox) (hs : status < 2 ^ 16) (hb : memWf b.buf = true) :
    leNat (memGetN (repliedBox status result b).buf 12 2) = status := by
  have hw := memGetN_memSetN (leBytes status 2) b.buf 12 hb
  rw [leBytes_length] at hw
  unfold repliedBox
  rw [memGetN_memSetN_ne _ _ _ _ _ (by omega), memGetN_memSetN_ne _ _ _ _ _ (by simp), hw]
  exact leNat_leBytes _ _ hs

theorem repliedBox_length (b : Mailbox) (hr : result.length ≤ 4080) (hb : memWf b.buf = true) :
    leNat (memGetN (repliedBox status result b).buf 8 4) = result.length := by
  have hw := memGetN_memSetN (leBytes result.length 4) _ 8 (memSetN_wf (leBytes status 2) b.buf 12 hb)
  rw [leBytes_length] at hw
  unfold repliedBox
  rw [memGetN_memSetN_ne _ _ _ _ _ (by omega), hw]
  exact leNat_leBytes _ _ (by omega)

theorem repliedBox_result (b : Mailbox) (hb : memWf b.buf = true) : memGetN (repliedBox status result b).buf 16 result.length = result :=
  memGetN_memSetN _ _ _ (memSetN_wf _ _ _ (memSetN_wf _ _ _ hb))

/-- Settles O6: the box is the replied one, and the signal is the IBI of mailbox 2 or the vector of another. -/
theorem replyWritesStatusLengthAndResult : Obligations.ReplyWritesStatusLengthAndResult := by
  intro h status result s hstatus hlen hwf t
  have hbox : t.box h.mbx = repliedBox status result (s.box h.mbx) := reply_box_self ..
  rw [hbox]
  refine ⟨repliedBox_status _ _ _ hstatus hwf, repliedBox_length _ _ _ hlen hwf, repliedBox_result _ _ _ hwf,
    fun a => repliedBox_other _ _ _, rfl, rfl, rfl, rfl, fun m => reply_box_ne h status result s, ?silent, ?ibi, ?vector, ?frame⟩
  case silent =>
    intro hn
    rw [show t = _ from reply_silent h status result s hn]
    exact ⟨rfl, rfl⟩
  case ibi =>
    intro hn hm
    rw [show t = _ from reply_ibi h status result s hn hm]
    exact ⟨rfl, rfl⟩
  case vector =>
    intro hn hm
    rw [show t = _ from reply_vector h status result s hn hm, raiseVec_mbx]
    exact ⟨by unfold raiseVec; split <;> rfl, rfl⟩
  case frame => simp [t]

end Sys2Proof.Machine
end

section
/-! O7: where an error goes. -/

namespace Sys2Proof.Machine

open Sys2Proof

theorem summaryBit_lt (kind : Nat) : summaryBit kind < 32 := by
  unfold summaryBit
  split_ifs <;> omega

/-- A bit of ERR_SUMMARY is set beside those that were. -/
theorem setSummary_frame (bit : Nat) (hbit : bit < 32) (s : State) : ∃ x, (setSummary bit s).err = { s.err with summary := x } ∧
    x.getLsbD bit = true ∧ ∀ j, s.err.summary.getLsbD j = true → x.getLsbD j = true := by
  unfold setSummary
  split
  · next hset => exact ⟨s.err.summary, rfl, hset, fun _ => id⟩
  · refine ⟨s.err.summary ||| BitVec.ofNat 32 (2 ^ bit), by rw [raiseVec_err]; rfl, ?_, ?_⟩
    · rw [BitVec.getLsbD_or, BitVec.getLsbD_ofNat, Nat.testBit_two_pow_self]
      simp [hbit]
    · intro j hj
      rw [BitVec.getLsbD_or, hj, Bool.true_or]

section
variable (kind index code sev : Nat) (detail : List Byte) (s : State)

/-- The record that an error of this moment begins. -/
def freshRec : ErrRec :=
  { unit := unitOf kind index, code := code, sev := sev, count := 1, first := s.svc.now, last := s.svc.now, detail := padTo 8 detail }

/-- COUNT and FIRST of a unit that has one error more. -/
def countedUnit (r : ErrRec) (u : UnitRec) : UnitRec :=
  { u with count := satAdd 32 u.count 1, first := match u.first with | some f => some f | none => some r }

/-- The error state with an error counted; whether the unit's LOST advances, the log and its next number are the first-error rule's. -/
def countedErr (lose : Nat → Nat) (log : List LogRec) (next : Nat) (x : BitVec 32) : Errors :=
  { s.err with
    units := s.err.units.upd (unitOf kind index) {} (fun u =>
      { countedUnit (freshRec kind index code sev detail s) u with lost := lose u.lost })
    log := log
    nextId := next
    summary := x }

theorem recordErr_joins {l : List LogRec} (hj : joinLog (unitOf kind index) code s.svc.now s.err.log = some l) :
    ∃ x, (recordErr kind index code sev detail s).err = countedErr kind index code sev detail s id l s.err.nextId x ∧
      x.getLsbD (summaryBit kind) = true := by
  unfold recordErr
  dsimp only [State.onErr]
  rw [hj]
  obtain ⟨x, he, hx, _⟩ := setSummary_frame (summaryBit kind) (summaryBit_lt kind) _
  exact ⟨x, he, hx⟩

theorem recordErr_logs (hj : joinLog (unitOf kind index) code s.svc.now s.err.log = none) (hroom : s.err.log.length < 4096) :
    ∃ x, (recordErr kind index code sev detail s).err = countedErr kind index code sev detail s id
        (s.err.log ++ [{ id := s.err.nextId, entry := freshRec kind index code sev detail s }]) ((s.err.nextId + 1) % 2 ^ 32) x ∧
      x.getLsbD (summaryBit kind) = true := by
  unfold recordErr
  dsimp only [State.onErr]
  rw [hj]
  dsimp only
  rw [if_pos hroom]
  obtain ⟨x, he, hx, _⟩ := setSummary_frame (summaryBit kind) (summaryBit_lt kind) _
  exact ⟨x, by rw [he, addCxlEvent_err]; rfl, hx⟩

theorem recordErr_loses (hj : joinLog (unitOf kind index) code s.svc.now s.err.log = none) (hfull : 4096 ≤ s.err.log.length) :
    ∃ x, (recordErr kind index code sev detail s).err = countedErr kind index code sev detail s (satAdd 32 · 1) s.err.log s.err.nextId x ∧
      x.getLsbD (summaryBit kind) = true ∧ x.getLsbD 9 = true := by
  unfold recordErr
  dsimp only [State.onErr]
  rw [hj]
  dsimp only
  rw [if_neg (Nat.not_lt.mpr hfull)]
  obtain ⟨y, hy, h9, _⟩ := setSummary_frame 9 (by omega) _
  obtain ⟨x, he, hx, hkeep⟩ := setSummary_frame (summaryBit kind) (summaryBit_lt kind) _
  refine ⟨x, ?_, hx, hkeep 9 (by rw [hy]; exact h9)⟩
  rw [he, hy, Map.upd_upd]
  rfl

/-- Whatever the log does, the error is counted and its class bit set. -/
theorem recordErr_counts : ∃ lose log next x, (recordErr kind index code sev detail s).err = countedErr kind index code sev detail s lose log next x ∧
    x.getLsbD (summaryBit kind) = true := by
  cases hj : joinLog (unitOf kind index) code s.svc.now s.err.log with
  | some l =>
    obtain ⟨x, he, hx⟩ := recordErr_joins kind index code sev detail s hj
    exact ⟨_, _, _, x, he, hx⟩
  | none =>
    obtain hroom | hfull := Nat.lt_or_ge s.err.log.length 4096
    · obtain ⟨x, he, hx⟩ := recordErr_logs kind index code sev detail s hj hroom
      exact ⟨_, _, _, x, he, hx⟩
    · obtain ⟨x, he, hx, _⟩ := recordErr_loses kind index code sev detail s hj hfull
      exact ⟨_, _, _, x, he, hx⟩

variable {lose : Nat → Nat} {log : List LogRec} {next : Nat} {x : BitVec 32}

theorem countedErr_unit : (countedErr kind index code sev detail s lose log next x).units.look (unitOf kind index) {} =
    let u := s.err.units.look (unitOf kind index) {}
    { countedUnit (freshRec kind index code sev detail s) u with lost := lose u.lost } := by
  unfold countedErr
  rw [Map.look_upd_self]

theorem countedErr_other {k : Nat} (hk : k ≠ unitOf kind index) :
    (countedErr kind index code sev detail s lose log next x).units.find k = s.err.units.find k :=
  Map.find_put_ne _ _ hk
end

/-- Settles O7: the counts are the same whether the error joins, is logged or is lost. -/
theorem errorRecordsUnderFirstErrorRule : Obligations.ErrorRecordsUnderFirstErrorRule := by
  intro kind index code sev detail s t u v
  obtain ⟨lose, log, next, x, he, hx⟩ := recordErr_counts kind index code sev detail s
  have hv : v = { countedUnit (freshRec kind index code sev detail s) u with lost := lose u.lost } := by
    rw [show v = _ from congrArg (fun e : Errors => e.units.look (unitOf kind index) {}) he]
    exact countedErr_unit ..
  refine ⟨?count, ?keepsFirst, ?first, ?others, ?bit, ?logged, ?lost, ?frame⟩
  case count => rw [hv]; rfl
  case keepsFirst =>
    intro r hr
    rw [hv]
    simp [countedUnit, hr]
  case first =>
    intro hn
    refine ⟨freshRec kind index code sev detail s, ?_, rfl, rfl, rfl, rfl, rfl⟩
    rw [hv]
    simp [countedUnit, hn]
  case others =>
    intro k hk
    rw [show t.err = _ from he]
    exact countedErr_other _ _ _ _ _ _ hk
  case bit =>
    rw [show t.err = _ from he]
    exact hx
  case logged =>
    intro hj hroom
    obtain ⟨_, he, _⟩ := recordErr_logs kind index code sev detail s hj hroom
    rw [show t.err = _ from he]
    exact ⟨_, rfl, rfl, rfl, rfl, rfl⟩
  case lost =>
    intro hj hfull
    obtain ⟨_, he, _, h9⟩ := recordErr_loses kind index code sev detail s hj hfull
    have hlost : v.lost = satAdd 32 u.lost 1 := by
      rw [show v = _ from congrArg (fun e : Errors => e.units.look (unitOf kind index) {}) he, countedErr_unit]
    rw [show t.err = _ from he]
    exact ⟨rfl, hlost, h9⟩
  case frame => simp [t]

end Sys2Proof.Machine
end

section
/-! O8, O9: the order of the checks, and the number that NODE_ASSIGN gives. -/

namespace Sys2Proof.Machine

open Sys2Proof

section
variable {i : Instr} {h : MHdr} {row : CmdRow} {denied bad : State → Bool} {run : State → State} {s : State}

/-- A flag that the row does not define is BAD_ARG, after DENIED. -/
theorem command_bad_flags (hs : Listens h s) (hin : h.mbx ∈ row.boxes) (hd : denied s = false) (hf : h.flags &&& ~~~row.flags ≠ 0#8) :
    command i h row denied bad run s = .next (reply h 0x0004 [] s) := by
  obtain ⟨hm, hh, hl, hlt, hr⟩ := hs
  simp [command, reach_ready hm hr, hh, hl, hin, hd, hf, Nat.not_le.mpr hlt, msBadArg]

theorem command_not_ready (hm : s.svc.mod = .boot) (hmbx : h.mbx = 2) : command i h row denied bad run s = .next (reply h 0x0005 [] s) := by
  simp [command, reach, hm, hmbx, msNotReady]
end

section
variable {h : MHdr} {s : State}

theorem execBallastSet_wrong_box {f d u : Nat} (hs : Listens h s) (hm : h.mbx ≠ 1) : execBallastSet h f d u s = .next (reply h 0x0003 [] s) :=
  command_wrong_box (row := { boxes := boxF }) hs (by simpa [boxF] using hm)

theorem execBallastSet_bad_flags {f d u : Nat} (hs : Listens h s) (hm : h.mbx = 1) (hf : h.flags ≠ 0) :
    execBallastSet h f d u s = .next (reply h 0x0004 [] s) :=
  command_bad_flags (row := { boxes := boxF }) hs (by simp [boxF, hm]) rfl (by
    rw [show ~~~(0 : BitVec 8) = BitVec.allOnes 8 from rfl, BitVec.and_allOnes]
    exact hf)

theorem execNodeAssign_denied {a b c : Nat} (hs : Serves h [1] s) (hb : s.svc.bridge = true) :
    execNodeAssign h a b c s = .next (reply h 0x0003 [] s) :=
  command_denied (row := { boxes := boxF }) hs hb

theorem execNodeAssign_bad_arg {a b c : Nat} (hs : Serves h [1] s) (hb : s.svc.bridge = false) (hr : 7 < a ∨ 1 < b ∨ 31 < c) :
    execNodeAssign h a b c s = .next (reply h 0x0004 [] s) :=
  command_bad_arg (row := { boxes := boxF }) hs hb (by simpa [or_assoc] using hr)
end

/-- Settles O8, by the rules of the checks, in their order. -/
theorem checksRunInOrder : Obligations.ChecksRunInOrder := by
  unfold Obligations.ChecksRunInOrder
  refine ⟨?wrongBox, ?flags, ?boot, ?denied, ?badArg⟩
  case wrongBox => exact fun h f d u s => execBallastSet_wrong_box
  case flags => exact fun h f d u s => execBallastSet_bad_flags
  case boot => exact fun h a b c s hm hmbx => show execNodeAssign h a b c s = _ from command_not_ready hm hmbx
  case denied => exact fun h a b c s => execNodeAssign_denied
  case badArg => exact fun h a b c s => execNodeAssign_bad_arg

/-! ### The node's number (01 R17) -/

/-- The part with its number written to the flash and in force: the sequences are those it had. -/
def numberedPart (pair domain plane : Nat) (s : State) : State :=
  bumpEpoch ((s.onFlash (cfgWrite (fun c => { c with node := some (pair, domain, plane) }))).onSvc
    (fun v => { v with numbered := false, node := some (mkNode pair true (32 * domain + plane)) }))

theorem execNodeAssign_runs {h : MHdr} {s : State} {pair domain plane : Nat} (hs : Serves h [1] s) (hb : s.svc.bridge = false)
    (hp : pair ≤ 7) (hd : domain ≤ 1) (hl : plane ≤ 31) (hr : s.svc.removedAt = none) (he : s.ports.any (fun p => p.2.enabled) = false) :
    execNodeAssign h pair domain plane s = .next (reply h 0 [] (numberedPart pair domain plane s)) := by
  refine (command_runs (row := { boxes := boxF }) hs hb (by simp; omega)).trans ?_
  simp [anyEnabled, he, flashHeld, hr, msOk, numberedPart]

/-- A plane part in READY that has sent one request to node 0. -/
def sentOnce : State :=
  { State.reset with
    svc := { State.reset.svc with mod := .ready, node := some (mkNode 0 true 0) }
    host := { State.reset.host with linkUp := true }
    req := { State.reset.req with seqs := [(0, 1)] } }

/-- Refutes O9: NODE_ASSIGN leaves the sequences as they are; they start at 0 only when a port is enabled with the new number (`useNumber`). On `sentOnce` the
answer comes, and the request to node 0 is still counted. -/
theorem not_partCommandsComplete : ¬ Obligations.PartCommandsComplete := by
  unfold Obligations.PartCommandsComplete
  rintro ⟨-, -, -, assigns, -⟩
  have hs : Serves ⟨1, 0, false, 0⟩ [1] sentOnce := by unfold Serves Listens; decide
  obtain ⟨t, ht, -, -, -, -, hseqs, -⟩ := assigns _ 3 1 5 sentOnce hs rfl (by omega) (by omega) (by omega) rfl rfl
  have hreq : (reply ⟨1, 0, false, 0⟩ 0 [] (numberedPart 3 1 5 sentOnce)).req = (reply ⟨1, 0, false, 0⟩ 0 [] t).req :=
    congrArg State.req (Host.Outcome.next.inj ((execNodeAssign_runs hs rfl (by omega) (by omega) (by omega) rfl rfl).symm.trans ht))
  rw [reply_req, reply_req] at hreq
  rw [← hreq] at hseqs
  cases hseqs

end Sys2Proof.Machine
end

section
/-! O13: the port commands, the end of a port's flush and the opening of the causeway. -/

namespace Sys2Proof.Machine

open Sys2Proof

/-! ### The transitions through a completion (13 R383, R385) -/

section
variable (s : State)

theorem boxSignal_trans (m : Nat) : (boxSignal m s).mbx.trans = s.mbx.trans := by
  unfold boxSignal
  split
  · rfl
  · rw [raiseVec_mbx]

theorem postEvent_trans (m : Nat) (r : EvtRec) (signal : Bool) : (postEvent m r signal s).mbx.trans = s.mbx.trans := by
  unfold postEvent
  dsimp only
  split_ifs
  · exact boxSignal_trans ..
  · rfl
  · rfl

theorem finishEvent_trans (h : MHdr) (op status : Nat) (result : List Byte) : (finishEvent h op status result s).mbx.trans = s.mbx.trans := by
  unfold finishEvent postFinish
  dsimp only
  split
  · rfl
  · rw [postEvent_trans]
    split <;> rfl

theorem findTrans_dropTrans_ne {k k' : FnKey} (hk : k' ≠ k) : findTrans k' (dropTrans k s).mbx.trans = findTrans k' s.mbx.trans := by
  unfold findTrans
  rw [show (dropTrans k s).mbx.trans = s.mbx.trans.filter (fun t => t.key != k) from rfl, List.find?_filter]
  congr 1
  funext t
  by_cases ht : t.key = k'
  · cases t.ended <;> simp [ht, hk]
  · simp [ht]
end

/-- Which boxes a row names does not depend on their order. -/
theorem Serves.of_boxes {h : MHdr} {l l' : List Nat} {s : State} (hs : Serves h l s) (hl : ∀ m ∈ l, m ∈ l') : Serves h l' s := by
  obtain ⟨hlisten, hin, hf⟩ := hs
  exact ⟨hlisten, hl _ hin, hf⟩

/-! ### PORT_ENABLE (13 R477) -/

section
variable {h : MHdr} {p w : Nat} {b : Bool} {s : State}

/-- The bad arguments of PORT_ENABLE. -/
theorem portEnable_args (hp : isPort p = true) (hw : w ≤ 3) (hfit : widthFits s p w = true) :
    (!isPort p || decide (3 < w) || !widthFits s p w) = false := by
  simp [hp, hfit, hw]

theorem execPortEnable_serves (hs : Serves h [1] s) (hp : isPort p = true) (ha : portAbsent s p = false) (hw : w ≤ 3) (hfit : widthFits s p w = true) :
    execPortEnable h p w b s = .next (transition (.port p) (.portEnable h p w b) h (runPortEnable .buffer h p w b) s) :=
  command_runs (row := { boxes := boxF }) hs ha (portEnable_args hp hw hfit)

theorem runPortEnable_enables (he : (s.port p).enabled = false) (hq : isTrunk p = true ∨ quadConflict s p w = false) (hr : s.svc.removedAt = none)
    (hcap : brakeMw (enabledLanes s + lanesOf w) ≤ capW s * 1000) :
    let t := reply h 7 [] (enablePort p w b s)
    runPortEnable .buffer h p w b s = if isTrunk p = true ∧ s.svc.causewayClosed = true then beginTrans (.port p) h 0x0101 t
      else finishEvent h 0x0101 0 [] (useNumber p t) := by
  have hquad : (!isTrunk p && quadConflict s p w) = false := by obtain hq | hq := hq <;> simp [hq]
  have hclosed : (enablePort p w b s).svc.causewayClosed = s.svc.causewayClosed := by
    unfold enablePort
    dsimp only
    split <;> rfl
  simp [runPortEnable, he, hquad, hr, Nat.not_lt.mpr hcap, accept, msInProgress, hclosed, msOk]

theorem runPortEnable_same (he : (s.port p).enabled = true) (hw : (s.port p).width = w) (hb : (s.port p).bridge = b) :
    runPortEnable .buffer h p w b s = reply h 0 [] s := by
  simp [runPortEnable, he, hw, hb, finish, msOk]

theorem runPortEnable_busy (hn : ¬ ((s.port p).enabled = true ∧ (s.port p).width = w ∧ (s.port p).bridge = b))
    (hbusy : (s.port p).enabled = true ∨ (isTrunk p = false ∧ quadConflict s p w = true) ∨ capW s * 1000 < brakeMw (enabledLanes s + lanesOf w)) :
    runPortEnable .buffer h p w b s = reply h 2 [] s := by
  unfold runPortEnable
  dsimp only
  rw [if_neg (by simpa [and_assoc] using hn)]
  obtain he | ⟨ht, hq⟩ | hc := hbusy
  · simp [he, finish, msBusy]
  · simp [ht, hq, finish, msBusy]
  · simp [hc, finish, msBusy]

/-- The port that PORT_ENABLE leaves waits for signal with its new settings; the other ports are as they were. -/
theorem enablePort_port (x : Nat) : (enablePort p w b s).port x = (s.onPort p (fun q =>
    { q with enabled := true, width := w, widthNow := w, bridge := b, phase := .waiting, attempts := 0, self := s.svc.node, partner := none })).port x := by
  unfold enablePort
  dsimp only
  split <;> rfl
end

/-! ### PORT_DISABLE (03 R80) -/

section
variable {h : MHdr} {p : Nat} {s : State}

theorem execPortDisable_serves (hs : Serves h [1] s) (hp : isPort p = true) (ha : portAbsent s p = false) :
    execPortDisable h p s = .next (transition (.port p) (.portDisable h p) h (runPortDisable .buffer h p) s) :=
  command_runs (row := { boxes := boxF }) hs ha (by simp [hp])

theorem releaseLanes_port (x : Nat) : (releaseLanes p s).port x = s.port x := rfl

theorem stopPort_port : (stopPort p s).port p =
    { (if linkUp (s.port p) then linkDown p 2 0 s else s).port p with enabled := false, phase := .disabled } := by
  have hp (u : State) : (causewayRule u).port p = u.port p := by
    unfold causewayRule
    split <;> rfl
  unfold stopPort
  rw [hp, releaseLanes_port]
  exact State.onPort_self ..

theorem stopPort_up (hu : linkUp (s.port p) = true) : ((stopPort p s).port p).flushing = true ∧ ((stopPort p s).port p).lastDown = some 2 := by
  rw [stopPort_port, if_pos hu]
  obtain ⟨flits, e | ⟨hne, -⟩⟩ := linkDown_self p 2 0 s
  · rw [e]
    exact ⟨rfl, rfl⟩
  · exact absurd rfl hne
end

/-! ### The opening of the causeway (02 R52) -/

/-- The trunk enable that waits at a port ends. -/
def endEnable (p : Nat) (s : State) : State :=
  match findTrans (.port p) s.mbx.trans with
  | some t => if t.opcode == 0x0101 then endTrans (.port p) msOk [] runQueuedPort s else s
  | none => s

/-- The causeway is open. -/
def openCauseway (s : State) : State := { s with svc := { s.svc with causewayClosed := false, causewayOpening := false } }

section
variable {p : Nat} {s : State} {x : Transition}

theorem execCausewayOpen_opens (hm : s.svc.mod = .ready) (ho : s.svc.causewayOpening = true) :
    execCausewayOpen s = .next (endEnable 528 (endEnable 512 (openCauseway s))) := by
  simp only [execCausewayOpen, isReady, hm, ho]
  rfl

theorem endEnable_none (hk : findTrans (.port p) s.mbx.trans = none) : endEnable p s = s := by
  simp [endEnable, hk]

theorem endEnable_ends (hk : findTrans (.port p) s.mbx.trans = some x) (hop : x.opcode = 0x0101) (hq : x.queued = none) (hh : s.svc.handover = false) :
    endEnable p s = finishEvent x.hdr 0x0101 0 [] (dropTrans (.port p) s) := by
  simp only [endEnable, hk, hop]
  exact (endTrans_ends hk hh ..).trans (by rw [hq, hop]; rfl)
end

/-- Settles O13: the checks of each command, then what it runs; the ends of a flush and of the causeway are read off the transition that waits. -/
theorem portCommandsComplete : Obligations.PortCommandsComplete := by
  unfold Obligations.PortCommandsComplete
  refine ⟨?enables, ?same, ?busy, ?enableWaits, ?disables, ?isDisabled, ?disableWaits, ?status, ?flushed, ?opens⟩
  case enables =>
    intro h p w b s hs hp ha hw hfit hk he hq hr hcap t
    have hport (x : Nat) : t.port x = (enablePort p w b s).port x := State.port_of_ports (reply_ports ..) x
    refine ⟨(execPortEnable_serves hs hp ha hw hfit).trans ?_, ?_⟩
    · rw [transition_runs hk, runPortEnable_enables he hq hr hcap]
    · rw [hport p, enablePort_port, State.onPort_self]
      exact ⟨rfl, rfl, rfl, rfl, fun x hx => by rw [hport x, enablePort_port, State.onPort_ne _ _ hx]⟩
  case same =>
    intro h p w b s hs hp ha hw hfit hk he hwidth hb
    exact (execPortEnable_serves hs hp ha hw hfit).trans (by rw [transition_runs hk, runPortEnable_same he hwidth hb])
  case busy =>
    intro h p w b s hs hp ha hw hfit hk hn hbusy
    exact (execPortEnable_serves hs hp ha hw hfit).trans (by rw [transition_runs hk, runPortEnable_busy hn hbusy])
  case enableWaits =>
    intro h p w b t s hs hp ha hw hfit hk
    exact (execPortEnable_serves hs hp ha hw hfit).trans (by rw [transition_waits hk])
  case disables =>
    intro h p s hs hp ha hk he t
    have hport : t.port p = (stopPort p s).port p := State.port_of_ports (reply_ports ..) p
    refine ⟨(execPortDisable_serves hs hp ha).trans ?_, ?_, ?_, ?_⟩
    · rw [transition_runs hk, runPortDisable, if_neg (by simp [he])]
      rfl
    · rw [hport, stopPort_port]
    · rw [hport, stopPort_port]
    · rw [hport]
      exact stopPort_up
  case isDisabled =>
    intro h p s hs hp ha hk he
    refine (execPortDisable_serves hs hp ha).trans ?_
    rw [transition_runs hk]
    simp [runPortDisable, he, finish, msOk]
  case disableWaits =>
    intro h p t s hs hp ha hk
    exact (execPortDisable_serves hs hp ha).trans (by rw [transition_waits hk])
  case status =>
    intro h p s hs hp ha
    have hs : Serves h (boxF ++ boxH ++ boxB) s := hs.of_boxes (by decide)
    exact (command_runs (row := { boxes := boxF ++ boxH ++ boxB }) hs ha (by simp [hp]) : execPortStatusRead h p s = _)
  case flushed =>
    intro p s hp hm hf t
    refine ⟨?_, ?_, ?_, ?_⟩
    · show execFlushComplete p s = _
      simp [execFlushComplete, hp, isReady, hm, hf, t]
    · intro hk
      simp [reenable, hk]
    · intro x hk hop
      simp [reenable, hk, hop, msOk]
    · intro x hk hop he
      simp [reenable, hk, hop, he]
  case opens =>
    intro s hm ho hh
    refine ⟨_, execCausewayOpen_opens hm ho, ?_, ?_, ?_⟩
    · intro h512 h528
      rw [endEnable_none (s := openCauseway s) h512, endEnable_none (s := openCauseway s) h528]
      rfl
    · intro x h512 hop hq h528
      rw [endEnable_ends (s := openCauseway s) h512 hop hq hh, endEnable_none]
      · rfl
      · rw [finishEvent_trans, findTrans_dropTrans_ne (openCauseway s) (by simp)]
        exact h528
    · intro x h528 hop hq h512
      rw [endEnable_none (s := openCauseway s) h512, endEnable_ends (s := openCauseway s) h528 hop hq hh]
      rfl

end Sys2Proof.Machine
end

section
/-! O31: the memory-device mailbox, the HDM decoders, the resets of the host link and its IDE streams. -/

namespace Sys2Proof.Machine

open Sys2Proof

/-! ### The memory-device mailbox (13 R377) -/

section
variable {s : State}

theorem deviceCommand_answers (hm : s.svc.mod = .ready) (hio : ioReaches s = true) (out : State → List Nat) (f : HostSide → HostSide) :
    deviceCommand out f s = .next (deviceSignal (s.onHost (fun h => { f h with cxlOut := out s, cxlUnsupported := false }))) := by
  simp [deviceCommand, isReady, hm, hio]

theorem execGetHealthInfo_answers (hm : s.svc.mod = .ready) (hio : ioReaches s = true) :
    execGetHealthInfo s = .next (deviceSignal (s.drawNat.2.onHost (fun h =>
      { h with cxlOut := [s.drawNat.1, (BitVec.ofInt 16 s.pwr.temps.junction).toNat, (cfgNow s.flash).retired.length], cxlUnsupported := false }))) := by
  rw [execGetHealthInfo, deviceCommand_answers (s := s.drawNat.2) hm hio]
  rfl

theorem cxlBytes_length (opcode from_ n : Nat) : (cxlBytes opcode from_ n).length = n := by
  simp [cxlBytes]

theorem deviceSubmit_unsupported (hop : leNat (memGetN s.host.cxlRegs Config.deviceCommandAt 2) ∉
    [0x0100, 0x0101, 0x0102, 0x0103, 0x0400, 0x0401, 0x4000, 0x4200]) : deviceSubmit s = deviceUnsupported s := by
  unfold deviceSubmit
  dsimp only
  split
  case h_9 => rfl
  all_goals
    next hlisted => exact absurd (by rw [hlisted]; decide) hop
end

/-! ### The decoders (13 R370, R371) -/

section
variable {dec base size ways : Nat} {lock : Bool} {s : State}

/-- What becomes of a decoder: committed as asked, or Error Not Committed. -/
def writtenHdm (ok : Bool) (base size : Nat) (lock : Bool) : Hdm :=
  if ok then { base := base, size := size, committed := true, lock := lock, err := false }
  else { base := base, size := size, committed := false, lock := false, err := true }

theorem execHdmDecoderCommit_writes (hd : dec < 4) (hio : ioReaches s = true)
    (hfree : ((s.host.hdm.look dec {}).committed && (s.host.hdm.look dec {}).lock) = false) :
    execHdmDecoderCommit dec base size ways lock s = .next 
      (s.onHost (fun h => { h with hdm := h.hdm.put dec (writtenHdm (hdmOk s base size ways) base size lock) })) := by
  cases hok : hdmOk s base size ways <;> simp [execHdmDecoderCommit, Nat.not_le.mpr hd, hio, hfree, hok, writtenHdm]

theorem hdmOk_iff : hdmOk s base size ways = true ↔
    s.svc.mod = .ready ∧ s.svc.bridge = true ∧ base % 2 ^ 28 = 0 ∧ size % 2 ^ 28 = 0 ∧ base + size ≤ 2 ^ 44 ∧ ways ≤ 1 := by
  simp [hdmOk, isReady, mib256, and_assoc]
end

/-! ### The resets of the link (13 R373) -/

section
variable {s : State}

theorem keys_each {α : Type} (m : Map α) (f : Nat → α → α) : (m.each f).map Prod.fst = m.map Prod.fst := by
  simp [Map.each]

theorem resetLink_requests : (resetLink s).req.out.map Prod.fst = s.req.out.map Prod.fst :=
  keys_each s.req.out (fun _ x => { x with purpose := forgetHost x.purpose })

theorem execCxlHotReset_live (hl : isLive s = true) : execCxlHotReset s = .next (resetLink s) := by
  simp [execCxlHotReset, hl]

theorem execPerstAssert_live (hl : isLive s = true) : execPerstAssert s = .next ((resetLink s).onHost (fun h => { h with perst := true })) := by
  have hl' : isLive (s.onHost (fun h => { h with perst := true })) = true := hl
  simp only [execPerstAssert, hl', if_true]
  rfl

theorem isLive_of_ready (hm : s.svc.mod = .ready) : isLive s = true := by
  simp [isLive, hm]

theorem execCxlLinkUp_trains (hl : isLive s = true) (hp : s.host.perst = false) : execCxlLinkUp s =
    .next { s with free := s.free + 2, host := { s.host with
      linkUp := true, linkWidth := Config.freeNat s.free % 3, linkRate := Config.freeNat (s.free + 1) % 5 } } := by
  unfold execCxlLinkUp
  rw [if_pos (by simp [hl, hp])]
  rfl
end

/-! ### The IDE streams (13 R374) -/

section
variable {n x : Nat} {s : State}

theorem execIdeFail_secure (hs : s.host.ide.find n = some .secure) (hu : s.host.linkUp = true) :
    execIdeFail n s = .next (setSummary 12 (recordErr kHost 1 0x40 2 (leBytes n 1)
      (s.onHost (fun h => { h with ide := h.ide.put n .insecure, ideFails := h.ideFails + 1 })))) := by
  simp [execIdeFail, hs, hu]

theorem execIdeKmMessage_runs (hm : s.svc.mod = .ready) (hu : s.host.linkUp = true) (hx : s.host.ideSession = some x) (hn : n < 2) (start : Bool) :
    execIdeKmMessage n x start s = .next (if start then keyStream n s else endStream n s) := by
  simp [execIdeKmMessage, isReady, hm, hu, hx, hn]

/-- Only a new key ends Insecure. -/
theorem endStream_eq : endStream n s = if s.host.ide.find n = some .insecure then s
    else s.onHost (fun h => { h with ide := h.ide.put n .unkeyed, ideKeys := h.ideKeys.del n }) := by
  simp [endStream, ideBlocks]
end

/-- Settles O31: each command and event of the host link by its own rule. -/
theorem hostLinkCommandsComplete : Obligations.HostLinkCommandsComplete := by
  unfold Obligations.HostLinkCommandsComplete
  refine ⟨⟨?device, fun s => deviceSubmit_unsupported⟩, ?decoder, ?resets, ?perst, ?trains, ?fails, ?keys⟩
  case device =>
    intro sev l s hm hio
    have answers := deviceCommand_answers hm hio
    refine ⟨?records, ?clear, ?policy, ?setPolicy, ?logs, ?log, ?identify, ?health⟩
    case records => exact (answers _ id : execGetEventRecords sev s = _)
    case clear => exact (answers _ _ : execClearEventRecords sev l s = _)
    case policy => exact (answers _ id : execGetEventInterruptPolicy s = _)
    case setPolicy => exact (answers _ _ : execSetEventInterruptPolicy l s = _)
    case logs => exact ⟨cxlBytes 0x0400 0 16, (answers _ id : execGetSupportedLogs s = _), cxlBytes_length ..⟩
    case log => exact fun off len => ⟨cxlBytes 0x0401 off len, (answers _ id : execGetLog off len s = _), cxlBytes_length ..⟩
    case identify => exact (answers _ id : execIdentifyMemoryDevice s = _)
    case health => exact ⟨s.drawNat.1, execGetHealthInfo_answers hm hio⟩
  case decoder =>
    intro dec base size ways lock s hd hio hfree
    refine (execHdmDecoderCommit_writes hd hio hfree).trans ?_
    simp only [writtenHdm, hdmOk_iff]
  case resets =>
    intro s hm
    have hl := isLive_of_ready hm
    exact ⟨_, execCxlHotReset_live hl, execPerstAssert_live hl, rfl, rfl, rfl, rfl, rfl, rfl, rfl, rfl, rfl, rfl, rfl, rfl, rfl, rfl, rfl, rfl, rfl,
      resetLink_requests⟩
  case perst => exact fun s => rfl
  case trains =>
    intro s hm hp
    exact ⟨_, _, Nat.mod_lt _ (by omega), Nat.mod_lt _ (by omega), execCxlLinkUp_trains (isLive_of_ready hm) hp⟩
  case fails => exact fun n s => execIdeFail_secure
  case keys =>
    intro n x start s hm hu hx hn
    refine (execIdeKmMessage_runs hm hu hx hn start).trans ?_
    rw [endStream_eq]
    rfl

end Sys2Proof.Machine
end

section
/-! O32: GO, the command it takes, and the register blocks. -/

namespace Sys2Proof.Machine

open Sys2Proof

variable {m : Nat} {s : State}

/-! ### GO (13 R381) -/

theorem execGo_submits (hlt : m < 8) : execGo m s = .next (submit m s) := by
  simp [execGo, Nat.not_le.mpr hlt]

theorem submit_takes (hr : boxReached m s = true) (hb : (s.box m).busy = false) (hh : s.svc.handover = false) :
    submit m s = runBuffer m (s.onBox m (fun b => { b with busy := true, go := false })) := by
  simp [submit, hr, hb, hh]

theorem submit_busy (hr : boxReached m s = true) (hb : (s.box m).busy = true) : submit m s = overrun m s := by
  simp [submit, hr, hb]

theorem submit_stalls (hr : boxReached m s = true) (hb : (s.box m).busy = false) (hh : s.svc.handover = true) :
    submit m s = s.onBox m (fun b => { b with busy := true, go := false, stalled := some (.go m), stalledAt := s.svc.now }) := by
  simp [submit, hr, hb, hh, stallCommand]

/-- The command that a buffer spells, where it needs nothing of the line. -/
def spelled (m : Nat) (b : List Host.Cell) : Parsed :=
  parse (bufferHdr m b true) (leNat (memGetN b 0 2)) (leNat (memGetN b 8 4)) (memGetN b 16 4080) false []

section
variable (h5 : leNat (memGetN (s.box m).buf 0 2) ≠ 0x0105) (h6 : leNat (memGetN (s.box m).buf 0 2) ≠ 0x0106)
include h5 h6

theorem runBuffer_runs {i : Instr} (hgot : spelled m (s.box m).buf = some (i, true)) : runBuffer m s = runCommand i s := by
  unfold spelled at hgot
  simp [runBuffer, h5, h6, hgot]

theorem runBuffer_bad_arg (hgot : spelled m (s.box m).buf = none) (hm : s.svc.mod = .ready) :
    runBuffer m s = reply (bufferHdr m (s.box m).buf true) 4 [] s := by
  unfold spelled at hgot
  simp [runBuffer, h5, h6, hgot, hm, msBadArg]
end

/-! ### The registers (17 R463, R472) -/

theorem execMbxEvtHead_moves {v : BitVec 32} (hlt : m < 8) (hr : boxReached m s = true) (hw : (s.box m).waiting = []) :
    execMbxEvtHead m v s = .next (if (v - (s.box m).head).toNat ≤ ((s.box m).tail - (s.box m).head).toNat
      then s.onBox m (fun b => { b with head := v }) else s) := by
  simp [execMbxEvtHead, Nat.not_le.mpr hlt, hr, setEvtHead, hw, drainEvents]

section
variable {bar o : Nat} {v : BitVec 64} (hr : regReached s bar = true)
include hr

theorem execRegisterWrite_word (ho : o % 4 = 0) : execRegisterWrite bar o 32 v s = .next (regWrite bar o (v.setWidth 32) s) := by
  simp [execRegisterWrite, hr, ho]

theorem execRegisterWrite_double (ho : o % 8 = 0) : execRegisterWrite bar o 64 v s =
    .next (regWrite bar (o + 4) (v.extractLsb' 32 32) (regWrite bar o (v.setWidth 32) s)) := by
  simp [execRegisterWrite, hr, ho]

theorem execRegisterWrite_other {w : Nat} (h32 : w ≠ 32) (h64 : w ≠ 64) : execRegisterWrite bar o w v s = .next s := by
  simp [execRegisterWrite, hr, h32, h64]
end

/-- The GO register of a mailbox behind BAR2. -/
theorem regWrite_go {v : BitVec 32} (hlt : m < 8) (h2 : m ≠ 2) (hv : v.getLsbD 0 = true) : regWrite 2 (8192 * m + 0x1000) v s = writeGo m s := by
  have hpage : (8192 * m + 4096) / 8192 = m := by omega
  have hoff : (8192 * m + 4096) % 8192 = 4096 := by omega
  simp [regWrite, hpage, hoff, h2, Nat.not_le.mpr hlt, pageWrite, hv]

/-! ### TIME_NOW (17 R467) -/

theorem registerRead_runs (hm : s.svc.mod = .ready) (hio : ioReaches s = true) (r : Nat) (run : State → State) :
    registerRead r run s = .next (run s) := by
  simp [registerRead, isLive, isReady, hm, hio]

theorem execTimeNowHighRead_latched {r : Nat} {v : BitVec 32} (hm : s.svc.mod = .ready) (hio : ioReaches s = true) (hv : s.host.shadows.find r = some v) :
    execTimeNowHighRead r s = .next (s.onHost (fun h =>
      { h with shadows := h.shadows.del r, readOut := h.readOut.put r (BitVec.ofNat 64 v.toNat) })) := by
  refine (registerRead_runs hm hio ..).trans ?_
  simp only [hv]
  rfl

theorem execTimeNowHighRead_live {r : Nat} (hm : s.svc.mod = .ready) (hio : ioReaches s = true) (hv : s.host.shadows.find r = none) :
    execTimeNowHighRead r s = .next (s.onHost (fun h => { h with readOut := h.readOut.put r (BitVec.ofNat 64 (s.svc.now / 2 ^ 32)) })) := by
  refine (registerRead_runs hm hio ..).trans ?_
  simp only [hv]
  rfl

/-- Settles O32: each GO and each register access by what the mailbox or the register is then. -/
theorem mailboxRegistersComplete : Obligations.MailboxRegistersComplete := by
  unfold Obligations.MailboxRegistersComplete
  refine ⟨?takes, ?reads, ?busy, ?stalls, ?goWrite, ?evtHead, ?write, ?low, ?latched, ?live⟩
  case takes =>
    intro m s hlt hr hb hh
    exact (execGo_submits hlt).trans (congrArg _ (submit_takes hr hb hh))
  case reads => exact fun m s h5 h6 => ⟨fun i => runBuffer_runs h5 h6, runBuffer_bad_arg h5 h6⟩
  case busy =>
    intro m s hlt hr hb
    exact (execGo_submits hlt).trans (congrArg _ (submit_busy hr hb))
  case stalls =>
    intro m s hlt hr hb hh
    exact (execGo_submits hlt).trans (congrArg _ (submit_stalls hr hb hh))
  case goWrite =>
    intro m v s hlt h2 hr hv
    have hreg : regReached s 2 = true := by simpa [boxReached, regReached, h2] using hr
    have hword : (v.setWidth 64).setWidth 32 = v := by simp
    refine (execRegisterWrite_word hreg (by omega)).trans ?_
    rw [hword, regWrite_go hlt h2 hv, writeGo, if_neg (by simp [hr])]
    rfl
  case evtHead => exact fun m v s => execMbxEvtHead_moves
  case write => exact fun bar o v s hr => ⟨execRegisterWrite_word hr, execRegisterWrite_double hr, fun w => execRegisterWrite_other hr⟩
  case low => exact fun r s hm hio => (registerRead_runs hm hio .. : execTimeNowLowRead r s = _)
  case latched => exact fun r v s => execTimeNowHighRead_latched
  case live => exact fun r s => execTimeNowHighRead_live

end Sys2Proof.Machine
end

section
/-! O39: the egress controls of a trunk port, the ring routes and the ingress marker. -/

namespace Sys2Proof.Machine

open Sys2Proof

variable {h : MHdr} {s : State} {port queue : Nat}

/-! ### A trunk queue read through an update -/

theorem State.tq_onTq_self (p q : Nat) (f : TrunkQueue → TrunkQueue) : (s.onTq p q f).tq p q = f (s.tq p q) := by
  simp [State.tq, State.onTq]

theorem State.tq_onTq_ne {p q a b : Nat} (f : TrunkQueue → TrunkQueue) (hab : ¬ (a = p ∧ b = q)) : (s.onTq p q f).tq a b = s.tq a b := by
  unfold State.tq State.onTq
  by_cases ha : a = p
  · rw [ha, State.onTrunk_self]
    exact Map.look_upd_ne _ _ _ _ fun hb => hab ⟨ha, hb⟩
  · rw [State.onTrunk_ne _ _ ha]

/-! ### The settings (12 R355 to R367) -/

/-- The routes of the ring, one for each member pair in increasing order. -/
def ringRoutes (mask : BitVec 8) (routes : List Nat) : Map Nat :=
  (((List.range 8).filter (fun k => mask.getLsbD k)).zip routes).foldl (fun m r => Map.put m r.1 r.2) []

section
variable {mask : BitVec 8} {routes : List Nat} (hs : Serves h [1] s) (hb : s.svc.bridge = false)
include hs hb

theorem execRingRouteSet_other {n : Node} (hn : s.svc.node = some n) (hm : mask.getLsbD (nodePair n) = false) :
    execRingRouteSet h mask routes s = .next (reply h 4 [] s) := by
  unfold execRingRouteSet
  refine command_bad_arg (row := { boxes := boxF }) (denied := noTrunks) hs hb ?_
  simp [hn, selfNode, hm]

variable (hlen : routes.length = ((List.range 8).filter (fun k => mask.getLsbD k)).length) (hr : ∀ r ∈ routes, r ≤ 2)
include hlen hr

theorem execRingRouteSet_unnumbered (hn : s.svc.node = none) : execRingRouteSet h mask routes s = .next (reply h 2 [] s) := by
  unfold execRingRouteSet
  refine (command_runs (row := { boxes := boxF }) (denied := noTrunks) hs hb ?_).trans ?_
  · simpa [hlen, hn] using hr
  · simp [hn, msBusy]

theorem execRingRouteSet_member {n : Node} (hn : s.svc.node = some n) (hm : mask.getLsbD (nodePair n) = true) : execRingRouteSet h mask routes s =
    .next (reply h 0 [] { s with svc := { s.svc with ring := some mask, routes := ringRoutes mask routes } }) := by
  unfold execRingRouteSet
  refine (command_runs (row := { boxes := boxF }) (denied := noTrunks) hs hb ?_).trans ?_
  · simpa [hlen, hn, selfNode, hm] using hr
  · rw [if_neg (by simp [hn])]
    rfl
end

theorem execMarkerSet_sets {off : Bool} {cir cbs ebs : Nat} (hs : Serves h [1] s) (hp : isPort port = true) (ha : portAbsent s port = false)
    (hrange : off = false → 1 ≤ cir ∧ cir ≤ 256000 ∧ cbs ≤ 16777216 ∧ ebs ≤ 16777216) :
    execMarkerSet h port off cir cbs ebs s = .next (reply h 0 [] (s.onPort port (fun q => { q with
      marker := if off then none else some { cir := cir, cbs := cbs, ebs := ebs, tc := cbs * 1000, te := ebs * 1000, at_ := s.svc.now } }))) := by
  refine command_runs (row := { boxes := boxF }) hs ha ?_
  cases off with
  | true => simp [hp]
  | false =>
    have hr := hrange rfl
    simp [hp]
    omega

theorem execPolicerSet_sets {pr pb : Nat} (hs : Serves h [1] s) (hp : isTrunk port = true) (ha : portAbsent s port = false) (hlo : 3 ≤ queue)
    (hhi : queue ≤ 7) (hpr : 1 ≤ pr) (hmax : pr ≤ 256000) (hpb : pb ≤ 16777216) :
    execPolicerSet h port queue pr pb s = .next (if pb < 2096 then reply h 4 [] s else reply h 0 [] (s.onTq port queue (fun x =>
      { x with policer := some { pr := pr, pb := pb, tokens := pb * 1000, at_ := s.svc.now } }))) := by
  by_cases hsmall : pb < 2096
  · rw [if_pos hsmall]
    exact command_bad_arg (row := { boxes := boxF }) hs ha (by simp [hsmall])
  · rw [if_neg hsmall]
    exact command_runs (row := { boxes := boxF }) hs ha (by simp [hp]; omega)

/-- What GATE_LIST_SET checks. -/
theorem gateList_args {entries : List (BitVec 32)} {base : Nat} (hp : isTrunk port = true) (hne : entries ≠ []) (hlen : entries.length ≤ 64)
    (hok : ∀ e ∈ entries, e.toNat % 8 = 7 ∧ 32 ≤ e.toNat / 256) (hbase : s.svc.now + 100000 ≤ base) :
    (!isTrunk port || entries.isEmpty || decide (64 < entries.length) || entries.any (fun e => !gateEntryOk e) ||
    decide (base < s.svc.now + 100000)) = false := by
  have hany : entries.any (fun e => !gateEntryOk e) = false := List.any_eq_false.mpr fun e he => by simp [gateEntryOk, gateInterval, hok e he]
  simp [hp, hne, hany, Nat.not_lt.mpr hlen, Nat.not_lt.mpr hbase]

section
variable {entries : List (BitVec 32)} {base : Nat} (hs : Serves h [1] s) (ha : portAbsent s port = false)
include hs ha

theorem execGateListSet_early (hbase : base < s.svc.now + 100000) : execGateListSet h port entries base s = .next (reply h 4 [] s) :=
  command_bad_arg (row := { boxes := boxF }) hs ha (by simp [hbase])

variable (hp : isTrunk port = true) (hne : entries ≠ []) (hlen : entries.length ≤ 64) (hok : ∀ e ∈ entries, e.toNat % 8 = 7 ∧ 32 ≤ e.toNat / 256)
  (hbase : s.svc.now + 100000 ≤ base)
include hp hne hlen hok hbase

theorem execGateListSet_waits (hfree : ∀ g, (s.trunk port).pending = some g → s.svc.now + 100000 < g.base) :
    execGateListSet h port entries base s =
      .next (reply h 0 [] (s.onTrunk port (fun t => { t with pending := some { entries := entries, base := base } }))) := by
  refine (command_runs (row := { boxes := boxF }) hs ha (gateList_args hp hne hlen hok hbase)).trans ?_
  cases hg : (s.trunk port).pending with
  | none => simp [msOk]
  | some g => simp [Nat.not_le.mpr (hfree g hg), msOk]

theorem execGateListSet_busy {g : GateList} (hg : (s.trunk port).pending = some g) (hlate : g.base ≤ s.svc.now + 100000) :
    execGateListSet h port entries base s = .next (reply h 2 [] s) := by
  refine (command_runs (row := { boxes := boxF }) hs ha (gateList_args hp hne hlen hok hbase)).trans ?_
  simp [hg, hlate, msBusy]
end

theorem execShaperSet_sets {rq burst tokens : Nat} (hs : Serves h [1] s) (hp : isTrunk port = true) (ha : portAbsent s port = false) (hlo : 3 ≤ queue)
    (hhi : queue ≤ 7) (hrq : rq ≤ 256000) (hburst : burst ≤ 1048576) (htok : tokens ≤ 1) :
    execShaperSet h port queue rq burst tokens s = .next (reply h 0 [] (s.onTq port queue (fun x =>
      let y := settleShaper (16 * s.svc.now) x
      if y.sendingUntil ≤ 16 * s.svc.now then { y with shaper := newShaper rq burst tokens (16 * s.svc.now) }
      else { y with shaperNext := some (newShaper rq burst tokens y.sendingUntil) }))) :=
  command_runs (row := { boxes := boxF }) hs ha (by simp [hp]; omega)

theorem newShaper_eq (rq burst tokens t : Nat) : newShaper rq burst tokens t = if rq = 0 then none else
    some { rq := rq, burst := burst, credit := if tokens = 0 then ((burst * 1024000 : Nat) : Int) else 0, at_ := t } := by
  simp [newShaper]

theorem execQueueSampleSet_sets {period : Nat} (hs : Serves h [1] s) (hb : s.svc.bridge = false) (hlo : 1000 ≤ period) (hhi : period ≤ 10000000) :
    execQueueSampleSet h period s = .next (reply h 0 [] (newPeriod s { s with svc := { s.svc with samplePeriod := period } })) :=
  command_runs (row := { boxes := boxF }) hs hb (by simp; omega)

theorem execQueueSamplesRead_reads {clear : Bool} (hs : Serves h [1] s) (hp : isTrunk port = true) (ha : portAbsent s port = false) (hq : queue ≤ 7) :
    let u := s.onTq port queue (rollSamples (sampleP s) s.svc.now)
    execQueueSamplesRead h port queue clear s = .next (reply h 0
      (pack [.num 2 ((u.tq port queue).samples.take 63).length, .bytes (((u.tq port queue).samples.take 63).flatMap (sampleBytes u))])
      (if clear then u.onTq port queue (fun x => { x with samples := x.samples.drop 63 }) else u)) :=
  command_runs (row := { boxes := boxF }) hs ha (by simp [hp]; omega)

/-! ### A change of shaper that waits (R366) -/

theorem settleShaper_none {now : Nat} {x : TrunkQueue} (hx : x.shaperNext = none) : settleShaper now x = x := by
  simp [settleShaper, hx]

theorem settleShaper_sending {now : Nat} {x : TrunkQueue} (hx : now < x.sendingUntil) : settleShaper now x = x := by
  unfold settleShaper
  split
  · exact if_neg (Nat.not_le.mpr hx)
  · rfl

theorem settleShaper_due {now : Nat} {x : TrunkQueue} {y : Option Shaper} (hy : x.shaperNext = some y) (hx : x.sendingUntil ≤ now) :
    settleShaper now x = { x with shaper := y, shaperNext := none } := by
  simp [settleShaper, hy, hx]

/-! ### A new sample period (R367) -/

section
variable (p P : Nat) (l : List Nat) (s : State)

theorem restartAll_now : (l.foldl (fun s q => s.onTq p q (restartSamples P s.svc.now)) s).svc.now = s.svc.now := by
  induction l generalizing s with
  | nil => rfl
  | cons q l ih => exact ih _

/-- The queues of a port sample afresh, each once. -/
theorem restartAll_tq (a b : Nat) (hl : l.Nodup) : (l.foldl (fun s q => s.onTq p q (restartSamples P s.svc.now)) s).tq a b =
    if a = p ∧ b ∈ l then restartSamples P s.svc.now (s.tq a b) else s.tq a b := by
  induction l generalizing s with
  | nil => simp
  | cons q l ih =>
    obtain ⟨hq, hl⟩ := List.nodup_cons.mp hl
    rw [List.foldl_cons, ih _ hl]
    by_cases hab : a = p ∧ b = q
    · obtain ⟨rfl, rfl⟩ := hab
      simp [hq, State.tq_onTq_self]
    · rw [State.tq_onTq_ne _ hab]
      have hmem : (a = p ∧ b ∈ q :: l) ↔ (a = p ∧ b ∈ l) := by
        rw [List.mem_cons, and_or_left, or_iff_right hab]
      simp only [hmem]
      rfl
end

theorem newPeriod_same {old : State} (hp : sampleP old = sampleP s) : newPeriod old s = s := by
  simp [newPeriod, hp]

theorem newPeriod_tq {old : State} (hp : sampleP old ≠ sampleP s) (hb : s.svc.bridge = false) (hport : isTrunk port = true) (hq : queue < 8) :
    (newPeriod old s).tq port queue = restartSamples (sampleP old) s.svc.now (s.tq port queue) := by
  have hnd : (List.range 8).Nodup := List.nodup_range
  have hcond : (sampleP old == sampleP s || s.svc.bridge) = false := by simp [hp, hb]
  have htrunk : port = 512 ∨ port = 528 := by simpa [isTrunk] using hport
  unfold newPeriod
  rw [hcond, if_neg Bool.false_ne_true, List.foldl_cons, List.foldl_cons, List.foldl_nil, restartAll_tq _ _ _ _ _ _ hnd, restartAll_tq _ _ _ _ _ _ hnd,
    restartAll_now]
  obtain rfl | rfl := htrunk <;> simp [hq]

/-! ### Gates (R362, R363) -/

section
variable (hp : isTrunk port = true)
include hp

theorem execGateEntryChange_ends (he : entryEnd (s.trunk port) ≤ s.svc.now)
    (hg : ∀ g, (s.trunk port).pending = some g → entryEnd (s.trunk port) < g.base) :
    execGateEntryChange port s = .next (nextEntry port (entryEnd (s.trunk port)) s) := by
  have htakes : takesOver (s.trunk port) (entryEnd (s.trunk port)) = false := by
    unfold takesOver
    split
    · next g hpend => simpa using hg g hpend
    · rfl
  simp [execGateEntryChange, hp, Nat.not_lt.mpr he, htakes]

theorem execGateEntryChange_early (he : s.svc.now < entryEnd (s.trunk port)) : execGateEntryChange port s = .next s := by
  simp [execGateEntryChange, hp, he]

theorem execGateEntryChange_taken {g : GateList} (hg : (s.trunk port).pending = some g) (hb : g.base ≤ entryEnd (s.trunk port)) :
    execGateEntryChange port s = .next s := by
  simp [execGateEntryChange, hp, takesOver, hg, hb]

theorem execGateListTakeover_none (hg : (s.trunk port).pending = none) : execGateListTakeover port s = .next s := by
  simp [execGateListTakeover, hp, hg]

theorem execGateListTakeover_due {g : GateList} (hg : (s.trunk port).pending = some g) (hb : g.base ≤ s.svc.now) :
    execGateListTakeover port s = .next (takeOver port g s) := by
  simp [execGateListTakeover, hp, hg, Nat.not_lt.mpr hb]

theorem execGateListTakeover_early {g : GateList} (hg : (s.trunk port).pending = some g) (hb : s.svc.now < g.base) :
    execGateListTakeover port s = .next s := by
  simp [execGateListTakeover, hp, hg, hb]
end

/-! ### The sample windows (R367) -/

section
variable {p now : Nat} {x : TrunkQueue}

theorem rollSamples_open (hnow : now < windowStop p x.win.start) : rollSamples p now x = x := by
  simp [rollSamples, hnow]

/-- What the rolling of windows leaves of a queue: everything but its sampling. -/
theorem rollSamples_queue : (rollSamples p now x).pkts = x.pkts ∧ (rollSamples p now x).policer = x.policer ∧ (rollSamples p now x).shaper = x.shaper ∧
    (rollSamples p now x).police = x.police ∧ (rollSamples p now x).full = x.full ∧ (rollSamples p now x).gateDrops = x.gateDrops := by
  unfold rollSamples
  dsimp only
  split
  · exact ⟨rfl, rfl, rfl, rfl, rfl, rfl⟩
  · simp only [keepSamples, tqTouch, and_self]

section
variable (hp : p ≠ 0) (he : windowStop p x.win.start ≤ now)
include hp he

theorem not_open : ¬ (p = 0 ∨ now < windowStop p x.win.start) := by
  simp [hp, he]

theorem rollSamples_win : (rollSamples p now x).win =
    { start := windowStop p x.win.start + (now - windowStop p x.win.start) / p * p, maxDepth := tqBytes x } := by
  unfold rollSamples
  dsimp only
  rw [if_neg (not_open hp he)]
  simp only [keepSamples]

theorem rollSamples_samples : (rollSamples p now x).samples.length = min 256 (x.samples.length + 1 + (now - windowStop p x.win.start) / p) := by
  unfold rollSamples
  dsimp only
  rw [if_neg (not_open hp he)]
  generalize (now - windowStop p x.win.start) / p = n
  simp only [keepSamples, tqTouch, List.length_drop, List.length_append, List.length_map, List.length_range, List.length_singleton]
  omega

theorem rollSamples_lost : (rollSamples p now x).samplesLost =
    satAdd 32 x.samplesLost (x.samples.length + 1 + (now - windowStop p x.win.start) / p - 256) := by
  unfold rollSamples
  dsimp only
  rw [if_neg (not_open hp he)]
  generalize (now - windowStop p x.win.start) / p = n
  simp only [keepSamples, tqTouch, List.length_append, List.length_map, List.length_range, List.length_singleton]
  exact congrArg (satAdd 32 x.samplesLost) (by omega)

/-- The window in progress is the one that holds the present moment. -/
theorem rollSamples_holds_now : (rollSamples p now x).win.start ≤ now ∧ now < (rollSamples p now x).win.start + p := by
  rw [rollSamples_win hp he]
  have hdiv := Nat.div_add_mod' (now - windowStop p x.win.start) p
  have hmod := Nat.mod_lt (now - windowStop p x.win.start) (Nat.pos_of_ne_zero hp)
  exact ⟨by dsimp only; omega, by dsimp only; omega⟩
end
end

/-- Settles O39: the checks of each command and what it sets; the gates and the sample windows by the moment of the event. -/
theorem trunkCommandsComplete : Obligations.TrunkCommandsComplete := by
  unfold Obligations.TrunkCommandsComplete
  refine ⟨?routes, ?marker, ?policer, ?gates, ?shaper, ?settle, ?period, ?newPeriod, ?read, ?gateEvents, ?window, ?roll⟩
  case routes =>
    intro h mask routes s hs hb hlen hr
    show execRingRouteSet h mask routes s = _
    cases hn : s.svc.node with
    | none => exact execRingRouteSet_unnumbered hs hb hlen hr hn
    | some n =>
      cases hm : mask.getLsbD (nodePair n) with
      | true => exact (execRingRouteSet_member hs hb hlen hr hn hm).trans (congrArg _ (if_pos hm).symm)
      | false => exact (execRingRouteSet_other hs hb hn hm).trans (congrArg _ (if_neg (by simp [hm])).symm)
  case marker => exact fun h port off cir cbs ebs s => execMarkerSet_sets
  case policer => exact fun h port queue pr pb s => execPolicerSet_sets
  case gates =>
    intro h port entries base s hs hp ha hne hlen hok
    exact ⟨execGateListSet_early hs ha, execGateListSet_waits hs ha hp hne hlen hok,
      fun hbase ⟨g, hg, hlate⟩ => execGateListSet_busy hs ha hp hne hlen hok hbase hg hlate⟩
  case shaper =>
    intro h port queue rq burst tokens s hs hp ha hlo hhi hrq hburst htok fresh
    refine (execShaperSet_sets hs hp ha hlo hhi hrq hburst htok).trans ?_
    simp only [newShaper_eq, fresh]
  case settle => exact fun now x => ⟨settleShaper_none, settleShaper_sending, fun y => settleShaper_due⟩
  case period => exact fun h period s => execQueueSampleSet_sets
  case newPeriod => exact fun old s port queue => ⟨newPeriod_same, newPeriod_tq⟩
  case read => exact fun h port queue clear s => execQueueSamplesRead_reads
  case gateEvents =>
    intro port s hp t e
    exact ⟨execGateEntryChange_ends hp, execGateEntryChange_early hp, fun g => execGateEntryChange_taken hp, execGateListTakeover_none hp,
      fun g => execGateListTakeover_due hp, fun g => execGateListTakeover_early hp⟩
  case window =>
    intro port queue s hp hq
    show execQueueSampleWindow port queue s = _
    simp [execQueueSampleWindow, hp, Nat.not_le.mpr hq, sampleP]
  case roll =>
    intro p now x hp e y
    refine ⟨rollSamples_open, fun he => ?_⟩
    obtain ⟨hpkts, hpolicer, hshaper, hpolice, hfull, hgate⟩ := rollSamples_queue (p := p) (now := now) (x := x)
    obtain ⟨hfrom, hto⟩ := rollSamples_holds_now hp he
    exact ⟨hpkts, hpolicer, hshaper, hpolice, hfull, hgate, rollSamples_win hp he, hfrom, hto, rollSamples_samples hp he, rollSamples_lost hp he⟩

end Sys2Proof.Machine
end

section
/-! O40: messages at this node, and the ways of a message that comes in on a trunk. -/

namespace Sys2Proof.Machine

open Sys2Proof

variable {port : Nat} {p : Packet} {s : State}

/-! ### Checks 6 to 8 (04 R90, R113) -/

section
variable {run : State → State}

theorem judged_stale (ha : authCheck p s = .stale) : judged port p run s = discardStale port s := by
  simp [judged, ha]

theorem judged_unsure (ha : authCheck p s = .fail) : judged port p run s = discardUnsure port s := by
  simp [judged, ha]

variable (ha : authCheck p s = .ok)
include ha

theorem judged_malformed (hbad : flagsBad p = true ∨ p.offset.toNat % 128 ≠ 0) : judged port p run s = discardMalformed port 7 p s := by
  obtain hf | ho := hbad
  · simp [judged, ha, hf]
  · simp [judged, ha, ho]

variable (hf : flagsBad p = false) (ho : p.offset.toNat % 128 = 0)
include hf ho

theorem judged_gone (hg : tenantGone p.tenant.toNat s = true) : judged port p run s = discardStale port s := by
  simp [judged, ha, hf, ho, hg]

theorem judged_runs (hg : tenantGone p.tenant.toNat s = false) : judged port p run s = run s := by
  simp [judged, ha, hf, ho, hg]
end

/-! ### The receiver (12 R349 to R353) -/

/-- A SEQ is accepted: its stream has `x` now, and it is answered NOT_MAPPED. -/
def acceptedMsg (p : Packet) (x : BitVec 16 × Map Nat) (s : State) : State :=
  sendPacket none (msgAckOf s p stNotMapped) (s.onSvc (fun v => { v with streams := v.streams.put p.src.toNat x }))

theorem messageArrives_first (hst : s.svc.streams.find p.src.toNat = none) :
    messageArrives port p s = acceptedMsg p (p.seq, [(p.seq.toNat, stNotMapped)]) s := by
  simp [messageArrives, hst, acceptedMsg, acceptMsg]

section
variable {high : BitVec 16} {m : Map Nat} (hst : s.svc.streams.find p.src.toNat = some (high, m))
include hst

theorem messageArrives_again {st : Nat} (hb : (high - p.seq).toNat < 4096) (hm : m.find p.seq.toNat = some st) :
    messageArrives port p s = sendPacket none (msgAckOf s p st) s := by
  simp only [messageArrives, hst, hb, if_true, hm]

theorem messageArrives_stale (hlo : 4096 ≤ (high - p.seq).toNat) (hhi : (high - p.seq).toNat < 8192) (hr : msgRestart p = false) :
    messageArrives port p s = discardStale port (s.onSvc (fun v => { v with staleMsgs := v.staleMsgs + 1 })) := by
  simp only [messageArrives, hst]
  generalize (high - p.seq).toNat = below at hlo hhi
  simp [Nat.not_lt.mpr hlo, hlo, hhi, hr]

theorem messageArrives_new (hm : (high - p.seq).toNat < 4096 → m.find p.seq.toNat = none)
    (hb : msgRestart p = true ∨ (high - p.seq).toNat < 4096 ∨ 8192 ≤ (high - p.seq).toNat) :
    messageArrives port p s = acceptedMsg p (acceptMsg p stNotMapped (some (high, m))) s := by
  have hknown : (if (high - p.seq).toNat < 4096 then m.find p.seq.toNat else none) = none := by
    split
    · next hlt => exact hm hlt
    · rfl
  have hfresh : (!msgRestart p && decide (4096 ≤ (high - p.seq).toNat) && decide ((high - p.seq).toNat < 8192)) = false := by
    obtain hr | hlt | hge := hb
    · simp [hr]
    · simp only [Nat.not_le.mpr hlt, decide_false, Bool.and_false, Bool.false_and]
    · simp only [Nat.not_lt.mpr hge, decide_false, Bool.and_false]
  simp only [messageArrives, hst, hknown, Option.isSome_some, Bool.true_and, hfresh]
  rfl
end

theorem acceptMsg_some (high : BitVec 16) (m : Map Nat) (status : Nat) :
    let top := if (p.seq - high).toNat < 32768 then p.seq else high
    acceptMsg p status (some (high, m)) = if msgRestart p then (p.seq, [(p.seq.toNat, status)])
      else (top, (Map.put m p.seq.toNat status).filter (fun e => decide ((top - BitVec.ofNat 16 e.1).toNat < 4096))) := by
  cases hr : msgRestart p <;> simp [acceptMsg, hr]

/-! ### The sender (12 R351) -/

section
variable {peer : Nat} {seq : BitVec 16} {k : Packet} {first last : Nat} {busy : Bool} (hm : s.svc.mod = .ready)
  (ho : openSend s peer seq = some (k, first, last, busy))
include hm ho

theorem execMsgRto_open : execMsgRto peer seq s = .next (if last + 1000000 ≤ s.svc.now
    then restartSend peer seq false (sendFor none { k with conf := false, keySlot := 0 } s) else s) := by
  by_cases hdue : last + 1000000 ≤ s.svc.now <;> simp [execMsgRto, ho, isReady, hm, msgRto, hdue]

theorem execMsgLifetime_open : execMsgLifetime peer seq s = .next (if first + 100000000 ≤ s.svc.now
    then endSend peer seq (if busy then stBusy else stTimeout) s else s) := by
  by_cases hdue : first + 100000000 ≤ s.svc.now <;> simp [execMsgLifetime, ho, isReady, hm, msgLifetime, hdue]
end

/-! ### A message on a trunk (12 R356) -/

theorem isPort_of_isTrunk (ht : isTrunk port = true) : isPort port = true := by
  obtain rfl | rfl : port = 512 ∨ port = 528 := by simpa [isTrunk] using ht
  · rfl
  · rfl

theorem outLocal_ne_of_isTrunk (ht : isTrunk port = true) : port ≠ outLocal := by
  rintro rfl
  cases ht

/-- Check 3 is made of a message from a trunk where its pair is this one. -/
theorem message_known (hmsg : p.isMsg = true)
    (hk : nodePair p.dst = nodePair (portSelf s port) → unknownDst s (nodePair (portSelf s port)) p = false) :
    ((!p.isMsg || nodePair p.dst == nodePair (portSelf s port)) && unknownDst s (nodePair (portSelf s port)) p) = false := by
  by_cases hd : nodePair p.dst = nodePair (portSelf s port)
  · simp [hmsg, hd, hk hd]
  · simp [hmsg, hd]

/-- In the direction of its travel a message goes on where its destination is nearer than its source. -/
theorem pathFromTrunk_onward {a b : Nat} (hmsg : p.isMsg = true) (hd : nodePair p.dst ≠ nodePair (portSelf s port))
    (hc : crossesTo (portSelf s port) p.dst = true) (ha : ringDist s (port == 528) (nodePair (portSelf s port)) (nodePair p.dst) = some a)
    (hsrc : ringDist s (port == 528) (nodePair (portSelf s port)) (nodePair p.src) = some b) (hab : a < b) :
    pathFromTrunk s port (portSelf s port) p = .out (if port == 528 then 512 else 528) := by
  simp only [pathFromTrunk, hmsg, beq_eq_false_iff_ne.mpr hd, hc, ha, hsrc, hab]
  rfl

section
variable (ht : isTrunk port = true) (hb : s.svc.bridge = false) (hm2 : malformed2 p = false) (hmsg : p.isMsg = true)
  (hk : nodePair p.dst = nodePair (portSelf s port) → unknownDst s (nodePair (portSelf s port)) p = false)
include ht hb hm2 hmsg hk

theorem pathOf_passes {o : Nat} (hpath : pathFromTrunk s port (portSelf s port) p = .out o) (hup : isPort o = true → (s.port o).coreDown = false) :
    pathOf s port none p = .out o := by
  have hdown : (isPort o && (s.port o).coreDown) = false := by
    cases ho : isPort o with
    | true => simp [hup ho]
    | false => rfl
  simp [pathOf, outLocal_ne_of_isTrunk ht, hb, hm2, ht, message_known hmsg hk, hpath, hdown]

theorem pathOf_unreachable (hpath : pathFromTrunk s port (portSelf s port) p = .unreachable) : pathOf s port none p = .unreachable := by
  simp [pathOf, outLocal_ne_of_isTrunk ht, hb, hm2, ht, message_known hmsg hk, hpath]
end

section
variable (ht : isTrunk port = true) (hb : s.svc.bridge = false) (hm2 : malformed2 p = false) (hmsg : p.isMsg = true) (hs : srcOk s port p = true)
include ht hb hm2 hmsg hs

/-- The message passes to an output that is up. -/
theorem checkPacket_passes {o : Nat} (hk : nodePair p.dst = nodePair (portSelf s port) → unknownDst s (nodePair (portSelf s port)) p = false)
    (hpath : pathFromTrunk s port (portSelf s port) p = .out o) (hup : isPort o = true → (s.port o).coreDown = false) :
    checkPacket port none p s = .inr o := by
  simp [checkPacket, hs, hb, pathOf_passes ht hb hm2 hmsg hk hpath hup]

variable (hd : nodePair p.dst ≠ nodePair (portSelf s port)) (hc : crossesTo (portSelf s port) p.dst = true)
include hd hc

theorem checkPacket_unreachable (hnot : ¬ ∃ a b, ringDist s (port == 528) (nodePair (portSelf s port)) (nodePair p.dst) = some a ∧
      ringDist s (port == 528) (nodePair (portSelf s port)) (nodePair p.src) = some b ∧ a < b) :
    checkPacket port none p s = .inl (s.onCnt port (fun c => { c with ringUnreachable := c.ringUnreachable + 1 })) := by
  have hpath : pathFromTrunk s port (portSelf s port) p = .unreachable := by
    simp only [pathFromTrunk, hmsg, beq_eq_false_iff_ne.mpr hd, hc, if_true, Bool.not_true, Bool.false_eq_true, if_false]
    split
    · next a b ha hb => exact if_neg fun hab => hnot ⟨a, b, ha, hb, hab⟩
    · rfl
  simp [checkPacket, hs, hb, pathOf_unreachable ht hb hm2 hmsg (fun he => absurd he hd) hpath]
end

section
variable (ht : isTrunk port = true) (x : Packet × Option Nat)
include ht

theorem takeHead_trunk_svc : (takeHead port x s).svc = s.svc := by
  simp only [takeHead, beq_iff_eq, outLocal_ne_of_isTrunk ht, if_false]
  split
  · rfl
  · split <;> rfl

theorem takeHead_portSelf : portSelf (takeHead port x s) port = portSelf s port := by
  have hself : ((takeHead port x s).port port).self = (s.port port).self := by
    simp only [takeHead, beq_iff_eq, outLocal_ne_of_isTrunk ht, if_false, xoffUpdate]
    split
    · simp
    · split
      · simp [State.onLink]
      · simp
  unfold portSelf selfNode
  rw [hself, takeHead_trunk_svc ht]

/-- The ways on the ring do not depend on what waits at a port. -/
theorem takeHead_ringDist (east : Bool) (a b : Nat) : ringDist (takeHead port x s) east a b = ringDist s east a b := by
  unfold ringDist ringPairs selfNode
  rw [takeHead_trunk_svc ht]
end

section
variable (ht : isTrunk port = true) (hm : s.svc.mod = .ready) (hn : s.svc.node ≠ none) (hmsg : p.isMsg = true)
include ht hm hn hmsg

theorem execTrunkMessageArrival_admits {o : Nat} (hc : checkPacket port none p s = .inr o) :
    execTrunkMessageArrival port p s = .next (admitG port o (p, none) s) := by
  simp [execTrunkMessageArrival, ht, isReady, hm, hmsg, hn, hc]

theorem execTrunkMessageArrival_refuses {t u : State} (hc : checkPacket port none p s = .inl t)
    (hu : checkPacket port none p (takeHead port (p, none) s) = .inl u) : execTrunkMessageArrival port p s = .next u := by
  simp [execTrunkMessageArrival, ht, isReady, hm, hmsg, hn, hc, hu]
end

/-- Settles O40: the checks of a packet and then the message's own rule; on a trunk its path. -/
theorem messagesComplete : Obligations.MessagesComplete := by
  unfold Obligations.MessagesComplete
  refine ⟨?arrives, ?checks, ?acks, ?timers, ?noTimers, ?trunk⟩
  case arrives =>
    intro port p ecc s hport hm hd hop k u below ha hf ho hg
    have hrow : execMsgSend port p ecc s = .next (messageArrives port k u) :=
      (agentRow_runs hport hm hd hop).trans (congrArg _ (judged_runs ha hf ho hg))
    refine ⟨fun hst => hrow.trans (congrArg _ (messageArrives_first hst)), fun high m hst => ?later⟩
    have hst : u.svc.streams.find k.src.toNat = some (high, m) := hst
    refine ⟨?again, ?stale, ?new⟩
    case again => exact fun st hb hst' => hrow.trans (congrArg _ (messageArrives_again hst hb hst'))
    case stale => exact fun hlo hhi hr => hrow.trans (congrArg _ (messageArrives_stale hst hlo hhi hr))
    case new =>
      intro hnew hb
      refine hrow.trans (congrArg _ ((messageArrives_new hst hnew hb).trans ?_))
      rw [acceptMsg_some]
      rfl
  case checks =>
    intro port p ecc row s hport hm hd hrow k u
    obtain ⟨run, hrun⟩ : ∃ run, exec row s = .next (judged port k run u) := by
      obtain ⟨rfl, hop⟩ | ⟨rfl, hop⟩ := hrow
      · exact ⟨_, (agentRow_runs hport hm hd hop : execMsgSend port p ecc s = _)⟩
      · exact ⟨_, (agentRow_runs hport hm hd hop : execMsgAck port p s = _)⟩
    exact ⟨fun ha hbad => hrun.trans (congrArg _ (judged_malformed ha hbad)),
      fun ha hf ho hg => hrun.trans (congrArg _ (judged_gone ha hf ho hg)),
      fun ha => hrun.trans (congrArg _ (judged_stale ha)), fun ha => hrun.trans (congrArg _ (judged_unsure ha))⟩
  case acks =>
    intro port p s hport hm hd hop k u ha hf ho hg
    refine (agentRow_runs hport hm hd hop : execMsgAck port p s = _).trans (congrArg _ ((judged_runs ha hf ho hg).trans ?_))
    simp only [Option.isNone_iff_eq_none, beq_iff_eq]
    rfl
  case timers => exact fun peer seq k first last busy s hm ho => ⟨execMsgRto_open hm ho, execMsgLifetime_open hm ho⟩
  case noTimers =>
    intro peer seq s ho
    exact ⟨by show execMsgRto peer seq s = _; simp [execMsgRto, ho], by show execMsgLifetime peer seq s = _; simp [execMsgLifetime, ho]⟩
  case trunk =>
    intro port p s ht hm hn hb hmsg hs hm2 n east u near
    refine ⟨?here, ?endPoint, ?onward, ?unreachable⟩
    case here =>
      intro hd hk
      refine execTrunkMessageArrival_admits ht hm hn hmsg (checkPacket_passes ht hb hm2 hmsg hs (fun _ => hk) ?_ (by simp [isPort, outLocal]))
      simp [pathFromTrunk, hmsg, hd, n]
    case endPoint =>
      intro hpair hend hd hup
      refine execTrunkMessageArrival_admits ht hm hn hmsg (checkPacket_passes ht hb hm2 hmsg hs (fun hp => ?_) ?_ fun _ => hup)
      · simp [unknownDst, hend, hp]
      · have hdn : (p.dst == portSelf s port) = false := by simpa using hd
        simp only [pathFromTrunk, hmsg, if_true, hend, hdn, beq_iff_eq.mpr (show nodePair p.dst = nodePair (portSelf s port) from hpair)]
        rfl
    case onward =>
      intro hpair hc hnear hup
      obtain ⟨a, b, ha, hsrc, hab⟩ := hnear
      exact execTrunkMessageArrival_admits ht hm hn hmsg (checkPacket_passes ht hb hm2 hmsg hs (fun hp => absurd hp hpair)
        (pathFromTrunk_onward hmsg hpair hc ha hsrc hab) fun _ => hup)
    case unreachable =>
      intro hpair hc hnot
      have hself : portSelf u port = n := takeHead_portSelf ht _
      have hsvc : u.svc = s.svc := takeHead_trunk_svc ht _
      have hsu : srcOk u port p = true := by simp [srcOk, ht]
      refine execTrunkMessageArrival_refuses ht hm hn hmsg (checkPacket_unreachable ht hb hm2 hmsg hs hpair hc hnot)
        (checkPacket_unreachable ht (by rw [hsvc]; exact hb) hm2 hmsg hsu ?_ ?_ ?_)
      · rw [hself]
        exact hpair
      · rw [hself]
        exact hc
      · rw [hself, takeHead_ringDist ht, takeHead_ringDist ht]
        exact hnot

end Sys2Proof.Machine
end

section
/-! O42: tenants are created, revoked and erased. -/

namespace Sys2Proof.Machine

open Sys2Proof

variable {h : MHdr} {t : Nat} {s : State}

/-! ### What a change of P leaves (12 R368) -/

theorem newPeriod_keeps {β : Type} (f : State → β) (hf : ∀ s p q g, f (State.onTq s p q g) = f s) (old s : State) : f (newPeriod old s) = f s := by
  unfold newPeriod
  split
  · rfl
  · exact foldl_keeps f (fun s p => foldl_keeps f (fun s q => hf s p q _) _ s) _ s

@[simp] theorem newPeriod_sec (old s : State) : (newPeriod old s).sec = s.sec := newPeriod_keeps State.sec (fun _ _ _ _ => rfl) old s
@[simp] theorem newPeriod_mbx (old s : State) : (newPeriod old s).mbx = s.mbx := newPeriod_keeps State.mbx (fun _ _ _ _ => rfl) old s
@[simp] theorem newPeriod_handover (old s : State) : (newPeriod old s).svc.handover = s.svc.handover :=
  newPeriod_keeps (fun s => s.svc.handover) (fun _ _ _ _ => rfl) old s

/-! ### TENANT_CREATE (14 R395) -/

theorem pack_num8 (v : Nat) : pack [.num 8 v] = leBytes v 8 := by
  have h0 : alignUp 0 8 = 0 := rfl
  have h8 : alignUp 8 8 = 8 := rfl
  simp [pack, packGo, padTo, h0, h8, List.take_of_length_le]

theorem execTenantCreate_runs {conf : Bool} (hs : Serves h [0] s) (ht : t ≤ 1023) : execTenantCreate h t conf s =
    .next (if (s.tenant t).isSome then reply h 2 [] s
      else reply h 0 (leBytes (createTenant t conf s).sec.epoch 8) (createTenant t conf s)) := by
  refine (command_runs (row := { boxes := boxH }) hs rfl (by simp [ht])).trans ?_
  simp only [epochField, pack_num8]
  rfl

/-- The debug port of a confidential tenant's part is closed, and what the epoch and the snapshot do beside it. -/
theorem createTenant_eq (t : Nat) (conf : Bool) (s : State) : createTenant t conf s =
    (let a := if conf && !anyConf s then { s with snap := snapshot s } else s
     let b := if conf && s.sec.debugOn then bumpEpoch a else a
     let w : State := { b with sec := { b.sec with
       debugOn := s.sec.debugOn && !conf
       debugLatched := s.sec.debugLatched || conf
       tenants := s.sec.tenants.put t { conf := conf, memKey := s.free + 1 }
       revoked := s.sec.revoked.filter (fun r => r.1 != t) } }
     bumpEpoch { newPeriod b w with free := s.free + 1 }) := by
  cases conf with
  | false =>
    simp only [createTenant, Bool.false_and, Bool.false_eq_true, if_false, Bool.not_false, Bool.and_true, Bool.or_false]
    rfl
  | true =>
    cases ha : anyConf s <;> cases hd : s.sec.debugOn
    all_goals
      simp only [createTenant, closeDebug, takeSnapshot, ha, hd, Bool.not_true, Bool.not_false, Bool.and_true, Bool.and_false, Bool.or_true,
        Bool.false_eq_true, if_true, if_false]
      rfl

/-! ### TENANT_REVOKE (14 R413, R415) -/

theorem execTenantRevoke_serves {fence : Nat} (hs : Serves h [0] s) (ht : t ≤ 1023) (hlo : 100000 ≤ fence) (hhi : fence ≤ 100000000) :
    execTenantRevoke h t fence s = .next (transition (.tenant t) (.tenantRevoke h t fence) h (runRevoke .buffer h t fence) s) :=
  command_runs (row := { boxes := boxH }) hs rfl (by simp; omega)

theorem runRevoke_gone {fence : Nat} (hg : s.tenant t = none ∨ isRevoking s t = true) (via : Via) :
    runRevoke via h t fence s = finish via h 0x0802 msOk [] s := by
  unfold runRevoke
  rw [if_pos (by simpa using hg)]

theorem runRevoke_starts {fence : Nat} (hx : (s.tenant t).isSome = true) (hr : isRevoking s t = false) :
    runRevoke .buffer h t fence s = wakeComputes (dropCached t (stopQueues t (failFaults t
      (stopStreams t (abortOps t (dropHeld t (enterRevoking t fence (beginTrans (.tenant t) h 0x0802 (reply h 7 [] s))))))))) := by
  unfold runRevoke
  rw [if_neg (by simp [hr, Option.isSome_iff_ne_none.mp hx])]
  rfl

/-! ### The drain fence and the last step (14 R413) -/

section
variable {x : Tenant} {r : Revocation} (hx : s.tenant t = some x) (hr : x.rev = some r)
include hx hr

theorem execDrainFenceEnd_due (hst : r.stage = .fencing) (hdue : r.t0 + r.fence ≤ s.svc.now) :
    execDrainFenceEnd t s = .next (endRequests t (eraseTenant t s)) := by
  simp [execDrainFenceEnd, hx, hr, hst, hdue]

theorem execDrainFenceEnd_early (hno : r.stage = .erasing ∨ s.svc.now < r.t0 + r.fence) : execDrainFenceEnd t s = .next s := by
  obtain hst | hnow := hno
  · simp [execDrainFenceEnd, hx, hr, hst]
  · simp [execDrainFenceEnd, hx, hr, Nat.not_le.mpr hnow]

theorem execRevocationComplete_fencing (hst : r.stage = .fencing) : execRevocationComplete t s = .next s := by
  simp [execRevocationComplete, hx, hr, hst]
end

section
variable (hr : isRevoking s t = false)
include hr

theorem rev_none_of_not_revoking {x : Tenant} (hx : s.tenant t = some x) : x.rev = none := by
  simpa [isRevoking, hx] using hr

theorem execDrainFenceEnd_not_revoking : execDrainFenceEnd t s = .next s := by
  cases hx : s.tenant t with
  | none => simp [execDrainFenceEnd, hx]
  | some x => simp [execDrainFenceEnd, hx, rev_none_of_not_revoking hr hx]

theorem execRevocationComplete_not_revoking : execRevocationComplete t s = .next s := by
  cases hx : s.tenant t with
  | none => simp [execRevocationComplete, hx]
  | some x => simp [execRevocationComplete, hx, rev_none_of_not_revoking hr hx]
end

/-- The part once the last step has run: frames zero, the ID free, the epoch advanced. -/
def freedTenant (t : Nat) (x : Tenant) (r : Revocation) (s : State) : State :=
  bumpEpoch (newPeriod s ((zeroFrames r.frames s).onSec (fun e => { e with
    tenants := e.tenants.del t
    revoked := e.revoked.filter (fun v => v.1 != t) ++ [(t, x.conf)] })))

section
variable {x : Tenant} {r : Revocation}

theorem execRevocationComplete_erasing (hx : s.tenant t = some x) (hr : x.rev = some r) (hst : r.stage = .erasing) :
    execRevocationComplete t s = .next (endTrans (.tenant t) msOk [] runQueuedTenant (freedTenant t x r s)) := by
  simp only [execRevocationComplete, hx, hr, hst]
  rfl

theorem freedTenant_mbx : (freedTenant t x r s).mbx = s.mbx := by
  rw [freedTenant, bumpEpoch_mbx, newPeriod_mbx]
  rfl

theorem freedTenant_handover : (freedTenant t x r s).svc.handover = s.svc.handover := by
  rw [freedTenant, bumpEpoch_svc, newPeriod_handover]
  rfl

theorem freedTenant_tenant : (freedTenant t x r s).tenant t = none := by
  have htenants : (freedTenant t x r s).sec.tenants = s.sec.tenants.del t := by
    rw [freedTenant, bumpEpoch]
    simp only [State.onSec, newPeriod_sec]
    rfl
  rw [State.tenant, htenants, Map.find_del_self]
end

/-! ### Erasure (14 R413 step 6) -/

/-- A tenant of which nothing but its ID and mode is left. -/
def erasedTenant (frames : List (Nat × Nat)) (x : Tenant) : Tenant :=
  { x with
    slots := []
    sendSlot := none
    memKey := 0
    regions := []
    rev := x.rev.map (fun r => { r with stage := .erasing, frames := frames }) }

/-- What the retirement of a tenant's keys leaves is what the requester does not hold. -/
theorem retireKeys_keeps {β : Type} (f : State → β) (hf : ∀ s g, f (State.onReq s g) = f s) (t : Nat) (s : State) : f (retireKeys t s) = f s := by
  refine foldl_keeps f (fun s k => ?_) _ s
  unfold retireKey
  split
  · exact hf _ _
  · exact hf _ _

/-- Erasure, seen from what does not lie in the reedbed or the requester. -/
theorem eraseTenant_frame (t : Nat) (s : State) : ∃ (u : State) (frames : List (Nat × Nat)),
    eraseTenant t s = bumpEpoch (u.onTenant t (erasedTenant frames)) ∧ u.sec = s.sec ∧
    u.xlat.src = s.xlat.src.filter (fun e => e.tenant != t) ∧ u.xlat.tgt = s.xlat.tgt.filter (fun e => e.tenant != t) ∧
    u.queues.qps = s.queues.qps.filter (fun q => q.2.tenant != t) := by
  have keeps {β : Type} (f : State → β) (hreq : ∀ s g, f (State.onReq s g) = f s) (hreed : ∀ s g, f (State.onReed s g) = f s)
      (hcl : ∀ s c g, f (State.onCluster s c g) = f s) (parts : Map Partition) (g : Reedbed → Reedbed) (u : State) :
      f (retireKeys t ((parts.foldl (fun s p => (clustersOf p.2.mask).foldl (fun s c => zeroCluster c s) s) u).onReed g)) = f u := by
    rw [retireKeys_keeps f hreq, hreed]
    exact foldl_keeps f (fun s p => foldl_keeps f (fun s c => hcl s c _) _ s) _ u
  refine ⟨_, _, rfl, ?_, ?_, ?_, ?_⟩
  · exact keeps State.sec (fun _ _ => rfl) (fun _ _ => rfl) (fun _ _ _ => rfl) _ _ _
  · exact keeps (fun s => s.xlat.src) (fun _ _ => rfl) (fun _ _ => rfl) (fun _ _ _ => rfl) _ _ _
  · exact keeps (fun s => s.xlat.tgt) (fun _ _ => rfl) (fun _ _ => rfl) (fun _ _ _ => rfl) _ _ _
  · exact keeps (fun s => s.queues.qps) (fun _ _ => rfl) (fun _ _ => rfl) (fun _ _ _ => rfl) _ _ _

/-- Settles O42: the life of a tenant, command by command and event by event. -/
theorem tenantLifeCycleCompletes : Obligations.TenantLifeCycleCompletes := by
  unfold Obligations.TenantLifeCycleCompletes
  refine ⟨⟨?create, ?revoke, ?fence, ?complete, ?snapshot⟩, ?erase⟩
  case create =>
    intro h t conf s hs ht
    refine (execTenantCreate_runs hs ht).trans ?_
    rw [createTenant_eq]
  case revoke =>
    intro h t fence s hs ht hlo hhi
    have hrow := execTenantRevoke_serves hs ht hlo hhi
    refine ⟨fun hk hg => hrow.trans ?_, fun hk hx hr => hrow.trans ?_, fun x hk => hrow.trans (congrArg _ (transition_waits hk))⟩
    · rw [transition_runs hk, runRevoke_gone hg]
      rfl
    · rw [transition_runs hk, runRevoke_starts hx hr]
  case fence =>
    exact fun t s => ⟨fun x r => execDrainFenceEnd_due, fun x r => execDrainFenceEnd_early,
      fun hr => ⟨execDrainFenceEnd_not_revoking hr, execRevocationComplete_not_revoking hr⟩⟩
  case complete =>
    intro t x r s hx hr
    refine ⟨execRevocationComplete_fencing hx hr, ?_⟩
    intro hst z u
    have hrow : execRevocationComplete t s = .next (endTrans (.tenant t) msOk [] runQueuedTenant u) := execRevocationComplete_erasing hx hr hst
    have hmbx : u.mbx = s.mbx := freedTenant_mbx (t := t) (x := x) (r := r)
    have hgone : u.tenant t = none := freedTenant_tenant (x := x) (r := r)
    refine ⟨fun hk => hrow.trans (by simp [endTrans, hmbx, hk]), ?_⟩
    intro y hk hh v
    have hhu : u.svc.handover = false := (freedTenant_handover (t := t) (x := x) (r := r)).trans hh
    have hend := endTrans_ends (s := u) (by rw [hmbx]; exact hk) hhu msOk [] runQueuedTenant
    refine ⟨fun hq => hrow.trans (congrArg _ (hend.trans (by rw [hq]; rfl))), fun h f hq => hrow.trans (congrArg _ (hend.trans ?_))⟩
    rw [hq]
    have hv : v.tenant t = none := by
      rw [State.tenant, show v.sec = u.sec from finishEvent_sec ..]
      exact hgone
    exact runRevoke_gone (.inl hv) .event
  case snapshot =>
    intro s
    show execCoarseningSnapshot s = _
    by_cases hw : s.svc.now % 10000000 = 0 <;> by_cases hat : s.snap.at_ = s.svc.now
    all_goals simp [execCoarseningSnapshot, settleSnapshot, takeSnapshot, hw, hat]
  case erase =>
    intro t x s hx
    obtain ⟨u, frames, he, hsec, hsrc, htgt, hqps⟩ := eraseTenant_frame t s
    have htenant (k : Nat) : (bumpEpoch (u.onTenant t (erasedTenant frames))).tenant k = (s.onTenant t (erasedTenant frames)).tenant k := by
      simp [State.tenant, bumpEpoch, State.onTenant, State.onSec, hsec]
    rw [he]
    refine ⟨⟨erasedTenant frames x, ?_, rfl, rfl, rfl, rfl⟩, ?_, ?_, ?_, ?_, ?_, ?_⟩
    · rw [htenant, State.onTenant_self, hx]
      rfl
    · simp [hsrc]
    · simp [htgt]
    · simp [hqps]
    · simp +contextual [hsrc]
    · simp +contextual [hqps]
    · intro k hk
      rw [htenant, State.onTenant_ne _ _ hk]

end Sys2Proof.Machine
end

section
/-! O43: key agreement. -/

namespace Sys2Proof.Machine

open Sys2Proof

variable {h : MHdr} {t peer slot : Nat} {s : State}

/-! ### KEY_AGREE (14 R397) -/

/-- A command with flags that its row defines runs. -/
theorem command_runs_flags {i : Instr} {row : CmdRow} {denied bad : State → Bool} {run : State → State} (hs : Listens h s) (hin : h.mbx ∈ row.boxes)
    (hf : h.flags &&& ~~~row.flags = 0#8) (hd : denied s = false) (hb : bad s = false) : command i h row denied bad run s = .next (run s) := by
  obtain ⟨hm, hh, hl, hlt, hr⟩ := hs
  simp [command, reach_ready hm hr, hh, hl, hin, hd, hb, hf, Nat.not_le.mpr hlt]

theorem execKeyAgree_runs {d : BitVec 256} (hs : Listens h s) (hin : h.mbx ∈ [3, 4, 5, 6, 7]) (hf : h.flags &&& ~~~ 3 = 0) (ht : t < 1024)
    (hpeer : peer < 8192) (hslot : slot < 4) (hok : tenantOk h t s = true) (hrev : isRevoking s t = false) :
    execKeyAgree h t peer slot d s = .next (runKeyAgree h t peer slot d s) :=
  command_runs_flags (row := { boxes := boxS ++ boxT, flags := 0x03 }) hs hin hf (by simp [hok, hrev])
    (by simp [Nat.not_le.mpr ht, Nat.not_le.mpr hpeer, Nat.not_le.mpr hslot])

section
variable {d : BitVec 256} {x : Tenant}

theorem runKeyAgree_absent (hx : s.tenant t = none) : runKeyAgree h t peer slot d s = reply h 8 (failCause 6) s := by
  simp [runKeyAgree, hx, msFailed]

variable (hx : s.tenant t = some x)
include hx

theorem runKeyAgree_clears (hc : h.flags.getLsbD 0 = true) : runKeyAgree h t peer slot d s =
    if x.sendSlot = some slot then reply h 2 [] s
    else if (x.slots.find slot).isSome then
      reply h 0 [] (bumpEpoch ((retireKey t slot s).onTenant t (fun x => { x with slots := x.slots.del slot })))
    else reply h 0 [] s := by
  simp only [runKeyAgree, hx, hc, if_true, beq_iff_eq]
  split_ifs <;> rfl

/-- A slot that takes a fresh key under its own part. -/
theorem fillSlot_key (key : List Byte) (send : Bool) : fillSlot t slot (some key) send s =
    bumpEpoch (((retireKey t slot s).onReq (fun r => { r with ctrs := r.ctrs.put (ctrKey t slot) (firstCtr t slot key s) })).onTenant t
      (fun x => { x with
        slots := x.slots.put slot key
        worn := x.worn.filter (fun w => w != slot)
        sendSlot := if send then some slot else x.sendSlot })) := by
  simp [fillSlot, hx]

variable (hc : h.flags.getLsbD 0 = false)
include hc

theorem runKeyAgree_own (hn : s.svc.node ≠ none) (hp : peer = (selfNode s).toNat) : runKeyAgree h t peer slot d s =
    if (x.slots.find slot).isSome then reply h 2 [] s
    else reply h 0 [] (fillSlot t slot (some (padTo 32 (Config.slotKey s.free))) (h.flags.getLsbD 1) { s with free := s.free + 1 }) := by
  simp only [runKeyAgree, hx, hc, Option.isSome_iff_ne_none.mpr hn, hp]
  simp [msBusy, msOk]

theorem runKeyAgree_armed {e : KeyEx} (hp : s.svc.node = none ∨ peer ≠ (selfNode s).toNat) (he : findEx s t peer slot = some e) (hh : e.hdr ≠ none) :
    runKeyAgree h t peer slot d s = reply h 2 [] s := by
  have hother : (s.svc.node.isSome && peer == (selfNode s).toNat) = false := by obtain hp | hp := hp <;> simp [hp]
  simp only [runKeyAgree, hx, hc, hother, he, Option.isSome_iff_ne_none.mpr hh]
  rfl

theorem runKeyAgree_arms (hp : s.svc.node = none ∨ peer ≠ (selfNode s).toNat) (hno : ¬ ∃ e, findEx s t peer slot = some e ∧ e.hdr ≠ none) :
    runKeyAgree h t peer slot d s = armEx h t peer slot d (h.flags.getLsbD 1) (reply h 7 [] s) := by
  have hother : (s.svc.node.isSome && peer == (selfNode s).toNat) = false := by obtain hp | hp := hp <;> simp [hp]
  simp only [runKeyAgree, hx, hc, hother, Bool.false_eq_true, if_false]
  cases he : findEx s t peer slot with
  | none => rfl
  | some e =>
    have hh : e.hdr.isSome = false := by
      rw [Option.isSome_eq_false_iff, Option.isNone_iff_eq_none]
      exact not_not.mp fun hh => hno ⟨e, he, hh⟩
    simp only [hh]
    rfl
end

/-! ### The bounds of an exchange (14 R400) -/

section
variable {e : KeyEx} (hm : s.svc.mod = .ready) (he : findEx s t peer slot = some e)
include hm he

theorem execKeyNotArmed_open : execKeyNotArmed t peer slot s =
    .next (if e.hdr = none ∧ e.startAt + 100000000 ≤ s.svc.now then refuseEx e 1 s else s) := by
  by_cases hdue : e.startAt + 100000000 ≤ s.svc.now <;> simp [execKeyNotArmed, he, isReady, hm, hdue]

theorem execKeyTimeout_open : execKeyTimeout t peer slot s =
    .next (if e.hdr ≠ none ∧ e.startAt + 200000000 ≤ s.svc.now then endEx e 8 (failCause (Config.causeByte 0)) s else s) := by
  by_cases hdue : e.startAt + 200000000 ≤ s.svc.now <;>
    simp [execKeyTimeout, he, isReady, hm, hdue, msFailed, Option.isSome_iff_ne_none]
end

/-! ### A key message (14 R398 to R400) -/

/-- A KEY_MSG that has been read. -/
def keyMsgRead (port : Nat) (p : Packet) (s : State) : State :=
  let t := p.tenant.toNat
  if pastFence t s then discardStale port s
  else if flagsBad p || p.offset.toNat % 128 != 0 || keyBad p then discardMalformed port 7 p s
  else if (s.tenant t).isNone || isRevoking s t then
    if p.arg 0 4 == 0 && p.arg 4 4 == 0 then sendKey p.src.toNat t 4 0 (p.arg 8 2) (BitVec.ofNat 16 (p.arg 16 16)) [6] s else discardStale port s
  else keyArrives port p s

section
variable {port : Nat} {p : Packet}

theorem execKeyMsg_reads (hport : isPort port = true ∨ port = outLocal) (hm : s.svc.mod = .ready) (hd : p.dst = selfNode s ∨ p.mcast = true)
    (hop : p.op = opKeyMsg) : execKeyMsg port p s = .next (keyMsgRead port (opened s p) (takeLocal p s)) :=
  agentRow_runs hport hm hd hop

theorem keyMsgRead_fenced (hf : pastFence p.tenant.toNat s = true) : keyMsgRead port p s = discardStale port s := by
  simp [keyMsgRead, hf]

variable (hf : pastFence p.tenant.toNat s = false)
include hf

theorem keyMsgRead_malformed (hbad : flagsBad p = true ∨ p.offset.toNat % 128 ≠ 0 ∨ keyBad p = true) :
    keyMsgRead port p s = discardMalformed port 7 p s := by
  have hcheck : (flagsBad p || p.offset.toNat % 128 != 0 || keyBad p) = true := by simpa [or_assoc] using hbad
  simp [keyMsgRead, hf, hcheck]

variable (hflags : flagsBad p = false) (ho : p.offset.toNat % 128 = 0) (hk : keyBad p = false)
include hflags ho hk

theorem keyMsgRead_absent (hx : s.tenant p.tenant.toNat = none ∨ isRevoking s p.tenant.toNat = true) : keyMsgRead port p s =
    if p.arg 0 4 = 0 ∧ p.arg 4 4 = 0 then sendKey p.src.toNat p.tenant.toNat 4 0 (p.arg 8 2) (BitVec.ofNat 16 (p.arg 16 16)) [6] s
    else discardStale port s := by
  have habsent : ((s.tenant p.tenant.toNat).isNone || isRevoking s p.tenant.toNat) = true := by simpa using hx
  simp [keyMsgRead, hf, hflags, ho, hk, habsent]

theorem keyMsgRead_served (hx : (s.tenant p.tenant.toNat).isSome = true) (hr : isRevoking s p.tenant.toNat = false) :
    keyMsgRead port p s = keyArrives port p s := by
  have hserved : ((s.tenant p.tenant.toNat).isNone || isRevoking s p.tenant.toNat) = false := by simpa [hr] using hx
  simp [keyMsgRead, hf, hflags, ho, hk, hserved]
end

section
variable {port : Nat} {k : Packet}

/-- The exchange that a key message may belong to, and the XID it carries. -/
def exOf (s : State) (k : Packet) : Option KeyEx := findEx s k.tenant.toNat k.src.toNat (k.arg 8 2)
def xidOf (k : Packet) : BitVec 16 := BitVec.ofNat 16 (k.arg 16 16)

theorem keyArrives_other (ho : otherExchange (k.arg 0 4) (exOf s k) (xidOf k) = true) : keyArrives port k s = discardStale port s :=
  if_pos ho

theorem keyArrives_fragment (ho : otherExchange (k.arg 0 4) (exOf s k) (xidOf k) = false) (hk : k.arg 0 4 ≤ 1) :
    keyArrives port k s = takeFrag k k.tenant.toNat k.src.toNat (k.arg 8 2) (k.arg 0 4) (k.arg 4 4) (xidOf k) s :=
  (if_neg fun he => absurd (ho.symm.trans he) Bool.false_ne_true).trans (if_pos hk)

theorem otherExchange_same {kind : Nat} {e : KeyEx} {xid : BitVec 16} (hx : e.xid = none ∨ e.xid = some xid) : otherExchange kind (some e) xid = false := by
  obtain hx | hx := hx <;> simp [otherExchange, hx]

theorem keyArrives_kind {e : KeyEx} (he : exOf s k = some e) (hx : e.xid = none ∨ e.xid = some (xidOf k)) (hk : 1 < k.arg 0 4) :
    keyArrives port k s = takeKind port k (k.arg 0 4) e s := by
  have ho : otherExchange (k.arg 0 4) (some e) (BitVec.ofNat 16 (k.arg 16 16)) = false := otherExchange_same hx
  unfold exOf at he
  simp only [keyArrives, he, ho, Nat.not_le.mpr hk, Bool.false_eq_true, if_false]
end

/-- Settles O43: KEY_AGREE by its flags and its peer, a key message by its checks, its exchange and its kind. -/
theorem keyAgreementCompletes : Obligations.KeyAgreementCompletes := by
  unfold Obligations.KeyAgreementCompletes
  refine ⟨?agree, ?bounds, ?noBounds, ?message, ?arrives⟩
  case agree =>
    intro h t peer slot d s hs hin hf ht hpeer hslot hok hrev clear send
    have hrow := execKeyAgree_runs (d := d) hs hin hf ht hpeer hslot hok hrev
    refine ⟨fun hx => hrow.trans (congrArg _ (runKeyAgree_absent hx)), fun x hx => ⟨?clears, ?own, ?other⟩⟩
    case clears => exact fun hc => hrow.trans (congrArg _ (runKeyAgree_clears hx hc))
    case own =>
      intro hc hn hp
      refine hrow.trans (congrArg _ ((runKeyAgree_own hx hc hn hp).trans ?_))
      rw [fillSlot_key (s := { s with free := s.free + 1 }) hx]
    case other =>
      intro hc hp
      refine hrow.trans (congrArg _ ?_)
      split
      · next harmed =>
        obtain ⟨e, he, hh⟩ := harmed
        exact runKeyAgree_armed hx hc hp he hh
      · next hno => exact runKeyAgree_arms hx hc hp hno
  case bounds => exact fun t peer slot e s hm he => ⟨execKeyNotArmed_open hm he, execKeyTimeout_open hm he⟩
  case noBounds =>
    intro t peer slot s he
    exact ⟨by show execKeyNotArmed t peer slot s = _; simp [execKeyNotArmed, he], by show execKeyTimeout t peer slot s = _; simp [execKeyTimeout, he]⟩
  case message =>
    intro port p s hport hm hd hop k u t
    have hrow : execKeyMsg port p s = .next (keyMsgRead port k u) := execKeyMsg_reads hport hm hd hop
    exact ⟨fun hf => hrow.trans (congrArg _ (keyMsgRead_fenced hf)), fun hf hbad => hrow.trans (congrArg _ (keyMsgRead_malformed hf hbad)),
      fun hf hflags ho hk => ⟨fun hx => hrow.trans (congrArg _ (keyMsgRead_absent hf hflags ho hk hx)),
        fun hx hr => hrow.trans (congrArg _ (keyMsgRead_served hf hflags ho hk hx hr))⟩⟩
  case arrives =>
    intro port k s ex xid
    refine ⟨?other, ?unopened, ?fragment, fun e he hx => ⟨?deliver, ?confirm, ?refuse⟩⟩
    case other =>
      rintro ⟨e, he, hnone, hne⟩
      refine keyArrives_other ?_
      rw [show exOf s k = some e from he]
      simpa [otherExchange, Option.isSome_iff_ne_none] using ⟨hnone, hne⟩
    case unopened =>
      intro he hk
      refine keyArrives_other ?_
      rw [show exOf s k = none from he]
      simpa [otherExchange] using hk
    case fragment =>
      rintro (⟨he, hk⟩ | ⟨⟨e, he, hx⟩, hk⟩)
      · refine keyArrives_fragment ?_ (by omega)
        rw [show exOf s k = none from he, hk]
        rfl
      · refine keyArrives_fragment ?_ hk
        rw [show exOf s k = some e from he]
        exact otherExchange_same hx
    case deliver =>
      intro hk
      refine (keyArrives_kind he hx (by omega)).trans ?_
      rw [hk]
      rfl
    case confirm =>
      intro d hk hd hdel
      refine (keyArrives_kind he hx (by omega)).trans ?_
      simp [takeKind, hk, hd, hdel, msOk]
    case refuse =>
      intro hk
      refine (keyArrives_kind he hx (by omega)).trans ?_
      rw [hk]
      rfl

end Sys2Proof.Machine
end

section
/-! O44: attestation reports, region digests and the secure session of the host link. -/

namespace Sys2Proof.Machine

open Sys2Proof

/-! ### A row that mailbox 2 serves in RECOVERY too (14 R393) -/

/-- The command meets a mailbox that answers it: a READY part's, or mailbox 2 of a part in RECOVERY. -/
def ServesToo (h : MHdr) (boxes : List Nat) (s : State) : Prop :=
  Serves h boxes s ∨
    s.svc.mod = .recovery ∧ s.svc.handover = false ∧ ((s.reed.loading.find 2).isSome || (s.box 2).stalled.isSome) = false ∧ h.mbx = 2 ∧ h.flags = 0

section
variable {h : MHdr} {row : CmdRow} {s : State} {i : Instr} {denied bad : State → Bool} {run : State → State}
variable (hrow : row.recovery = true) (h2 : 2 ∈ row.boxes) (hs : ServesToo h row.boxes s) (hd : denied s = false)
include hrow h2 hs hd

theorem command_runs_too (hb : bad s = false) : command i h row denied bad run s = .next (run s) := by
  obtain hs | ⟨hm, hh, hl, hmbx, hf⟩ := hs
  · exact command_runs hs hd hb
  · simp [command, reach, hm, hh, hl, hmbx, hf, hrow, h2, hd, hb]

theorem command_bad_arg_too (hb : bad s = true) : command i h row denied bad run s = .next (reply h msBadArg [] s) := by
  obtain hs | ⟨hm, hh, hl, hmbx, hf⟩ := hs
  · exact command_bad_arg hs hd hb
  · simp [command, reach, hm, hh, hl, hmbx, hf, hrow, h2, hd, hb]
end

/-! ### Reports (14 R406) -/

section
variable {h : MHdr} {kind offset t : Nat} {nonce : BitVec 256} {tail : State → List Byte} {s : State}

theorem lastReport_of {r : List Byte} (hr : (s.box h.mbx).report = some (nonce, r)) (hlen : offset ≤ r.length) :
    lastReport h nonce offset s = some r := by
  simp [lastReport, hr, hlen]

theorem lastReport_none (hno : ∀ x, (s.box h.mbx).report = some x → x.1 ≠ nonce ∨ x.2.length < offset) : lastReport h nonce offset s = none := by
  unfold lastReport
  cases hr : (s.box h.mbx).report with
  | none => rfl
  | some x =>
    have hx := hno x hr
    rw [← not_le, ← not_and_or] at hx
    exact if_neg (by simpa using hx)

theorem offsetBad_zero : offsetBad h nonce 0 s = false := rfl

theorem offsetBad_in {r : List Byte} (hr : (s.box h.mbx).report = some (nonce, r)) (hlen : offset ≤ r.length) : offsetBad h nonce offset s = false := by
  simp [offsetBad, lastReport_of hr hlen]

theorem offsetBad_out (ho : offset ≠ 0) (hno : ∀ x, (s.box h.mbx).report = some x → x.1 ≠ nonce ∨ x.2.length < offset) :
    offsetBad h nonce offset s = true := by
  simp [offsetBad, ho, lastReport_none hno]

theorem runReport_builds : runReport h kind nonce 0 tail s =
    (let r := signReport kind nonce (tail s) s
     reply h 0 (leBytes r.length 4 ++ leBytes 0 4 ++ r.take 4072) (s.onBox h.mbx (fun b => { b with report := some (nonce, r) }))) := rfl

theorem runReport_part {r : List Byte} (ho : offset ≠ 0) (hr : (s.box h.mbx).report = some (nonce, r)) (hlen : offset ≤ r.length) :
    runReport h kind nonce offset tail s = reply h 0 (leBytes r.length 4 ++ leBytes offset 4 ++ (r.drop offset).take 4072) s := by
  simp only [runReport, beq_eq_false_iff_ne.mpr ho, lastReport_of hr hlen]
  rfl

section
variable (hs : ServesToo h [3, 2] s)
include hs

theorem execAttestFoundation_runs (hb : offsetBad h nonce offset s = false) :
    execAttestFoundation h nonce offset s = .next (runReport h 2 nonce offset foundationTail s) :=
  command_runs_too (row := { boxes := boxS ++ boxB, recovery := true }) rfl (by decide) hs rfl hb

theorem execAttestFoundation_bad (hb : offsetBad h nonce offset s = true) : execAttestFoundation h nonce offset s = .next (reply h 4 [] s) :=
  command_bad_arg_too (row := { boxes := boxS ++ boxB, recovery := true }) rfl (by decide) hs rfl hb

theorem execCertChainRead_serves : execCertChainRead h offset s = .next (
    let part := ((certChain s).drop offset).take 4072
    if (certChain s).length < offset then reply h 4 [] s else reply h 0 (pack [.num 2 part.length, .bytes part]) s) := by
  by_cases hlen : (certChain s).length < offset
  · rw [if_pos hlen]
    exact command_bad_arg_too (row := { boxes := boxS ++ boxB, recovery := true }) rfl (by decide) hs rfl (by simpa using hlen)
  · rw [if_neg hlen]
    exact command_runs_too (row := { boxes := boxS ++ boxB, recovery := true }) rfl (by decide) hs rfl (by simpa using hlen)
end

section
variable (hs : Serves h [3, 4, 5, 6, 7] s) (hok : tenantOk h t s = true) (ht : (s.tenant t).isSome = true)
include hs hok ht

theorem execAttestService_runs (hb : offsetBad h nonce offset s = false) :
    execAttestService h nonce t offset s = .next (runReport h 1 nonce offset (fun s => serviceTail s t) s) :=
  command_runs (row := { boxes := boxS ++ boxT }) hs (by simp [hok]) (by simpa [hb] using ht)

omit ht in
theorem execAttestService_bad (hb : offsetBad h nonce offset s = true) : execAttestService h nonce t offset s = .next (reply h 4 [] s) :=
  command_bad_arg (row := { boxes := boxS ++ boxT }) hs (by simp [hok]) (by simp [hb])

/-! ### Region digests (14 R409) -/

theorem execRegionDigest_accepts {fva len : Nat} (hr : isRevoking s t = false) (ha : len % 128 = 0) (hlen : len ≤ 2 ^ 40) (hf : fva < 2 ^ 64) :
    execRegionDigest h t fva len s =
      .next (reply h 7 [] (s.onSec (fun e => { e with digests := e.digests ++ [{ tenant := t, fva := fva, len := len, hdr := h }] }))) :=
  command_runs (row := { boxes := boxS ++ boxT }) hs (by simp [hok, hr])
    (by simpa [ha] using ⟨⟨ht, hlen⟩, hf⟩)
end
end

section
variable {t : Nat} {d : DigestJob} {s u : State}

/-- The digest is off the list of those that run. -/
def digestDone (d : DigestJob) (s : State) : State := s.onSec (fun e => { e with digests := e.digests.erase d })

/-- The end of a digest, by how the reading of its region went. -/
def digestEnds (t : Nat) (d : DigestJob) (r : RegionRead × State) (s : State) : State :=
  match r.1 with
  | .waits a => enterFault t (a / 65536) { cluster := false, index := digestIndex, context := t, access := 0, at_ := s.svc.now } s
  | .fails => finishEvent d.hdr 0x0807 8 (failCause (Config.causeByte 1)) (digestDone d r.2)
  | .bytes b far =>
    if !far.isEmpty then readFar d far s
    else
      finishEvent d.hdr 0x0807 0 (leBytes (sha256Bits b).toNat 32)
        (keepRegion t { fva := d.fva, len := d.len, epoch := s.sec.epoch, time := s.svc.now, digest := sha256Bits b } (digestDone d r.2))

theorem execRegionDigestComplete_runs (hm : s.svc.mod = .ready) (hd : s.sec.digests.find? (fun d => d.tenant == t) = some d) (hl : d.left = 0) :
    execRegionDigestComplete t s = .next (digestEnds t d (if d.bad then (.fails, s) else regionRead d s) s) := by
  simp only [execRegionDigestComplete, hd, isReady, hm, hl]
  rfl

theorem execRegionDigestComplete_waits (hno : ∀ d, s.sec.digests.find? (fun d => d.tenant == t) = some d → d.left ≠ 0) :
    execRegionDigestComplete t s = .next s := by
  unfold execRegionDigestComplete
  cases hd : s.sec.digests.find? (fun d => d.tenant == t) with
  | none => rfl
  | some d => simp [hno d hd]
end

/-! ### The secure session of the host link (14 R402) -/

section
variable {h : MHdr} {ek ct : List Byte} {s : State}

theorem execIdeSessionOpen_opens (hs : Serves h [3] s) (hek : ek.length = 1184) (hct : ct.length = 1088) :
    execIdeSessionOpen h ek ct s = .next (if s.host.ideOpening.isSome then reply h 2 [] s
      else reply h 7 [] (s.onHost (fun x => { x with ideOpening := some (h, ek, ct) }))) :=
  command_runs (row := { boxes := boxS }) hs rfl (by simp [hek, hct])

theorem execIdeSessionComplete_none (ho : s.host.ideOpening = none) : execIdeSessionComplete s = .next s := by
  simp [execIdeSessionComplete, ho]

theorem execIdeSessionComplete_answers (hm : s.svc.mod = .ready) (ho : s.host.ideOpening = some (h, ek, ct)) : execIdeSessionComplete s = .next (
    let mine := Config.encapsulate ek s.free
    let d := ideKeysOf s mine ek ct
    finishEvent h 0x0804 0 (padTo 1088 mine.1 ++ (hmac (d.1.drop 32) (Config.ideLabel :: d.2)).take 16)
      (State.onHost { s with free := s.free + 1 } (fun x => { x with ideOpening := none, ideSession := some s.free, ideSecret := some d.1 }))) := by
  simp [execIdeSessionComplete, ho, isReady, hm, msOk]
end

/-- Settles O44: reports by OFFSET and nonce, the chain, a region digest by how its reading went, and the host's secure session. -/
theorem attestationCompletes : Obligations.AttestationCompletes := by
  unfold Obligations.AttestationCompletes
  refine ⟨?foundation, ?service, ?digest, ?digestEnds, ?digestWaits, ?opening, ?session⟩
  case foundation =>
    intro h nonce offset s hs
    refine ⟨?builds, fun r ho hlen hr => ?part, fun ho hno => execAttestFoundation_bad hs (offsetBad_out ho hno), execCertChainRead_serves hs⟩
    case builds =>
      rintro rfl
      exact (execAttestFoundation_runs hs offsetBad_zero).trans (congrArg _ runReport_builds)
    case part => exact (execAttestFoundation_runs hs (offsetBad_in hr hlen)).trans (congrArg _ (runReport_part ho hr hlen))
  case service =>
    intro h nonce t offset s hs hok ht
    refine ⟨?builds, fun r ho hlen hr => ?part, fun ho hno => execAttestService_bad hs hok (offsetBad_out ho hno)⟩
    case builds =>
      rintro rfl
      exact (execAttestService_runs hs hok ht offsetBad_zero).trans (congrArg _ runReport_builds)
    case part => exact (execAttestService_runs hs hok ht (offsetBad_in hr hlen)).trans (congrArg _ (runReport_part ho hr hlen))
  case digest => exact fun h t fva len s hs hok ht hr ha hlen hf => execRegionDigest_accepts hs hok ht hr ha hlen hf
  case digestEnds =>
    intro t d s hm hd hl done
    have hrow : execRegionDigestComplete t s = _ := execRegionDigestComplete_runs hm hd hl
    refine ⟨fun b u hbad hr => ?whole, fun b far u hbad hne hr => ?far, fun a u hbad hr => ?fault, fun u hbad hr => ?fails, fun hbad => ?bad⟩
    case whole => exact hrow.trans (by rw [hbad, if_neg Bool.false_ne_true, hr]; rfl)
    case far => exact hrow.trans (by rw [hbad, if_neg Bool.false_ne_true, hr]; simp [digestEnds, hne])
    case fault => exact hrow.trans (by rw [hbad, if_neg Bool.false_ne_true, hr]; rfl)
    case fails => exact hrow.trans (by rw [hbad, if_neg Bool.false_ne_true, hr]; rfl)
    case bad => exact hrow.trans (by rw [hbad, if_pos rfl]; rfl)
  case digestWaits => exact fun t s hno => execRegionDigestComplete_waits hno
  case opening => exact fun h ek ct s hs hek hct => execIdeSessionOpen_opens hs hek hct
  case session =>
    exact fun s hm => ⟨execIdeSessionComplete_none, fun h ek ct ho => execIdeSessionComplete_answers hm ho⟩

end Sys2Proof.Machine
end

section
/-! O45: the error log, unit resets, the retirement of HBM frames and the heartbeat. -/

namespace Sys2Proof.Machine

open Sys2Proof

/-! ### The error log (15 R424) -/

theorem execErrLogRead_reads {h : MHdr} {count unit : Nat} {clear mode : Bool} {s : State} (hs : ServesToo h [0, 1, 2] s) (hc : count ≤ 127)
    (hu : mode = true → unitExists (unit / 4096) (unit % 4096) = true) :
    execErrLogRead h count clear mode unit s = .next (if mode then unitRead h unit clear s else logRead h count clear s) :=
  command_runs_too (row := { boxes := boxH ++ boxF ++ boxB, recovery := true }) rfl (by decide) hs rfl (by simpa [hc] using hu)

/-! ### UNIT_RESET (15 R430, R431) -/

section
variable {h : MHdr} {kind i p : Nat} {s : State} (hs : Serves h [0, 1] s)
include hs

theorem execUnitReset_unknown (hk : 4 ≤ kind) : execUnitReset h kind i s = .next (reply h 4 [] s) := by
  have hrange : unitInRange kind i = false := by
    simp [unitInRange, show kind ≠ 0 by omega, show kind ≠ 1 by omega, show kind ≠ 2 by omega, show kind ≠ 3 by omega]
  exact command_bad_arg (row := { boxes := boxH ++ boxF }) hs (by simp [show kind ≠ 0 by omega]) (by simp [hrange])

theorem execUnitReset_port (hp : isPort p = true) (ha : portAbsent s p = false) :
    execUnitReset h 0 p s = .next (transition (.port p) (.unitReset h 0 p) h (runPortReset .buffer h p) s) :=
  command_runs (row := { boxes := boxH ++ boxF }) hs (by simp [ha]) (by simp [unitInRange, hp])

theorem execUnitReset_unit (hk : kind = 1 ∧ i < 16 ∨ kind = 2 ∧ i < 32 ∨ kind = 3 ∧ i < 64) :
    execUnitReset h kind i s = .next (transition (.unit kind i) (.unitReset h kind i) h (runUnitReset .buffer h kind i) s) := by
  have hzero : kind ≠ 0 := by omega
  have hrange : unitInRange kind i = true := by
    obtain ⟨rfl, hi⟩ | ⟨rfl, hi⟩ | ⟨rfl, hi⟩ := hk <;> simpa [unitInRange] using hi
  refine (command_runs (row := { boxes := boxH ++ boxF }) hs (by simp [hzero]) (by simp [hrange])).trans ?_
  simp [hzero]
end

theorem runPortReset_resets {h : MHdr} {p : Nat} {s : State} : runPortReset .buffer h p s = (if (s.port p).enabled = false then reply h 2 [] s else
    let t := beginTrans (.port p) h 0x0902 (reply h 7 [] (bumpEpoch (stopPort p s)))
    if (t.port p).flushing then t else enablePort p (s.port p).width (s.port p).bridge t) := by
  cases he : (s.port p).enabled with
  | false => simp [runPortReset, he, finish, msBusy]
  | true =>
    simp only [runPortReset, he]
    rfl

theorem runUnitReset_begins {h : MHdr} {kind i : Nat} {s : State} : runUnitReset .buffer h kind i s = (
    let t := beginTrans (.unit kind i) h 0x0902 (reply h 7 [] (bumpEpoch s))
    if kind = 1 then clusterReset i t else if kind = 2 then moverReset i t
    else { t with svc := { t.svc with hbmResetting := t.svc.hbmResetting ++ [i] } }) := by
  simp only [runUnitReset, beq_iff_eq]
  rfl

/-- During a live handover the end of a transition is kept. -/
theorem endTrans_held {k : FnKey} {t : Transition} {s : State} (hk : findTrans k s.mbx.trans = some t) (hh : s.svc.handover = true) (st : Nat)
    (r : List Byte) (run : Instr → State → State) : endTrans k st r run s =
      s.onMbx (fun m => { m with trans := m.trans.map (fun y => if y.key == k then { y with ended := some (st, r) } else y) }) := by
  simp [endTrans, hk, hh]

/-! ### UNIT_RESET_END and CLUSTER_RELOAD -/

section
variable {c : Nat} {ok : Bool} {s : State} (hm : s.svc.mod = .ready)
include hm

theorem execUnitResetEnd_other {kind : Nat} (hk : kind ≠ 0) (hr : unitInRange kind c = true) :
    execUnitResetEnd kind c ok s = .next (otherResetEnd kind c ok s) := by
  simp [execUnitResetEnd, hr, isReady, hm, hk]

theorem execUnitResetEnd_port (hp : isPort c = true) : execUnitResetEnd 0 c ok s = .next (portResetEnd c ok s) := by
  simp [execUnitResetEnd, unitInRange, hp, isReady, hm]

theorem execClusterReload_reloads (hc : c < 16) : execClusterReload c s = .next (
    if (s.cluster c).reloading = true ∧ (s.cluster c).resetting = false then wakeComputes (bumpEpoch (s.onCluster c (fun k => { k with reloading := false })))
    else s) := by
  cases hl : (s.cluster c).reloading <;> cases hr : (s.cluster c).resetting <;> simp [execClusterReload, hc, isReady, hm, hl, hr]
end

section
variable {c : Nat} {ok : Bool} {s : State}

theorem otherResetEnd_none {kind : Nat} (ht : findTrans (.unit kind c) s.mbx.trans = none) : otherResetEnd kind c ok s = s := by
  simp [otherResetEnd, ht]

theorem portResetEnd_none (ht : findTrans (.port c) s.mbx.trans = none) : portResetEnd c ok s = s := by
  simp [portResetEnd, ht]

theorem clusterResetEnd : otherResetEnd 1 c ok s = (if findTrans (.unit 1 c) s.mbx.trans = none then s
    else endTrans (.unit 1 c) 0 [] runQueuedUnit (s.onCluster c (fun k => { k with resetting := false }))) := by
  cases ht : findTrans (.unit 1 c) s.mbx.trans with
  | none => exact otherResetEnd_none ht
  | some t => simp [otherResetEnd, ht, msOk]

theorem moverResetEnd : otherResetEnd 2 c ok s = (if findTrans (.unit 2 c) s.mbx.trans = none ∨ moverQuiet c s = false then s
    else advanceMover c (endTrans (.unit 2 c) 0 [] runQueuedUnit (bumpEpoch (s.onQueues (fun q => { q with
      resetting := q.resetting &&& ~~~ BitVec.ofNat 32 (2 ^ c) }))))) := by
  cases ht : findTrans (.unit 2 c) s.mbx.trans with
  | none => exact (otherResetEnd_none ht).trans (if_pos (.inl rfl)).symm
  | some t => cases hq : moverQuiet c s <;> simp [otherResetEnd, ht, hq, msOk]

/-- A channel that has retrained, or that has not. -/
def channelBack (c : Nat) (s : State) : State :=
  bumpEpoch (s.onSvc (fun v => { v with hbmResetting := v.hbmResetting.filter (fun x => x != c) }))

theorem channelResetEnd : otherResetEnd 3 c ok s = (if findTrans (.unit 3 c) s.mbx.trans = none then s
    else if ok then endTrans (.unit 3 c) 0 [] runQueuedUnit (channelBack c s)
    else endTrans (.unit 3 c) 8 (failCause (Config.causeByte 9)) runQueuedUnit (recordErr kHbm c 0x3A 3 [] ((channelBack c s).onHome (fun m => { m with
      failedChannels := if m.failedChannels.contains c then m.failedChannels else m.failedChannels ++ [c] })))) := by
  cases ht : findTrans (.unit 3 c) s.mbx.trans with
  | none => exact otherResetEnd_none ht
  | some t => cases ok <;> simp [otherResetEnd, ht, msOk, msFailed, channelBack]

theorem portResetEnd_ends {t : Transition} (ht : findTrans (.port c) s.mbx.trans = some t) : portResetEnd c ok s = (
    if t.opcode = 0x0902 ∧ (s.port c).flushing = false ∧ ok = linkUp (s.port c) ∧ (ok = true ∨ t.at_ + 100000000 ≤ s.svc.now) then
      endTrans (.port c) (if ok then 0 else 8) (if ok then [] else failCause (Config.causeByte 9)) runQueuedPort (bumpEpoch s) else s) := by
  have hcond : ¬ (t.opcode != 0x0902 || (s.port c).flushing || ok != linkUp (s.port c) || (!ok && decide (s.svc.now < t.at_ + 100000000))) = true ↔
      t.opcode = 0x0902 ∧ (s.port c).flushing = false ∧ ok = linkUp (s.port c) ∧ (ok = true ∨ t.at_ + 100000000 ≤ s.svc.now) := by
    simp [not_or, imp_iff_not_or, and_assoc]
  simp only [portResetEnd, ht]
  by_cases hends : t.opcode = 0x0902 ∧ (s.port c).flushing = false ∧ ok = linkUp (s.port c) ∧ (ok = true ∨ t.at_ + 100000000 ≤ s.svc.now)
  · rw [if_pos hends, if_neg (hcond.mpr hends)]
    rfl
  · rw [if_neg hends, if_pos (not_not.mp (mt hcond.mp hends))]
end

/-! ### Retirement of HBM frames (15 R436 to R439) -/

section
variable {h : MHdr} {i : Instr} {f : Nat} {bad : List Nat} {s : State}

theorem execHbmPageRetire_runs {addr : Nat} (hs : Serves h [0, 1] s) (ha : addr < 2 ^ 38) :
    execHbmPageRetire h addr bad s = .next (runRetire (.hbmPageRetire h addr bad) h (addr / 65536) bad s) :=
  command_runs (row := { boxes := boxH ++ boxF }) hs rfl (by simpa using ha)

theorem runRetire_again (hr : (cfgNow s.flash).retired.contains f = true) : runRetire i h f bad s = replyRetired h f s :=
  if_pos hr

section
variable (hr : (cfgNow s.flash).retired.contains f = false)
include hr

theorem runRetire_held (hh : s.svc.removedAt ≠ none) : runRetire i h f bad s = reply h 6 [] s := by
  simp only [runRetire, hr, flashHeld, Option.isSome_iff_ne_none.mpr hh]
  rfl

variable (hh : s.svc.removedAt = none)
include hh

theorem runRetire_full (hl : 1024 ≤ (cfgNow s.flash).retired.length) : runRetire i h f bad s = reply h 8 (failCause 2) s := by
  simp only [runRetire, hr, flashHeld, hh, hl]
  rfl

variable (hl : (cfgNow s.flash).retired.length < 1024)
include hl

theorem runRetire_byTenants : runRetire i h f bad s = match frameTenants f s with
    | [t] => moveFrame i h (memKeyOf s t) f bad s
    | [] => if decide (s.svc.fwBase ≤ 65536 * f) then moveFrame i h s.sec.fwKey f bad s else replyRetired h f (listRetired f s)
    | _ => reply h 8 (failCause 0) s := by
  simp only [runRetire, hr, flashHeld, hh, Nat.not_le.mpr hl]
  rfl

theorem runRetire_shared {t u : Nat} {l : List Nat} (ht : frameTenants f s = t :: u :: l) : runRetire i h f bad s = reply h 8 (failCause 0) s := by
  rw [runRetire_byTenants hr hh hl, ht]

theorem runRetire_tenant {t : Nat} (ht : frameTenants f s = [t]) : runRetire i h f bad s = moveFrame i h (memKeyOf s t) f bad s := by
  rw [runRetire_byTenants hr hh hl, ht]

theorem runRetire_unmapped (ht : frameTenants f s = []) : runRetire i h f bad s =
    if s.svc.fwBase ≤ 65536 * f then moveFrame i h s.sec.fwKey f bad s else replyRetired h f (listRetired f s) := by
  simp [runRetire_byTenants hr hh hl, ht]
end

section
variable {key : Nat}

theorem moveFrame_noSpare (hx : spareFrames f s = []) : moveFrame i h key f bad s = reply h 8 (failCause 1) s := by
  simp [moveFrame, hx, msFailed]

variable {x : Nat} {l : List Nat} (hx : spareFrames f s = x :: l)
include hx

theorem moveFrame_waits (hw : frameWaits s f = true ∨ frameWaits s x = true) : moveFrame i h key f bad s =
    s.onBox h.mbx (fun b => { b with busy := true, go := false, stalled := some i, stalledAt := s.svc.now }) := by
  simp [moveFrame, hx, hw, awaitHbm]

theorem moveFrame_moves (hf : frameWaits s f = false) (hg : frameWaits s x = false) : moveFrame i h key f bad s =
    replyRetired h f (listRetired f (redirect f x (takeSpare f x (copyFrame key f x bad s)))) := by
  simp [moveFrame, hx, hf, hg]
end

theorem notMem_spareFrames_self : f ∉ spareFrames f s := by simp [spareFrames]

theorem spareFrames_free {g : Nat} (hg : g ∈ spareFrames f s) : g ∉ (cfgNow s.flash).retired ∧ g ∉ s.home.spares := by
  simp only [spareFrames, List.mem_filter, Bool.and_eq_true, Bool.not_eq_true', List.contains_eq_mem, decide_eq_false_iff_not] at hg
  exact ⟨hg.2.1.2, hg.2.2⟩

theorem replyRetired_moved {g : Nat} (hg : s.home.moved.find f = some g) :
    replyRetired h f s = reply h 0 (pack [.num 8 (65536 * f), .num 8 (65536 * g), .bytes (leBytes (lostMap g s) 64)]) s := by
  simp [replyRetired, retiredResult, hg, msOk]

/-- A frame without a replacement: what the two fields hold is open, and is drawn. -/
theorem replyRetired_open (hg : s.home.moved.find f = none) : replyRetired h f s =
    reply h 0 (pack [.num 8 (65536 * f), .num 8 (Config.freeNat s.free % 2 ^ 38), .bytes (State.drawBytes { s with free := s.free + 1 } 64).1])
      { s with free := s.free + 1 + 64 } := by
  simp only [replyRetired, retiredResult, hg]
  rfl
end

/-! ### HEARTBEAT_MISS (15 R427) -/

section
variable {s : State}

theorem execHeartbeatMiss_early (hb : beatOver s = false) : execHeartbeatMiss s = .next s := by
  simp [execHeartbeatMiss, hb]

variable (hb : beatOver s = true)
include hb

theorem execHeartbeatMiss_stalled (hh : s.svc.handover = true) :
    execHeartbeatMiss s = .next (s.onSvc (fun v => { v with beatBase := v.beatBase + 10000000 })) := by
  simp [execHeartbeatMiss, hb, hh, State.onSvc]

/-- A missed interval outside a handover. -/
def beatMissed (s : State) : State := s.onSvc (fun v => { v with beatBase := v.beatBase + 10000000, misses := v.misses + 1 })

variable (hh : s.svc.handover = false)
include hh

theorem execHeartbeatMiss_counts (hn : s.svc.misses ≠ 2) : execHeartbeatMiss s = .next (beatMissed s) := by
  simp [execHeartbeatMiss, hb, hh, hn, beatMissed, State.onSvc]

theorem execHeartbeatMiss_third (hn : s.svc.misses = 2) : execHeartbeatMiss s = .next ((unsolicited 0 0x00000006 (leBytes (s.svc.heartbeat.getD 0) 8)
    (setSummary 11 (recordErr kPart 0 0x48 2 [] (beatMissed s)))).onMbx (fun b => { b with ibis := b.ibis + 1 })) := by
  simp [execHeartbeatMiss, hb, hh, hn, beatMissed, State.onSvc]
end

/-- Settles O45: the error log, each unit's reset and its end, the outcomes of a frame's retirement, and the heartbeat's misses. -/
theorem serviceCommandsComplete : Obligations.ServiceCommandsComplete := by
  unfold Obligations.ServiceCommandsComplete
  refine ⟨?log, ?unit, ?port, ?unknown, ?ends, ?resetEnd, ?reload, ?retire, ?move, ?spare, ?retired, ?beat⟩
  case log => exact fun h count clear mode unit s hs hc hu => execErrLogRead_reads hs hc hu
  case unit =>
    intro h kind i s hs hk
    have hrow : execUnitReset h kind i s = _ := execUnitReset_unit hs hk
    exact ⟨fun hn => hrow.trans (congrArg _ ((transition_runs hn).trans runUnitReset_begins)), fun x hx => hrow.trans (congrArg _ (transition_waits hx))⟩
  case port =>
    intro h p s hs hp ha
    have hrow : execUnitReset h 0 p s = _ := execUnitReset_port hs hp ha
    exact ⟨fun hn => hrow.trans (congrArg _ ((transition_runs hn).trans runPortReset_resets)), fun x hx => hrow.trans (congrArg _ (transition_waits hx))⟩
  case unknown => exact fun h kind c s hs hk => execUnitReset_unknown hs hk
  case ends =>
    refine fun k st r run t s hk => ⟨fun hh => (endTrans_ends hk hh st r run).trans ?_, fun hh => endTrans_held hk hh st r run⟩
    cases t.queued <;> rfl
  case resetEnd =>
    intro c ok s hm
    refine ⟨fun hc => ?cluster, fun hc => ?mover, fun hc => ?channel, fun hp ht => ?noPort, fun t hp ht => ?port⟩
    case cluster => exact (execUnitResetEnd_other hm (by decide) (by simpa [unitInRange] using hc)).trans (congrArg _ clusterResetEnd)
    case mover => exact (execUnitResetEnd_other hm (by decide) (by simpa [unitInRange] using hc)).trans (congrArg _ moverResetEnd)
    case channel => exact (execUnitResetEnd_other hm (by decide) (by simpa [unitInRange] using hc)).trans (congrArg _ channelResetEnd)
    case noPort => exact (execUnitResetEnd_port hm hp).trans (congrArg _ (portResetEnd_none ht))
    case port => exact (execUnitResetEnd_port hm hp).trans (congrArg _ (portResetEnd_ends ht))
  case reload => exact fun c s hc hm => execClusterReload_reloads hm hc
  case retire =>
    intro h addr bad s hs ha f i
    have hrow : execHbmPageRetire h addr bad s = _ := execHbmPageRetire_runs hs ha
    refine ⟨fun hr => hrow.trans (congrArg _ (runRetire_again hr)), fun hr => ⟨fun hh => hrow.trans (congrArg _ (runRetire_held hr hh)),
      fun hh hl => hrow.trans (congrArg _ (runRetire_full hr hh hl)), fun hh hl => ⟨fun t u l ht => ?shared, fun t ht => ?tenant, fun ht => ?unmapped⟩⟩⟩
    case shared => exact hrow.trans (congrArg _ (runRetire_shared hr hh hl ht))
    case tenant => exact hrow.trans (congrArg _ (runRetire_tenant hr hh hl ht))
    case unmapped => exact hrow.trans (congrArg _ (runRetire_unmapped hr hh hl ht))
  case move => exact fun i h key f bad s => ⟨moveFrame_noSpare, fun x l hx => ⟨moveFrame_waits hx, moveFrame_moves hx⟩⟩
  case spare => exact fun f s => ⟨notMem_spareFrames_self, fun g hg => spareFrames_free hg⟩
  case retired => exact fun h f s => ⟨fun g hg => replyRetired_moved hg, fun hg => ⟨_, _, _, replyRetired_open hg⟩⟩
  case beat =>
    refine fun s => ⟨execHeartbeatMiss_early, fun hb => ?_⟩
    intro late u
    exact ⟨execHeartbeatMiss_stalled hb, execHeartbeatMiss_counts hb, execHeartbeatMiss_third hb⟩

end Sys2Proof.Machine
end

section
/-! O46: boot, firmware staging, verification, activation and the watchdog. -/

namespace Sys2Proof.Machine

open Sys2Proof

variable {h : MHdr} {s : State}

/-! ### READY (14 R391, R393, 16 R455) -/

/-- A slot is started: the part is READY under the number that flash or training gives. -/
def bootsSlot (b : Bool) (s : State) : State := (bootKeys s).onSvc (fun v => { v with mod := .ready, runB := b, node := bootNode s })

theorem execReady_boots (idMatch : Bool) (s : State) : execReady idMatch s = .next (
    if s.svc.mod ≠ .boot then s
    else reportTrip (match bootSlot s with
      | some b => if idMatch then bootsSlot b s else recordErr kEvrix 0 0x4B 3 [] (bootsSlot b s)
      | none => (bootKeys s).onSvc (fun v => { v with mod := .recovery }))) := by
  by_cases hm : s.svc.mod = .boot
  · simp only [execReady, hm]
    cases bootSlot s <;> rfl
  · simp [execReady, hm]

/-! ### FW_STAGE and FW_VERIFY_END (14 R392) -/

theorem execFwStage_stages {offset : Nat} {b : List Byte} {last : Bool} (hs : ServesToo h [0, 2] s) (hb : b.length ≤ 4032) :
    execFwStage h offset b last s = .next (
      let t := reply h 7 [] (onIdleSlot (writeFragment offset b) (s.onSvc (fun v => { v with pending := false, activateFailed := false })))
      if s.svc.staging.isSome then reply h 2 [] s else if s.svc.removedAt.isSome then reply h 6 [] s
      else if last then t.onSvc (fun v => { v with staging := some h }) else finishEvent h 0x0904 0 [] t) :=
  command_runs_too (row := { boxes := boxH ++ boxB, recovery := true }) rfl (by decide) hs rfl (by simpa using hb)

section
variable {sig : Bool} {svn floor : Nat}

theorem execFwVerifyEnd_none (hn : s.svc.staging = none ∨ 63 < svn ∨ svn < floor) : execFwVerifyEnd sig svn floor s = .next s := by
  cases hst : s.svc.staging with
  | none => simp [execFwVerifyEnd, hst]
  | some h =>
    have hrange : 63 < svn ∨ svn < floor := by simpa [hst] using hn
    simp [execFwVerifyEnd, hst, hrange]

@[simp] theorem onIdleSlot_fusedSvn (f : FwSlot → FwSlot) (s : State) : (onIdleSlot f s).flash.fusedSvn = s.flash.fusedSvn := by
  cases hb : s.svc.runB <;> simp [onIdleSlot, State.onFlash, hb]

/-- The inactive slot as its verification found it. -/
def verifiedSlot (sig : Bool) (svn floor : Nat) (s : State) : State :=
  onIdleSlot (fun f => { f with sigOk := sig, svn := svn, floor := floor }) (bumpEpoch (s.onSvc (fun v => { v with staging := none })))

theorem verifiedSlot_fusedSvn : (verifiedSlot sig svn floor s).flash.fusedSvn = s.flash.fusedSvn := onIdleSlot_fusedSvn _ _

theorem execFwVerifyEnd_ends (hst : s.svc.staging = some h) (hsvn : svn ≤ 63) (hfloor : floor ≤ svn) : execFwVerifyEnd sig svn floor s = .next (
    let u := verifiedSlot sig svn floor s
    let t := u.onSvc (fun v => { v with pending := true })
    if sig = false then finishEvent h 0x0904 8 (failCause 0) u
    else if svn < s.flash.fusedSvn then finishEvent h 0x0904 8 (failCause 1) u else finishEvent h 0x0904 0 (pendDigest t) t) := by
  rw [← verifiedSlot_fusedSvn (sig := sig) (svn := svn) (floor := floor)]
  have hrange : ¬ (63 < svn ∨ svn < floor) := by omega
  simp only [execFwVerifyEnd, hst, Bool.or_eq_true, decide_eq_true_eq, if_neg hrange]
  cases sig <;> rfl
end

/-! ### FW_ACTIVATE and the end of the handover (15 R432, R433) -/

theorem execFwActivate_transition (hs : ServesToo h [0, 2] s) :
    execFwActivate h s = .next (transition .firmware (.fwActivate h) h (runActivate .buffer h) s) :=
  command_runs_too (row := { boxes := boxH ++ boxB, recovery := true }) rfl (by decide) hs rfl rfl

theorem runActivate_activates : runActivate .buffer h s = (if s.svc.pending = false then reply h 2 [] s
    else if s.svc.removedAt.isSome then reply h 6 [] s
    else if s.svc.mod = .recovery then warmReset (reply h 7 [] s)
    else (beginTrans .firmware h 0x0905 (reply h 7 [] s)).onSvc (fun v => { v with handover := true, activateFailed := false })) := by
  simp only [runActivate, Bool.not_eq_true', beq_iff_eq]
  rfl

section
variable {k : Nat}

theorem execHandoverEnd_none (hn : s.svc.handover = false ∨ (k ≠ 0 ∧ k ≠ 2 ∧ k ≠ 3)) : execHandoverEnd k s = .next s := by
  obtain hh | ⟨h0, h2, h3⟩ := hn
  · simp [execHandoverEnd, hh]
  · simp [execHandoverEnd, h0, h2, h3]

/-- The image that serves after a handover, with what ended and what waited during it. -/
def afterHandover (k : Nat) (s : State) : State :=
  let a := if k = 0 then switchImage s else resumeImage k s
  (List.range 8).foldl (fun s m => runStalled m s) (thaw (a.onSvc (fun v => { v with handover := false, held := k == 0 })))

theorem execHandoverEnd_ends (hh : s.svc.handover = true) (hk : k = 0 ∨ k = 2 ∨ k = 3) : execHandoverEnd k s = .next
    (endTrans .firmware (if k = 0 then 0 else 8) (if k = 0 then [] else failCause (Config.causeByte (2 + k))) runQueuedFw
      ((afterHandover k s).onSvc (fun v => { v with held := false }))) := by
  have hstep : (k != 0 && k != 2 && k != 3) = false := by obtain rfl | rfl | rfl := hk <;> rfl
  simp only [execHandoverEnd, hh, hstep, beq_iff_eq, Bool.not_true, Bool.or_self, Bool.false_eq_true, if_false, msOk, msFailed, afterHandover]
end

theorem runStalled_none {m : Nat} (hn : (s.box m).stalled = none) : runStalled m s = s := by
  unfold runStalled
  rw [hn]

theorem thaw_nothing (hf : s.mbx.frozen = []) (ht : ∀ t ∈ s.mbx.trans, t.ended = none) : thaw s = s := by
  have hsame : s.onMbx (fun b => { b with frozen := [] }) = s := by
    show { s with mbx := { s.mbx with frozen := [] } } = s
    rw [← hf]
  have hnone : s.mbx.trans.filter (fun t => t.ended.isSome) = [] := by
    rw [List.filter_eq_nil_iff]
    intro t hmem
    simp [ht t hmem]
  simp only [thaw, hf, List.foldl_nil, hsame, hnone]

theorem execFwWatchdog_resets (pc : BitVec 32) :
    execFwWatchdog pc s = .next (if isLive s then warmReset (recordErr kPart 0 0x49 3 (leBytes pc.toNat 4) s) else s) := rfl

/-- Settles O46: boot, staging, verification, activation, the end of the handover and the watchdog, a command at a time. -/
theorem firmwareCompletes : Obligations.FirmwareCompletes := by
  unfold Obligations.FirmwareCompletes
  refine ⟨execReady_boots, fun _ => rfl, fun h offset b last s hs hb => execFwStage_stages hs hb, ?verify, ?activate, ?handover,
    fun m s hn => runStalled_none hn, fun s hf ht => thaw_nothing hf ht, fun pc s => execFwWatchdog_resets pc⟩
  case verify => exact fun sig svn floor s => ⟨execFwVerifyEnd_none, fun h hst hsvn hfloor => execFwVerifyEnd_ends hst hsvn hfloor⟩
  case activate =>
    intro h s hs
    have hrow : execFwActivate h s = _ := execFwActivate_transition hs
    exact ⟨fun hn => hrow.trans (congrArg _ ((transition_runs hn).trans runActivate_activates)), fun x hx => hrow.trans (congrArg _ (transition_waits hx))⟩
  case handover => exact fun k s => ⟨execHandoverEnd_none, execHandoverEnd_ends⟩

end Sys2Proof.Machine
end

section
/-! O48: power commands and the control interval. -/

namespace Sys2Proof.Machine

open Sys2Proof

variable {h : MHdr} {s : State}

/-! ### PWR_CAP_SET (16 R447, R450) -/

section
variable {cap slew : Nat} (hs : Serves h [1, 2] s)
include hs

theorem execPwrCapSet_sets (hc : cap ≤ 800) (hsl : slew ≤ 1000) (hb : cap = 0 ∨ brakeNow s ≤ 1000 * cap) :
    execPwrCapSet h cap slew s = .next (reply h 0 [] (setCap h.mbx cap slew s)) :=
  command_runs (row := { boxes := boxF ++ boxB }) hs rfl (by simpa [hc, hsl, imp_iff_not_or] using hb)

theorem execPwrCapSet_bad (hbad : 800 < cap ∨ 1000 < slew ∨ (cap ≠ 0 ∧ 1000 * cap < brakeNow s)) :
    execPwrCapSet h cap slew s = .next (reply h 4 [] s) :=
  command_bad_arg (row := { boxes := boxF ++ boxB }) hs rfl (by simpa [or_assoc, or_comm (a := 1000 < slew)] using hbad)
end

/-! ### A decrease of the cap (16 R448) -/

theorem decreaseCap_met {c slew : Nat} (hc : s.pwr.pin ≤ c) : decreaseCap c slew s =
    s.onPwr (fun p => { p with target := c, following := false, climbing := false, stepClimb := false }) :=
  if_pos hc

theorem decreaseCap_followed {c slew : Nat} (hc : c < s.pwr.pin) (hsl : s.pwr.pin - c ≤ 50000 * slew) : decreaseCap c slew s =
    s.onPwr (fun p => { p with target := p.pin, following := true, climbing := false, stepClimb := false }) :=
  (if_neg (Nat.not_le.mpr hc)).trans (if_pos hsl)

theorem decreaseCap_step {c slew : Nat} (hc : c < s.pwr.pin) (hsl : 50000 * slew < s.pwr.pin - c) : decreaseCap c slew s =
    recordErr kPower 0 0x53 1 [1] (recordErr kPower 0 0x50 1 (leBytes (c / 1000) 2) (setSummary 10 (climbFromBrake true s))) :=
  (if_neg (Nat.not_le.mpr hc)).trans (if_neg (Nat.not_le.mpr hsl))

/-- A record sets bits of ERR_SUMMARY and clears none. -/
theorem recordErr_keeps_summary (kind index code sev : Nat) (detail : List Byte) (s : State) {j : Nat} (hj : s.err.summary.getLsbD j = true) :
    (recordErr kind index code sev detail s).err.summary.getLsbD j = true := by
  unfold recordErr
  obtain ⟨x, he, -, hkeep⟩ := setSummary_frame (summaryBit kind) (summaryBit_lt kind) _
  rw [he]
  refine hkeep j ?_
  split
  · exact hj
  · split
    · rw [addCxlEvent_err]
      exact hj
    · obtain ⟨y, hy, -, hkeep9⟩ := setSummary_frame 9 (by omega) _
      rw [hy]
      exact hkeep9 j hj

theorem decreaseCap_step_pwr {c slew : Nat} (hc : c < s.pwr.pin) (hsl : 50000 * slew < s.pwr.pin - c) :
    (decreaseCap c slew s).pwr = (climbFromBrake true s).pwr := by
  simp [decreaseCap_step hc hsl]

theorem decreaseCap_step_summary {c slew : Nat} (hc : c < s.pwr.pin) (hsl : 50000 * slew < s.pwr.pin - c) :
    (decreaseCap c slew s).err.summary.getLsbD 10 = true := by
  rw [decreaseCap_step hc hsl]
  obtain ⟨x, he, hx, -⟩ := setSummary_frame 10 (by omega) (climbFromBrake true s)
  refine recordErr_keeps_summary _ _ _ _ _ _ (recordErr_keeps_summary _ _ _ _ _ _ ?_)
  rw [he]
  exact hx

/-! ### BALLAST_READ, PWR_READ and THERMAL_READ (09 R283, 16 R446, R453, 14 R404) -/

theorem execBallastRead_reads (hs : Serves h [1, 0] s) : execBallastRead h s = .next (reply h 0
    (pack [.num 8 (coarse s s.pwr.short s.snap.short), .num 8 (coarse s s.pwr.rampMiss s.snap.rampMiss),
      .num 8 (coarse s (s.pwr.energy / 10 ^ 8) (s.snap.energy / 10 ^ 8))]) { s with pwr := { s.pwr with short := 0, rampMiss := 0, energy := 0 } }) :=
  command_runs (row := { boxes := boxF ++ boxH }) hs rfl rfl

section
variable (hs : Serves h [0, 1, 2, 3, 4, 5, 6, 7] s)
include hs

theorem execPwrRead_reads : execPwrRead h s = .next (reply h 0 (pack [.num 2 (shownPower s), .num 2 (capW s),
    .num 8 (b2n (limited s) + 2 * b2n s.pwr.brakePin + 4 * b2n s.pwr.throttled)]) s) :=
  command_runs (row := { boxes := boxA }) hs rfl rfl

theorem execThermalRead_reads : execThermalRead h s = .next (
    let t := if anyConf s then s.pwr.tempMean else s.pwr.temps
    reply h 0 (pack [tempField t.junction, tempField (t.hbm.getD 0 0), tempField (t.hbm.getD 1 0),
      tempField (t.hbm.getD 2 0), tempField (t.hbm.getD 3 0), tempField t.inlet, .num 1 (b2n s.pwr.throttled)]) s) :=
  command_runs (row := { boxes := boxA }) hs rfl rfl
end

/-! ### The control interval (16 R445) -/

theorem execControlInterval_steps (pin : Nat) : execControlInterval pin s = .next (if s.svc.mod = .ready ∨ s.svc.mod = .recovery then
    ballastStep (limiter (moveTarget ((s.onPwr takeBallast).onPwr (sample pin)))) else s) := by
  simp only [execControlInterval, limiting, Bool.or_eq_true, beq_iff_eq]

/-- Nothing but the power state and the numbers drawn differs. -/
def PowerOnly (s t : State) : Prop := ∃ (p : Power) (n : Nat), t = { s with pwr := p, free := n }

theorem PowerOnly.refl (s : State) : PowerOnly s s := ⟨s.pwr, s.free, rfl⟩

theorem PowerOnly.onPwr {t : State} (ht : PowerOnly s t) (f : Power → Power) : PowerOnly s (t.onPwr f) := by
  obtain ⟨p, n, rfl⟩ := ht
  exact ⟨f p, n, rfl⟩

theorem PowerOnly.drawNat {t : State} (ht : PowerOnly s t) : PowerOnly s t.drawNat.2 := by
  obtain ⟨p, n, rfl⟩ := ht
  exact ⟨p, n + 1, rfl⟩

theorem PowerOnly.moveTarget {t : State} (ht : PowerOnly s t) : PowerOnly s (moveTarget t) := by
  simp only [Machine.moveTarget]
  split_ifs
  case pos => exact ht
  case pos => exact ht.onPwr _
  case pos => exact ht
  case neg => exact ht.onPwr _
  case neg => exact ht.onPwr _

theorem PowerOnly.limiter {t : State} (ht : PowerOnly s t) : PowerOnly s (limiter t) := by
  simp only [Machine.limiter]
  split_ifs
  case pos => exact ht.drawNat.onPwr _
  case pos => exact ht.drawNat.onPwr _
  case neg => exact ht

theorem PowerOnly.ballastStep {t : State} (ht : PowerOnly s t) : PowerOnly s (ballastStep t) := by
  simp only [Machine.ballastStep]
  exact ht.drawNat.onPwr _

theorem execControlInterval_completes (pin : Nat) (s : State) :
    ∃ (p : Power) (n : Nat), execControlInterval pin s = .next { s with pwr := p, free := n } := by
  rw [execControlInterval_steps]
  split
  · obtain ⟨p, n, ht⟩ := (((PowerOnly.refl s).onPwr takeBallast).onPwr (sample pin)).moveTarget.limiter.ballastStep
    exact ⟨p, n, congrArg _ ht⟩
  · exact ⟨s.pwr, s.free, rfl⟩

/-- Settles O48: the cap by how a decrease is judged, ballast, the readings, and the control interval, which changes the power state alone. -/
theorem powerCommandsComplete : Obligations.PowerCommandsComplete := by
  unfold Obligations.PowerCommandsComplete
  refine ⟨fun h cap slew s hs hc hsl hb => execPwrCapSet_sets hs hc hsl hb, fun h cap slew s hs hbad => execPwrCapSet_bad hs hbad, ?decrease, ?ballast,
    fun h s hs => execBallastRead_reads hs, fun h s hs => execPwrRead_reads hs, fun h s hs => execThermalRead_reads hs,
    fun pin s => execControlInterval_steps pin, execControlInterval_completes⟩
  case decrease =>
    refine fun c slew s => ⟨decreaseCap_met, decreaseCap_followed, fun hc hsl => ?_⟩
    rw [decreaseCap_step_pwr hc hsl]
    exact ⟨rfl, rfl, rfl, decreaseCap_step_summary hc hsl⟩
  case ballast => exact fun h floor down up s hs hf hd hu => execBallastSet_runs hs ⟨hf, by omega, by omega⟩

end Sys2Proof.Machine
end

section
/-! O49: pins, input and temperatures. -/

namespace Sys2Proof.Machine

open Sys2Proof

variable {s : State}

/-- Of two outcomes the other one comes first where the condition is negated. -/
theorem ite_swap {α : Type} {c p : Prop} [Decidable c] [Decidable p] (h : c ↔ ¬ p) (x y : α) : (if c then x else y) = if p then y else x :=
  (if_congr h rfl rfl).trans (ite_not p x y)

/-! ### Input and sequencing (16 R441, R442, R452) -/

theorem inRange_iff {mv : Nat} : inRange mv = true ↔ 60000 ≤ mv ∧ mv ≤ 80000 := by simp [inRange]

theorem execInputApplied_sequences (mv : Nat) (s : State) : execInputApplied mv s = .next (if s.pwr.inputOk = false ∧ 60000 ≤ mv ∧ mv ≤ 80000 then
    sequence { s with pwr := { s.pwr with inputMv := mv, inputOk := true } } else s) := by
  refine congrArg Host.Outcome.next (ite_swap ?_ _ _)
  rw [← inRange_iff]
  simp [imp_iff_not_or]

theorem sequence_starts (s : State) : sequence s = if s.pwr.inputOk = true ∧ s.pwr.eoff = false ∧ s.pwr.tripped = false then
    { s with svc := { s.svc with mod := .sequencing }, pwr := { s.pwr with railsOn := true } } else s := by
  simp only [sequence, Bool.and_eq_true, Bool.not_eq_true', and_assoc]
  rfl

section
variable {mv : Nat}

theorem execInputLoss_none (hlo : 60000 ≤ mv) (hhi : mv ≤ 80000) : execInputLoss mv s = .next s := by
  simp [execInputLoss, inRange_iff.mpr ⟨hlo, hhi⟩]

theorem execInputLoss_cuts (hmv : mv < 60000 ∨ 80000 < mv) (h0 : mv ≠ 0) : execInputLoss mv s =
    .next (powerOff (if s.pwr.tripped then .tripped else .off) { s with pwr := { s.pwr with inputMv := mv, inputOk := false } }) := by
  have hout : ¬ inRange mv = true := by rw [inRange_iff]; omega
  simp only [execInputLoss, hout, beq_iff_eq, h0]
  rfl

theorem execInputLoss_removed : execInputLoss 0 s = .next (powerOff .off { s with pwr := { s.pwr with
    inputMv := 0, inputOk := false, tripped := false, tripTemp := 0, tripReport := false, tripHeld := false } }) := rfl
end

theorem execPowerGood_boots (hr : s.pwr.railsOn = true) (hg : s.pwr.powerGood = false) : execPowerGood s = .next
    (((powerOff (if s.pwr.modReset then .reset else .boot) s).onPwr (fun p => { p with railsOn := true, powerGood := true })).onSvc
      (fun v => { v with now := 0, bridge := v.strap, fwBase := fwBaseOf v.strap })) := by
  simp [execPowerGood, hr, hg]

theorem execPowerGood_none (hno : s.pwr.railsOn = false ∨ s.pwr.powerGood = true) : execPowerGood s = .next s := by
  simp [execPowerGood, hno]

theorem execEoffRelease_sequences (s : State) :
    execEoffRelease s = .next (if s.pwr.eoff then sequence { s with pwr := { s.pwr with eoff := false } } else s) := rfl

/-! ### MOD_RESET_N, the brake and early removal (15 R429, R434, 16 R451, R455, R457) -/

theorem execModResetAssert_resets (s : State) : execModResetAssert s = .next (
    let u := { s with pwr := { s.pwr with modReset := true } }
    if s.svc.mod = .tripped then sequence { u with pwr := { u.pwr with tripped := false, tripHeld := false } }
    else if s.svc.mod = .off ∨ s.svc.mod = .sequencing then u else warmReset u) := by
  simp only [execModResetAssert, beq_iff_eq, Bool.or_eq_true]
  rfl

theorem execModResetRelease_boots (s : State) : execModResetRelease s = .next (
    let u := { s with pwr := { s.pwr with modReset := false } }
    if s.svc.mod = .reset then { u with svc := { u.svc with mod := .boot } } else u) := by
  simp only [execModResetRelease, beq_iff_eq]
  rfl

theorem execBrakeAssert_brakes (s : State) : execBrakeAssert s = .next (if s.pwr.brakePin then s else if isLive s then
    recordErr kPower 0 0x53 1 [0] { s with pwr := { s.pwr with brakePin := true, ballast := 0, ballastOff := true } }
    else { s with pwr := { s.pwr with brakePin := true } }) := by
  have hlive : isLive (s.onPwr (fun p => { p with brakePin := true })) = isLive s := rfl
  simp only [execBrakeAssert, hlive]
  cases isLive s <;> rfl

theorem execBrakeRelease_climbs (s : State) : execBrakeRelease s = .next (if s.pwr.brakePin = false then s else if isLive s then
    climbFromBrake s.pwr.stepClimb { s with pwr := { s.pwr with brakePin := false } } else { s with pwr := { s.pwr with brakePin := false } }) := by
  simp only [execBrakeRelease, Bool.not_eq_true']
  rfl

theorem execPrsntEarlyDeassert_removes (s : State) : execPrsntEarlyDeassert s = .next (if isLive s = false then s
    else if s.svc.removedAt ≠ none then { s with svc := { s.svc with removedAt := some s.svc.now } }
    else (s.ports.map Prod.fst).foldl (fun s p => removePort p s)
    (recordErr kPart 0 0x4C 3 [] { s with svc := { s.svc with removedAt := some s.svc.now } })) := by
  simp only [execPrsntEarlyDeassert, Bool.not_eq_true', Option.isSome_iff_ne_none, recordErr_ports]
  rfl

theorem execPrsntEarlyReassert_none (hr : s.svc.removedAt = none) : execPrsntEarlyReassert s = .next s := by
  simp [execPrsntEarlyReassert, hr]

theorem execPrsntEarlyReassert_resets {t : Nat} (hr : s.svc.removedAt = some t) : execPrsntEarlyReassert s =
    .next (if t + 100000000 ≤ s.svc.now then warmReset { s with svc := { s.svc with removedAt := none } } else s) := by
  simp only [execPrsntEarlyReassert, hr, ← Nat.not_le, ite_not]
  rfl

/-! ### Thermal limits and trips (16 R454, R455) -/

section
variable {t : Temps}

theorem execThermalThrottle_throttles (t : Temps) (s : State) : execThermalThrottle t s =
    .next (if limiting s = true ∧ s.pwr.throttled = false ∧ hotAt 100 95 t = true then
      recordErr kPower 0 0x51 1 [BitVec.ofInt 8 t.junction]
        { s with pwr := { s.pwr with throttled := true, thermalLimit := s.pwr.pin, thermalAt := s.svc.now, temps := t } } else s) :=
  congrArg Host.Outcome.next (ite_swap (by simp [imp_iff_not_or, or_assoc]) _ _)

/-- Thresholds that are reached reach the lower ones too. -/
theorem hotAt_of_hotAt {j h j' h' : Int} (hj : j ≤ j') (hh : h ≤ h') (hot : hotAt j' h' t = true) : hotAt j h t = true := by
  simp only [hotAt, Bool.or_eq_true, decide_eq_true_eq, List.any_eq_true] at hot ⊢
  obtain hot | ⟨x, hmem, hx⟩ := hot
  · exact .inl (by omega)
  · exact .inr ⟨x, hmem, by omega⟩

theorem execThermalLimitTick_none (hno : limiting s = false ∨ s.pwr.throttled = false) : execThermalLimitTick t s = .next s := by
  simp [execThermalLimitTick, hno]

section
variable (hl : limiting s = true) (ht : s.pwr.throttled = true)
include hl ht

theorem execThermalLimitTick_hot (hot : hotAt 100 95 t = true) : execThermalLimitTick t s =
    .next (if s.pwr.thermalAt + 1000000 ≤ s.svc.now then { s with pwr := { s.pwr with
      thermalLimit := max (brakeNow s) (s.pwr.thermalLimit - 25000), thermalAt := s.svc.now, temps := t } } else s) :=
  congrArg Host.Outcome.next ((if_neg (by simp [hl, ht])).trans ((if_pos hot).trans (ite_swap Nat.not_le.symm _ _)))

theorem execThermalLimitTick_cool (cool : hotAt 99 94 t = false) : execThermalLimitTick t s =
    .next (if s.pwr.thermalAt + 10000000 ≤ s.svc.now then { s with pwr := { s.pwr with
      thermalLimit := s.pwr.thermalLimit + 10000, thermalAt := s.svc.now, temps := t
      throttled := decide (s.pwr.thermalLimit + 10000 < 1000 * capW s) } } else s) := by
  have hnot : ¬ hotAt 100 95 t = true := fun hot => absurd (hotAt_of_hotAt (by decide) (by decide) hot) (Bool.eq_false_iff.mp cool)
  exact congrArg Host.Outcome.next
    ((if_neg (by simp [hl, ht])).trans ((if_neg hnot).trans ((if_pos (by simp [cool])).trans (ite_swap Nat.not_le.symm _ _))))

theorem execThermalLimitTick_between (hnot : hotAt 100 95 t = false) (warm : hotAt 99 94 t = true) :
    execThermalLimitTick t s = .next { s with pwr := { s.pwr with temps := t } } :=
  congrArg Host.Outcome.next ((if_neg (by simp [hl, ht])).trans ((if_neg (by simp [hnot])).trans (if_neg (by simp [warm]))))
end

theorem execThermalTrip_none (hno : s.pwr.railsOn = false ∨ hotAt 105 105 t = false) : execThermalTrip t s = .next s := by
  simp [execThermalTrip, hno]

/-- A trip comes within 60 s of the READY after the one before it. -/
def tripsAgain (s : State) : Bool :=
  match s.pwr.tripReady with
  | some r => decide (s.svc.now < r + 60000000000)
  | none => false

theorem tripsAgain_iff : tripsAgain s = true ↔ ∃ r, s.pwr.tripReady = some r ∧ s.svc.now < r + 60000000000 := by
  unfold tripsAgain
  cases s.pwr.tripReady <;> simp

theorem execThermalTrip_trips (hr : s.pwr.railsOn = true) (hot : hotAt 105 105 t = true) : execThermalTrip t s =
    .next (powerOff .tripped (s.onPwr (fun p => { p with
      tripped := true
      tripTemp := if 105 ≤ t.junction then t.junction else t.hbm.foldl max t.junction
      tripReport := true
      tripHeld := tripsAgain s }))) := by
  simp only [execThermalTrip, hr, hot]
  rfl

theorem execTripRestart_sequences (s : State) : execTripRestart s = .next (if s.svc.mod = .tripped ∧ s.pwr.tripHeld = false ∧ s.pwr.inputOk = true then
    sequence { s with pwr := { s.pwr with tripped := false } } else s) :=
  congrArg Host.Outcome.next (ite_swap (by simp [imp_iff_not_or, or_assoc]) _ _)
end

/-- Settles O49: each pin, the input and the temperatures, an event at a time. -/
theorem pinEventsComplete : Obligations.PinEventsComplete := by
  unfold Obligations.PinEventsComplete
  refine ⟨execInputApplied_sequences, sequence_starts, ?loss, ?good, fun s hno => execPowerGood_none hno, fun _ => rfl, ?eoff, execEoffRelease_sequences,
    execModResetAssert_resets, execModResetRelease_boots, execBrakeAssert_brakes, execBrakeRelease_climbs, execPrsntEarlyDeassert_removes, ?reassert,
    execThermalThrottle_throttles, ?tick, ?trip, execTripRestart_sequences⟩
  case loss =>
    refine fun mv s => ⟨execInputLoss_none, execInputLoss_cuts, ?_⟩
    rintro rfl
    exact execInputLoss_removed
  case good => exact fun s hr hg => ⟨_, execPowerGood_boots hr hg, rfl, rfl, rfl, rfl, rfl, rfl⟩
  case eoff => exact fun s => ⟨_, rfl, rfl, rfl, rfl, rfl, rfl, rfl, rfl, rfl⟩
  case reassert => exact fun s => ⟨execPrsntEarlyReassert_none, fun t hr => execPrsntEarlyReassert_resets hr⟩
  case tick =>
    exact fun t s => ⟨execThermalLimitTick_none, fun hl ht =>
      ⟨execThermalLimitTick_hot hl ht, execThermalLimitTick_cool hl ht, execThermalLimitTick_between hl ht⟩⟩
  case trip =>
    exact fun t s => ⟨execThermalTrip_none, fun hr hot => ⟨_, execThermalTrip_trips hr hot, rfl, rfl, rfl, rfl, rfl, rfl, tripsAgain_iff⟩⟩

end Sys2Proof.Machine
end
